-- ==== Sys2Proof/Word.lean ====
section
/-! DEFINITION. The word types of the model: bytes, 64-bit words and the plainest arithmetic on them.
What the spec treats as bits is a bit vector; identifiers, counts and offsets are natural numbers, and a
counter of w bits is reduced modulo 2^w where it is read (R550). -/

namespace Sys2Proof

/-- One byte of a packet, datagram, object or memory. -/
abbrev Byte := BitVec 8

/-- One 64-bit word of a message, flit or object (R9: stored little-endian). -/
abbrev W64 := BitVec 64

/-- A number read as a w-bit field: its low w bits. -/
abbrev low (w n : Nat) : Nat := n % 2 ^ w

end Sys2Proof
end

