-- ==== Sys2Proof/Syntax.lean ====
section
/-! DEFINITION. The commands of the block: one constructor per row of spec/opcode_table.json, in the
table's order, with the row's operands. An arrival carries the packet, flit, frame or datagram that
arrives; a reading carries what was read; a GCI command carries the mailbox whose oldest waiting request
begins execution; a timer event carries the object whose limit is reached; a move carries its table. -/

namespace Sys2Proof

/-- The board straps as levels (Table 21-7). -/
structure Straps where
  i2c     : Nat := 0
  vrBase  : Nat := 0
  vrCount : Nat := 0
  test    : Bool := false
  deriving DecidableEq, Repr, Inhabited

/-- A bulk packet: the two words of the Virop packet header (Table 13-5) and the payload. -/
structure Packet where
  w0      : W64
  w1      : W64
  payload : List Byte
  deriving DecidableEq, Repr, Inhabited

/-- What the word code says of a word that is read (R516): its matrix is not given, so the outcome is an
operand. -/
inductive WordRead where
  | ok
  | corrected (bit : Nat)
  | failed
  deriving DecidableEq, Repr, Inhabited

/-- A host datagram's source: MAC, IP address and UDP port (R458). -/
structure Source where
  port : Nat
  mac  : Nat
  ip   : Nat
  udp  : Nat
  deriving DecidableEq, Repr, Inhabited

/-- One lane frame as its receiver sees it: 270 content bytes after descrambling and before FEC
(Table 13-3), and whether a stuff symbol broke R414. -/
structure LaneRx where
  content  : List Byte
  stuffBad : Bool := false
  deriving DecidableEq, Repr, Inhabited

/-- A TS as received on one physical lane: eight words, and whether the lane's polarity was inverted and
corrected (R407, R434, R435). -/
structure TsRx where
  lane  : Nat
  words : List W64
  deriving DecidableEq, Repr, Inhabited

/-- What the CP sees of one helper of Table 15-2 or of one Keeper unit (R555). -/
structure HelperView where
  holdsWork : Bool
  silentNs  : Nat
  waiting   : Bool
  deriving DecidableEq, Repr, Inhabited

/-- A 1588 message that the time root may use (R244, R459): an Announce with the master's comparison
vector, or a completed Sync exchange with the measured offset in ns. -/
inductive PtpMessage where
  | announce (domain master rank : Nat)
  | sync (domain master : Nat) (offsetNs : Int)
  deriving DecidableEq, Repr, Inhabited

/-- A requester class of a square arbiter (Table 11-4). -/
inductive SqClass where
  | ingress | egress | lane | stage | mu | dma
  deriving DecidableEq, Repr, Inhabited

/-- A request that a square arbiter holds (R358): whose it is, whether it writes, and whether it continues a
locked sequence (R364). -/
structure SqReq where
  square  : Nat
  id      : Nat
  cls     : SqClass
  write   : Bool
  cont    : Bool := false
  /-- Ingress port of an INGRESS request, 0 otherwise (R340). -/
  port    : Nat := 0
  /-- The unit and the locked sequence of a LANE request, and whether it is the sequence's last (R363, R364). -/
  unit    : Nat := 0
  seq     : Nat := 0
  last    : Bool := false
  deriving DecidableEq, Repr, Inhabited

/-- What a word of storage belongs to (Table 16-3, Table 16-7). -/
inductive WordOwner where
  | free
  | packetCell (link packet : Nat)
  | accumulator (table round chunk : Nat)
  | staging (table round chunk : Nat)
  | keeper (table param : Nat)
  | feedQueue (table : Nat)
  | residual (table boundary slot : Nat)
  | multicastCache (table round chunk : Nat)
  | doubleSlot (primary table slot param : Nat)
  | gradientLog (primary table : Nat)
  | scoresheet (index : Nat)
  | checkpoint (table : Nat)
  | moveWindow (table : Nat)
  | routeBank (bank kind index : Nat)
  | cpStore
  | other
  deriving DecidableEq, Repr, Inhabited

/-- Why start-up's memory training failed (R615). -/
inductive MemFail where
  | hbm (stack : Nat)
  | lpddr (package : Nat)
  deriving DecidableEq, Repr, Inhabited

/-- Why a host frame is dropped (R456, R457). -/
inductive DropReason where
  | notAccepted | vlan | fragment | options | checksum | fcs | tooLong
  deriving DecidableEq, Repr, Inhabited

/-- A copy of the CURRENT route bank: the mailbox that asks for it, and the entries whose words fail as they are read, by kind as
WHAT of ROUTE_WRITE counts them and index (R383, R525). -/
structure BankCopy where
  mailbox : Nat
  failed  : List (Nat × Nat) := []
  deriving DecidableEq, Repr, Inhabited

/-- What the new holder of a range has read of it: its digest, and the parameter whose word failed (R218, R293). -/
structure RangeRead where
  digest : List Byte
  failed : Option Nat := none
  deriving DecidableEq, Repr, Inhabited

/-- A norm pipe's read of its column: the unit, and what its words were (R135, R147). -/
structure PipeRead where
  unit : Nat
  word : WordRead := .ok
  deriving DecidableEq, Repr, Inhabited

/-- The commands, one per row of the table. -/
inductive Instr where
  -- power, clocks, start-up
  | pwrGoodAssert (straps : Straps)
  | pwrGoodDeassert
  | resetNAssert
  | resetNRelease (straps : Straps)
  | pllLock (voutModes : List Nat) (kPuf : Nat) (pufGood : Bool)
  | flashVerify
  | selfTestDone (failedUnit : Option Nat)
  | memTrainDone (failure : Option MemFail)
  | memClearDone (failure : Option MemFail)
  | enterService
  | refclkCoreLoss
  | refclkSrdLoss (die : Nat)
  | refclkSrdRestore (die : Nat)
  | throttleEnter (tj hbm : Int)
  | throttleExit (tj hbm : Int)
  | thermalPawnEnter (tj : Int)
  | thermalTrip (sensor : Int)
  | avsReading (rates : List Nat) (nacks : List Nat)
  | avsStepDone (nacks : List Nat)
  | avsPoll (vout iout : List Nat) (nacks : List Nat)
  | watchdogRestart
  | watchdogExpire
  | helperStallCheck (helpers : List HelperView)
  -- Pawn mode
  | pawnExit (tj : Int) (rates : List Nat)
  | pawnRoundTimeout (table round : Nat)
  | pawnRequest (src : Source) (datagram : List Byte)
  -- JTAG
  | extest (straps : Straps)
  | extestPulse (straps : Straps)
  | extestTrain (straps : Straps)
  | clamp (straps : Straps)
  | highz (straps : Straps)
  | samplePreload (straps : Straps)
  | bypass (opcode : Nat) (straps : Straps)
  | privateJtag (opcode : Nat) (straps : Straps)
  | testLogicReset (straps : Straps)
  -- debug unlock
  | debugChallenge (mailbox : Nat)
  | debugToken (mailbox : Nat)
  | debugRelock (mailbox : Nat)
  | debugScopeExpire (scope : Nat)
  | debugChallengeLapse
  -- mailboxes
  | mboxRequest (src : Source) (datagram : List Byte)
  | bulkSegment (src : Source) (datagram : List Byte)
  | sessionIdleExpire (mailbox : Nat)
  | sessionOpen (mailbox : Nat)
  | sessionClose (mailbox : Nat)
  | nop (mailbox : Nat)
  | bulkFetch (mailbox : Nat)
  | objRead (mailbox : Nat)
  | scoresheetRecordRead (mailbox : Nat) (word : WordRead)
  | objWrite (mailbox : Nat)
  | squarePriorityWrite (mailbox : Nat)
  | portClassConfigWrite (mailbox : Nat)
  | portLinkConfigWrite (mailbox : Nat)
  | kibitzSpecWrite (mailbox : Nat)
  | routeControlWrite (mailbox : Nat)
  | checkpointTargetWrite (mailbox : Nat)
  | scrubControlWrite (mailbox : Nat)
  | errorInjectWrite (mailbox : Nat)
  | telemetrySpecWrite (mailbox : Nat)
  | alertControlWrite (mailbox : Nat)
  | tableOpen (mailbox : Nat)
  | tableClose (mailbox : Nat)
  | movesAppend (mailbox : Nat)
  | boardLoad (mailbox : Nat)
  | doubleOpen (mailbox : Nat)
  | doubleClose (mailbox : Nat)
  | doubleDetach (mailbox : Nat)
  | doubleMove (mailbox : Nat)
  | restore (mailbox : Nat)
  | routeBegin (copy : BankCopy)
  | routeWrite (mailbox : Nat)
  | routeAbort (mailbox : Nat)
  | routeCommit (mailbox : Nat)
  | fence (mailbox : Nat)
  | unfence (mailbox : Nat)
  | linkLoopback (mailbox : Nat)
  | fwStage (mailbox : Nat)
  | attestQuote (mailbox : Nat)
  | restart (mailbox : Nat)
  | restartReset (straps : Straps)
  -- host ports
  | arpRequest (src : Source) (vlan target : Nat)
  | neighbourSolicitation (src : Source) (vlan target : Nat)
  | echoRequest (src : Source) (vlan target : Nat) (v6 : Bool) (data : List Byte)
  | ptpMessage (port vlan : Nat) (message : PtpMessage)
  | macControlFrame (port : Nat)
  | frameDrop (port : Nat) (reason : DropReason)
  | storageReply (src : Source) (datagram : List Byte)
  | storageRetry (reqId : Nat)
  | storageTimeout (reqId : Nat)
  | hostPortDown (port : Nat)
  | telemetryPeriod
  -- Virop Link
  | linkFrameReceive (link : Nat) (lanes : List LaneRx)
  | replayWaitTimeout (link : Nat)
  | ack (link : Nat) (flit : List W64)
  | ackTimer (link : Nat)
  | nak (link : Nat) (flit : List W64)
  | init (link : Nat) (flit : List W64)
  | timeReq (link : Nat) (flit : List W64) (t2 : Nat)
  | timeResp (link : Nat) (flit : List W64) (t4 : Nat)
  | timeExchangeTimer (link : Nat)
  | timeExchangeTimeout (link : Nat)
  | genStep (link : Nat) (flit : List W64)
  | stepUpStart (link : Nat)
  | retrain (link : Nat) (flit : List W64)
  | tsReceive (link : Nat) (lanes : List TsRx)
  | trainingAttemptTimeout (link : Nat)
  | fallbackIdleEnd (link : Nat)
  | fastRetrainTimeout (link : Nat)
  | linkLeaveService (link : Nat)
  | loopbackEnd (link : Nat)
  | farEndLoopbackExit (link : Nat)
  | discard (link : Nat) (flit : List W64)
  -- switch core
  | packetHeaderLookup (link : Nat) (pkt : Packet) (word : WordRead)
  | cellAdmit (packet : Nat)
  | egressPacketStart (link : Nat) (word : WordRead)
  | squareArbitration (posted : List SqReq) (withdrawn : List (Nat × Nat))
  | lockedSequence (lane : Nat) (word : WordRead)
  | ladderArbitration
  | pipOverflow (queue : Nat)
  | orderPacket (link : Nat) (pkt : Packet)
  | reorderTimeout (src dst tc : Nat)
  | reorderContextFree (src dst tc : Nat)
  | drainTimerExpire (bank : Nat)
  | fenceAck (eid : Nat)
  | fenceTimeout (eid : Nat)
  -- rounds
  | contribReceive (link : Nat) (payload : List Byte)
  | resultReceive (link : Nat) (payload : List Byte)
  | chunkSent (table round chunk : Nat)
  | signalReceive (link : Nat) (payload : List Byte)
  | chunkDeadline (table round chunk : Nat)
  | absenceLimit (table round chunk : Nat)
  | roundInactivity (table round : Nat)
  | pipRoundPacket (link : Nat) (flit : List W64)
  | pipSig (link : Nat) (flit : List W64)
  -- barriers
  | join (link : Nat) (flit : List W64)
  | release (link : Nat) (flit : List W64)
  | halt (link : Nat) (flit : List W64)
  | barrierRelease (table : Nat)
  | barrierStall (table : Nat)
  | joinHoldExpire
  -- moves
  | turnBegin (table : Nat)
  | barrier (table : Nat)
  | waitRounds (table : Nat)
  | phaseSet (table : Nat)
  | roundOpen (table : Nat)
  | residClear (table : Nat)
  | keeperTurn (table : Nat)
  | checkpoint (table : Nat)
  | boardSwitch (table : Nat)
  | endMove (table : Nat)
  -- matrix units and the Keeper
  | muQuantumGrant (unit : Nat)
  | muTaskComplete (unit : Nat) (word : WordRead)
  | ready (link : Nat) (flit : List W64)
  | readyTimeout (table round : Nat)
  | keeperQuantum (unit : Nat) (word : Option Nat)
  | shardMoveDone (table first count : Nat) (read : RangeRead)
  -- doubles
  | grad (link : Nat) (payload : List Byte)
  | commit (link : Nat) (payload : List Byte)
  | turnRecord (link : Nat) (payload : List Byte)
  | load (link : Nat) (payload : List Byte)
  | turnReplayDone (primary table : Nat)
  | digest (link : Nat) (flit : List W64)
  | verdict (link : Nat) (flit : List W64)
  | verdictWaitTimeout (table : Nat)
  | tiebreak (link : Nat) (flit : List W64)
  | tiebreakReplayDone (primary table : Nat) (word : WordRead)
  | hello (link : Nat) (flit : List W64)
  | accept (link : Nat) (flit : List W64)
  | helloTimeout (table : Nat)
  | close (link : Nat) (flit : List W64)
  | phase (link : Nat) (flit : List W64)
  | hazardFire (source : Nat)
  | hazardWindow (source : Nat)
  | hazard (link : Nat) (flit : List W64)
  -- checkpoints and restore
  | shardWriteDone (primary table : Nat)
  | shardDone (link : Nat) (flit : List W64)
  | manifestDurable (table : Nat)
  | commitDurable (table : Nat)
  | slotRelease (link : Nat) (flit : List W64)
  | checkpointAbandonTimeout (table : Nat)
  | slotSelfRelease (primary table : Nat)
  | rebuild (link : Nat) (payload : List Byte)
  | repair (link : Nat) (payload : List Byte)
  | doublesyncTiebreak (link : Nat) (payload : List Byte)
  | doublesyncRestore (link : Nat) (payload : List Byte)
  | doubleQuery (link : Nat) (flit : List W64)
  | doubleHeld (link : Nat) (flit : List W64)
  | candidateFormTimeout (table : Nat)
  | candidate (link : Nat) (flit : List W64)
  | loadReq (link : Nat) (flit : List W64)
  | loadTimeout (table : Nat)
  | loaded (link : Nat) (flit : List W64)
  | loadedTimeout (table : Nat)
  | restoreGo (link : Nat) (flit : List W64)
  -- memory, levels, accounting
  | scrubRead (tier address : Nat) (owner : WordOwner) (word : WordRead) (rewritten : Bool)
  | levelAdv (link : Nat) (payload : List Byte)
  | levelUp (link : Nat) (payload : List Byte)
  | levelSet (link : Nat) (payload : List Byte)
  | levelHoldExpire
  | idleInterval
  | hostPortUp (port : Nat)
  | electricalIdleDetected (link : Nat)
  | laneFramePeriod (link : Nat)
  | normPipeDone (read : PipeRead)
  | dmaTransferDone (channel : Nat) (word : WordRead)
  | arpReply (port ip mac : Nat)
  deriving DecidableEq, Repr, Inhabited

end Sys2Proof
end

