-- ==== Sys2Proof/Config.lean ====
section
/-! DEFINITION. What the spec leaves open or an implementation fixes. Every constant here has no body, so
nothing can be proved of its value: a claim that uses one holds whatever the value is. -/

namespace Sys2Proof.Config

/-- The free value number n: a value that the spec leaves to the GT64 (R29, R97, R162, R335). -/
opaque freeNat : Nat → Nat

/-- ROM_VERSION of the mask ROM (R477). -/
opaque romVersion : Nat

/-- SM3 of the mask ROM (Table 19-6). -/
opaque romSm3 : List Byte

/-- SM3 digest of patch key k, k from 0 to 3 (R583). -/
opaque patchAnchor : Nat → List Byte

/-- SM3 digest of owner CA key k, k from 0 to 3 (R583). -/
opaque ownerCaAnchor : Nat → List Byte

/-- SM3 digest of the public key of Zynell's device CA (R583). -/
opaque deviceCaDigest : List Byte

/-- The patch floor built into the ROM (R592). -/
opaque romPatchFloor : Nat

/-- The highest minor of a GCI major that a patch of the given version implements (R481). -/
opaque patchMinor : Nat → Nat → Nat

/-- CAPACITY of tier 3: the data bytes of the core-die stores, not all of which the spec states (R530). -/
opaque tier3Capacity : Nat

/-- The signing nonce k that HMAC-SM3 keyed with d gives over e (R582): the reduction of the MAC to a
scalar is not stated. -/
opaque sm2Nonce : Nat → List Byte → Nat

/-- The bytes from which PHASE 0 of DEBUG_UNLOCK forms a challenge: a key derived from K_PUF, device time
and a count (R594): the derivation is not stated. -/
opaque challengeInput : Nat → Nat → Nat → List Byte

/-- Whether a DER device certificate verifies under a CA key, and the subject key it carries (R324): X.509
is outside the spec. -/
opaque certSubject : List Byte → List Byte → Option (List Byte)

/-- The member directly above a member of a table that this GT64's TableSpec does not place: R163 and R168 let a
member derive the seats beneath its children and the ring from the board, which names each seat's leaf only. -/
opaque parentOf : Nat → Nat → Nat

/-- An 8-bit code that its receiver ignores: of a masked element (R49), or in an MX block whose scale is NaN. -/
opaque ignoredCode : Nat

/-- The device certificate in the identity block (R581), whose place there is not stated. -/
opaque deviceCert : List (BitVec 8) → List (BitVec 8)

/-- The device CA's public key in the identity block (R322, R581). -/
opaque deviceCaKey : List (BitVec 8) → List (BitVec 8)

/-- The issue queue of a Pip packet that no arriving packet causes: R233 places only those that one does. -/
opaque ownQueue : Nat

/-- HOPS of a packet that the GT64 itself originates: R426 states it for endpoints only. -/
opaque ownHops : Nat

/-- Parameters that a partner has marked (R310), by its primary, table and turn: how the primary learns of them is not
stated. -/
opaque slotMarks : Nat → Nat → Nat → List Nat

/-- Parameters that a primary has marked damaged (R311), by primary, table and turn: how its partner learns of them is
not stated. -/
opaque damagedAt : Nat → Nat → Nat → List Nat

/-- The storage target of a checkpoint asked for at a turn, and whether it is a hazard's, by primary, table and turn: how the partner learns of a
CHECKPOINT move is not stated (R214, R320). -/
opaque checkpointAsked : Nat → Nat → Nat → Option (Nat × Bool)

/-- Ranges (first, count) that a primary handed to another member at a turn, by primary, table and turn: how its partner
learns of them is not stated (R309). -/
opaque movedAway : Nat → Nat → Nat → List (Nat × Nat)

/-- A word of a partner's gradient log has failed in a turn, by primary, table and turn: how the primary learns of it is
not stated (R527, R564). -/
opaque logFailed : Nat → Nat → Nat → Bool

/-- The ring position of a primary in a table at a turn: how its partner learns of it is not stated (Table 10-9). -/
opaque ringPosOf : Nat → Nat → Nat → Nat

/-- STEP, B1POW and B2POW (0, 1, 2) of a primary's table after a turn, which no message of a restore from doubles carries
(R328; log 35). -/
opaque valsAfter : Nat → Nat → Nat → Nat → Nat

/-- The levels of SPI_IO0 to SPI_IO3 while the flash is not accessed: R640 gives those of SPI_CS_N and SPI_CLK only (log
95). -/
opaque spiIdle : Option Nat

/-- DETAIL of FAILED, by command code and the free values taken before: Table 15-6 calls it command-specific and no
rule gives it. -/
opaque failedDetail : Nat → Nat → Nat

/-- u of a Lion update whose t is NaN, by the gradient, moment and master: Table 9-7 states it for t above, below and at
zero only. -/
opaque lionNan : Nat → Nat → Nat → Nat

/-- Bytes of the checkpoint region in use at a time while a checkpoint or restore is in flight (R530): what its staging
takes is not stated. -/
opaque checkpointUse : Nat → Nat

end Sys2Proof.Config
end

