-- ==== Sys2Proof/Machine/Bits.lean ====
section
/-! DEFINITION. Bit fields, little-endian words (R7 to R9), and the CRCs of the spec: CRC-64 of R171,
CRC-32C of R411 and the PMBus packet error code. -/

namespace Sys2Proof.Machine

/-- Field [hi:lo] of a word, as a number (R8). -/
def fld (w : W64) (hi lo : Nat) : Nat := (w.toNat >>> lo) % 2 ^ (hi - lo + 1)

/-- Bit i of a word. -/
def bitAt (w : W64) (i : Nat) : Bool := w.toNat.testBit i

/-- Word i of a list of words; words past the end are 0. -/
def wd (ws : List W64) (i : Nat) : W64 := ws.getD i 0

/-- A word made of fields (hi, lo, value); bits that no field names are 0. -/
def mkW (fs : List (Nat × Nat × Nat)) : W64 :=
  BitVec.ofNat 64 (fs.foldl (fun a f => a + (f.2.2 % 2 ^ (f.1 - f.2.1 + 1)) * 2 ^ f.2.1) 0)

/-- A single bit's value. -/
def b2n (b : Bool) : Nat := if b then 1 else 0

/-- The number that bytes spell, byte 0 least significant (R9). -/
def leNat : List Byte → Nat
  | [] => 0
  | b :: bs => b.toNat + 256 * leNat bs

/-- The n low bytes of a number, byte 0 first (R9). -/
def leBytes : Nat → Nat → List Byte
  | 0, _ => []
  | n + 1, v => BitVec.ofNat 8 v :: leBytes n (v / 256)

/-- The n low bytes of a number, most significant first (SM2, SM3 and network order). -/
def beBytes (n v : Nat) : List Byte := (leBytes n v).reverse

/-- The number that bytes spell, byte 0 most significant. -/
def beNat (bs : List Byte) : Nat := leNat bs.reverse

/-- The bytes of words, each little-endian (R9). -/
def bytesOf : List W64 → List Byte
  | [] => []
  | w :: ws => leBytes 8 w.toNat ++ bytesOf ws

/-- The n whole 64-bit words at the start of bytes; missing bytes are 0. -/
def wordsOf : Nat → List Byte → List W64
  | 0, _ => []
  | n + 1, bs => BitVec.ofNat 64 (leNat (bs.take 8)) :: wordsOf n (bs.drop 8)

/-- Bytes start to start + n - 1. -/
def slice (bs : List Byte) (start n : Nat) : List Byte := (bs.drop start).take n

/-- The little-endian number at bytes start to start + n - 1. -/
def leAt (bs : List Byte) (start n : Nat) : Nat := leNat (slice bs start n)

/-- Bytes cut or filled with zeros to n. -/
def padTo (n : Nat) (bs : List Byte) : List Byte := bs.take n ++ List.replicate (n - bs.length) 0

/-- One bit of the CRC-64 register. -/
def crc64Bit (c : W64) : W64 :=
  if c.msb then (c <<< 1) ^^^ 0x42F0E1EBA9EA3693#64 else c <<< 1

/-- One byte of the CRC-64 register, most significant bit first (R171). -/
def crc64Byte (c : W64) (b : Byte) : W64 :=
  let c := c ^^^ (b.zeroExtend 64 <<< 56)
  crc64Bit (crc64Bit (crc64Bit (crc64Bit (crc64Bit (crc64Bit (crc64Bit (crc64Bit c)))))))

/-- CRC-64 continued from a register value. -/
def crc64From (c : W64) (bs : List Byte) : W64 := bs.foldl crc64Byte c

/-- The CRC-64 of R171. -/
def crc64 (bs : List Byte) : W64 := crc64From 0 bs

def crc32cBit (c : BitVec 32) : BitVec 32 :=
  if c.getLsbD 0 then (c >>> 1) ^^^ 0x82F63B78#32 else c >>> 1

def crc32cByte (c : BitVec 32) (b : Byte) : BitVec 32 :=
  let c := c ^^^ b.zeroExtend 32
  crc32cBit (crc32cBit (crc32cBit (crc32cBit (crc32cBit (crc32cBit (crc32cBit (crc32cBit c)))))))

/-- The CRC-32C of R411: polynomial 0x1EDC_6F41 reflected, initial value and final XOR all ones. -/
def crc32c (bs : List Byte) : BitVec 32 := bs.foldl crc32cByte 0xFFFFFFFF#32 ^^^ 0xFFFFFFFF#32

def crc8Bit (c : Byte) : Byte := if c.msb then (c <<< 1) ^^^ 0x07#8 else c <<< 1

/-- The PMBus packet error code: CRC-8 with polynomial 0x07 (20, worked example of R605). -/
def crc8 (bs : List Byte) : Byte :=
  bs.foldl (fun c b =>
    let c := c ^^^ b
    crc8Bit (crc8Bit (crc8Bit (crc8Bit (crc8Bit (crc8Bit (crc8Bit (crc8Bit c)))))))) 0

/-- Whether any element of a list is listed twice. -/
def hasDup : List Nat → Bool
  | [] => false
  | x :: xs => xs.contains x || hasDup xs

/-- The least number of a list, or none. -/
def leastOf : List Nat → Option Nat
  | [] => none
  | x :: xs => match leastOf xs with
    | none => some x
    | some y => some (min x y)

/-- Update entry i of a list; a list too short stays as it is. -/
def modAt {α : Type} (l : List α) (i : Nat) (f : α → α) : List α :=
  match l, i with
  | [], _ => []
  | x :: xs, 0 => f x :: xs
  | x :: xs, i + 1 => x :: modAt xs i f

/-- Round a number up to a multiple of 8 (R654). -/
def up8 (n : Nat) : Nat := (n + 7) / 8 * 8

/-- Ceiling division. -/
def ceilDiv (a b : Nat) : Nat := (a + b - 1) / b

end Sys2Proof.Machine
end

