-- ==== Sys2Proof/Machine/Crypto.lean ====
section
/-! DEFINITION. SM3 and SM2, which R582 takes from GB/T 32905 and GB/T 32918. The two standards' constants and
steps stand outside the spec: PRESUMED from the standards (log entry 7). -/

namespace Sys2Proof.Machine

abbrev W32 := BitVec 32

/-- Rotate left. -/
def rotl (x : W32) (n : Nat) : W32 := x.rotateLeft (n % 32)

def sm3P0 (x : W32) : W32 := x ^^^ rotl x 9 ^^^ rotl x 17
def sm3P1 (x : W32) : W32 := x ^^^ rotl x 15 ^^^ rotl x 23

/-- The eight registers of SM3. -/
structure Sm3Reg where
  a : W32
  b : W32
  c : W32
  d : W32
  e : W32
  f : W32
  g : W32
  h : W32
  deriving DecidableEq, Repr, Inhabited

def sm3Iv : Sm3Reg :=
  ⟨0x7380166F, 0x4914B2B9, 0x172442D7, 0xDA8A0600, 0xA96F30BC, 0x163138AA, 0xE38DEE4D, 0xB0FB0E4E⟩

/-- The message expansion, newest word first: n further words. -/
def sm3Expand : Nat → List W32 → List W32
  | 0, ws => ws
  | n + 1, ws =>
    let g := fun i => ws.getD i 0
    let x := sm3P1 (g 15 ^^^ g 8 ^^^ rotl (g 2) 15) ^^^ rotl (g 12) 7 ^^^ g 5
    sm3Expand n (x :: ws)

/-- One round j of the compression with W_j and W'_j. -/
def sm3Round (r : Sm3Reg) (j : Nat) (w w' : W32) : Sm3Reg :=
  let t : W32 := if j < 16 then 0x79CC4519 else 0x7A879D8A
  let ss1 := rotl (rotl r.a 12 + r.e + rotl t j) 7
  let ss2 := ss1 ^^^ rotl r.a 12
  let ff := if j < 16 then r.a ^^^ r.b ^^^ r.c else (r.a &&& r.b) ||| (r.a &&& r.c) ||| (r.b &&& r.c)
  let gg := if j < 16 then r.e ^^^ r.f ^^^ r.g else (r.e &&& r.f) ||| (~~~r.e &&& r.g)
  let tt1 := ff + r.d + ss2 + w'
  let tt2 := gg + r.h + ss1 + w
  ⟨tt1, r.a, rotl r.b 9, r.c, sm3P0 tt2, r.e, rotl r.f 19, r.g⟩

/-- The rounds from j on, over the expanded words from W_j. -/
def sm3Rounds : Nat → Nat → List W32 → Sm3Reg → Sm3Reg
  | 0, _, _, r => r
  | n + 1, j, ws, r =>
    sm3Rounds n (j + 1) ws.tail (sm3Round r j (ws.getD 0 0) (ws.getD 0 0 ^^^ ws.getD 4 0))

def sm3Words : Nat → List Byte → List W32
  | 0, _ => []
  | n + 1, bs => BitVec.ofNat 32 (beNat (bs.take 4)) :: sm3Words n (bs.drop 4)

/-- Compress one 64-byte block. -/
def sm3Block (v : Sm3Reg) (bs : List Byte) : Sm3Reg :=
  let ws := (sm3Expand 52 (sm3Words 16 bs).reverse).reverse
  let r := sm3Rounds 64 0 ws v
  ⟨r.a ^^^ v.a, r.b ^^^ v.b, r.c ^^^ v.c, r.d ^^^ v.d, r.e ^^^ v.e, r.f ^^^ v.f, r.g ^^^ v.g, r.h ^^^ v.h⟩

def sm3Blocks : Nat → List Byte → Sm3Reg → Sm3Reg
  | 0, _, v => v
  | n + 1, bs, v => sm3Blocks n (bs.drop 64) (sm3Block v (bs.take 64))

/-- The 32-byte SM3 digest, in the byte order in which SM3 produces it (R582, R318). -/
def sm3 (m : List Byte) : List Byte :=
  let z := (119 - m.length % 64) % 64
  let p := m ++ [0x80] ++ List.replicate z 0 ++ beBytes 8 (8 * m.length)
  let v := sm3Blocks (p.length / 64) p sm3Iv
  [v.a, v.b, v.c, v.d, v.e, v.f, v.g, v.h].flatMap (fun x => beBytes 4 x.toNat)

/-! SM2 on the curve recommended in GB/T 32918.5. -/

def sm2P : Nat := 0xFFFFFFFEFFFFFFFFFFFFFFFFFFFFFFFFFFFFFFFF00000000FFFFFFFFFFFFFFFF
def sm2A : Nat := 0xFFFFFFFEFFFFFFFFFFFFFFFFFFFFFFFFFFFFFFFF00000000FFFFFFFFFFFFFFFC
def sm2B : Nat := 0x28E9FA9E9D9F5E344D5A9E4BCF6509A7F39789F515AB8F92DDBCBD414D940E93
def sm2N : Nat := 0xFFFFFFFEFFFFFFFFFFFFFFFFFFFFFFFF7203DF6B21C6052B53BBF40939D54123
def sm2Gx : Nat := 0x32C4AE2C1F1981195F9904466A39C9948FE30BBFF2660BE1715A4589334C74C7
def sm2Gy : Nat := 0xBC3736A2F4F6779C59BDCEE36B692153D0A9877CC62A474002DF32E52139F0A0

/-- b to the power e modulo m, over the e's low n bits. -/
def powMod (m : Nat) : Nat → Nat → Nat → Nat
  | 0, _, _ => 1
  | n + 1, b, e =>
    let r := powMod m n (b * b % m) (e / 2)
    if e % 2 = 1 then r * b % m else r

/-- The inverse modulo a prime below 2^256. -/
def invMod (m a : Nat) : Nat := powMod m 256 (a % m) (m - 2)

/-- Points of the curve; none is the point at infinity. -/
abbrev Sm2Pt := Option (Nat × Nat)

def subMod (m a b : Nat) : Nat := (a % m + m - b % m) % m

def sm2Add (p q : Sm2Pt) : Sm2Pt :=
  match p, q with
  | none, q => q
  | p, none => p
  | some (x1, y1), some (x2, y2) =>
    if x1 = x2 ∧ (y1 + y2) % sm2P = 0 then none
    else
      let l := if x1 = x2
        then (3 * x1 * x1 + sm2A) * invMod sm2P (2 * y1) % sm2P
        else subMod sm2P y2 y1 * invMod sm2P (subMod sm2P x2 x1) % sm2P
      let x3 := subMod sm2P (l * l) (x1 + x2)
      some (x3, subMod sm2P (l * subMod sm2P x1 x3) y1)

/-- k times a point, over k's low n bits. -/
def sm2Mul : Nat → Nat → Sm2Pt → Sm2Pt
  | 0, _, _ => none
  | n + 1, k, p =>
    let r := sm2Mul n (k / 2) (sm2Add p p)
    if k % 2 = 1 then sm2Add r p else r

def sm2Id : List Byte := [0x31, 0x32, 0x33, 0x34, 0x35, 0x36, 0x37, 0x38, 0x31, 0x32, 0x33, 0x34, 0x35, 0x36, 0x37, 0x38]

/-- e = SM3(Z ‖ M) with the identifier "1234567812345678" (R582); the key is x then y, 64 bytes. -/
def sm2E (key msg : List Byte) : Nat :=
  let z := sm3 ([0x00, 0x80] ++ sm2Id ++ beBytes 32 sm2A ++ beBytes 32 sm2B ++ beBytes 32 sm2Gx ++ beBytes 32 sm2Gy
    ++ key)
  beNat (sm3 (z ++ msg))

/-- Whether a signature, r then s, verifies under a public key over a message (R582). -/
def sm2Verify (key msg sig : List Byte) : Bool :=
  let r := beNat (slice sig 0 32)
  let s := beNat (slice sig 32 32)
  let x := beNat (slice key 0 32)
  let y := beNat (slice key 32 32)
  let t := (r + s) % sm2N
  if r = 0 ∨ s = 0 ∨ sm2N ≤ r ∨ sm2N ≤ s ∨ t = 0 ∨ sm2P ≤ x ∨ sm2P ≤ y
      ∨ y * y % sm2P ≠ (x * x * x + sm2A * x + sm2B) % sm2P then false
  else
    match sm2Add (sm2Mul 256 s (some (sm2Gx, sm2Gy))) (sm2Mul 256 t (some (x, y))) with
    | none => false
    | some (x1, _) => (sm2E key msg + x1) % sm2N = r

/-- The public key of a scalar, x then y (R579). -/
def sm2Pub (d : Nat) : List Byte :=
  match sm2Mul 256 d (some (sm2Gx, sm2Gy)) with
  | none => List.replicate 64 0
  | some (x, y) => beBytes 32 x ++ beBytes 32 y

/-- Sign with scalar d; the nonce is a free value over d and e (R582). -/
def sm2Sign (d : Nat) (msg : List Byte) : List Byte :=
  let e := sm2E (sm2Pub d) msg
  let k := Config.sm2Nonce d (beBytes 32 e)
  match sm2Mul 256 k (some (sm2Gx, sm2Gy)) with
  | none => List.replicate 64 0
  | some (x1, _) =>
    let r := (e + x1) % sm2N
    beBytes 32 r ++ beBytes 32 (invMod sm2N (1 + d) * subMod sm2N k (r * d) % sm2N)

/-- The device scalar d of R579 from K_PUF. -/
def deviceScalar (kPuf : Nat) : Nat :=
  let k := beBytes 32 kPuf
  beNat (sm3 (k ++ [0x01]) ++ sm3 (k ++ [0x02])) % (sm2N - 1) + 1

/-- KEY_ID: SM3 of 0x04, x, y (R579). -/
def keyId (pub : List Byte) : List Byte := sm3 (0x04 :: pub)

end Sys2Proof.Machine
end

