-- ==== Sys2Proof/Machine/Float.lean ====
section
/-! DEFINITION. The floating-point formats of 02_number_formats.md: layouts (Table 2-2 and the OCP MX element
formats), exact decoding, and the one rounding of R52, round to nearest with ties to even, of an exact
rational. Every operation is computed exactly and rounded once. -/

namespace Sys2Proof.Machine

/-- Which codes of a format are not finite numbers. -/
inductive Specials where
  /-- Exponent all ones: infinity with significand 0, NaN otherwise. -/
  | ieee
  /-- Only the all-ones code is NaN, and there is no infinity (FP8 E4M3). -/
  | onlyNan
  /-- Every code is finite (E2M3, E3M2, E2M1). -/
  | none
  deriving DecidableEq, Repr, Inhabited

/-- A floating-point format (R37). -/
structure FloatFmt where
  ebits    : Nat
  mbits    : Nat
  bias     : Nat
  /-- Code of the largest finite value, sign 0. -/
  maxBits  : Nat
  /-- Canonical NaN (R62). -/
  nanBits  : Nat
  specials : Specials
  deriving DecidableEq, Repr, Inhabited

def fp32 : FloatFmt := ⟨8, 23, 127, 0x7F7FFFFF, 0x7FC00000, .ieee⟩
def bf16 : FloatFmt := ⟨8, 7, 127, 0x7F7F, 0x7FC0, .ieee⟩
def fp16 : FloatFmt := ⟨5, 10, 15, 0x7BFF, 0x7E00, .ieee⟩
def e4m3 : FloatFmt := ⟨4, 3, 7, 0x7E, 0x7F, .onlyNan⟩
def e5m2 : FloatFmt := ⟨5, 2, 15, 0x7B, 0x7E, .ieee⟩
def fp64 : FloatFmt := ⟨11, 52, 1023, 0x7FEFFFFFFFFFFFFF, 0x7FF8000000000000, .ieee⟩
def e2m3 : FloatFmt := ⟨2, 3, 1, 0x1F, 0, .none⟩
def e3m2 : FloatFmt := ⟨3, 2, 3, 0x1F, 0, .none⟩
def e2m1 : FloatFmt := ⟨2, 1, 1, 0x7, 0, .none⟩

/-- Width of an element in bits. -/
def FloatFmt.width (f : FloatFmt) : Nat := 1 + f.ebits + f.mbits

/-- The weight of the sign bit. -/
def FloatFmt.signBit (f : FloatFmt) : Nat := 2 ^ (f.ebits + f.mbits)

/-- Exponent of the least significand unit: the smallest subnormal is 2 to this power. -/
def FloatFmt.qmin (f : FloatFmt) : Int := 1 - (f.bias : Int) - f.mbits

/-- The code of infinity; meaningful for formats that have one. -/
def FloatFmt.infBits (f : FloatFmt) : Nat := (2 ^ f.ebits - 1) * 2 ^ f.mbits

/-- An exact value: a NaN (payloads and signs are discarded, R62), an infinity, or m times 2 to the e. A zero
has no sign (R61). -/
inductive FVal where
  | nan
  | inf (neg : Bool)
  | num (m e : Int)
  deriving DecidableEq, Repr, Inhabited

def FVal.isFinite : FVal → Bool
  | .num _ _ => true
  | _ => false

def FVal.isZero : FVal → Bool
  | .num m _ => m = 0
  | _ => false

/-- The exact value of a code (R37, R53). -/
def decodeF (f : FloatFmt) (bits : Nat) : FVal :=
  let neg := bits / f.signBit % 2 = 1
  let ex := bits / 2 ^ f.mbits % 2 ^ f.ebits
  let fr := bits % 2 ^ f.mbits
  let fin : FVal :=
    let m : Int := if ex = 0 then fr else fr + 2 ^ f.mbits
    let e : Int := f.qmin + (if ex = 0 then 0 else ex - 1 : Nat)
    .num (if neg then -m else m) e
  match f.specials with
  | .ieee => if ex = 2 ^ f.ebits - 1 then (if fr = 0 then .inf neg else .nan) else fin
  | .onlyNan => if bits % f.signBit = f.signBit - 1 then .nan else fin
  | .none => fin

/-- Quotient rounded to the nearest integer, ties to even (R52). -/
def divRne (n d : Nat) : Nat :=
  let q := n / d
  let r := n % d
  if 2 * r < d then q else if d < 2 * r then q + 1 else if q % 2 = 0 then q else q + 1

/-- floor(log2(n / d)) for positive n and d. -/
def floorLog2 (n d : Nat) : Int :=
  let k : Int := (Nat.log2 n : Int) - Nat.log2 d
  let lt : Bool := if 0 ≤ k then n < d * 2 ^ k.toNat else n * 2 ^ (-k).toNat < d
  if lt then k - 1 else k

/-- The magnitude code of n / d × 2^e rounded once to nearest even, with gradual underflow and an unbounded
exponent range above (R52, R58). -/
def roundMag (f : FloatFmt) (n d : Nat) (e : Int) : Nat :=
  if n = 0 then 0
  else
    let q := max (floorLog2 n d + e - f.mbits) f.qmin
    let s := e - q
    let m := if 0 ≤ s then divRne (n * 2 ^ s.toNat) d else divRne n (d * 2 ^ (-s).toNat)
    (q - f.qmin).toNat * 2 ^ f.mbits + m

/-- A rounded result: its code, and which event of R56 or R60 it met. -/
structure Rounded where
  bits      : Nat
  saturated : Bool := false
  flushed   : Bool := false
  deriving DecidableEq, Repr, Inhabited

/-- Put the sign on a magnitude; a zero stays +0 (R61). -/
def signed (f : FloatFmt) (neg : Bool) (mag : Nat) : Nat :=
  if mag = 0 then 0 else if neg then f.signBit + mag else mag

/-- Conversion of the rational n / d × 2^e to a format: one rounding, the largest finite value above the range
(R56), +0 and one FLUSHED event for a non-zero value that rounds to zero (R60). -/
def convRat (f : FloatFmt) (neg : Bool) (n d : Nat) (e : Int) : Rounded :=
  let mag := roundMag f n d e
  if f.maxBits < mag then ⟨signed f neg f.maxBits, true, false⟩
  else ⟨signed f neg mag, false, decide (mag = 0 ∧ n ≠ 0)⟩

/-- The code of an infinity in a format: E4M3 turns it into NaN (R63). -/
def infCode (f : FloatFmt) (neg : Bool) : Nat :=
  match f.specials with
  | .ieee => signed f neg f.infBits
  | _ => f.nanBits

/-- Conversion of an exact value to a format (R52, R56, R60 to R63). -/
def convF (f : FloatFmt) : FVal → Rounded
  | .nan => ⟨f.nanBits, false, false⟩
  | .inf neg => ⟨infCode f neg, false, false⟩
  | .num m e => convRat f (m < 0) m.natAbs 1 e

/-- An arithmetic result n / d × 2^e in a format: as convRat, but an overflow gives an infinity of the sign
(R63, R136, R279) and an underflow is the rounded subnormal. -/
def arithRat (f : FloatFmt) (neg : Bool) (n d : Nat) (e : Int) : Nat :=
  let mag := roundMag f n d e
  if f.maxBits < mag then infCode f neg else signed f neg mag

def arithF (f : FloatFmt) : FVal → Nat
  | .nan => f.nanBits
  | .inf neg => infCode f neg
  | .num m e => arithRat f (m < 0) m.natAbs 1 e

/-- Exact sum (R63). -/
def addV : FVal → FVal → FVal
  | .nan, _ => .nan
  | _, .nan => .nan
  | .inf a, .inf b => if a = b then .inf a else .nan
  | .inf a, _ => .inf a
  | _, .inf b => .inf b
  | .num m e, .num m' e' =>
    if e ≤ e' then .num (m + m' * 2 ^ (e' - e).toNat) e else .num (m * 2 ^ (e - e').toNat + m') e'

def negV : FVal → FVal
  | .nan => .nan
  | .inf a => .inf (!a)
  | .num m e => .num (-m) e

/-- Exact product; zero times infinity is NaN. -/
def mulV : FVal → FVal → FVal
  | .nan, _ => .nan
  | _, .nan => .nan
  | .inf a, .inf b => .inf (a != b)
  | .inf a, .num m _ => if m = 0 then .nan else .inf (a != decide (m < 0))
  | .num m _, .inf b => if m = 0 then .nan else .inf (b != decide (m < 0))
  | .num m e, .num m' e' => .num (m * m') (e + e')

/-- Addition of codes, rounded once (R54, R279). -/
def fadd (f : FloatFmt) (a b : Nat) : Nat := arithF f (addV (decodeF f a) (decodeF f b))
def fsub (f : FloatFmt) (a b : Nat) : Nat := arithF f (addV (decodeF f a) (negV (decodeF f b)))
def fmul (f : FloatFmt) (a b : Nat) : Nat := arithF f (mulV (decodeF f a) (decodeF f b))
/-- x × y + z rounded once (R279). -/
def ffma (f : FloatFmt) (x y z : Nat) : Nat :=
  arithF f (addV (mulV (decodeF f x) (decodeF f y)) (decodeF f z))
def fneg (f : FloatFmt) (a : Nat) : Nat := arithF f (negV (decodeF f a))

/-- Correctly rounded division; a zero divisor is +0 (R279). -/
def divV (f : FloatFmt) : FVal → FVal → Nat
  | .nan, _ => f.nanBits
  | _, .nan => f.nanBits
  | .inf _, .inf _ => f.nanBits
  | .inf a, .num m _ => infCode f (a != decide (m < 0))
  | .num _ _, .inf _ => 0
  | .num m e, .num m' e' =>
    if m' = 0 then (if m = 0 then f.nanBits else infCode f (m < 0))
    else arithRat f (decide (m < 0) != decide (m' < 0)) m.natAbs m'.natAbs (e - e')

def fdiv (f : FloatFmt) (a b : Nat) : Nat := divV f (decodeF f a) (decodeF f b)

/-- Integer square root by bits, from bit n - 1 down. -/
def isqrtFrom : Nat → Nat → Nat → Nat
  | 0, _, r => r
  | n + 1, x, r =>
    let r' := r + 2 ^ n
    isqrtFrom n x (if r' * r' ≤ x then r' else r)

def isqrt (x : Nat) : Nat := isqrtFrom (Nat.log2 x / 2 + 1) x 0

/-- Correctly rounded square root (R279, R135, R277): the root is taken with a sticky unit below its last bit. -/
def fsqrt (f : FloatFmt) (a : Nat) : Nat :=
  match decodeF f a with
  | .nan => f.nanBits
  | .inf neg => if neg then f.nanBits else infCode f false
  | .num m e =>
    if m = 0 then 0
    else if m < 0 then f.nanBits
    else
      let k := 2 * f.mbits + 8 + (if e % 2 = 0 then 0 else 1)
      let x := m.natAbs * 2 ^ k
      let r := isqrt x
      let r2 := 2 * r + (if r * r = x then 0 else 1)
      arithRat f false r2 1 ((e - k) / 2 - 1)

/-- Order of finite values and infinities; none for a NaN (R67). -/
def ltV : FVal → FVal → Option Bool
  | .nan, _ => none
  | _, .nan => none
  | .inf a, .inf b => some (a && !b)
  | .inf a, .num _ _ => some a
  | .num _ _, .inf b => some (!b)
  | .num m e, .num m' e' =>
    some (if e ≤ e' then m < m' * 2 ^ (e' - e).toNat else m * 2 ^ (e - e').toNat < m')

def isNanBits (f : FloatFmt) (a : Nat) : Bool := decodeF f a = .nan
def isFiniteBits (f : FloatFmt) (a : Nat) : Bool := (decodeF f a).isFinite

/-- The Roll-mode flush of R57: a value in an FP32 or FP64 accumulator below the smallest normal becomes +0;
the flag tells that a non-zero value was flushed. -/
def flushAcc (f : FloatFmt) (a : Nat) : Nat × Bool :=
  let mag := a % f.signBit
  if mag < 2 ^ f.mbits then (0, decide (mag ≠ 0)) else (a, false)

end Sys2Proof.Machine
end

