-- ==== Sys2Proof/Machine/State.lean ====
section
/-! DEFINITION. The state of the GT64 as plain data, sub-structure by sub-structure, and the state right after
reset. Every structure's defaults are its reset values: the spec's where it gives them, the assumption log's
otherwise. A time is device time in ns unless it says otherwise. -/

namespace Sys2Proof.Machine
open Sys2Proof

/-- The block takes no faults: an error is a status, a counter, a mode or a stopped start-up (15, 18, 20). -/
inductive Fault where
  deriving DecidableEq, Repr

/-- Why a command has no meaning. -/
inductive Refusal where
  /-- A command whose meaning the model does not hold, by its mnemonic. Safe: the machine stops. -/
  | notModelled (mnemonic : String)
  deriving DecidableEq, Repr

/-- A flit with its tag (Table 13-4) and the packet it is part of, 0 for none. -/
structure Flit where
  tag   : Nat
  words : List W64
  pkt   : Nat := 0
  /-- The packet's last flit. -/
  last  : Bool := false
  /-- The EID that a fence names, of a Pip packet's flit (R394). -/
  eid   : Nat := 0x1FFFFF
  deriving DecidableEq, Repr, Inhabited

/-- What the device sends out, one entry each (oldest first in State.out). -/
inductive Emission where
  /-- A PMBus write, address byte first, packet error code last (R604). -/
  | pmbus (bytes : List Byte)
  /-- A UDP datagram from UDP port srcUdp, on host port dst.port (R458, R465, R470). -/
  | datagram (dst : Source) (srcUdp : Nat) (payload : List Byte)
  | arpReply (dst : Source) (mac ip : Nat)
  | neighbourAdvert (dst : Source) (mac ip : Nat)
  | echoReply (dst : Source) (v6 : Bool) (data : List Byte)
  /-- An ARP request or neighbour solicitation for ip (R458). -/
  | resolve (port ip : Nat)
  /-- A link frame: its content bytes per logical lane before scrambling (Table 13-3) and the scramblers'
  registers at its start (R413), which give its symbols. -/
  | linkFrame (link : Nat) (unsequenced : Bool) (seq : Nat) (lanes : List (List Byte)) (scramblers : List Nat)
  /-- One training frame: the TS words per logical lane (R434). -/
  | trainFrame (link : Nat) (lanes : List (List W64))
  /-- One SYNC or test frame: content all 0 before scrambling (Table 13-8, R447). -/
  | zeroFrame (link : Nat) (scramblers : List Nat)
  /-- One frame period of electrical idle. -/
  | idle (link : Nat)
  /-- Received symbols returned unchanged on each logical lane (R448). -/
  | returned (link : Nat) (lanes : List LaneRx)
  deriving DecidableEq, Repr, Inhabited

/-- Board pins, sampled straps, JTAG and the I2C target (21). -/
structure Pins where
  pwrGood   : Bool := false
  /-- RESET_N released. -/
  resetHigh : Bool := false
  straps    : Straps := {}
  i2cAddr   : Nat := 0x60
  /-- The I2C port answers (R617). -/
  i2cOn     : Bool := false
  /-- THERMTRIP_N asserted (R620). -/
  thermtrip : Bool := false
  /-- SPI_CLK, SPI_CS_N and SPI_IO0 to SPI_IO3 as driven while the flash is not accessed; none is high impedance (R640). -/
  spiClk    : Option Bool := none
  spiCsN    : Option Bool := none
  spiIo     : Option Nat := none
  jtagIr    : Nat := 0xFF
  /-- RESET_N was released during a boundary instruction (R642). -/
  jtagHold  : Bool := false
  deriving DecidableEq, Repr, Inhabited

/-- Start-up (Table 20-3, Table 20-7). -/
structure Boot where
  /-- Step of Table 20-3 that is running; 0 while held in reset, 10 once SERVICE is entered. -/
  step        : Nat := 0
  /-- Start-up has stopped (R587, R615, R637). -/
  stopped     : Bool := false
  fail        : Nat := 0
  failUnit    : Nat := 0
  tripped     : Bool := false
  clockLoss   : Bool := false
  /-- The hold of R607. -/
  clockHold   : Bool := false
  coreClockOk : Bool := true
  srdClockOk  : List Bool := List.replicate 8 true
  /-- Memory has been cleared (R612). -/
  memCleared  : Bool := false
  /-- The mailbox transport is open (R610, R615). -/
  transport   : Bool := false
  tMailbox    : Nat := 0
  linksUp     : Nat := 0
  linksFailed : Nat := 0
  tService    : Nat := 0
  /-- Device time at which RESTART acts as RESET_N (R494). -/
  restartAt   : Option Nat := none
  deriving DecidableEq, Repr, Inhabited

/-- A VDD_CORE regulator (R604, R605): its VOUT_MODE exponent and how many writes in a row it has not
acknowledged. -/
structure Regulator where
  addr : Nat
  exp  : Int
  nacks : Nat := 0
  deriving DecidableEq, Repr, Inhabited

/-- The AVS controller, heat and PowerStatus (20). -/
structure Power where
  vcoreMv     : Nat := 850
  tjMax       : Int := 0
  tjHbmMax    : Int := 0
  minRate     : Nat := 0
  coreW       : Nat := 0
  stepsUp     : Nat := 0
  stepsDown   : Nat := 0
  floorEvents : Nat := 0
  pmbusErrors : Nat := 0
  throttleNs  : Nat := 0
  vcoreMinMv  : Nat := 850
  vcoreMaxMv  : Nat := 850
  throttled   : Bool := false
  /-- Device time at which throttling was last entered (Table 20-4). -/
  throttledAt : Nat := 0
  /-- The controller runs (R602). -/
  avsOn       : Bool := false
  /-- No step is ever sent (R637). -/
  avsDead     : Bool := false
  avsFault    : Bool := false
  /-- The RATE_FLOOR condition holds (R621). -/
  rateFloor   : Bool := false
  regs        : List Regulator := []
  /-- A step is on its way to being done (R604). -/
  inFlight    : Bool := false
  /-- The pending step in mV (R603). -/
  pendingStep : Option Int := none
  /-- Readings in a row at or above 1.854 G (case 3 of R602), up to 100. -/
  goodRun     : Nat := 0
  deriving DecidableEq, Repr, Inhabited

/-- AlertControl (Table 20-8). -/
structure Alert where
  causes : List Bool := List.replicate 7 false
  mask   : Nat := 0x7F
  deriving DecidableEq, Repr, Inhabited

/-- The watchdog and the CP (R504, R526, R555, R594). -/
structure Watchdog where
  armed       : Bool := false
  /-- ns of PLL ticks since the last restart. -/
  ticks       : Nat := 0
  /-- The CP has stopped restarting it (R555). -/
  stopRestart : Bool := false
  /-- The CP has stopped (R526) or is halted (R594). -/
  cpStopped   : Bool := false
  maxGapUs    : Nat := 0
  deriving DecidableEq, Repr, Inhabited

/-- What a link's peer advertised in its last TIME_RESP (R241, R243). -/
structure TimePeer where
  link      : Nat
  priority  : Nat
  rootEid   : Nat
  hops      : Nat
  pathBound : Nat
  deriving DecidableEq, Repr, Inhabited

/-- Device time and TimeStatus (08). -/
structure Time where
  /-- Device time in units of 1/64 ns (R238). -/
  t64         : Nat := 0
  running     : Bool := false
  /-- Rate correction in parts per million, within ±200 (R238). -/
  ratePpm     : Int := 0
  /-- Remainder of the rate correction, in millionths of 1/64 ns. -/
  rateAcc     : Int := 0
  state       : Nat := 0
  isRoot      : Bool := false
  priority    : Nat := 0
  hops        : Nat := 0
  upLink      : Option Nat := none
  rootEid     : Nat := 0
  /-- TIME_PRIORITY of the root in use (Table 13-6). -/
  rootPriority : Nat := 0
  pathBound   : Nat := 0
  theta       : Int := 0
  lockLosses  : Nat := 0
  ptpOffset   : Int := 0
  lockedOnce  : Bool := false
  goodRun     : Nat := 0
  badRun      : Nat := 0
  peers       : List TimePeer := []
  ptpEn       : Bool := false
  ptpDomain   : Nat := 0
  /-- The selected 1588 master: port, identity and rank (R459). -/
  ptpMaster   : Option (Nat × Nat × Nat) := none
  /-- Masters heard: port, identity and rank. -/
  ptpHeard    : List (Nat × Nat × Nat) := []
  ptpStepped  : Bool := false
  deriving DecidableEq, Repr, Inhabited

/-- Identity, chosen images and debug unlock (19). -/
structure Ident where
  /-- Private scalar d and the public key, write-only inside the engine (R579, R580). -/
  key          : Option (Nat × Nat × Nat) := none
  kPuf         : Nat := 0
  /-- Zeros have been written over the PUF array, which is read once before (R578). -/
  pufZero      : Bool := false
  noKey        : Bool := false
  keyId        : List Byte := List.replicate 32 0
  ownerKey     : Option (List Byte) := none
  /-- DeviceConfig as applied (Table 19-4). -/
  cfg          : List W64 := List.replicate 6 0
  configSlot   : Option Nat := none
  configSerial : Nat := 0
  configSm3    : List Byte := List.replicate 32 0
  patchSlot    : Option Nat := none
  patchVersion : Nat := 0
  patchSm3     : List Byte := List.replicate 32 0
  patchFloor   : Nat := 0
  rulesetCap   : Nat := 0
  eid          : Nat := 0x1FFFFF
  gateway4     : Nat := 0
  gateway6     : Nat := 0
  /-- The current challenge and its time of issue (R594). -/
  challenge    : Option (List Byte × Nat) := none
  challenges   : Nat := 0
  /-- Scopes 0 to 2: unlocked until (R594). -/
  scopes       : List (Option Nat) := [none, none, none]
  deriving DecidableEq, Repr, Inhabited

/-- A mailbox request (R461). -/
structure Request where
  src     : Source
  session : Nat
  seq     : Nat
  msg     : List Byte
  deriving DecidableEq, Repr, Inhabited

/-- A stored response (R464). -/
structure Stored where
  session : Nat
  seq     : Nat
  bytes   : List Byte
  deriving DecidableEq, Repr, Inhabited

/-- A session of a mailbox (R478 to R481). -/
structure Session where
  id        : Nat
  major     : Nat
  minor     : Nat
  idleS     : Nat
  lastBegin : Nat
  deriving DecidableEq, Repr, Inhabited

/-- An inbound bulk buffer (R487): a byte that has not arrived is none. -/
structure InBulk where
  id   : Nat
  data : List (Option Byte)
  deriving DecidableEq, Repr, Inhabited

/-- An outbound bulk buffer (R490). -/
structure OutBulk where
  id   : Nat
  data : List Byte
  deriving DecidableEq, Repr, Inhabited

/-- A mailbox (R460 to R464, R478 to R490). -/
structure Mailbox where
  session  : Option Session := none
  /-- Requests that wait, oldest first (R463). -/
  ring     : List Request := []
  /-- The request that executes and waits to respond (R492), with its GCI major. -/
  exec     : Option Request := none
  stored   : List Stored := []
  inb      : Option InBulk := none
  outb     : Option OutBulk := none
  deriving DecidableEq, Repr, Inhabited

/-- Counters of DeviceStatus (Table 15-9). -/
structure Gci where
  requests   : Nat := 0
  errors     : Nat := 0
  duplicates : Nat := 0
  bulkDrops  : Nat := 0
  deriving DecidableEq, Repr, Inhabited

/-- HostPortConfig as applied (Table 19-5). -/
structure HostCfg where
  pmd      : Nat := 0
  v4Prefix : Nat := 0
  v6Prefix : Nat := 0
  mac      : Nat := 0
  vlan     : Nat := 0
  ipv4     : Nat := 0
  ipv6     : Nat := 0
  deriving DecidableEq, Repr, Inhabited

/-- One host port: configuration, HostPortStatus and neighbour cache (14). -/
structure HostPort where
  cfg            : HostCfg := {}
  /-- 0 DOWN, 1 NEGOTIATING or TRAINING, 2 UP, 3 DISABLED. -/
  state          : Nat := 0
  framesRx       : Nat := 0
  framesTx       : Nat := 0
  fcsErrors      : Nat := 0
  dropped        : Nat := 0
  fecCorrected   : Nat := 0
  fecUncorrected : Nat := 0
  pauseRx        : Nat := 0
  ringFull       : Nat := 0
  storeResends   : Nat := 0
  storeStrays    : Nat := 0
  /-- Next hops resolved: IP address, MAC address (R458). -/
  neighbours     : List (Nat × Nat) := []
  /-- Datagrams that wait for a next hop: hop, destination, source UDP port, payload (R458). -/
  held           : List (Nat × Source × Nat × List Byte) := []
  deriving DecidableEq, Repr, Inhabited

/-- Telemetry (R470, R471, R503). -/
structure Telemetry where
  /-- TelemetrySpec as 28 words; PERIOD_MS 1,000 at reset. -/
  spec  : List W64 := 1000#64 :: List.replicate 27 0
  seq   : Nat := 0
  /-- Start of the last period that began. -/
  last  : Option Nat := none
  deriving DecidableEq, Repr, Inhabited

/-- PawnRecord and PawnHistory (Table 15-12, Table 18-10). -/
structure Pawn where
  cause         : Nat := 0
  routeEpoch    : Nat := 0
  tEnter        : Nat := 0
  pktsForwarded : Nat := 0
  roundsOpen    : Nat := 0
  roundsFailed  : Nat := 0
  lastCmd       : Nat := 0
  lastMailbox   : Nat := 0
  lastValid     : Bool := false
  exits         : Nat := 0
  lastCause     : Nat := 0
  tLastExit     : Nat := 0
  pawnNs        : Nat := 0
  selfDrops     : Nat := 0
  deriving DecidableEq, Repr, Inhabited

/-- A fabric port: PortLinkConfig and PortCounters (Tables 13-1, 15-10). -/
structure Port where
  split        : Nat := 0
  enable       : Nat := 0x01
  genAllow     : Nat := 0x0003
  pktsIn       : Nat := 0
  pktsOut      : Nat := 0
  flitsIn      : Nat := 0
  flitsOut     : Nat := 0
  pipDrops     : Nat := 0
  pipOverflow  : Nat := 0
  discardEnds  : Nat := 0
  egressDrops  : Nat := 0
  creditWaitNs : Nat := 0
  deriving DecidableEq, Repr, Inhabited

/-- A credit pool of one direction (R430). -/
structure Pool where
  credits : Nat := 0
  count   : Nat := 0
  freed   : Nat := 0
  deriving DecidableEq, Repr, Inhabited

/-- A link frame in the replay buffer (R420). -/
structure TxFrame where
  seq   : Nat
  slots : List Flit
  deriving DecidableEq, Repr, Inhabited

/-- The transmitting half of a link (R418 to R430). -/
structure LinkTx where
  nextSeq  : Nat := 0
  replay   : List TxFrame := []
  /-- Frames that are still to be resent (R423). -/
  resend   : List TxFrame := []
  /-- Pools TC0 to TC5, TC7, PIP, KEEPER: CREDITS of the peer, flits sent, FREED. -/
  pools    : List Pool := List.replicate 9 {}
  /-- CTRL flits that wait. -/
  ctrl     : List (List W64) := []
  /-- Flits that wait, per pool. -/
  queues   : List (List Flit) := List.replicate 9 []
  framesSinceAck : Nat := 0
  lastAck  : Nat := 0
  periods  : Nat := 0
  /-- Where an ACK must count as NAK(ACK_SEQ + 1) after a fast retrain (R441). -/
  ackAsNak : Bool := false
  /-- Scrambler registers per logical lane (R413). -/
  scr      : List Nat := List.replicate 8 0
  deriving DecidableEq, Repr, Inhabited

/-- A packet in progress in a class (R426): flits still to come and words so far. -/
structure PartPkt where
  left  : Nat
  words : List W64
  drop  : Bool := false
  /-- The stored packet, once its header has been looked up while flits were still to come (R343, R347). -/
  pkt   : Option Nat := none
  deriving DecidableEq, Repr, Inhabited

/-- The receiving half of a link (R416, R421, R422, R430). -/
structure LinkRx where
  expect     : Nat := 0
  accepted   : Bool := false
  /-- REPLAY_WAIT: NAKs sent for this E, and when the last was sent (R422). -/
  replayWait : Option Nat := none
  waitSince  : Nat := 0
  /-- Own pools: CREDITS advertised, flits received, flits freed. -/
  pools      : List Pool := List.replicate 9 {}
  parts      : List (Option PartPkt) := List.replicate 8 none
  /-- Per logical lane, the last 8 lane frames: bad or not, newest first. -/
  history    : List (List Bool) := List.replicate 8 []
  deriving DecidableEq, Repr, Inhabited

/-- Training of a link (R434 to R441, R448, R648). -/
structure LinkTrain where
  /-- 0 none, 1 TS1, 3 equalising, 4 TS2, 5 SYNC, 6 INIT sent. -/
  step       : Nat := 0
  gen        : Nat := 0
  /-- GEN_ALLOW as it stood when this training began (R406). -/
  allow      : Nat := 0
  startedAt  : Nat := 0
  /-- When the step that runs began (R437). -/
  stepAt     : Nat := 0
  peerTs     : Option Nat := none
  /-- Consecutive valid TS per logical lane, up to 3. -/
  goodTs     : List Nat := List.replicate 8 0
  reversed   : Option Bool := none
  /-- The lanes arrive neither straight nor reversed (R407). -/
  orderBad   : Bool := false
  /-- TRAIN_FC of the last valid TS per lane, by which the lanes are aligned (R419). -/
  laneFc     : List (Option Nat) := List.replicate 8 none
  peerWidth  : Nat := 0
  peerEqDone : List Bool := List.replicate 8 false
  /-- The receivers need no further tap change; EQ_DONE has been sent. -/
  eqDone     : Bool := false
  eqSent     : Bool := false
  /-- The peer's COUNTDOWN has reached 0: SYNC frames come next. -/
  peerSync   : Option Nat := none
  /-- One of the peer's last 32 SYNC frames was not all 0 (Table 13-8). -/
  syncBad    : Bool := false
  countdown  : Nat := 0
  syncSent   : Nat := 0
  trainFc    : Nat := 0
  frames     : Nat := 0
  /-- Taps per logical lane: c(-2), c(-1), c(1) in hundredths. -/
  taps       : List (Int × Int × Int) := List.replicate 8 (0, -10, 0)
  /-- Frame count at the last move of each tap of each lane. -/
  tapAt      : List (List (Option Nat)) := List.replicate 8 [none, none, none]
  failedGens : List Nat := []
  /-- Some generation failed, so the fallback stops at the current one (R437). -/
  fellBack   : Bool := false
  /-- One training attempt failed at VL1 (R614). -/
  failedVl1  : Bool := false
  initRecv   : Bool := false
  genStepSent : Nat := 0
  genStepRecv : Nat := 0
  /-- Unsequenced link frames still to be sent before the idle of a step-up (R438). -/
  stepLeft   : Option Nat := none
  /-- Electrical idle goes on until (R437, R438, R449). -/
  idleUntil  : Option Nat := none
  /-- Generation at which to start after the idle. -/
  afterIdle  : Nat := 0
  /-- A fast retrain runs since (R441). -/
  fastSince  : Option Nat := none
  peerLoop   : Bool := false
  deriving DecidableEq, Repr, Inhabited

/-- A loopback run (R447 to R449). -/
structure Loopback where
  /-- 0 none, 1 to 3 as tester by MODE, 4 serving the peer. -/
  mode    : Nat := 0
  gen     : Nat := 0
  endAt   : Nat := 0
  mailbox : Option Nat := none
  raw     : Nat := 0
  corr    : Nat := 0
  uncorr  : Nat := 0
  deriving DecidableEq, Repr, Inhabited

/-- LinkStatus (Table 13-10). -/
structure LinkStat where
  state          : Nat := 0
  gen            : Nat := 0
  lanes          : Nat := 0
  peerGt64       : Bool := false
  peerFamilyGen  : Nat := 0
  laneFail       : Nat := 0
  peerGens       : Nat := 0
  peerEid        : Nat := 0
  corrected      : Nat := 0
  uncorrectable  : Nat := 0
  crcFails       : Nat := 0
  naksSent       : Nat := 0
  framesReplayed : Nat := 0
  naksReceived   : Nat := 0
  retrains       : Nat := 0
  fallbacks      : Nat := 0
  abandoned      : Nat := 0
  protoErrors    : Nat := 0
  timeExchanges  : Nat := 0
  timeDiscards   : Nat := 0
  rawBitErrors   : Nat := 0
  tUp            : Nat := 0
  deriving DecidableEq, Repr, Inhabited

/-- PeerLevel (Table 18-9). -/
structure PeerLevel where
  level   : Nat
  eid     : Nat
  rom     : Nat
  patch   : Nat
  deriving DecidableEq, Repr, Inhabited

/-- A time exchange in progress: its XID, t1 in 1/64 ns once the frame that carries TIME_REQ has begun (R443), and whether a
fast retrain discards it (R445). -/
structure Xchg where
  xid : Nat
  t1  : Option Nat := none
  bad : Bool := false
  deriving DecidableEq, Repr, Inhabited

/-- A fabric link, by link ID (13). -/
structure Link where
  stat  : LinkStat := {}
  tx    : LinkTx := {}
  rx    : LinkRx := {}
  train : LinkTrain := {}
  loop  : Loopback := {}
  peer  : Option PeerLevel := none
  xchg  : Option Xchg := none
  xid   : Nat := 0
  /-- Path delay of the last exchange, in 1/64 ns (R240). -/
  pathDelay : Int := 0
  deriving DecidableEq, Repr, Inhabited

/-- One route bank (R371, R374, R381, R388). Every table lists only the entries that are not 0, by index. -/
structure RouteBank where
  /-- 0 FREE, 1 CURRENT, 2 DRAINING, 3 STAGING. -/
  state    : Nat := 0
  eids     : List (Nat × Nat) := []
  pathSets : List (Nat × Nat) := []
  /-- The link each path set chose last (R375). -/
  chosen   : List (Nat × Nat) := []
  groups   : List (Nat × Nat) := []
  legs     : List (Nat × Nat) := []
  drainEnd : Nat := 0
  deriving DecidableEq, Repr, Inhabited

/-- A fenced EID (R392 to R397). -/
structure Fence where
  eid       : Nat
  time      : Nat
  accepted  : Nat
  timeoutUs : Nat
  /-- The mailbox that waits for the acknowledgement; none once it has been given. -/
  mailbox   : Option Nat
  acked     : Bool := false
  /-- Packets waited for, by number. -/
  waitFor   : List Nat := []
  waited    : Nat := 0
  deriving DecidableEq, Repr, Inhabited

/-- A packet held by a reorder context: its number in the Pot, its SEQ and when its REORDER_TIMEOUT ends (R379). -/
structure HeldPkt where
  pkt : Nat
  seq : Nat
  due : Nat
  deriving DecidableEq, Repr, Inhabited

/-- A reorder context (R379, R380). -/
structure Reorder where
  src     : Nat
  dst     : Nat
  tc      : Nat
  next    : Option Nat
  held    : List HeldPkt := []
  lastUse : Nat
  deriving DecidableEq, Repr, Inhabited

/-- A Kibitz session (Table 12-5): the two writable words and its counts. -/
structure Kibitz where
  w0      : W64 := 0
  w1      : W64 := 0
  copies  : Nat := 0
  skipped : Nat := 0
  matched : Nat := 0
  deriving DecidableEq, Repr, Inhabited

/-- RouteCounters (Table 12-8). -/
structure RouteCount where
  noRoute     : Nat := 0
  linkDown    : Nat := 0
  staleEpoch  : Nat := 0
  hopExpired  : Nat := 0
  fenceDrops  : Nat := 0
  reorderGaps : Nat := 0
  reorderLate : Nat := 0
  noContext   : Nat := 0
  deriving DecidableEq, Repr, Inhabited

/-- Routing (12). Bank 0 is CURRENT after RESET_N (R387). -/
structure Route where
  banks     : List RouteBank := { state := 1 } :: List.replicate 3 {}
  cur       : Nat := 0
  drainUs   : Nat := 1000
  reorderUs : Nat := 20
  commits   : Nat := 0
  cnt       : RouteCount := {}
  /-- The mailbox and session that issued ROUTE_BEGIN (R493). -/
  owner     : Option (Nat × Nat) := none
  fences    : List Fence := []
  contexts  : List Reorder := []
  kibitz    : List Kibitz := List.replicate 8 {}
  deriving DecidableEq, Repr, Inhabited

/-- One leg of a packet in the Pot: egress link, queue number of R337, the EID that a fence names, and how far
it has come. -/
structure PLeg where
  link    : Nat
  queue   : Nat
  eid     : Nat
  started : Bool := false
  /-- Flits sent: its cells are read and freed in chain order (R342, R353). -/
  sent    : Nat := 0
  done    : Bool := false
  /-- The ROUND_HDR word 0 that this leg of a staged result carries in place of the packet's (R169). -/
  hdr     : Option W64 := none
  deriving DecidableEq, Repr, Inhabited

/-- What a packet in the Pot is, for its cells' region (R349) and for who waits on it. -/
inductive PKind where
  | forwarded
  /-- Emitted by a round, held in staging (R354): table, round, chunk. -/
  | emitted (table round chunk : Nat)
  /-- A COMPLETE, CHUNK_NOTICE or ABORT of a round, or another packet that the GT64 itself forms. -/
  | own
  /-- An overflowing Pip packet (R235), from an ingress port. -/
  | pip (port : Nat)
  /-- A Kibitz copy of a packet (R401). -/
  | copy (orig : Nat)
  deriving DecidableEq, Repr, Inhabited

/-- A packet in the Pot (R333): its legs, its epoch stamp (R382), its cells admitted so far. -/
structure QPkt where
  num      : Nat
  pkt      : Packet
  cells    : Nat
  admitted : Nat := 0
  /-- Flits that have still to arrive (R343); of a Kibitz copy, those of its original. -/
  missing  : Nat := 0
  /-- The cell next to be admitted has waited (R368). -/
  waited   : Bool := false
  /-- The credit pool by which its flits arrived (R430). -/
  pool     : Nat := 0
  /-- Staged in the HBM parameter multicast cache in place of the Pot (R285). -/
  cached   : Bool := false
  epoch    : Nat
  ingress  : Option Nat
  tc       : Nat
  mcast    : Bool := false
  kind     : PKind := .forwarded
  legs     : List PLeg
  /-- Held by a reorder context (R380). -/
  held     : Bool := false
  /-- Kibitz sessions that selected it at ingress (R399, R400). -/
  kibitz   : List Nat := []
  /-- MATCH 1 sessions whose copy passed admission as it was enqueued, by session and link (R402). -/
  pass1    : List (Nat × Nat) := []
  deriving DecidableEq, Repr, Inhabited

/-- Egress scheduling of one link (R338, R344). -/
structure Egress where
  /-- Class and packet in progress, in the order they started. -/
  active    : List (Nat × Nat) := []
  deficit   : List Nat := List.replicate 6 0
  /-- Class visited, and whether its quantum was added on this visit. -/
  visit     : Nat := 0
  visited   : Bool := false
  groupLast : List Nat := List.replicate 8 7
  deriving DecidableEq, Repr, Inhabited

/-- PortClassConfig of one port and class (Table 11-3). -/
structure ClassCfg where
  quantum : Nat := 16
  alpha   : Int := 0
  qmin    : Nat := 32
  deriving DecidableEq, Repr, Inhabited

/-- The Pot (11): packets in arrival order, class settings of 64 ports by 8 classes, egress state per link. -/
structure Pot where
  pkts    : List QPkt := []
  nextNum : Nat := 1
  classes : List ClassCfg := List.replicate 512 {}
  egress  : List Egress := List.replicate 512 {}
  spilledChunks : Nat := 0
  admitWaits    : Nat := 0
  staleGrants   : Nat := 0
  deriving DecidableEq, Repr, Inhabited

/-- A request held by a square arbiter: its age in decisions and the slot in which it was posted. -/
structure SqHeld where
  req    : SqReq
  age    : Nat := 0
  posted : Nat
  deriving DecidableEq, Repr, Inhabited

/-- A square arbiter (R358 to R361). -/
structure Square where
  held     : List SqHeld := []
  lastCls  : Nat := 5
  /-- The decision formed for the next slot. -/
  formed   : List SqHeld := []
  /-- Grants of the slot just run. -/
  granted  : List SqHeld := []
  /-- Units that a locked sequence holds: unit, sequence (R363). -/
  locks    : List (Nat × Nat) := []
  prio     : List Nat := [7, 7, 6, 5, 3, 2]
  deriving DecidableEq, Repr, Inhabited

/-- All square arbiters; SquarePriority as written (INGRESS, EGRESS, LANE, STAGE, MU, DMA). -/
structure Squares where
  slot    : Nat := 0
  prio    : List Nat := [7, 7, 6, 5, 3, 2]
  squares : List Square := List.replicate 64 {}
  deriving DecidableEq, Repr, Inhabited

/-- A Pip packet in an issue queue (R233): its number, the links it still needs with the EID on each, and how long it
has waited. -/
structure PipPkt where
  num   : Nat
  words : List W64
  links : List (Nat × Nat)
  waited : Nat := 0
  epoch : Nat
  deriving DecidableEq, Repr, Inhabited

/-- The Ladder (R233, R234). -/
structure Ladder where
  queues : List (List PipPkt) := List.replicate 64 []
  ptrs   : List Nat := List.replicate 64 0
  deriving DecidableEq, Repr, Inhabited

/-- What the links have handed up and no command has taken yet: a flit, a bulk packet, or a bulk packet
addressed to the SELF EID. A packet carries the credit pool by which its flits arrived (R430), and from its lookup on its
epoch stamp (R382). -/
inductive Arrived where
  | flit (link tag : Nat) (words : List W64)
  | pkt (link pool : Nat) (p : Packet)
  | self (link pool epoch : Nat) (p : Packet)
  /-- An ORDER packet at its last GT64 (R377), with the Kibitz sessions that selected it. -/
  | order (link pool epoch : Nat) (p : Packet) (kibitz : List Nat)
  deriving DecidableEq, Repr, Inhabited

/-- One memory tier's counters and scrub position (Table 16-5, R520). -/
structure MemTier where
  corrected     : Nat := 0
  uncorrectable : Nat := 0
  persistent    : Nat := 0
  passes        : Nat := 0
  tLastPass     : Nat := 0
  scrubAt       : Nat := 0
  deriving DecidableEq, Repr, Inhabited

/-- A MemErrorLog record (Table 16-7). -/
structure MemLog where
  seq     : Nat
  time    : Nat
  tier    : Nat
  kind    : Nat
  region  : Nat
  byScrub : Bool
  bit     : Nat
  unit    : Nat
  table   : Option Nat
  address : Nat
  deriving DecidableEq, Repr, Inhabited

/-- What R519 has counted of a word since its value was written: a correction that was written back, a failure. -/
structure WordSeen where
  tier      : Nat
  address   : Nat
  corrected : Bool := false
  failed    : Bool := false
  deriving DecidableEq, Repr, Inhabited

/-- The memories' observable state (16): tiers, error log (newest first), ScrubControl, ErrorInject. -/
structure Mem where
  tiers     : List MemTier := List.replicate 4 {}
  log       : List MemLog := []
  logNext   : Nat := 1
  seen      : List WordSeen := []
  hbmPassH  : Nat := 4
  lpPassH   : Nat := 8
  potPassMs : Nat := 1000
  scrubOn   : Bool := true
  /-- ErrorInject W0 (Table 16-9). -/
  inject    : W64 := 0
  injected  : Nat := 0
  deriving DecidableEq, Repr, Inhabited

/-- The Scoresheet (17): records newest first, each of eight words. -/
structure Sheet where
  records    : List (List W64) := []
  newestSeq  : Nat := 0
  chain      : W64 := 0
  unreadable : Nat := 0
  tNewest    : Nat := 0
  deriving DecidableEq, Repr, Inhabited

/-- One source of HazardSpec (Table 10-6, R314). -/
structure HazardSrc where
  window : Nat := 0
  count  : Nat := 0
  fired  : Bool := false
  deriving DecidableEq, Repr, Inhabited

/-- HazardSpec as four words, and its sources SRC0 to SRC5. -/
structure Hazard where
  spec : List W64 := List.replicate 4 0
  src  : List HazardSrc := List.replicate 6 {}
  deriving DecidableEq, Repr, Inhabited

/-! ### Tables, boards and rounds (02 to 07) -/

/-- A member entry of a TableSpec (Table 7-2). -/
structure MemberEntry where
  member   : Nat
  eid      : Nat
  /-- 0 PARENT, 1 CHILD, 2 CROWN, 3 SELF. -/
  relation : Nat
  deriving DecidableEq, Repr, Inhabited

/-- A NarrowSpec (Table 4-1). -/
structure NSpec where
  boundary : Nat := 0
  enable   : Bool := false
  format   : Nat := 0
  rotate   : Bool := false
  feedback : Bool := false
  residCap : Nat := 0
  foldRank : Nat := 0
  escNum   : Nat := 0
  seedLo   : Nat := 0
  seedHi   : Nat := 0
  deriving DecidableEq, Repr, Inhabited

/-- A seat entry (Table 7-4). -/
structure SeatEntry where
  seat : Nat
  eid  : Nat
  leaf : Nat
  deriving DecidableEq, Repr, Inhabited

/-- A board (Tables 7-3 and 7-4) with its BOARD_DIGEST (R200). -/
structure Board where
  serial : Nat := 0
  params : Nat := 0
  ring   : List Nat := []
  nspecs : List NSpec := []
  seats  : List SeatEntry := []
  digest : Nat := 0
  deriving DecidableEq, Repr, Inhabited

/-- The fields of a ROUND_OPEN (Table 7-6). -/
structure RoundSpec where
  kind      : Nat := 0
  op        : Nat := 0
  bank      : Bool := false
  narrow    : Bool := false
  keeper    : Bool := false
  rslot     : Nat := 0
  resFmt    : Nat := 0
  inFmt     : Nat := 0
  root      : Nat := 0
  round     : Nat := 0
  paramBase : Nat := 0
  elems     : Nat := 1
  foldRows  : Nat := 0
  foldCols  : Nat := 0
  deriving DecidableEq, Repr, Inhabited

/-- A source of a round at this GT64 (R163): a seat, or a member; the ring predecessor is marked. -/
structure Src where
  isMember : Bool := false
  ring     : Bool := false
  id       : Nat := 0
  deriving DecidableEq, Repr, Inhabited

/-- What a source owes a chunk, what has arrived of it and what the lanes have accepted (R159, R163). -/
structure Owed where
  src   : Src
  due   : Nat
  got   : Nat := 0
  taken : Nat := 0
  deriving DecidableEq, Repr, Inhabited

/-- A chunk that has been opened (Table 6-5). -/
structure Chunk where
  index : Nat
  lo    : Nat
  hi    : Nat
  owed  : List Owed
  /-- 0 not open: contributions wait, 1 open, 2 complete and kept for a fold or a busy slot, 3 emitted. -/
  state : Nat := 1
  /-- Its accumulators lie in HBM (R355). -/
  hbm   : Bool := false
  /-- A of R355. -/
  cells : Nat := 0
  /-- b of R335. -/
  base  : Nat := 0
  clock : Nat := 0
  late  : Bool := false
  /-- Accumulators, by element from lo on. -/
  accs  : List (Option Nat) := []
  /-- Elements applied so far, by unit (R366). -/
  applied : List Nat := []
  deriving DecidableEq, Repr, Inhabited

/-- RoundNarrowCounters (Table 4-4). -/
structure NarrowCnt where
  boundary   : Nat := 0
  format     : Nat := 0
  feedback   : Bool := false
  rotate     : Bool := false
  folded     : Bool := false
  blocks     : Nat := 0
  zeroBlocks : Nat := 0
  escBlocks  : Nat := 0
  nfBlocks   : Nat := 0
  epsLow     : Nat := 0
  epsMid     : Nat := 0
  epsHigh    : Nat := 0
  foldZero   : Nat := 0
  residZero  : Nat := 0
  deriving DecidableEq, Repr, Inhabited

/-- Factors of a folded round received from a source: BF16 elements by number (R122). -/
structure FoldIn where
  src : Src
  got : List (Nat × Nat) := []
  deriving DecidableEq, Repr, Inhabited

/-- Per-turn values of the Keeper (Table 9-4), FP32 codes. -/
structure TurnVals where
  turn  : Nat := 0
  lr    : Nat := 0
  wd    : Nat := 0
  clip  : Nat := 0
  step  : Nat := 0
  b1pow : Nat := 0
  b2pow : Nat := 0
  a     : Nat := 0
  k     : Nat := 0
  alpha : Nat := 0
  bc2   : Nat := 0
  o1    : Nat := 0
  o2    : Nat := 0
  deriving DecidableEq, Repr, Inhabited

/-- A READY held for a round (Table 9-3). -/
structure ReadyHeld where
  pos  : Nat
  good : Bool
  part : Nat
  deriving DecidableEq, Repr, Inhabited

/-- A round at this GT64, open or kept as a record (R69 to R73, R161 to R191). -/
structure Round where
  spec     : RoundSpec
  board    : Board
  epoch    : Bool
  turn     : Nat
  phase    : Nat
  pip      : Bool
  chunkLen : Nat
  seqr     : Nat
  tOpen    : Nat
  /-- Start of the period of R184; none until the barrier after the round has released. -/
  accepted : Option Nat := none
  chunks   : List Chunk := []
  /-- Chunks sent on every destination (Table 6-5 step 5). -/
  sent     : List Nat := []
  /-- Result elements taken here, and those formed here, by rising offset. -/
  results  : List (Nat × Nat) := []
  formed   : List (Nat × Nat) := []
  folds    : List FoldIn := []
  /-- Operands of a Pip round, by source (R230). -/
  pipOps   : List (Src × List (Nat × Nat)) := []
  saturated : Nat := 0
  flushed   : Nat := 0
  escalated : Nat := 0
  nonfinite : Nat := 0
  elements  : Nat := 0
  narrowCnt : Option NarrowCnt := none
  spilled   : Nat := 0
  dropped   : Nat := 0
  done      : Bool := false
  status    : Nat := 0
  faultSrc  : Nat := 0
  faultMem  : Bool := false
  faultChunk : Nat := 0
  digest    : Nat := 0
  sliceDigest : Nat := 0
  /-- ELEM_LO and ELEM_HI of the record. -/
  elemLo    : Nat := 0
  elemHi    : Nat := 0
  tDone     : Nat := 0
  /-- KEEPER round: values of its turn, gradient or loaded value by offset, READY held, when READY went, committed,
  under clipping. -/
  tv        : TurnVals := {}
  kg        : List (Nat × Nat) := []
  ready     : List ReadyHeld := []
  readyAt   : Option Nat := none
  committed : Bool := false
  clipped   : Bool := false
  deriving DecidableEq, Repr, Inhabited

/-- A contribution part on its way to a lane (R341): elements in the accumulator's domain, and the cells of the
packet that it lies in. -/
structure Part where
  table : Nat
  round : Nat
  chunk : Nat
  src   : Src
  elems : List (Nat × Nat)
  unit  : Nat
  /-- Packet number for the credits of its cells; 0: none. -/
  num   : Nat := 0
  cellLo : Nat := 0
  cellHi : Nat := 0
  /-- Ingress port. -/
  port   : Nat := 0
  deriving DecidableEq, Repr, Inhabited

/-- A cell of a contribution packet whose flits hold their credits (R356). -/
structure HeldCell where
  num   : Nat
  cell  : Nat
  link  : Nat
  pool  : Nat
  flits : Nat
  deriving DecidableEq, Repr, Inhabited

/-- The feed plane (R341, R363 to R367): lane FIFOs and the parts that wait at ingress ports. -/
structure Feed where
  lanes   : List (List Part) := List.replicate 64 []
  waiting : List Part := []
  cells   : List HeldCell := []
  /-- The port that each lane took last. -/
  lastPort : List Nat := List.replicate 64 63
  next    : Nat := 1
  deriving DecidableEq, Repr, Inhabited

/-- Residuals of one slot and boundary under one board (R113 to R117, R123). -/
structure Resid where
  boardNum : Nat
  boundary : Nat
  rslot    : Nat
  extent   : Nat := 0
  /-- FP32 codes that are not +0, by offset. -/
  vals     : List (Nat × Nat) := []
  /-- Q_prev, FP32 codes; none after a reset. -/
  q        : Option (List Nat) := none
  deriving DecidableEq, Repr, Inhabited

/-- A RESID_CLEAR recorded (R115): it applies once no open round up to ROUND_ID `upTo` uses the slot. -/
structure RClear where
  boardNum : Nat
  rslot    : Nat
  mask     : Nat
  upTo     : Nat
  deriving DecidableEq, Repr, Inhabited

/-- Matrix work of a fold or an unfold (R121, R122): stage 0 P, 1 orthonormalise, 2 Q, 3 rebuild. -/
structure MuJob where
  round : Nat
  src   : Option Src
  stage : Nat
  /-- Array tasks of the stage still to run, by number (R140). -/
  todo  : List Nat := []
  /-- Tasks of the stage in all. -/
  tasks : Nat
  rank  : Nat
  mat   : List Nat := []
  p     : List Nat := []
  q     : List Nat := []
  qprev : List Nat := []
  /-- Chunks whose operand panels have still to come from HBM (R139). -/
  panels : List Nat := []
  /-- Pot staging cells of its panels and of P, Q and Â (R138, R349). -/
  staged : Nat := 0
  deriving DecidableEq, Repr, Inhabited

/-- A JOIN held (R249). -/
structure BarrierJoin where
  src    : Src
  turn   : Nat
  seq    : Nat
  digest : Nat
  board  : Nat
  deriving DecidableEq, Repr, Inhabited

/-- A barrier of a table (R247 to R261). -/
structure Barrier where
  joined   : Bool := false
  /-- A TURN_BEGIN has released. -/
  turned   : Bool := false
  joinedAt : Nat := 0
  turn     : Nat := 0
  seq      : Nat := 0
  lead     : Nat := 0
  /-- Own JOIN has been sent, or at ring position 0 the release decided. -/
  sent     : Bool := false
  releaseAt : Option Nat := none
  lastAt   : Nat := 0
  released : Option (Nat × Nat) := none
  /-- JOINs held: packet fields and source. -/
  joins    : List BarrierJoin := []
  stalled  : Option Src := none
  late     : Nat := 0
  maxLate  : Nat := 0
  unlocked : Nat := 0
  stray    : Nat := 0
  haltSrc  : Option Nat := none
  deriving DecidableEq, Repr, Inhabited

/-- A table's rule-set level (R570 to R572). -/
structure TabLevel where
  set    : Bool := false
  level  : Nat := 0
  tSet   : Nat := 0
  ownMax : Nat := 3
  ups    : List (Nat × Nat) := []
  sent   : Bool := false
  /-- BOARD_DIGEST and ring of the first board. -/
  digest : Nat := 0
  ring   : List Nat := []
  deriving DecidableEq, Repr, Inhabited

/-- TableIdle (Table 17-6): OPEN_NS, the eight causes in the order of Table 17-7, and the boundary from which
intervals count. -/
structure Idle where
  openNs : Nat := 0
  ns     : List Nat := List.replicate 8 0
  deriving DecidableEq, Repr, Inhabited

/-- TableStray (Table 17-8). -/
structure Stray where
  notOpen : Nat := 0
  ended   : Nat := 0
  offset  : Nat := 0
  deriving DecidableEq, Repr, Inhabited

/-! ### The Keeper, doubles, checkpoints and restore (09, 10) -/

/-- KeeperSpec (Table 9-2), with its bytes' CRC-64 (R297). -/
structure KSpec where
  rule    : Nat := 0
  nfSkip  : Bool := false
  weight  : Nat := 1
  partner : Nat := 0
  quota   : Nat := 0
  beta1   : Nat := 0
  beta2   : Nat := 0
  eps     : Nat := 0
  b1pow0  : Nat := 0
  b2pow0  : Nat := 0
  step0   : Nat := 0
  crc     : Nat := 0
  deriving DecidableEq, Repr, Inhabited

/-- Keeper state of one parameter (Table 9-1). -/
structure KParam where
  param : Nat
  w     : Nat := 0
  m     : Nat := 0
  v     : Nat := 0
  copy  : Nat := 0
  /-- Turn of its last update. -/
  turn  : Nat := 0
  damaged : Bool := false
  deriving DecidableEq, Repr, Inhabited

/-- A range of parameters and the member that is its home (R268). -/
structure KRange where
  start  : Nat
  count  : Nat
  member : Nat
  deriving DecidableEq, Repr, Inhabited

/-- A range on the move between members (R218, R268). -/
structure KMove where
  start : Nat
  count : Nat
  src   : Nat
  dst   : Nat
  deriving DecidableEq, Repr, Inhabited

/-- A clip group (R274). -/
structure ClipGroup where
  rounds : List Nat
  closed : Bool := false
  clip   : Nat
  deriving DecidableEq, Repr, Inhabited

/-- A committed round whose updates are to run (R290): c, and the chunks already done. -/
structure KWork where
  round : Nat
  c     : Nat
  done  : List Nat := []
  /-- Values forwarded so far. -/
  fed   : Nat := 0
  /-- The moves of ranges that it needs have begun (R268). -/
  moved : Bool := false
  deriving DecidableEq, Repr, Inhabited

/-- A turn as the primary feeds it (R286, R301, R302). -/
structure KTurn where
  vals    : TurnVals
  fed     : Nat := 0
  /-- State digests of the committed rounds. -/
  digests : List (Nat × Nat) := []
  due     : Bool := false
  sent    : Bool := false
  verdict : Bool := false
  dPrim   : Nat := 0
  /-- Serial, BOARD_DIGEST and KEEPER_PARAMS of the board current at the end of the turn. -/
  board   : Nat × Nat × Nat := (0, 0, 0)
  deriving DecidableEq, Repr, Inhabited

/-- A DoubleFeed record that waits in the feed queue (R303). -/
structure FeedRec where
  turn  : Nat
  bytes : List Byte
  deriving DecidableEq, Repr, Inhabited

/-- Records of one turn as a partner logs them, or a primary receives them for a tiebreak (R303, R306). -/
structure GradLog where
  turn    : Nat
  /-- The primary's member index, as its records carry it. -/
  member  : Nat := 0
  vals    : Option TurnVals := none
  /-- Round, parameter, FP32 of a LOAD or BF16 of a GRAD, whether a LOAD. -/
  grads   : List (Nat × Nat × Nat × Bool) := []
  /-- Round, CLIP_C, N_ELEMS. -/
  commits : List (Nat × Nat × Nat) := []
  /-- FED of the record with DONE 1. -/
  fed     : Option Nat := none
  applied : List Nat := []
  /-- The destination's VALID and OPENING have been cleared (R300 step 1). -/
  started : Bool := false
  /-- The records as they arrived, for a tiebreak (R306). -/
  records : List (List Byte) := []
  deriving DecidableEq, Repr, Inhabited

/-- A tiebreak replay at the primary (R306): the source state that has arrived, and the records. -/
structure Tie where
  turn  : Nat
  dDbl  : Nat
  state : List KParam := []
  log   : GradLog
  deriving DecidableEq, Repr, Inhabited

/-- The primary end of a double, and DoubleStatus there (R331). -/
structure PrimEnd where
  /-- 0 ATTACHED, 1 REBUILDING, 2 LOST, 3 STOPPED. -/
  state       : Nat := 0
  lastVerdict : Nat := 0
  verified    : Nat := 0
  tiebreaks   : Nat := 0
  repairs     : Nat := 0
  committed   : Nat := 0
  abandoned   : Nat := 0
  hazards     : Nat := 0
  /-- Turn of the last VERDICT received. -/
  lastTurn    : Option Nat := none
  feed        : List FeedRec := []
  /-- The TURN_BEGIN waits for a VERDICT since (R304). -/
  waitSince   : Option Nat := none
  tie         : Option Tie := none
  /-- New partner named by DOUBLE_MOVE, until the rebuild begins (R312). -/
  moveTo      : Option Nat := none
  /-- A full rebuild is due at the next release (R527), or runs: true with the phases of R312. -/
  rebuildDue  : Bool := false
  rebuild     : Option Bool := none
  oldPartner  : Option Nat := none
  deriving DecidableEq, Repr, Inhabited

/-- A checkpoint at a crown member (R318 to R321). -/
structure Ckpt where
  turn     : Nat
  target   : Nat
  hazard   : Bool
  /-- Own verdict of the turn arrived at; none: not yet. -/
  since    : Option Nat := none
  /-- Values of the turn, and serial, digest and KEEPER_PARAMS of the board at its end. -/
  vals     : TurnVals := {}
  board    : Nat × Nat × Nat := (0, 0, 0)
  /-- Ring position, report CRC, IMAGE_BYTES. -/
  shards   : List (Nat × Nat × Nat) := []
  reports  : List (Nat × List Byte) := []
  /-- 0 collecting, 1 reading reports, 2 reading the slots, 3 removing the record, 4 manifest put, 5 manifest durable,
  6 commit put, 7 commit durable. -/
  stage    : Nat := 0
  /-- Commit records and manifests of slots A and B as read, none of no bytes. -/
  recs     : List (Nat × List Byte) := []
  mans     : List (Nat × List Byte) := []
  slot     : Nat := 0
  manifest : List Byte := []
  deriving DecidableEq, Repr, Inhabited

/-- A restore candidate (R326): source 0 to 15 a target, 16 the doubles. -/
structure Cand where
  turn   : Nat
  source : Nat
  slot   : Nat
  manifest : List Byte := []
  deriving DecidableEq, Repr, Inhabited

/-- A double source as reported by DOUBLE_HELD (R325). -/
structure HeldRep where
  pos   : Nat
  eid   : Nat
  slots : List (Nat × Nat)
  deriving DecidableEq, Repr, Inhabited

/-- A load attempt at a member (R327). -/
structure Load where
  num    : Nat
  turn   : Nat
  source : Nat
  slot   : Nat
  start  : Nat
  count  : Nat
  since  : Nat
  got    : List KParam := []
  /-- Storage: the manifest, index objects and bytes read. -/
  manifest : List Byte := []
  index  : List (Nat × List Byte) := []
  chunks : List (Nat × Nat × List Byte) := []
  told   : Bool := false
  deriving DecidableEq, Repr, Inhabited

/-- A restore at a crown member (R325 to R328); mailbox 64: reports or a candidate have come before RESTORE. -/
structure Restore where
  mailbox : Nat := 64
  mask    : Nat := 0
  maxTurn : Nat := 0
  since   : Nat := 0
  reps    : List HeldRep := []
  ends    : List Nat := []
  /-- Records and manifests read from the targets: target, slot, bytes. -/
  recs    : List (Nat × Nat × List Byte) := []
  mans    : List (Nat × Nat × List Byte) := []
  reads   : Nat := 0
  formed  : Bool := false
  cands   : List Cand := []
  cur     : Option Cand := none
  num     : Nat := 0
  sentAt  : Nat := 0
  loaded  : List (Nat × Bool) := []
  load    : Option Load := none
  /-- LOAD_REQs passed on: sender and turn. -/
  reqs    : List (Nat × Nat) := []
  deriving DecidableEq, Repr, Inhabited

/-- The Keeper of a table at this GT64 (09). -/
structure Keeper where
  spec    : KSpec
  step    : Nat
  b1pow   : Nat
  b2pow   : Nat
  /-- Values of the last KEEPER_TURN. -/
  vals    : TurnVals := {}
  params  : List KParam := []
  homes   : List KRange := []
  moves   : List KMove := []
  groups  : List ClipGroup := []
  work    : List KWork := []
  turns   : List KTurn := []
  updated : Nat := 0
  nfSkipped : Nat := 0
  nfStored  : Nat := 0
  lastC   : Nat := 0
  lastN2  : Nat := 0
  comFailed : Nat := 0
  clipGroups : Nat := 0
  clippedGroups : Nat := 0
  fed     : Nat := 0
  dbl     : PrimEnd := {}
  /-- CHECKPOINT of the turn that runs: target (R214). -/
  ckptReq : List Ckpt := []
  ckpt    : Option Ckpt := none
  /-- Hazard checkpoints: last turn taken, when the last began. -/
  hazTurn : Option Nat := none
  hazAt   : Option Nat := none
  /-- READYs of rounds that are not open here yet: round, and what they say (R271). -/
  early   : List (Nat × ReadyHeld) := []
  /-- Turn of the last SLOT_RELEASE passed on. -/
  relSeen : Option Nat := none
  restore : Option Restore := none
  /-- A restore has succeeded, or the table was not opened in phase RESTORE (R329). -/
  restored : Bool := false
  deriving DecidableEq, Repr, Inhabited

/-- A table (07). -/
structure Table where
  id       : Nat
  moveFmt  : Nat
  muWeight : Nat
  phase    : Nat
  tier     : Nat
  level    : Nat
  keeperEn : Bool
  member   : Nat
  deadline : Nat
  absence  : Nat
  formats  : Nat
  entries  : List MemberEntry
  openedAt : Nat
  board    : Board
  epoch    : Bool := false
  /-- Boards made current so far, to tell reservations apart. -/
  boardNum : Nat := 0
  /-- The other slot: its board, its number, and whether it drains. -/
  other    : Option (Board × Nat × Bool) := none
  /-- Moves appended and not yet executed. -/
  moves    : List (List W64) := []
  appended : Nat := 0
  executed : Nat := 0
  /-- Highest ROUND_ID opened so far. -/
  lastOpened : Option Nat := none
  /-- State of the append checks (R205). -/
  lastRound : Option Nat := none
  lastTurn : Option Nat := none
  seenKt   : Bool := false
  seenCk   : Bool := false
  lastOp   : Nat := 0
  /-- Turn of the last TURN_BEGIN executed. -/
  turn     : Nat := 0
  /-- BARRIER moves executed since that TURN_BEGIN. -/
  barrierSeq : Nat := 0
  /-- CRC register of the window of R210. -/
  window   : W64 := 0
  halt     : Nat := 0
  closing  : Bool := false
  /-- A move waits (R207), and whether it starves or waits for a round's place. -/
  waiting  : Bool := false
  poolWait : Bool := false
  starved  : Nat := 0
  /-- A BOARD_SWITCH executed since the last TURN_BEGIN (R218), and the ring and KEEPER_PARAMS of the board before it. -/
  switched : Bool := false
  oldRing  : List Nat := []
  oldParams : Nat := 0
  phaseDue : Option Nat := none
  /-- Turn and code of the last PHASE taken (R312). -/
  phaseSeen : Option (Nat × Nat) := none
  bar      : Barrier := {}
  lvl      : TabLevel := {}
  rounds   : List Round := []
  resid    : List Resid := []
  clears   : List RClear := []
  jobs     : List MuJob := []
  muTasks  : Nat := 0
  muQuanta : Nat := 0
  rotBlocks : Nat := 0
  idle     : Idle := {}
  stray    : Stray := {}
  keeper   : Option Keeper := none
  deriving DecidableEq, Repr, Inhabited

/-- A TABLE_OPEN that waits for ACCEPT (R297). -/
structure Opening where
  mailbox : Nat
  table   : Table
  since   : Nat
  deriving DecidableEq, Repr, Inhabited

/-- A pool of units served by weighted round robin (R141 to R143, R290): per unit the table and what is left of its
quantum, the table last served, the quanta it may still take, and the tables open when the cycle began. -/
structure Serve where
  units : List (Option (Nat × Nat))
  last  : Nat := 1023
  share : Nat := 0
  members : List Nat := []
  deriving DecidableEq, Repr, Inhabited

/-- Norm pipe work: the table and round of the fold, and when it became ready (R144). -/
structure NormWork where
  table : Nat
  round : Nat
  ready : Nat
  deriving DecidableEq, Repr, Inhabited

/-- Buffers of a matrix unit (Table 5-1): the fold whose operands each operand buffer holds, and whose output the output
buffer holds, as table and round. -/
structure MatBufs where
  operands : List (Option (Nat × Nat)) := [none, none]
  output   : Option (Nat × Nat) := none
  deriving DecidableEq, Repr, Inhabited

/-- A slot of a double (R299). -/
structure DSlot where
  tag     : Nat := 0
  opening : Bool := false
  valid   : Bool := false
  held    : Bool := false
  step    : Nat := 0
  b1pow   : Nat := 0
  b2pow   : Nat := 0
  params  : List KParam := []
  deriving DecidableEq, Repr, Inhabited

/-- The write-out of a shard at a partner (R319, Table 10-8). -/
structure ShardOut where
  turn    : Nat
  target  : Nat
  slot    : Nat
  since   : Nat
  image   : List Byte := []
  ranges  : List (Nat × Nat) := []
  member  : Nat := 0
  ringPos : Nat := 0
  /-- Chunk under way; the index object follows the last, then the report. -/
  next    : Nat := 0
  /-- 0 asking for the chunk, 1 put, 2 read back, 3 index put, 4 index durable, 5 report put, 6 done, 7 failed. -/
  stage   : Nat := 0
  index   : List Byte := []
  report  : List Byte := []
  deriving DecidableEq, Repr, Inhabited

/-- A double held for a primary (10). -/
structure Double where
  primary  : Nat
  table    : Nat
  spec     : KSpec
  /-- 0 ATTACHED, 1 REBUILDING, 2 LOST, 3 STOPPED, 4 DETACHED. -/
  state    : Nat := 0
  /-- Order of detaching; 0 while attached. -/
  order    : Nat := 0
  /-- QUOTA of the reservation that it holds (R296). -/
  room     : Nat := 0
  /-- Opened with REUSE_EID and no turn replayed since (R325). -/
  reused   : Bool := false
  /-- What a restore loaded for the primary has been adopted since (R328). -/
  adopted  : Bool := false
  /-- The primary's member index, as its records carry it. -/
  member   : Nat := 0
  slots    : List DSlot := List.replicate 2 {}
  log      : Option GradLog := none
  /-- Turn fully replayed, its D_dbl and the primary's D_prim. -/
  dDbl     : Option (Nat × Nat) := none
  dPrim    : Option (Nat × Nat) := none
  /-- A tiebreak runs: the primary's D_rep and the partner's. -/
  tie      : Bool := false
  repPrim  : Option Nat := none
  repOwn   : Option Nat := none
  lastVerdict : Nat := 0
  verified  : Nat := 0
  tiebreaks : Nat := 0
  repairs   : Nat := 0
  copied    : Nat := 0
  abandoned : Nat := 0
  dedup     : Nat := 0
  hazards   : Nat := 0
  /-- Checkpoints that wait: turn, target and the time of the turn's verdict. -/
  ckptReq  : List (Nat × Nat × Nat × List KParam) := []
  out      : Option ShardOut := none
  /-- Parameters whose slot words failed (R310). -/
  marks    : List Nat := []
  /-- State that a restore loads, until RESTORE_GO (R327, R328). -/
  staged   : List KParam := []
  /-- A record was lost in Pawn mode (R564). -/
  lost     : Bool := false
  /-- Records of a later turn that came while the log was in use. -/
  early    : List (List Byte) := []
  /-- REBUILD packets that wait for the slot of their turn to be VALID (R309). -/
  lateSync : List (List Byte) := []
  deriving DecidableEq, Repr, Inhabited

/-- CheckpointTarget (Table 10-7). -/
structure Target where
  w0 : W64 := 0
  w1 : W64 := 0
  w2 : W64 := 0
  w3 : W64 := 0
  deriving DecidableEq, Repr, Inhabited

/-- Who waits on a storage operation. -/
inductive StoreFor where
  /-- A shard write-out: primary and table of the double; chunk probe, put, read-back, index object, report. -/
  | shard (primary table : Nat)
  /-- A checkpoint at ring position 0: table and what: a report of a ring position, a slot's record or manifest. -/
  | report (table pos : Nat)
  | slotRec (table slot : Nat)
  | slotMan (table slot : Nat)
  | removeRec (table : Nat)
  | putManifest (table : Nat)
  | putCommit (table : Nat)
  /-- A restore: table, target, slot. -/
  | candRec (table target slot : Nat)
  | candMan (table target slot : Nat)
  | loadMan (table : Nat)
  | loadIndex (table shard : Nat)
  | loadChunk (table shard chunk : Nat)
  deriving DecidableEq, Repr, Inhabited

/-- An outstanding storage operation (R465 to R469). -/
structure StoreOp where
  reqId   : Nat
  target  : Nat
  oper    : Nat
  named   : Bool
  key     : List Byte
  data    : List Byte := []
  port    : Option Nat
  /-- Its first datagram has gone, at `since`; before that, when it began. -/
  sent    : Bool := false
  since   : Nat
  last    : Nat
  /-- DATA received: TOTAL once known, bytes. -/
  got     : Option (List (Option Byte)) := none
  who     : StoreFor
  deriving DecidableEq, Repr, Inhabited

/-- The storage engine (R466, R469). -/
structure Store where
  ops    : List StoreOp := []
  lastPort : Nat := 7
  deriving DecidableEq, Repr, Inhabited

/-- A JOIN, LEVEL_UP or LEVEL_SET held for a table not yet open here (R572, R649). -/
structure HeldMsg where
  isJoin : Bool
  table  : Nat
  link   : Nat
  since  : Nat
  bytes  : List Byte
  words  : List W64
  deriving DecidableEq, Repr, Inhabited

/-- The GT64. -/
structure State where
  /-- Commands that wait, first in first out. -/
  pending : List Instr := []
  /-- What the device has sent out, oldest first. -/
  out     : List Emission := []
  /-- Free values taken so far. -/
  free    : Nat := 0
  pins    : Pins := {}
  boot    : Boot := {}
  power   : Power := {}
  alert   : Alert := {}
  wd      : Watchdog := {}
  time    : Time := {}
  ident   : Ident := {}
  /-- SPI flash: the bytes that are not 0xFF, addresses rising (R584). -/
  flash   : List Host.Cell := []
  mbox    : List Mailbox := List.replicate 64 {}
  gci     : Gci := {}
  host    : List HostPort := List.replicate 8 {}
  telem   : Telemetry := {}
  ports   : List Port := List.replicate 64 {}
  links   : List Link := List.replicate 512 {}
  route   : Route := {}
  pot     : Pot := {}
  sq      : Squares := {}
  ladder  : Ladder := {}
  inbox   : List Arrived := []
  pawn    : Pawn := {}
  mem     : Mem := {}
  sheet   : Sheet := {}
  hazard  : Hazard := {}
  /-- Open tables, by rising TABLE_ID. -/
  tables  : List Table := []
  opening : List Opening := []
  feed    : Feed := {}
  mu      : Serve := { units := List.replicate 2 none }
  mats    : List MatBufs := List.replicate 2 {}
  /-- Norm pipe work that waits, and the work that each unit's norm pipe holds (R144). -/
  norm    : List NormWork := []
  pipes   : List (Option NormWork) := List.replicate 2 none
  /-- DMA transfers under way: channel, table, round, chunk. -/
  dma     : List (Nat × Nat × Nat × Nat) := []
  kunits  : Serve := { units := List.replicate 8 none }
  doubles : List Double := []
  detachNum : Nat := 1
  targets : List Target := List.replicate 16 {}
  store   : Store := {}
  held    : List HeldMsg := []
  /-- TableStray instance 1,024. -/
  strayAll : Stray := {}
  deriving DecidableEq, Repr, Inhabited

/-- The machine right after reset: just powered, PWR_GOOD deasserted and RESET_N asserted. -/
def State.reset : State := {}

end Sys2Proof.Machine
end

