-- ==== Sys2Proof/Machine/Formats.lean ====
section
/-! DEFINITION. The formats of rounds: format codes and pairs (02), the bank word and its wire form (03), MX and Z
blocks with scaling, escalation and rotation, and the arithmetic of folding (04, 05). -/

namespace Sys2Proof.Machine
open Sys2Proof

/-! ### Format codes -/

/-- The floating-point element formats of Table 2-1. -/
def floatOf (code : Nat) : Option FloatFmt :=
  if code = 0 then some fp32 else if code = 1 then some bf16 else if code = 2 then some fp16
  else if code = 3 then some e4m3 else if code = 4 then some e5m2 else if code = 5 then some fp64 else none

/-- Width and sign of the integer formats. -/
def intOf (code : Nat) : Option (Nat × Bool) :=
  if code = 8 then some (32, true) else if code = 9 then some (32, false)
  else if code = 10 then some (64, true) else if code = 11 then some (64, false) else none

/-- Bytes of an element of an element format; 0 for other codes. -/
def elemBytes (code : Nat) : Nat :=
  match floatOf code with
  | some f => f.width / 8
  | none => match intOf code with
    | some (w, _) => w / 8
    | none => 0

/-- R40 with R39: the pairs of Table 2-3. -/
def pairOk (inF resF : Nat) (bank : Bool) : Bool :=
  if inF ≤ 4 then resF ≤ 4
  else if inF = 5 then (resF = 5 || resF = 0) && !bank
  else (intOf inF).isSome && resF = inF

/-- Table 6-2. -/
def opOk (op fmt : Nat) : Bool :=
  if (floatOf fmt).isSome then op ≤ 3
  else (intOf fmt).isSome && (op = 0 || (2 ≤ op && op ≤ 6))

/-- Two's complement reading of w bits. -/
def toSigned (w v : Nat) : Int := if v < 2 ^ (w - 1) then v else (v : Int) - 2 ^ w

/-- Integer arithmetic of R151. -/
def intOp (op w : Nat) (sgn : Bool) (a b : Nat) : Nat :=
  let lt : Bool := if sgn then toSigned w a < toSigned w b else a < b
  if op = 0 then (a + b) % 2 ^ w
  else if op = 2 then (if lt then a else b)
  else if op = 3 then (if lt then b else a)
  else if op = 4 then a &&& b
  else if op = 5 then a ||| b
  else a ^^^ b

/-- Floating-point MIN and MAX in the input format (R67, R152). -/
def minMaxF (op : Nat) (f : FloatFmt) (a b : Nat) : Nat :=
  match ltV (decodeF f a) (decodeF f b) with
  | none => f.nanBits
  | some lt => if op = 2 then (if lt then a else b) else if lt then b else a

/-- A code with its zero as +0 and its NaN canonical (R61, R62). -/
def canonF (f : FloatFmt) (a : Nat) : Nat :=
  match decodeF f a with
  | .nan => f.nanBits
  | .num m _ => if m = 0 then 0 else a
  | .inf _ => a

/-- An element with R61 and R62 applied where its format is floating-point. -/
def canonElem (code a : Nat) : Nat :=
  match floatOf code with
  | some f => canonF f a
  | none => a

/-! ### The bank word (R76 to R84) -/

/-- The NaN bank word (R65). -/
def bankNan : Nat := 2 ^ 319

/-- A value exactly in a bank word (R53, R64, R77). -/
def bankOf : FVal → Nat
  | .num m e =>
    let s := e + 160
    let mag := if 0 ≤ s then m.natAbs * 2 ^ s.toNat else m.natAbs / 2 ^ (-s).toNat
    if m < 0 then (2 ^ 320 - mag) % 2 ^ 320 else mag % 2 ^ 320
  | _ => bankNan

def bankInt (b : Nat) : Int := toSigned 320 b

/-- Addition of bank words: NaN stays NaN, and a sum outside the finite range becomes it (R64, R77). -/
def bankAdd (a b : Nat) : Nat :=
  if a = bankNan || b = bankNan then bankNan
  else
    let s := bankInt a + bankInt b
    if -(2 ^ 319 : Int) < s && s < 2 ^ 319 then (s % 2 ^ 320).toNat else bankNan

def limb (b k : Nat) : Nat := b / 2 ^ (64 * k) % 2 ^ 64

/-- The bank word that START, and limbs from there on, spell (R81). -/
def fromLimbs (start : Nat) (ls : List Nat) : Nat :=
  let n := start + ls.length
  let lowPart := (List.range ls.length).foldl (fun a i => a + ls.getD i 0 * 2 ^ (64 * (start + i))) 0
  let top := ls.getD (ls.length - 1) 0
  lowPart + if 2 ^ 63 ≤ top then 2 ^ 320 - 2 ^ (64 * n) else 0

/-- START and the limbs of the shortest form (R82). -/
def shortest (b : Nat) : Nat × List Nat :=
  let start := ((List.range 5).find? fun k => limb b k ≠ 0).getD 0
  let cand := fun n => (List.range n).map fun i => limb b (start + i)
  let n := ((List.range 5).find? fun i => i + 1 + start ≤ 5 && fromLimbs start (cand (i + 1)) = b).getD 4 + 1
  (start, cand n)

/-- The wire form of a bank word (R79, R80). -/
def bankRecord (b : Nat) : List Byte :=
  let (st, ls) := shortest b
  BitVec.ofNat 8 (8 * ls.length + st) :: ls.flatMap (leBytes 8)

/-- Read one record; none when it is malformed or cut short (R81, R83). -/
def readRecord : List Byte → Option (Nat × List Byte)
  | [] => none
  | h :: bs =>
    let count := h.toNat / 8
    let start := h.toNat % 8
    if count = 0 || 5 < count || 4 < start || 5 < start + count || bs.length < 8 * count then none
    else some (fromLimbs start ((List.range count).map fun i => leAt bs (8 * i) 8), bs.drop (8 * count))

/-- S / N rounded once to a format (R55, R88). -/
def bankRound (f : FloatFmt) (b n : Nat) : Rounded :=
  if b = bankNan then ⟨f.nanBits, false, false⟩
  else convRat f (bankInt b < 0) (bankInt b).natAbs n (-160)

/-! ### Packing -/

/-- Codes of w bits packed as one little-endian bit string (R41, R47). -/
def packBits (w : Nat) (cs : List Nat) : List Byte :=
  leBytes (w * cs.length / 8) ((List.range cs.length).foldl (fun a i => a + cs.getD i 0 % 2 ^ w * 2 ^ (w * i)) 0)

def unpackBits (w n : Nat) (bs : List Byte) : List Nat :=
  let v := leNat bs
  (List.range n).map fun i => v / 2 ^ (w * i) % 2 ^ w

/-- The n / 2^k of a dyadic scale: m × 2^e. -/
def scaleV (v : FVal) (e : Int) : FVal := match v with
  | .num m x => .num m (x + e)
  | v => v

/-! ### MX blocks (R41 to R44, R111) -/

/-- Element format and E_max of an MX code. -/
def mxOf (code : Nat) : Option (FloatFmt × Int) :=
  if code = 0x10 then some (e4m3, 8) else if code = 0x11 then some (e5m2, 15)
  else if code = 0x12 then some (e2m3, 2) else if code = 0x13 then some (e3m2, 4)
  else if code = 0x14 then some (e2m1, 2) else none

/-- Decode an MX block at the start of bytes: its 32 values and the rest. -/
def readMx (f : FloatFmt) (bs : List Byte) : Option (List FVal × List Byte) :=
  let n := 4 * f.width
  if bs.length < 1 + n then none else
  let x := leAt bs 0 1
  let cs := unpackBits f.width 32 (slice bs 1 n)
  some (cs.map fun c => if x = 255 then .nan else scaleV (decodeF f c) ((x : Int) - 127), bs.drop (1 + n))

/-! ### Rotation (R107 to R109) -/

/-- mix of R109. -/
def mix (key word : W64) : W64 :=
  let z := key ^^^ (word * 0x9E3779B97F4A7C15#64)
  let z := (z ^^^ (z >>> 30)) * 0xBF58476D1CE4E5B9#64
  let z := (z ^^^ (z >>> 27)) * 0x94D049BB133111EB#64
  z ^^^ (z >>> 31)

/-- K_turn (R109). -/
def kTurn (ns : NSpec) (turn : Nat) : W64 :=
  BitVec.ofNat 64 (leAt (sm3 (leBytes 8 ns.seedLo ++ leBytes 8 ns.seedHi ++ leBytes 8 turn)) 0 8)

/-- Sign mask of block k of a round. -/
def signMask (key : W64) (round k : Nat) : Nat := (mix key (BitVec.ofNat 64 (round * 2 ^ 32 + k))).toNat % 2 ^ 32

/-- One butterfly stage on positions i and i + 2^k. -/
def butterfly (k : Nat) (v : List Nat) : List Nat :=
  (List.range 32).map fun i =>
    let a := v.getD (if i.testBit k then i - 2 ^ k else i) 0
    let b := v.getD (if i.testBit k then i else i + 2 ^ k) 0
    if i.testBit k then fsub fp32 a b else fadd fp32 a b

/-- y = H(s∘v) / 32 in FP32 (R107). -/
def rotate (mask : Nat) (v : List Nat) : List Nat :=
  let sv := (List.range 32).map fun i => if mask.testBit i then fneg fp32 (v.getD i 0) else v.getD i 0
  let y := (List.range 5).foldl (fun a k => butterfly k a) sv
  y.map fun a => arithF fp32 (scaleV (decodeF fp32 a) (-5))

/-- Whether H[i][j] is -1. -/
def hadNeg (i j : Nat) : Bool := ((List.range 5).filter fun b => i.testBit b && j.testBit b).length % 2 = 1

/-- The exact inverse rotation (R108). -/
def unrotate (mask : Nat) (y : List FVal) : List FVal :=
  (List.range 32).map fun i =>
    let s := (List.range 32).foldl (fun a j => addV a (if hadNeg i j then negV (y.getD j (.num 0 0)) else y.getD j (.num 0 0))) (.num 0 0)
    if mask.testBit i then negV s else s

/-! ### Z blocks (R45 to R51, R110) -/

/-- Code width of a Z format. -/
def zWidth (code : Nat) : Option Nat :=
  if code = 0x18 then some 4 else if code = 0x19 then some 3 else if code = 0x1A then some 2 else none

/-- Value of a code: (c + 0.5) × d with d = (16 + M) × 2^(E - 131). -/
def zValue (w E M c : Nat) : FVal := .num ((2 * toSigned w c + 1) * (16 + M)) ((E : Int) - 132)

/-- Decode a Z block at the start of bytes: values before any inverse rotation, ROT, and the rest; none when it is
malformed or cut short (R46 to R50). -/
def readZ (w : Nat) (bs : List Byte) : Option (List FVal × Bool × List Byte) :=
  if bs.length < 2 then none else
  let h := leAt bs 0 2
  let esc := h.testBit 15
  let zero := h.testBit 14
  let rot := h.testBit 13
  let nf := h.testBit 12
  let E := h / 16 % 256
  let M := h % 16
  if zero then (if h = 0x4000 then some (List.replicate 32 (.num 0 0), false, bs.drop 2) else none)
  else if (nf && !esc) || E = 0 || E = 255 || (rot && nf) then none
  else
    let cw := if esc then 8 else w
    let off := if nf then 6 else 2
    if bs.length < off + 4 * cw then none else
    let mask := if nf then leAt bs 2 4 else 0
    let cs := unpackBits cw 32 (slice bs off (4 * cw))
    some ((List.range 32).map fun i => if mask.testBit i then .nan else zValue cw E M (cs.getD i 0), rot, bs.drop (off + 4 * cw))

/-- A finite value times 2^400, exactly, as an integer. -/
def toFix : FVal → Int
  | .num m e => if 0 ≤ e + 400 then m * 2 ^ (e + 400).toNat else m / 2 ^ (-(e + 400)).toNat
  | _ => 0

/-- SCALE_E and SCALE_M: the smallest step with d × L at or above the largest magnitude (R110), both scaled by
2^400. -/
def zScale (w : Nat) (mx : Int) : Nat × Nat :=
  let i := ((List.range 4064).find? fun i =>
    mx ≤ toFix (.num ((16 + i % 16 : Nat) * (2 ^ w - 1)) ((i / 16 + 1 : Nat) - 132))).getD 4063
  (i / 16 + 1, i % 16)

/-- The integer nearest to n / d, ties to even, for d > 0. -/
def rneInt (n : Int) (d : Nat) : Int :=
  let q := n / d
  let r := (n - q * d).toNat
  if 2 * r < d then q else if d < 2 * r then q + 1 else if q % 2 = 0 then q else q + 1

/-- Code of a value under a step (R110), clamped to its range (R56). -/
def zCode (w E M : Nat) (y : FVal) : Nat :=
  let d := (toFix (.num (16 + M) ((E : Int) - 131))).toNat
  let c := rneInt (2 * toFix y - d) (2 * d)
  let c := max (-(2 ^ (w - 1) : Int)) (min (2 ^ (w - 1) - 1) c)
  (c % 2 ^ w).toNat

/-- Largest magnitude of finite values, scaled. -/
def maxFix (ys : List FVal) : Int := ys.foldl (fun a y => max a ((toFix y).natAbs : Int)) 0

/-- What encoding one block gives: its bytes, the new residuals, and what it counts. -/
structure BlockOut where
  bytes     : List Byte
  resid     : List Nat
  zero      : Bool := false
  esc       : Bool := false
  nf        : Bool := false
  rotated   : Bool := false
  escalated : Nat := 0
  flushed   : Nat := 0
  saturated : Nat := 0
  /-- 0 EPS_LOW, 1 EPS_MID, 2 EPS_HIGH. -/
  eps       : Option Nat := none
  residZero : Bool := false

/-- Bin of a block by its error (R128), over its non-pad positions. -/
def epsBin (n : Nat) (y yh : List FVal) : Nat :=
  let err := (List.range n).foldl (fun (a : Int) i => let e := toFix (y.getD i .nan) - toFix (yh.getD i .nan); a + e * e) 0
  let sum := (List.range n).foldl (fun (a : Int) i => let e := toFix (y.getD i .nan); a + e * e) 0
  if sum = 0 then (if err = 0 then 0 else 2)
  else if err * 4096 ≤ sum then 0 else if err * 256 ≤ sum then 1 else 2

/-- R112: the block's error passes the bound. -/
def escTest (escNum n : Nat) (y yh : List FVal) : Bool :=
  let err := (List.range n).foldl (fun (a : Int) i => let e := toFix (y.getD i .nan) - toFix (yh.getD i .nan); a + e * e) 0
  let sum := (List.range n).foldl (fun (a : Int) i => let e := toFix (y.getD i .nan); a + e * e) 0
  (escNum : Int) * sum < err * 65536

/-- v - x̂ in FP32 (R113). -/
def residOf (v : List Nat) (xh : List FVal) : List Nat :=
  List.zipWith (fun a x => arithF fp32 (addV (decodeF fp32 a) (negV x))) v xh

/-- A non-finite block, or a block sent as one (R49, R105, R652). Its step is taken over the finite values alone (DESIGN
CHOICE, log 80), and its zeroed residuals count in RESID_ZEROED under R652 as under R105 (DESIGN CHOICE, log 81). -/
def nfBlock (v : List FVal) (n : Nat) : BlockOut :=
  let fin := v.filter FVal.isFinite
  let (E, M) := zScale 8 (maxFix fin)
  let mask := (List.range 32).foldl (fun a i => if (v.getD i (.num 0 0)).isFinite then a else a + 2 ^ i) 0
  let cs := v.map fun y => if y.isFinite then zCode 8 E M y else Config.ignoredCode % 256
  { bytes := leBytes 2 (0x9000 + 16 * E + M) ++ leBytes 4 mask ++ packBits 8 cs
    resid := List.replicate 32 0, nf := true, escalated := n, residZero := true }

/-- Encode a block of a Z format (Table 4-2); n is its count of non-pad elements. A block whose rotation overflows is
sent unrotated and counts in no ROT_BLOCKS (DESIGN CHOICE, log 82). -/
def encodeZ (ns : NSpec) (w : Nat) (key : W64) (round k n : Nat) (v : List Nat) : BlockOut :=
  let vs := v.map (decodeF fp32)
  if vs.any (fun x => !x.isFinite) then nfBlock vs n
  else
    let mx := maxFix vs
    if mx = 0 then { bytes := leBytes 2 0x4000, resid := List.replicate 32 0, zero := true }
    else if mx < toFix (.num 1 (-126)) then
      { bytes := leBytes 2 0x4000, resid := v, zero := true, flushed := (vs.filter fun x => !x.isZero).length }
    else
      let mask := signMask key round k
      let y := if ns.rotate then rotate mask v else v
      let ys := y.map (decodeF fp32)
      if ys.any (fun x => !x.isFinite) then nfBlock vs n
      else
        let (E, M) := zScale w (maxFix ys)
        let cs := ys.map (zCode w E M)
        let yh := cs.map (zValue w E M)
        let rot := if ns.rotate then 0x2000 else 0
        let fin := fun (bytes : List Byte) (yh : List FVal) (esc : Bool) =>
          { bytes := bytes, resid := residOf v (if ns.rotate then unrotate mask yh else yh), esc := esc
            rotated := ns.rotate, escalated := if esc then n else 0, eps := some (epsBin n ys yh) : BlockOut }
        if ns.escNum ≠ 0 && escTest ns.escNum n ys yh then
          let (E, M) := zScale 8 (maxFix ys)
          let cs := ys.map (zCode 8 E M)
          fin (leBytes 2 (0x8000 + rot + 16 * E + M) ++ packBits 8 cs) (cs.map (zValue 8 E M)) true
        else fin (leBytes 2 (rot + 16 * E + M) ++ packBits w cs) yh false

/-- Encode a block of an MX format (R44, R105, R111). X is taken over the finite values alone (DESIGN CHOICE, log 80). -/
def encodeMx (f : FloatFmt) (emax : Int) (n : Nat) (v : List Nat) : BlockOut :=
  let vs := v.map (decodeF fp32)
  let anyNf := vs.any (fun x => !x.isFinite)
  if anyNf && f.specials = .none then
    { bytes := 0xFF#8 :: packBits f.width (List.replicate 32 (Config.ignoredCode % 2 ^ f.width))
      resid := List.replicate 32 0, nf := true, residZero := true }
  else
    let mx := maxFix (vs.filter FVal.isFinite)
    let X := if mx = 0 then 0 else (max 0 (floorLog2 mx.natAbs (2 ^ 400) - emax + 127)).toNat
    let rs := vs.map fun x => match x with
      | .num m e => convF f (.num m (e - ((X : Int) - 127)))
      | _ => ⟨f.nanBits, false, false⟩
    let xh := rs.map fun r => scaleV (decodeF f r.bits) ((X : Int) - 127)
    { bytes := BitVec.ofNat 8 X :: packBits f.width (rs.map (·.bits))
      resid := if anyNf then List.replicate 32 0 else residOf v xh
      nf := anyNf, residZero := anyNf
      flushed := (rs.filter (·.flushed)).length, saturated := (rs.filter (·.saturated)).length
      eps := if anyNf || mx = 0 then none else some (epsBin n vs xh) }

/-- Encode block k of a round in the format of a NarrowSpec. -/
def encodeBlock (ns : NSpec) (key : W64) (round k n : Nat) (v : List Nat) : BlockOut :=
  match zWidth ns.format with
  | some w => encodeZ ns w key round k n v
  | none => match mxOf ns.format with
    | some (f, emax) => encodeMx f emax n v
    | none => { bytes := [], resid := v }

/-! ### Folding (R121 to R124, R134 to R137) -/

/-- One segment of R134: fused multiply-adds in ascending index. -/
def segSum (as bs : List Nat) : Nat := (List.zip as bs).foldl (fun acc p => ffma fp32 p.1 p.2 acc) 0

/-- The array's sum over an inner dimension, in segments of 256 (R134); n bounds the segments. -/
def arraySums : Nat → List Nat → List Nat → List Nat
  | 0, _, _ => []
  | n + 1, as, bs => if as.isEmpty then [] else segSum (as.take 256) (bs.take 256) :: arraySums n (as.drop 256) (bs.drop 256)

def arrayDot (as bs : List Nat) : Nat := (arraySums (as.length / 256 + 1) as bs).foldl (fadd fp32) 0

/-- An FP32 code rounded to BF16, kept as FP32 (R121). -/
def toBf (a : Nat) : Nat := (convF bf16 (decodeF fp32 a)).bits * 65536

/-- Row i and column j of a row-major matrix of c columns. -/
def rowOf (c i : Nat) (m : List Nat) : List Nat := (m.drop (c * i)).take c
def colOf (r c j : Nat) (m : List Nat) : List Nat := (List.range r).map fun i => m.getD (c * i + j) 0

/-- A · B for A of rows × k and B of k × cols (R134). -/
def matMul (rows k cols : Nat) (a b : List Nat) : List Nat :=
  (List.range rows).flatMap fun i => (List.range cols).map fun j => arrayDot (rowOf k i a) (colOf k cols j b)

/-- Aᵀ for A of r × c. -/
def transpose (r c : Nat) (a : List Nat) : List Nat := (List.range c).flatMap fun j => colOf r c j a

/-- Take the earlier columns out of a column, in order (R121 step 3, R135). -/
def gsTake (qs : List (List Nat)) (p : List Nat) : List Nat :=
  qs.foldl (fun p q =>
    let h := segSum p q
    List.zipWith (fun a b => ffma fp32 (fneg fp32 h) b a) p q) p

/-- Modified Gram-Schmidt over columns; the count is of columns set to zero. -/
def gramSchmidt (cols : List (List Nat)) : List (List Nat) × Nat :=
  cols.foldl (fun acc p =>
    let p := gsTake acc.1 p
    let nn := segSum p p
    if ltV (.num 1 (-100)) (decodeF fp32 nn) = some false then (acc.1 ++ [p.map fun _ => 0], acc.2 + 1)
    else
      let s := fsqrt fp32 nn
      (acc.1 ++ [p.map fun a => fdiv fp32 a s], acc.2)) ([], 0)

/-- Q_prev after a reset (R123), n × r row by row, FP32: entry (i, j) takes bit j × n + i. -/
def qInit (ns : NSpec) (rslot n r : Nat) : List Nat :=
  let key := BitVec.ofNat 64 (leAt (sm3 (leBytes 8 ns.seedLo ++ leBytes 8 ns.seedHi ++ [BitVec.ofNat 8 rslot])) 0 8)
  (List.range (n * r)).map fun x =>
    let t := x % r * n + x / r
    if (mix key (BitVec.ofNat 64 (t / 32))).toNat.testBit (t % 32) then 0xBF800000 else 0x3F800000

/-- Array tasks of an operation with an inner dimension k (R140). -/
def opTasks (rows cols k : Nat) : Nat :=
  (k / 256) * ceilDiv (rows * cols * 256) 16777216 + if k % 256 = 0 then 0 else ceilDiv (rows * cols * (k % 256)) 16777216

end Sys2Proof.Machine
end

