-- ==== Sys2Proof/Machine/Ops.lean ====
section
/-! DEFINITION. The named operations that the meanings share: reading and updating one part of the state,
sending something out, taking a free value, letting device time pass, and the sparse tables and the flash. -/

namespace Sys2Proof.Machine
open Sys2Proof

/-- Send something out. -/
def emit (e : Emission) (s : State) : State := { s with out := s.out ++ [e] }

/-- Send several things out, in order. -/
def emits (es : List Emission) (s : State) : State := { s with out := s.out ++ es }

/-- The free value that the step takes next. -/
def freeVal (s : State) : Nat := Config.freeNat s.free

/-- The state after that free value is taken. -/
def freeNext (s : State) : State := { s with free := s.free + 1 }

def getLink (s : State) (l : Nat) : Link := s.links.getD l {}
def getPort (s : State) (p : Nat) : Port := s.ports.getD p {}
def getHost (s : State) (h : Nat) : HostPort := s.host.getD h {}
def getMbox (s : State) (m : Nat) : Mailbox := s.mbox.getD m {}

def modLink (l : Nat) (f : Link → Link) (s : State) : State := { s with links := modAt s.links l f }
def modPort (p : Nat) (f : Port → Port) (s : State) : State := { s with ports := modAt s.ports p f }
def modHost (h : Nat) (f : HostPort → HostPort) (s : State) : State := { s with host := modAt s.host h f }
def modMbox (m : Nat) (f : Mailbox → Mailbox) (s : State) : State := { s with mbox := modAt s.mbox m f }
def modBoot (f : Boot → Boot) (s : State) : State := { s with boot := f s.boot }
def modPower (f : Power → Power) (s : State) : State := { s with power := f s.power }
def modAlert (f : Alert → Alert) (s : State) : State := { s with alert := f s.alert }
def modWd (f : Watchdog → Watchdog) (s : State) : State := { s with wd := f s.wd }
def modTime (f : Time → Time) (s : State) : State := { s with time := f s.time }
def modIdent (f : Ident → Ident) (s : State) : State := { s with ident := f s.ident }
def modGci (f : Gci → Gci) (s : State) : State := { s with gci := f s.gci }
def modTelem (f : Telemetry → Telemetry) (s : State) : State := { s with telem := f s.telem }
def modPawn (f : Pawn → Pawn) (s : State) : State := { s with pawn := f s.pawn }
def modPins (f : Pins → Pins) (s : State) : State := { s with pins := f s.pins }
def modRoute (f : Route → Route) (s : State) : State := { s with route := f s.route }
def modPot (f : Pot → Pot) (s : State) : State := { s with pot := f s.pot }
def modSq (f : Squares → Squares) (s : State) : State := { s with sq := f s.sq }
def modLadder (f : Ladder → Ladder) (s : State) : State := { s with ladder := f s.ladder }

def modMem (f : Mem → Mem) (s : State) : State := { s with mem := f s.mem }
def modSheet (f : Sheet → Sheet) (s : State) : State := { s with sheet := f s.sheet }
def modHazard (f : Hazard → Hazard) (s : State) : State := { s with hazard := f s.hazard }

def modStat (l : Nat) (f : LinkStat → LinkStat) : State → State :=
  modLink l (fun k => { k with stat := f k.stat })
def modTx (l : Nat) (f : LinkTx → LinkTx) : State → State := modLink l (fun k => { k with tx := f k.tx })
def modRx (l : Nat) (f : LinkRx → LinkRx) : State → State := modLink l (fun k => { k with rx := f k.rx })
def modTrain (l : Nat) (f : LinkTrain → LinkTrain) : State → State :=
  modLink l (fun k => { k with train := f k.train })
def modLoop (l : Nat) (f : Loopback → Loopback) : State → State :=
  modLink l (fun k => { k with loop := f k.loop })

/-- Count one in PROTO_ERRORS of a link (R429). -/
def protoError (l : Nat) : State → State := modStat l (fun k => { k with protoErrors := k.protoErrors + 1 })

/-- Apply an update for every element of a list, in order. -/
def forAll {α : Type} (xs : List α) (f : α → State → State) (s : State) : State :=
  xs.foldl (fun a x => f x a) s

/-- Apply an update only where a condition holds. -/
def whenDo (b : Bool) (f : State → State) (s : State) : State := if b then f s else s

/-- Device time in ns (R12). -/
def now (s : State) : Nat := s.time.t64 / 64

/-- The device runs: past step 1 of Table 20-3, not held in reset, without a trip. -/
def live (s : State) : Bool := 2 ≤ s.boot.step && !s.boot.tripped

/-- The device runs outside Pawn mode. -/
def cpRuns (s : State) : Bool := live s && s.pawn.cause = 0 && !s.wd.cpStopped

/-- SERVICE is entered (R610 step 10). -/
def inService (s : State) : Bool := s.boot.step = 10 && !s.boot.tripped

/-- A table starves: its list holds no unexecuted move, or BOARD_SWITCH waits for a board (R207). -/
def starving (tb : Table) : Bool :=
  tb.halt = 0 && !tb.closing && match tb.moves with
    | [] => true
    | m :: _ => fld (wd m 0) 63 56 = 0x30 && tb.other.isNone

/-- The pool index of a class (R430). -/
def classPool (tc : Nat) : Nat := if tc = 7 then 6 else if tc = 6 then 7 else tc

/-- A pool's credits are used up (R430). -/
def poolEmpty (k : Link) (i : Nat) : Bool :=
  let p := k.tx.pools.getD i {}
  p.credits ≤ p.count - p.freed

/-- A Pip or Keeper flit, or a packet that has started, waits on a link for credits (Table 15-10). -/
def creditStarved (pkts : List QPkt) (l : Nat) (k : Link) : Bool :=
  ([7, 8].any fun i => !(k.tx.queues.getD i []).isEmpty && poolEmpty k i) ||
    pkts.any fun p => poolEmpty k (classPool p.tc) &&
      p.legs.any fun g => g.link = l && g.started && !g.done && g.sent < 4 * p.admitted

/-- The waits that n ns add to: MOVE_STARVED outside Pawn mode, and CREDIT_WAIT_NS of each port. -/
def countWaits (n : Nat) (s : State) : State :=
  { s with
    tables := if s.pawn.cause = 0 then s.tables.map fun t => if starving t then { t with starved := t.starved + n } else t
      else s.tables
    ports := (List.range s.ports.length).map fun p =>
      let k := s.ports.getD p {}
      if (List.range 8).any fun i => creditStarved s.pot.pkts (8 * p + i) (s.links.getD (8 * p + i) {}) then { k with creditWaitNs := k.creditWaitNs + n } else k }

/-- n ns of PLL ticks pass: device time with its rate correction (R238), the watchdog (R504), and the counters of
waits and of time spent throttled (Table 20-6) and in Pawn mode (Table 18-10). -/
def advance (n : Nat) (s : State) : State :=
  if s.time.running then
    let acc := s.time.rateAcc + 64 * n * s.time.ratePpm
    let whole := acc / 1000000
    let s := countWaits n s
    { s with
      time  := { s.time with t64 := (s.time.t64 + 64 * n + whole).toNat, rateAcc := acc - whole * 1000000 }
      wd    := { s.wd with ticks := s.wd.ticks + n }
      power := { s.power with throttleNs := s.power.throttleNs + if s.power.throttled then n else 0 }
      pawn  := { s.pawn with pawnNs := s.pawn.pawnNs + if s.pawn.cause = 0 then 0 else n } }
  else s

/-- Device time moves on to t, if it has not reached it: the command of a timer is the moment of its limit
(DESIGN CHOICE, log 8). -/
def advanceTo (t : Nat) (s : State) : State :=
  if now s < t then
    let s := advance (t - now s) s
    if s.time.running then { s with time := { s.time with t64 := t * 64 } } else s
  else s

/-- One tick of device time (DESIGN CHOICE, log 5). -/
def tick (s : State) : State := advance 1 s

/-- Cause i of AlertControl sets (R621). -/
def setCause (i : Nat) : State → State := modAlert (fun a => { a with causes := a.causes.set i true })

/-- ALERT_N is asserted (R607, R609, R621). -/
def alertAsserted (s : State) : Bool :=
  s.boot.clockHold ||
    ((List.range 7).any fun i => s.alert.causes.getD i false && s.alert.mask.testBit i) && s.boot.step ≠ 0

/-- Take the first element that meets a test out of a list. -/
def takeFirst {α : Type} (p : α → Bool) : List α → Option α × List α
  | [] => (none, [])
  | x :: xs => if p x then (some x, xs) else
    let (r, ys) := takeFirst p xs
    (r, x :: ys)

/-- Entry i of a sparse table; an entry not listed is 0. -/
def spGet (m : List (Nat × Nat)) (i : Nat) : Nat := ((m.find? (fun e => e.1 = i)).map (·.2)).getD 0

/-- Write entry i of a sparse table, keeping it in rising order with no entry 0. -/
def spSet : List (Nat × Nat) → Nat → Nat → List (Nat × Nat)
  | [], i, v => if v = 0 then [] else [(i, v)]
  | e :: m, i, v =>
    if e.1 < i then e :: spSet m i v
    else if e.1 = i then (if v = 0 then m else (i, v) :: m)
    else (if v = 0 then e :: m else (i, v) :: e :: m)

/-- Write consecutive entries from i. -/
def spSets (m : List (Nat × Nat)) (i : Nat) : List Nat → List (Nat × Nat)
  | [] => m
  | v :: vs => spSets (spSet m i v) (i + 1) vs

/-- A byte of flash; an unlisted byte reads 0xFF (DESIGN CHOICE, log 6). -/
def flashGet (m : List Host.Cell) (a : Nat) : Byte := ((m.find? (fun e => e.1 = a)).map (·.2)).getD 0xFF

/-- Write a byte of flash, keeping the canonical form. -/
def flashSet : List Host.Cell → Nat → Byte → List Host.Cell
  | [], a, b => if b = 0xFF then [] else [(a, b)]
  | e :: m, a, b =>
    if e.1 < a then e :: flashSet m a b
    else if e.1 = a then (if b = 0xFF then m else (a, b) :: m)
    else (if b = 0xFF then e :: m else (a, b) :: e :: m)

/-- Bytes a to a + n - 1 of flash. -/
def flashRead (m : List Host.Cell) (a : Nat) : Nat → List Byte
  | 0 => []
  | n + 1 => flashGet m a :: flashRead m (a + 1) n

/-- Write bytes from address a on. -/
def flashWrite (m : List Host.Cell) (a : Nat) : List Byte → List Host.Cell
  | [] => m
  | b :: bs => flashWrite (flashSet m a b) (a + 1) bs

/-- The canonical form of flash: addresses strictly rising, no byte that an unlisted address reads as. -/
def Memory.wf : List Host.Cell → Bool
  | [] => true
  | [e] => e.2 ≠ 0xFF
  | e :: f :: m => e.1 < f.1 && e.2 ≠ 0xFF && Memory.wf (f :: m)

/-- The entry of a list of elements that carries a key. -/
def findKey {α : Type} (key : α → Nat) (k : Nat) (xs : List α) : Option α := xs.find? (fun x => key x = k)

/-- Update the entries of a list that meet a test. -/
def updWhere {α : Type} (p : α → Bool) (f : α → α) (xs : List α) : List α := xs.map (fun x => if p x then f x else x)

/-- The port of a link ID (R370). -/
def portOf (l : Nat) : Nat := l / 8

/-- Lanes of a link under SPLIT (Table 13-1). -/
def splitLanes (sp : Nat) : Nat := if sp = 0 then 8 else if sp = 1 then 4 else if sp = 2 then 2 else 1

/-- Links into which SPLIT divides a port. -/
def splitLinks (sp : Nat) : Nat := 8 / splitLanes sp

/-- A link ID names a link: the first lane of a configured link (R370). -/
def isLink (s : State) (l : Nat) : Bool := l < 512 && (l % 8) % splitLanes (getPort s (portOf l)).split = 0

/-- A link ID names an enabled link (R406). -/
def isEnabled (s : State) (l : Nat) : Bool := isLink s l && (getPort s (portOf l)).enable.testBit (l % 8)

/-- GEN_ALLOW of a link as configured (Table 13-1). -/
def genConfig (s : State) (l : Nat) : Nat := ((getPort s (portOf l)).genAllow >>> (2 * (l % 8))) % 4

/-- The highest generation that the link may reach: GEN_ALLOW when its training began (R406), under a far-end loopback at
most the generation named (Table 13-9). -/
def genAllow (s : State) (l : Nat) : Nat :=
  let k := getLink s l
  if k.loop.mode = 3 then min k.loop.gen k.train.allow else k.train.allow

/-- GENS of this end: a bitmap of the generations up to that one. -/
def gensOf (g : Nat) : Nat := 2 ^ g - 1

/-- The highest generation set in two bitmaps, at most 3 (R437). -/
def topGen (a b : Nat) : Nat :=
  if (a &&& b).testBit 2 then 3 else if (a &&& b).testBit 1 then 2 else if (a &&& b).testBit 0 then 1 else 0

/-- The target generation of a link, less the generations that failed (R437). -/
def targetGen (s : State) (l : Nat) : Nat :=
  let k := getLink s l
  let both := topGen (gensOf (genAllow s l)) k.stat.peerGens
  (List.range 4).foldl (fun t g => if 0 < g && g ≤ both && !k.train.failedGens.any (fun f => f ≤ g) then g else t) 0

/-- A link is up to routing: STATE UP or RETRAIN at its final generation (R439, R441), and no loopback runs (R447). -/
def linkUp (s : State) (l : Nat) : Bool :=
  let k := getLink s l
  isEnabled s l && k.loop.mode = 0 && (k.stat.state = 2 || k.stat.state = 3) && k.stat.gen = targetGen s l && k.stat.gen ≠ 0

/-- A link carries service frames: STATE UP or RETRAIN. -/
def linkRuns (s : State) (l : Nat) : Bool :=
  let k := getLink s l
  isEnabled s l && (k.stat.state = 2 || k.stat.state = 3)

/-- The link IDs that name links. -/
def allLinks (s : State) : List Nat := (List.range 512).filter (isLink s)

/-- The peer of a link is a GT64 (DEV_GT64 of its TS). -/
def peerIsGt64 (s : State) (l : Nat) : Bool := (getLink s l).stat.peerGt64

/-- Take from the inbox the first entry equal to the one an arrival command carries; the command carries its
content itself, so none held changes nothing. -/
def takeArrived (a : Arrived) (s : State) : State := { s with inbox := s.inbox.erase a }

end Sys2Proof.Machine
end

