-- ==== Sys2Proof/Machine/Operands.lean ====
section
/-! DEFINITION. The layouts of what arrives and leaves: the Virop packet header, the round header and the round
signal, the Pip packet, control flits, the mailbox and GCI headers, and the flits of a packet. -/

namespace Sys2Proof.Machine
open Sys2Proof


/-- Fields of the Virop packet header (Table 13-5). -/
def pPtype (p : Packet) : Nat := fld p.w0 63 60
def pMc (p : Packet) : Bool := bitAt p.w0 59
def pTc (p : Packet) : Nat := fld p.w0 58 56
def pOrder (p : Packet) : Bool := bitAt p.w0 55
def pFirst (p : Packet) : Bool := bitAt p.w0 54
def pHops (p : Packet) : Nat := fld p.w0 53 48
def pSeq (p : Packet) : Nat := fld p.w0 47 32
def pKsub (p : Packet) : Nat := fld p.w0 31 30
def pDest (p : Packet) : Nat := fld p.w0 20 0
def pLength (p : Packet) : Nat := fld p.w1 63 51
def pSrc (p : Packet) : Nat := fld p.w1 20 0

/-- Payload word i of a packet. -/
def payW (bs : List Byte) (i : Nat) : W64 := BitVec.ofNat 64 (leAt bs (8 * i) 8)

/-- TABLE_ID of a packet of PTYPE 1 to 4: W0[31:22] of ROUND_HDR, ROUND_SIG, DoubleFeed and DoubleSync headers
and of a wrapped flit alike. -/
def pTable (p : Packet) : Nat := fld (payW p.payload 0) 31 22

/-- L of R333 in bytes. -/
def pBytes (p : Packet) : Nat := 16 + p.payload.length

/-- Cells of a packet (R333). -/
def pCells (p : Packet) : Nat := ceilDiv (pBytes p) 256

/-- Flits of a packet (R425). -/
def pFlits (p : Packet) : Nat := ceilDiv (pBytes p) 64

/-- The header of a packet holds together (Table 13-5, R429); gt64: whether the sender is a GT64. -/
def headerOk (gt64 : Bool) (p : Packet) : Bool :=
  pPtype p ≤ 5 && fld p.w0 29 21 = 0 && fld p.w1 50 21 = 0 &&
  1 ≤ pLength p && pLength p ≤ 4096 && pLength p = p.payload.length &&
  (pOrder p || pSeq p = 0) && (!pMc p || fld p.w0 20 16 = 0) &&
  (if pPtype p = 4 then pKsub p ≤ 2 && (pKsub p ≠ 2 || p.payload.length = 64) else pKsub p = 0) &&
  (gt64 || pPtype p < 4)

/-- The class that the GT64 gives a packet (Table 11-1). -/
def pClass (p : Packet) : Nat :=
  if pPtype p = 5 then 7 else if pPtype p = 4 then 5 else if pPtype p ≠ 0 then 4
  else if pTc p ≤ 3 then pTc p else 3

/-- A packet header's words (Table 13-5). -/
def mkPacket (ptype tc ksub dest src : Nat) (payload : List Byte) : Packet :=
  { w0 := mkW [(63, 60, ptype), (58, 56, tc), (53, 48, Config.ownHops), (31, 30, ksub), (20, 0, dest)]
    w1 := mkW [(63, 51, payload.length), (20, 0, src)]
    payload := payload }

/-- The packet with 1 taken from its hop field (R386). -/
def decHops (p : Packet) : Packet :=
  { p with w0 := p.w0 - (1#64 <<< 48) }

/-- The bytes of a packet, header first. -/
def packetBytes (p : Packet) : List Byte := leBytes 8 p.w0.toNat ++ leBytes 8 p.w1.toNat ++ p.payload

/-- The tag of a flit of class tc (Table 13-4); TC6 crosses a link as a PIP flit (R428). -/
def tagOf (tc : Nat) : Nat := if tc = 7 then 15 else if tc = 6 then 2 else 8 + tc

/-- The credit pool of a tag (R430): TC0 to TC5 0 to 5, TC7 6, PIP 7, KEEPER 8. -/
def poolOf (tag : Nat) : Option Nat :=
  if tag = 2 then some 7 else if tag = 3 then some 8
  else if 8 ≤ tag && tag ≤ 13 then some (tag - 8) else if tag = 15 then some 6 else none

/-- The class of a BULK tag. -/
def classOfTag (tag : Nat) : Option Nat :=
  if 8 ≤ tag && tag ≤ 13 then some (tag - 8) else if tag = 15 then some 7 else none

/-- The flits from number i on of bytes cut into flits of 64 bytes, the last padded with zeros (R425). -/
def flitsOf (tag pkt : Nat) : Nat → List Byte → List Flit
  | 0, _ => []
  | n + 1, bs => { tag := tag, words := wordsOf 8 bs, pkt := pkt, last := n = 0 } :: flitsOf tag pkt n (bs.drop 64)

/-- All flits of a packet in class tc. -/
def packetFlits (tc num : Nat) (p : Packet) : List Flit :=
  if tc = 6 then [{ tag := 2, words := wordsOf 8 p.payload, pkt := num, last := true }]
  else flitsOf (tagOf tc) num (pFlits p) (packetBytes p)

/-- ROUND_HDR (Table 6-3). -/
structure RoundHdr where
  round  : Nat
  table  : Nat
  phase  : Nat
  source : Nat
  format : Nat
  count  : Nat
  board  : Bool
  resv   : Nat
  offset : Nat
  deriving DecidableEq, Repr, Inhabited

def roundHdr (w0 w1 : W64) : RoundHdr :=
  { round := fld w0 63 32, table := fld w0 31 22, phase := fld w0 21 20, source := fld w0 19 0,
    format := fld w1 63 56, count := fld w1 55 43, board := bitAt w1 42, resv := fld w1 41 35,
    offset := fld w1 34 0 }

/-- A field of a ROUND_HDR that its layout gives as 0 is not (R16): W1[41:35], or SOURCE in phase 3 (Table 6-3). -/
def hdrBad (h : RoundHdr) : Bool := h.resv ≠ 0 || (h.phase = 3 && h.source ≠ 0)

def roundHdrWords (h : RoundHdr) : List W64 :=
  [mkW [(63, 32, h.round), (31, 22, h.table), (21, 20, h.phase), (19, 0, h.source)],
   mkW [(63, 56, h.format), (55, 43, h.count), (42, 42, b2n h.board), (34, 0, h.offset)]]

/-- ROUND_SIG (Table 6-7). -/
structure RoundSig where
  round    : Nat
  table    : Nat
  signal   : Nat
  status   : Nat := 0
  invalid  : Bool := false
  isMember : Bool := false
  source   : Nat := 0
  lo       : Nat := 0
  hi       : Nat := 0
  digest   : Nat := 0
  deriving DecidableEq, Repr, Inhabited

def roundSigWords (g : RoundSig) : List W64 :=
  [mkW [(63, 32, g.round), (31, 22, g.table), (21, 20, g.signal), (19, 16, g.status), (15, 15, b2n g.invalid),
        (14, 14, b2n g.isMember)],
   mkW [(63, 44, g.source), (34, 0, g.lo)], mkW [(34, 0, g.hi)], mkW [(63, 0, g.digest)]]

def roundSig (ws : List W64) : RoundSig :=
  { round := fld (wd ws 0) 63 32, table := fld (wd ws 0) 31 22, signal := fld (wd ws 0) 21 20,
    status := fld (wd ws 0) 19 16, invalid := bitAt (wd ws 0) 15, isMember := bitAt (wd ws 0) 14,
    source := fld (wd ws 1) 63 44, lo := fld (wd ws 1) 34 0, hi := fld (wd ws 2) 34 0, digest := (wd ws 3).toNat }

/-- The reserved fields of a ROUND_SIG are 0 and its SIGNAL and STATUS are listed. -/
def roundSigOk (ws : List W64) : Bool :=
  fld (wd ws 0) 13 0 = 0 && fld (wd ws 1) 43 35 = 0 && fld (wd ws 2) 63 35 = 0 &&
  fld (wd ws 0) 21 20 ≤ 2 && fld (wd ws 0) 19 16 ≤ 7

/-- PIP_TYPE of a Pip packet (Table 8-1). -/
def pipType (ws : List W64) : Nat := fld (wd ws 2) 63 60

/-- A barrier packet's fields (Table 8-1). -/
structure BarrierPkt where
  table    : Nat
  source   : Nat := 0
  isMember : Bool := false
  turn     : Nat := 0
  seq      : Nat := 0
  type     : Nat
  code     : Nat := 0
  value    : Nat := 0
  board    : Nat := 0
  deriving DecidableEq, Repr, Inhabited

def barrierPkt (ws : List W64) : BarrierPkt :=
  { table := fld (wd ws 0) 31 22, source := fld (wd ws 0) 19 0, isMember := bitAt (wd ws 2) 55,
    turn := fld (wd ws 1) 63 16, seq := fld (wd ws 1) 15 0, type := pipType ws, code := fld (wd ws 2) 59 56,
    value := (wd ws 3).toNat, board := (wd ws 4).toNat }

def barrierWords (b : BarrierPkt) : List W64 :=
  [mkW [(31, 22, b.table), (19, 0, b.source)], mkW [(63, 16, b.turn), (15, 0, b.seq)],
   mkW [(63, 60, b.type), (59, 56, b.code), (55, 55, b2n b.isMember)], mkW [(63, 0, b.value)],
   mkW [(63, 0, b.board)], 0, 0, 0]

/-- R227 and R16: the fields of a Pip packet that its type or source gives as 0 are 0. -/
def pipOk (ws : List W64) : Bool :=
  let t := pipType ws
  if t ≤ 1 then
    fld (wd ws 2) 59 55 = 0 && fld (wd ws 2) 54 0 = 0 && (wd ws 3).toNat = 0
  else if t ≤ 4 then
    fld (wd ws 0) 63 32 = 0 && fld (wd ws 0) 21 20 = 0 && fld (wd ws 2) 54 0 = 0 &&
    (wd ws 5).toNat = 0 && (wd ws 6).toNat = 0 && (wd ws 7).toNat = 0 &&
    (t = 4 || fld (wd ws 2) 59 56 = 0) &&
    (t ≠ 3 || (fld (wd ws 0) 19 0 = 0 && !bitAt (wd ws 2) 55)) &&
    (t ≠ 4 || (wd ws 3).toNat = 0) &&
    (t = 2 || (wd ws 4).toNat = 0) &&
    (t ≠ 2 || bitAt (wd ws 2) 55 || ((wd ws 3).toNat = 0 && (wd ws 4).toNat = 0))
  else false

/-- A CTRL flit of a type with its further W0 fields and its words W1 to W3 (Table 13-6). -/
def ctrlFlit (type : Nat) (fs : List (Nat × Nat × Nat)) (w1 w2 w3 : W64) : List W64 :=
  [mkW ((63, 56, type) :: fs), w1, w2, w3, 0, 0, 0, 0]

/-- Nine counters in pool order as W1 to W3 (R432). -/
def poolWords (cs : List Nat) : List W64 :=
  let c := fun i => cs.getD i 0
  [mkW [(63, 48, c 3), (47, 32, c 2), (31, 16, c 1), (15, 0, c 0)],
   mkW [(63, 48, c 7), (47, 32, c 6), (31, 16, c 5), (15, 0, c 4)], mkW [(15, 0, c 8)]]

/-- The nine counters of W1 to W3. -/
def poolCounts (ws : List W64) : List Nat :=
  (List.range 9).map fun p => fld (wd ws (1 + p / 4)) (16 * (p % 4) + 15) (16 * (p % 4))

/-- The reserved bits of a CTRL flit, by its type, are 0 and the type is listed (R432). -/
def ctrlOk (ws : List W64) : Bool :=
  let t := fld (wd ws 0) 63 56
  let tail := (List.range 4).all fun i => (wd ws (4 + i)).toNat = 0
  let w13 := (List.range 3).all fun i => (wd ws (1 + i)).toNat = 0
  let pools := fld (wd ws 3) 63 16 = 0
  tail && (
    if t = 1 then fld (wd ws 0) 55 44 = 0 && fld (wd ws 0) 31 1 = 0 && pools
    else if t = 2 then fld (wd ws 0) 55 44 = 0 && fld (wd ws 0) 31 0 = 0 && w13
    else if t = 3 then fld (wd ws 0) 55 0 = 0 && pools && (poolCounts ws).all (· ≤ 2048)
    else if t = 4 then fld (wd ws 0) 55 8 = 0 && w13
    else if t = 5 then fld (wd ws 0) 55 22 = 0 && fld (wd ws 3) 31 21 = 0 && fld (wd ws 0) 19 16 ≤ 8
    else if t = 6 then fld (wd ws 0) 55 2 = 0 && w13 && 2 ≤ fld (wd ws 0) 1 0
    else t = 7 && fld (wd ws 0) 55 0 = 0 && w13)

/-- MBOX_HDR of a datagram that the GT64 sends (Table 14-3). -/
def mboxHdr (kind mailbox session seq length : Nat) : List Byte :=
  bytesOf [mkW [(63, 56, 1), (55, 52, kind), (51, 46, mailbox), (31, 0, session)],
           mkW [(63, 48, seq), (47, 32, length)]]

/-- Fields of the MBOX_HDR of a datagram that arrives. -/
structure MboxHdr where
  tver    : Nat
  kind    : Nat
  mailbox : Nat
  resv    : Bool
  session : Nat
  seq     : Nat
  length  : Nat
  deriving DecidableEq, Repr, Inhabited

def mboxHdrOf (d : List Byte) : MboxHdr :=
  let w0 := payW d 0
  let w1 := payW d 1
  { tver := fld w0 63 56, kind := fld w0 55 52, mailbox := fld w0 51 46,
    resv := fld w0 45 32 = 0 && fld w1 31 0 = 0, session := fld w0 31 0, seq := fld w1 63 48,
    length := fld w1 47 32 }

/-- R460: TVER, KIND, reserved fields and LENGTH of a datagram of the kind wanted. -/
def mboxOk (kind : Nat) (d : List Byte) : Bool :=
  let h := mboxHdrOf d
  16 ≤ d.length && h.tver = 1 && h.kind = kind && h.resv && h.length + 16 = d.length &&
  h.length ≤ (if kind = 3 then 8192 else 256)

/-- A GCI response message: GCI_HDR (Table 15-3) and its data. -/
def gciMsg (cmd status : Nat) (bulkOut : Bool) (detail : Nat) (data : List Byte) : List Byte :=
  bytesOf [mkW [(63, 48, cmd), (47, 40, status), (39, 39, b2n bulkOut)], mkW [(63, 0, detail)]] ++ data

end Sys2Proof.Machine
end

