-- ==== Sys2Proof/Machine/Fec.lean ====
section
/-! DEFINITION. The lane frame: Reed-Solomon code, frame CRC, scrambler, Gray map, stuff symbols and the TS
(R408 to R415, R434, R435). -/

namespace Sys2Proof.Machine
open Sys2Proof

/-! ### GF(2^8) of R412 -/

/-- Multiply by x modulo x^8 + x^4 + x^3 + x^2 + 1. -/
def gfX (a : Nat) : Nat := if a < 128 then 2 * a else (2 * a) ^^^ 0x11D

/-- The product over the low n bits of b. -/
def gfMulN : Nat → Nat → Nat → Nat
  | 0, _, _ => 0
  | n + 1, a, b => (if b % 2 = 1 then a else 0) ^^^ gfMulN n (gfX a) (b / 2)

def gfMul (a b : Nat) : Nat := gfMulN 8 a b

def gfPow (a : Nat) : Nat → Nat
  | 0 => 1
  | n + 1 => gfMul a (gfPow a n)

/-- The inverse of an element that is not 0. -/
def gfInv (a : Nat) : Nat := gfPow a 254

/-- α to the power n. -/
def alpha (n : Nat) : Nat := gfPow 2 (n % 255)

/-- Syndrome S_j: the codeword, first byte the coefficient of x^134, at α^j. -/
def syndrome (j : Nat) (cw : List Nat) : Nat := cw.foldl (fun acc c => gfMul acc (alpha j) ^^^ c) 0

/-- The coefficients of x^3 to x^0 of the generator (x + 1)(x + α)(x + α^2)(x + α^3). -/
def rsGen : List Nat :=
  let mulLin := fun (p : List Nat) (r : Nat) =>
    (List.range (p.length + 1)).map fun i => (p.getD i 0) ^^^ (if i = 0 then 0 else gfMul (p.getD (i - 1) 0) r)
  (mulLin (mulLin (mulLin (mulLin [1] 1) 2) 4) 8).drop 1

/-- The four parity bytes of a 131-byte message. -/
def rsParity (msg : List Nat) : List Nat :=
  msg.foldl (fun r b =>
    let f := b ^^^ r.getD 0 0
    (List.range 4).map fun i => (r.getD (i + 1) 0) ^^^ gfMul f (rsGen.getD i 0)) [0, 0, 0, 0]

/-- Change byte number i of a codeword by a value. -/
def fixByte (cw : List Nat) (i v : Nat) : List Nat := modAt cw i (fun b => b ^^^ v)

/-- Decode a codeword of 135 bytes: the corrected bytes and how many were changed, or none when it is
uncorrectable (R412). -/
def rsDecode (cw : List Nat) : Option (List Nat × Nat) :=
  let s0 := syndrome 0 cw
  let s1 := syndrome 1 cw
  let s2 := syndrome 2 cw
  let s3 := syndrome 3 cw
  if s0 = 0 && s1 = 0 && s2 = 0 && s3 = 0 then some (cw, 0)
  else
    let det := gfMul s1 s1 ^^^ gfMul s0 s2
    let places := fun (p : Nat → Bool) => (List.range 135).filter (fun e => p (alpha e))
    if det = 0 then
      if s0 = 0 || s1 = 0 then none else
      let x := gfMul s1 (gfInv s0)
      if gfMul s1 x ≠ s2 || gfMul s2 x ≠ s3 then none else
      match places (fun a => a = x) with
      | [e] => some (fixByte cw (134 - e) s0, 1)
      | _ => none
    else
      let d := gfInv det
      let g1 := gfMul (gfMul s1 s2 ^^^ gfMul s0 s3) d
      let g2 := gfMul (gfMul s2 s2 ^^^ gfMul s1 s3) d
      match places (fun a => gfMul a a ^^^ gfMul g1 a ^^^ g2 = 0) with
      | [e, f] =>
        let x := alpha e
        let y := alpha f
        let v := gfMul (s1 ^^^ gfMul s0 y) (gfInv (x ^^^ y))
        if v = 0 || v = s0 then none
        else some (fixByte (fixByte cw (134 - e) v) (134 - f) (s0 ^^^ v), 2)
      | _ => none

/-- Every second element, from the first. -/
def evens {α : Type} : List α → List α
  | [] => []
  | [x] => [x]
  | x :: _ :: xs => x :: evens xs

/-- Interleave two lists. -/
def weave {α : Type} : List α → List α → List α
  | [], ys => ys
  | x :: xs, ys => match ys with
    | [] => x :: xs
    | y :: ys => x :: y :: weave xs ys

/-- Decode the two codewords of 270 content bytes (Table 13-3). -/
def decodeLane (content : List Byte) : Option (List Byte × Nat) :=
  let ns := content.map BitVec.toNat
  match rsDecode (evens ns), rsDecode (evens (ns.drop 1)) with
  | some (a, i), some (b, j) => some ((weave a b).map (BitVec.ofNat 8), i + j)
  | _, _ => none

/-- The frame CRC of R411 over its prefix and content bytes 0 to 257. -/
def frameCrc (unseq : Bool) (lane seq : Nat) (body : List Byte) : Nat :=
  (crc32c (leBytes 2 (2 ^ 15 * b2n unseq + 2 ^ 12 * lane + if unseq then 0 else seq) ++ body)).toNat

/-- The content bytes of a lane frame: four flits, TAGS, CRC, RS parity (Table 13-3, R415). -/
def buildLane (unseq : Bool) (lane seq : Nat) (fs : List Flit) : List Byte :=
  let tags := (List.range 4).foldl (fun a p => a + ((fs.getD p { tag := 0, words := [] }).tag % 16) * 2 ^ (4 * p)) 0
  let body := (List.range 4).flatMap (fun p => padTo 64 (bytesOf (fs.getD p { tag := 0, words := [] }).words))
    ++ leBytes 2 tags
  let msg := body ++ leBytes 4 (frameCrc unseq lane seq body)
  let ns := msg.map BitVec.toNat
  msg ++ (weave (rsParity (evens ns)) (rsParity (evens (ns.drop 1)))).map (BitVec.ofNat 8)

/-- The tag of flit position p of decoded content. -/
def laneTag (content : List Byte) (p : Nat) : Nat := (leAt content 256 2 >>> (4 * p)) % 16

/-- The flit at position p of decoded content. -/
def laneFlit (content : List Byte) (p : Nat) : Flit :=
  { tag := laneTag content p, words := wordsOf 8 (slice content (64 * p) 64) }

/-- Decoded content passes its CRC under a prefix. -/
def laneCrcOk (unseq : Bool) (lane seq : Nat) (content : List Byte) : Bool :=
  frameCrc unseq lane seq (content.take 258) = leAt content 258 4

/-! ### Symbols -/

/-- n steps of the scrambler from a register whose bit k - 1 is s_(-k) (R413): the bits, and the register after. -/
def scramble : Nat → Nat → List Bool × Nat
  | 0, r => ([], r)
  | n + 1, r =>
    let b := r.testBit 27 != r.testBit 30
    let (bs, r') := scramble n ((2 * r + b2n b) % 2 ^ 31)
    (b :: bs, r')

/-- The register of logical lane j at the first SYNC frame (R413). -/
def scrambleInit (lane : Nat) : Nat := 0x7FFFFFFF - lane

/-- The bits of bytes, bit 0 of each byte first (R408). -/
def bitsOf (bs : List Byte) : List Bool := bs.flatMap fun b => (List.range 8).map fun i => b.toNat.testBit i

/-- The level of a bit pair, earlier bit first (R408). -/
def gray (a b : Bool) : Nat := if a then (if b then 2 else 3) else (if b then 1 else 0)

/-- Levels of a bit stream. -/
def levels : List Bool → List Nat
  | a :: b :: bs => gray a b :: levels bs
  | _ => []

/-- Put a stuff symbol after every 135 content symbols (R410, R414). -/
def stuff : Nat → List Nat → List Nat
  | 0, _ => []
  | n + 1, ls =>
    let g := ls.take 135
    g ++ [if g.getLastD 0 ≤ 1 then 3 else 0] ++ stuff n (ls.drop 135)

/-- The 1,088 symbols of a lane frame from its content bytes and the scrambler's register. -/
def frameSymbols (content : List Byte) (reg : Nat) : List Nat :=
  let (sc, _) := scramble 2160 reg
  stuff 8 (levels (List.zipWith (· != ·) (bitsOf content) sc))

/-- n bits of PRBS13, x^13 + x^12 + x^2 + x + 1, from a register of 13 bits (R434). -/
def prbs13 : Nat → Nat → List Bool
  | 0, _ => []
  | n + 1, r =>
    let b := (r.testBit 12 != r.testBit 11) != (r.testBit 1 != r.testBit 0)
    r.testBit 12 :: prbs13 n ((2 * r + b2n b) % 2 ^ 13)

/-- The 1,088 symbols of a training frame (R434): marker, TS, filler. -/
def trainSymbols (ts : List W64) : List Nat :=
  let mark := List.replicate 8 3 ++ List.replicate 8 0 ++ List.replicate 8 3 ++ List.replicate 8 0
  let ps := prbs13 2112 0x1FFF
  let data := bitsOf (bytesOf ts) ++ List.replicate 1600 false
  mark ++ levels (List.zipWith (· != ·) data ps)

/-! ### The TS (Table 13-7) -/

/-- A TS with its CRC over bytes 0 to 59. -/
def mkTs (type lane width gens gen : Nat) (loop eq : Bool) (countdown fc eid eqReq port : Nat) : List W64 :=
  let w := [mkW [(63, 60, type), (59, 57, lane), (56, 55, width), (54, 52, gens), (51, 50, gen), (49, 49, b2n loop),
              (48, 48, b2n eq), (47, 44, countdown), (43, 36, fc), (35, 35, 1), (34, 31, 3), (20, 0, eid)],
            mkW [(5, 0, eqReq)], mkW [(5, 0, port)], 0, 0, 0, 0]
  w ++ [mkW [(63, 32, (crc32c ((bytesOf w) ++ [0, 0, 0, 0])).toNat)]]

/-- A TS is valid: its CRC, its reserved fields and its enumerated fields. -/
def tsOk (ws : List W64) : Bool :=
  ws.length = 8 && (crc32c ((bytesOf ws).take 60)).toNat = fld (wd ws 7) 63 32 &&
  (fld (wd ws 0) 63 60 = 1 || fld (wd ws 0) 63 60 = 2)

end Sys2Proof.Machine
end

