-- ==== Sys2Proof/Machine/Pot.lean ====
section
/-! DEFINITION. The Pot and the routes: queues, the division of cells, admission, link choice, enqueuing,
dropping and ending packets, and forming their flits (11, 12). -/

namespace Sys2Proof.Machine
open Sys2Proof

/-! ### Route banks -/

def curBank (s : State) : RouteBank := s.route.banks.getD s.route.cur {}
def getBank (s : State) (b : Nat) : RouteBank := s.route.banks.getD b {}
def modBank (b : Nat) (f : RouteBank → RouteBank) : State → State :=
  modRoute (fun r => { r with banks := modAt r.banks b f })
def modCnt (f : RouteCount → RouteCount) : State → State := modRoute (fun r => { r with cnt := f r.cnt })

/-- KIND, LINK and PATHSET of an EID entry (Table 12-1). -/
def eidKind (e : Nat) : Nat := e / 2 ^ 29
def eidLink (e : Nat) : Nat := e / 2 ^ 12 % 512
def eidPath (e : Nat) : Nat := e % 4096

/-- LEG_BASE and LEG_COUNT of a group entry, LINK and EID of a leg (Table 12-4). -/
def groupBase (g : Nat) : Nat := g / 2 ^ 44
def groupCount (g : Nat) : Nat := g / 2 ^ 34 % 1024
def legLink (l : Nat) : Nat := l / 2 ^ 21 % 512
def legEid (l : Nat) : Nat := l % 2 ^ 21

/-- The legs of a group in a bank, as (link, EID). -/
def groupLegs (b : RouteBank) (mgid : Nat) : List (Nat × Nat) :=
  let g := spGet b.groups mgid
  (List.range (groupCount g)).map fun i =>
    let l := spGet b.legs (groupBase g + i)
    (legLink l, legEid l)

/-- An EID is fenced (R392). -/
def fenced (s : State) (eid : Nat) : Bool := s.route.fences.any (fun f => f.eid = eid)

/-! ### Queues and cells -/

/-- Queue number of R337 for a link, class and key. -/
def queueNum (s : State) (link tc key : Nat) : Nat :=
  let lanes := splitLanes (getPort s (portOf link)).split
  let L := 8 / lanes
  let per := 8 / L
  64 * portOf link + 8 * tc + (per * (link % 8 / lanes) + key % per)

/-- The key of R337. -/
def queueKey (tc : Nat) (p : Packet) : Nat := if 4 ≤ tc && tc ≤ 6 then pTable p else pSrc p

def classCfg (s : State) (port tc : Nat) : ClassCfg := s.pot.classes.getD (8 * port + tc) {}

/-- QMIN of a queue. -/
def qmin (s : State) (q : Nat) : Nat := (classCfg s (q / 64) (q / 8 % 8)).qmin

/-- A packet's leg still holds its cells in a queue. -/
def legIn (q : Nat) (l : PLeg) : Bool := l.queue = q && !l.done

/-- Cells of a packet that a leg has still to send: those admitted, less those whose every flit has gone (R353). -/
def legHolds (p : QPkt) (l : PLeg) : Nat := if l.done then 0 else p.admitted - l.sent / 4

/-- Cells that any leg of those that meet a test has still to send. -/
def holds (f : PLeg → Bool) (p : QPkt) : Nat := ((p.legs.filter f).map (legHolds p)).foldl max 0

/-- Cells that a packet holds: each is freed when the last leg has sent it (R353). -/
def pktHolds (p : QPkt) : Nat := holds (fun _ => true) p

/-- A packet is an emitted result in staging, which counts in no queue (R354). -/
def isStaged (p : QPkt) : Bool := match p.kind with
  | .emitted _ _ _ => true
  | _ => false

/-- A packet is a Kibitz copy, which lies on its original's cells (R402). -/
def isCopy (p : QPkt) : Bool := match p.kind with
  | .copy _ => true
  | _ => false

/-- Cells that a packet counts in a queue's occ. -/
def pktOcc (q : Nat) (p : QPkt) : Nat := if isStaged p then 0 else holds (legIn q) p

/-- occ_q of R352. -/
def occ (s : State) (q : Nat) : Nat := (s.pot.pkts.map (pktOcc q)).sum

/-- The queues that hold any packet. -/
def busyQueues (s : State) : List Nat :=
  (s.pot.pkts.flatMap (fun p => p.legs.map (·.queue))).eraseDups

/-- Unicast cells that a queue holds: they alone can be guaranteed cells (R352, R353). -/
def uniOcc (s : State) (q : Nat) : Nat := ((s.pot.pkts.filter fun p => !p.mcast && !isCopy p).map (pktOcc q)).sum

/-- Multicast cells held, each once (Table 11-6). -/
def mcastCells (s : State) : Nat := ((s.pot.pkts.filter fun p => p.mcast && !isCopy p && !isStaged p).map pktHolds).sum

/-- Cells of a packet that its Kibitz copies still hold once it has sent them itself (R402). -/
def copyCells (s : State) (num : Nat) : Nat :=
  ((s.pot.pkts.filter fun q => q.kind = .copy num).map pktHolds).foldl max 0 -
    ((s.pot.pkts.filter fun q => q.num = num).map pktHolds).sum

/-- The packets of which copies are held. -/
def copiedPkts (s : State) : List Nat := (s.pot.pkts.filterMap fun p => match p.kind with
  | .copy num => some num
  | _ => none).eraseDups

/-- QUEUE_SHARED: the sum of S_q, multicast cells counted once. -/
def queueShared (s : State) : Nat :=
  ((busyQueues s).map fun q => uniOcc s q - qmin s q).sum + mcastCells s + ((copiedPkts s).map (copyCells s)).sum

/-- ΣQMIN (R349). -/
def qminTotal (s : State) : Nat := (s.pot.classes.map (fun c => 8 * c.qmin)).sum

/-- P_S of R349. -/
def sharedSize (s : State) : Nat := 1048576 - qminTotal s - 65536

/-- Cells in staging (R349): emitted results that are not in the multicast cache, and the panels of matrix work with the
DMA transfers that bring them. -/
def stagingCells (s : State) : Nat :=
  ((s.pot.pkts.filter fun p => isStaged p && !p.cached).map pktHolds).sum +
    (s.tables.map fun tb => (tb.jobs.map (·.staged)).sum).sum

/-- Staging cells taken from the shared pool (R354). -/
def stageShared (s : State) : Nat := stagingCells s - 65536

/-- S < 2^ALPHA × F, exactly (R352). -/
def belowAlpha (alpha : Int) (S F : Nat) : Bool :=
  if 0 ≤ alpha then S < 2 ^ alpha.toNat * F else S * 2 ^ (-alpha).toNat < F

/-- The admission test of R352 for one queue, given F. -/
def admits (s : State) (F q : Nat) (mcast : Bool) : Bool :=
  let o := occ s q
  let m := qmin s q
  (!mcast && o < m) || belowAlpha (classCfg s (q / 64) (q / 8 % 8)).alpha (o - m) F

/-! ### Link choice -/

/-- Cells that a link's queues of a class hold, across all their groups (R375). -/
def classCells (s : State) (link tc : Nat) : Nat :=
  (s.pot.pkts.map fun p =>
    if isStaged p then 0 else holds (fun l => l.link = link && l.queue / 8 % 8 = tc) p).sum

/-- The least element of a list under a measure, the first among equals. -/
def argMin {α : Type} (m : α → Nat) : List α → Option α
  | [] => none
  | x :: xs => match argMin m xs with
    | none => some x
    | some y => if m x ≤ m y then some x else some y

/-- The link that a path set chooses (R375): the emptiest link that is up, on a tie the first after the last
chosen. -/
def sprayLink (s : State) (bank path tc : Nat) : Option Nat :=
  let b := getBank s bank
  let mask := spGet b.pathSets path
  let last := (b.chosen.find? (fun e => e.1 = path)).map (·.2)
  let order := match last with
    | none => List.range 512
    | some l => (List.range 512).map (fun i => (l + 1 + i) % 512)
  argMin (fun l => classCells s l tc) (order.filter fun l => mask.testBit l && linkUp s l)

/-- Record the link that a path set chose. -/
def setChosen (bank path link : Nat) : State → State :=
  modBank bank (fun b => { b with chosen := (path, link) :: b.chosen.filter (fun e => e.1 ≠ path) })

/-! ### Packets -/

def modPkt (num : Nat) (f : QPkt → QPkt) : State → State :=
  modPot (fun p => { p with pkts := updWhere (fun q => q.num = num) f p.pkts })

def findPkt (s : State) (num : Nat) : Option QPkt := s.pot.pkts.find? (fun p => p.num = num)

/-- Credits of a link's own pool become returnable (R356), never more than the flits received. -/
def freeCredits (link pool n : Nat) : State → State :=
  modRx link (fun r => { r with pools := modAt r.pools pool (fun p => { p with freed := min p.count (p.freed + n) }) })

/-- No leg of a packet is left. -/
def pktOver (p : QPkt) : Bool := !p.legs.any fun l => !l.done

/-- Credits of the flits that a packet's cells still held when it ended (R356). -/
def freeRest (p : QPkt) (s : State) : State :=
  match p.ingress with
  | some l => if p.admitted < p.cells then freeCredits l p.pool (pFlits p.pkt - 4 * p.admitted - p.missing) s else s
  | none => s

/-- A copy whose original, still arriving, is not among these packets: its bytes will not come. -/
def orphan (ps : List QPkt) (q : QPkt) : Bool := match q.kind with
  | .copy num => q.missing ≠ 0 && !ps.any fun p => p.num = num
  | _ => false

/-- Remove packets whose every leg is done: their cells are freed. -/
def sweepPkts (s : State) : State :=
  let s := forAll (s.pot.pkts.filter pktOver) freeRest s
  let left := s.pot.pkts.filter fun q => !pktOver q
  modPot (fun p => { p with pkts := left.filter fun q => !orphan left q }) s

/-- Put a packet behind the others, under the next number. -/
def putPkt (q : QPkt) (s : State) : State :=
  modPot (fun t => { t with pkts := t.pkts ++ [{ q with num := s.pot.nextNum }], nextNum := t.nextNum + 1 }) s

/-- Store a packet for its legs; its cells wait for admission. A packet of which no leg is left is not stored. A packet
from a link names it and the credit pool by which it came. -/
def store (kind : PKind) (ingress : Option (Nat × Nat)) (tc epoch : Nat) (mcast : Bool) (p : Packet) (kib : List Nat)
    (legs : List (Nat × Nat)) (s : State) : State :=
  if legs.isEmpty then s else
  let key := queueKey tc p
  putPkt { num := 0, pkt := p, cells := if tc = 6 then 1 else pCells p, epoch := epoch, ingress := ingress.map (·.1),
           pool := (ingress.map (·.2)).getD (classPool tc), tc := tc, mcast := mcast, kind := kind, kibitz := kib,
           legs := legs.map fun l => { link := l.1, queue := queueNum s l.1 tc key, eid := l.2 } } s

def egressDrop (link : Nat) : State → State :=
  modPort (portOf link) (fun p => { p with egressDrops := p.egressDrops + 1 })

/-- Drop a packet or a leg for want of a link that is up (R373, R376). -/
def dropLinkDown (link : Nat) (s : State) : State :=
  egressDrop link (modCnt (fun c => { c with linkDown := c.linkDown + 1 }) s)

/-- Choose the leg of a unicast packet from an EID entry: link and destination, or none when the packet is
dropped; the counters of R373 and R376 rise. -/
def unicastLeg (bank eid tc : Nat) (s : State) : Option Nat × State :=
  let e := spGet (getBank s bank).eids eid
  if eidKind e = 1 then (some (eidLink e), s)
  else if eidKind e = 2 then
    match sprayLink s bank (eidPath e) tc with
    | some l => (some l, setChosen bank (eidPath e) l s)
    | none => (none, modCnt (fun c => { c with linkDown := c.linkDown + 1 }) s)
  else (none, modCnt (fun c => { c with noRoute := c.noRoute + 1 }) s)

/-- Send a packet that the GT64 itself forms to an EID: the EID table of the current bank finds its link; a fenced
destination skips it (R393). -/
def sendTo (kind : PKind) (tc : Nat) (p : Packet) (s : State) : State :=
  let eid := pDest p
  if fenced s eid then modCnt (fun c => { c with fenceDrops := c.fenceDrops + 1 }) s else
  let (l, s) := unicastLeg s.route.cur eid tc s
  match l with
  | none => s
  | some l => store kind none tc s.route.cur false p [] [(l, eid)] s

/-- Mark a packet's leg finished and free the packet once all are. -/
def legDone (num link : Nat) (s : State) : State :=
  sweepPkts (modPkt num (fun p => { p with legs := updWhere (fun l => l.link = link) (fun l => { l with done := true }) p.legs }) s)

/-- A packet's class is no longer in progress on a link. -/
def clearActive (link num : Nat) : State → State :=
  modPot (fun p => { p with egress := modAt p.egress link (fun e => { e with active := e.active.filter (fun a => a.2 ≠ num) }) })

/-- Put flits in a link's waiting flits of a pool. -/
def pushFlits (link pool : Nat) (fs : List Flit) : State → State :=
  modTx link (fun t => { t with queues := modAt t.queues pool (fun q => q ++ fs) })

/-- The DISCARD end marker of a class (Table 13-4). -/
def discardFlit (tc : Nat) : Flit := { tag := 4, words := mkW [(7, 0, tc)] :: List.replicate 7 0 }

/-- Flits of a packet have gone on a leg, and more are to come (R345, R427). -/
def onWire (l : PLeg) : Bool := l.started && 0 < l.sent && !l.done

/-- End one packet on one leg: with the discard end marker where it has started, otherwise dropped (R345, R347,
R395). -/
def cutLeg (num link : Nat) (s : State) : State :=
  match findPkt s num with
  | none => s
  | some p => match p.legs.find? (fun l => l.link = link && !l.done) with
    | none => s
    | some l =>
      let s := if onWire l && p.tc ≠ 6 then
          modPort (portOf link) (fun k => { k with discardEnds := k.discardEnds + 1 })
            (pushFlits link (classPool p.tc) [discardFlit p.tc] s)
        else s
      clearActive link num (legDone num link s)

/-- The Kibitz copies of a packet. -/
def copiesOf (s : State) (num : Nat) : List QPkt := s.pot.pkts.filter fun q => q.kind = .copy num

/-- Cut every leg of a packet that is left. -/
def cutLegs (q : QPkt) (s : State) : State := forAll (q.legs.filter fun l => !l.done) (fun l => cutLeg q.num l.link) s

/-- A leg of a packet has started and is not finished. -/
def legRuns (s : State) (num link : Nat) : Bool :=
  (findPkt s num).any fun p => p.legs.any fun l => l.link = link && onWire l

/-- End a packet on one leg; the copies of a packet that is ended with the discard marker are ended the same way
(R402). -/
def endLeg (num link : Nat) (s : State) : State :=
  let copies := if legRuns s num link then copiesOf s num else []
  forAll copies cutLegs (cutLeg num link s)

/-- End a packet whose rest does not come: with the discard end marker on every leg that has started, dropped on the
others, and its copies with it (R347, R402). -/
def endPacket (num : Nat) (s : State) : State :=
  match findPkt s num with
  | none => s
  | some p => cutLegs p (forAll (copiesOf s num) cutLegs s)

/-- A packet that is still arriving grows; a copy takes its bytes once the last is here (R343, R402). -/
def grow (num missing : Nat) (bytes : List Byte) : State → State :=
  modPot (fun t => { t with pkts := t.pkts.map fun q =>
    if q.num = num then { q with missing := missing, pkt := { q.pkt with payload := bytes } }
    else if (q.kind = .copy num) && missing = 0 then
      { q with missing := 0, pkt := { q.pkt with payload := q.pkt.payload.take 48 ++ bytes.take (q.pkt.payload.length - 48) } }
    else q })

/-- A packet may be chosen: no reorder context holds it, and a copy waits for the last flit of its original. -/
def mayGo (p : QPkt) : Bool := !p.held && match p.kind with
  | .copy _ => p.missing = 0
  | _ => true

/-- The packet as a leg carries it: a staged result goes to the leg's EID, and to the ring successor under a ROUND_HDR of
its own (R166, R169). -/
def legPacket (p : QPkt) (l : PLeg) : Packet :=
  if !isStaged p then p.pkt
  else { p.pkt with
    w0 := BitVec.ofNat 64 (p.pkt.w0.toNat / 2 ^ 21 * 2 ^ 21 + l.eid % 2 ^ 21)
    payload := (match l.hdr with
      | some h => leBytes 8 h.toNat ++ p.pkt.payload.drop 8
      | none => p.pkt.payload) }

/-- The flits that a started leg can send next: those of its admitted cells, in chain order (R342, R344). -/
def legFlits (p : QPkt) (l : PLeg) : List Flit :=
  ((packetFlits p.tc p.num (legPacket p l)).take (4 * p.admitted)).drop l.sent

/-- Count n more flits sent on a leg: its cells are freed as their last flit goes (R353). -/
def sendLeg (num link n : Nat) : State → State :=
  modPkt num (fun p => { p with
    legs := updWhere (fun l => l.link = link && !l.done) (fun l => { l with sent := l.sent + n }) p.legs })

/-- Payload rate of a link in units of 100 Gbit/s (R343). -/
def linkRate (s : State) (l : Nat) : Nat :=
  let k := getLink s l
  k.stat.lanes * (if k.stat.gen = 3 then 4 else k.stat.gen)

/-- A packet is eligible on a leg (R343): its first cell is written and the ingress is as fast, or its last cell
is written. -/
def eligible (s : State) (p : QPkt) (link : Nat) : Bool :=
  mayGo p && (p.admitted = p.cells ||
    (1 ≤ p.admitted && match p.ingress with
      | some i => linkRate s link ≤ linkRate s i
      | none => true))

/-! ### Egress choice (R338) -/

/-- The packets enqueued on a link in a class and group that have not started, oldest first. -/
def groupPkts (s : State) (link tc g : Nat) : List QPkt :=
  s.pot.pkts.filter fun p => p.legs.any fun l =>
    1 ≤ p.admitted && mayGo p && l.link = link && l.queue / 8 % 8 = tc && l.queue % 8 = g && !l.started && !l.done

/-- The head of a class on a link: its groups in rotation after the one last served. -/
def classHead (s : State) (link tc : Nat) : Option QPkt :=
  let e := s.pot.egress.getD link {}
  if e.active.any (fun a => a.1 = tc) then none else
  let last := e.groupLast.getD tc 7
  ((List.range 8).map (fun i => (last + 1 + i) % 8)).findSome? fun g =>
    match groupPkts s link tc g with
    | p :: _ => if eligible s p link then some p else none
    | [] => none

/-- Deficit round robin over TC0 to TC5 (R338): visits until a head packet fits its class's deficit. -/
def drr (s : State) (link : Nat) : Nat → Egress → Option QPkt × Egress
  | 0, e => (none, e)
  | n + 1, e =>
    let tc := e.visit
    match classHead s link tc with
    | none => drr s link n { e with deficit := e.deficit.set tc 0, visit := (tc + 1) % 6, visited := false }
    | some p =>
      let d := e.deficit.getD tc 0 + if e.visited then 0 else (classCfg s (portOf link) tc).quantum
      if p.cells ≤ d then (some p, { e with deficit := e.deficit.set tc (d - p.cells), visited := true })
      else drr s link n { e with deficit := e.deficit.set tc d, visit := (tc + 1) % 6, visited := false }

/-- The packet that an egress link starts next, and the link's scheduling state. -/
def chooseEgress (s : State) (link : Nat) : Option QPkt × Egress :=
  let e := s.pot.egress.getD link {}
  match classHead s link 7 with
  | some p => (some p, e)
  | none => match classHead s link 6 with
    | some p => (some p, e)
    | none =>
      if (List.range 6).any (fun tc => (classHead s link tc).isSome) then drr s link 128 e
      else (none, { e with deficit := List.replicate 6 0 })

/-- Start a packet on a link (R344). -/
def startLeg (num link : Nat) (e : Egress) (s : State) : State :=
  match findPkt s num with
  | none => s
  | some p =>
    let g := (((p.legs.find? (fun l => l.link = link)).map (·.queue)).getD 0) % 8
    let e := { e with active := e.active ++ [(p.tc, num)], groupLast := e.groupLast.set p.tc g }
    modPkt num (fun p => { p with legs := updWhere (fun l => l.link = link) (fun l => { l with started := true }) p.legs })
      (modPot (fun t => { t with egress := t.egress.set link e }) s)

end Sys2Proof.Machine
end

