-- ==== Sys2Proof/Machine/Link.lean ====
section
/-! DEFINITION. Operations of the links: training, leaving service, replay and credits, the time election, and
building frames (08, 13). -/

namespace Sys2Proof.Machine
open Sys2Proof

/-- RULESET_MAX (R566). -/
def rulesetMax (s : State) : Nat := if s.ident.rulesetCap = 0 then 3 else min 3 s.ident.rulesetCap

/-- ROM_VERSION as a 32-bit field. -/
def romVer : Nat := Config.romVersion % 2 ^ 32

/-- An MGMT payload (Table 18-6). -/
def mgmtPayload (type level table member digest rom patch : Nat) : List Byte :=
  bytesOf [mkW [(63, 60, type), (59, 58, level), (31, 22, table), (19, 0, member)], mkW [(63, 0, digest)],
           mkW [(63, 32, rom), (31, 0, patch)], 0]

/-! ### Device time (R238 to R246) -/

/-- The hop bound of a generation in 1/64 ns (R242). -/
def hopBound (gen : Nat) : Nat := if gen = 3 then 8 else if gen = 2 then 16 else 32

/-- Enter a time state; leaving LOCKED counts in LOCK_LOSSES, reaching it is remembered (R239, R242). -/
def setTimeState (st : Nat) : State → State :=
  modTime (fun t => { t with
    state := st, goodRun := 0, badRun := 0
    lockLosses := t.lockLosses + (if t.state = 2 && st ≠ 2 then 1 else 0)
    lockedOnce := t.lockedOnce || st = 2 })

/-- Candidate a is better than b (R241): root priority, root EID, hops, local port and lane. -/
def betterPeer (a b : TimePeer) : Bool :=
  if a.priority ≠ b.priority then a.priority < b.priority
  else if a.rootEid ≠ b.rootEid then a.rootEid < b.rootEid
  else if a.hops ≠ b.hops then a.hops < b.hops
  else a.link < b.link

/-- The best candidate of a list. -/
def bestPeer : List TimePeer → Option TimePeer
  | [] => none
  | p :: ps => match bestPeer ps with
    | none => some p
    | some q => if betterPeer q p then some q else some p

/-- Peers that offer a root other than this GT64 (R241). -/
def candidates (s : State) : List TimePeer :=
  s.time.peers.filter fun p => p.rootEid ≠ 0x1FFFFF && p.rootEid ≠ s.ident.eid && linkUp s p.link

/-- This GT64 is a better root than a candidate offers. -/
def selfBetter (s : State) (p : TimePeer) : Bool :=
  s.time.priority < p.priority || (s.time.priority = p.priority && s.ident.eid < p.rootEid)

/-- Follow an upstream peer (R241 to R243). -/
def follow (p : TimePeer) (s : State) : State :=
  let changed := s.time.upLink ≠ some p.link || s.time.isRoot
  let s := modTime (fun t => { t with
    isRoot := false, upLink := some p.link, rootEid := p.rootEid, rootPriority := p.priority
    hops := min (p.hops + 1) 8, pathBound := p.pathBound + hopBound (getLink s p.link).stat.gen }) s
  if changed then setTimeState 1 s else s

/-- Act as the time root, always LOCKED (R242). -/
def becomeRoot (s : State) : State :=
  let s := modTime (fun t => { t with isRoot := true, upLink := none, rootEid := s.ident.eid, rootPriority := t.priority, hops := 0, pathBound := 0 }) s
  if s.time.state = 2 then s else setTimeState 2 s

/-- The upstream is lost and no other is chosen: HOLDOVER where it was LOCKED, else FREE (Table 8-4). -/
def loseUpstream (s : State) : State :=
  setTimeState (if s.time.state = 2 || s.time.state = 3 then 3 else 0) (modTime (fun t => { t with upLink := none }) s)

/-- The time election of R241, in SERVICE only (R613). A peer that offers no root any more is no upstream. -/
def elect (s : State) : State :=
  if !inService s then s else
  match bestPeer (candidates s) with
  | none => if s.time.isRoot || s.time.state = 0 then becomeRoot s
      else if s.time.upLink.isSome then loseUpstream s else s
  | some p => if selfBetter s p then becomeRoot s else follow p s

/-- A link no longer serves the time exchange: an exchange in progress is discarded (R445), its peer is forgotten, and an
upstream lost leaves HOLDOVER, or FREE when it was never LOCKED, unless another upstream is chosen (R242). -/
def loseTimeLink (l : Nat) (s : State) : State :=
  let s := modLink l (fun k => { k with
    xchg := none, stat := { k.stat with timeDiscards := k.stat.timeDiscards + b2n k.xchg.isSome } }) s
  let lost := s.time.upLink = some l
  let s := modTime (fun t => { t with peers := t.peers.filter (fun p => p.link ≠ l) }) s
  if !lost then s else
  match bestPeer (candidates s) with
  | some p => if selfBetter s p then becomeRoot s else follow p (modTime (fun t => { t with upLink := none }) s)
  | none => loseUpstream s

/-! ### Training -/

/-- Lanes that a link offers (R405). -/
def offered (s : State) (l : Nat) : Nat := splitLanes (getPort s (portOf l)).split

/-- Start a training attempt at a generation (Table 13-8, step 1). -/
def startTraining (l gen : Nat) (s : State) : State :=
  modLink l (fun k => { k with
    stat := { k.stat with state := 1, gen := gen, lanes := 0 }
    train := { failedGens := k.train.failedGens, fellBack := k.train.fellBack, failedVl1 := k.train.failedVl1,
               step := 1, gen := gen, allow := genConfig s l, startedAt := now s, stepAt := now s }
    tx := {}, rx := {} }) s

/-- A link may train now: enabled, past step 9 of start-up, its port die clocked (R406, R608, R610). -/
def mayTrain (s : State) (l : Nat) : Bool :=
  isEnabled s l && 9 ≤ s.boot.step && !s.boot.stopped && s.boot.srdClockOk.getD (l / 64) true

/-- Train a link from its beginning at VL1 (R436). -/
def trainFromStart (l : Nat) (s : State) : State :=
  if mayTrain s l then
    startTraining l 1 (modTrain l (fun t => { t with failedGens := [], fellBack := false, failedVl1 := false }) s)
  else
    modLink l (fun k => { k with stat := { k.stat with state := if isEnabled s l then 0 else 5, gen := 0, lanes := 0 }, train := {}, tx := {}, rx := {} }) s

/-- Packets with flits in the replay buffer or waiting on a link. -/
def startedPkts (k : Link) : List Nat :=
  (((k.tx.replay.flatMap (·.slots)) ++ k.tx.queues.flatMap id).map (·.pkt)).filter (· ≠ 0) |>.eraseDups

/-- Choose again for one leg that has not started on a link that is gone (R376), or drop it (R373). -/
def rechoose (l : Nat) (p : QPkt) (s : State) : State :=
  let e := spGet (getBank s p.epoch).eids (pDest p.pkt)
  let tc := p.tc
  if !p.mcast && !pMc p.pkt && eidKind e = 2 then
    match sprayLink s p.epoch (eidPath e) tc with
    | some l' =>
      let q := queueNum s l' tc (queueKey tc p.pkt)
      setChosen p.epoch (eidPath e) l' (modPkt p.num (fun r => { r with
        legs := updWhere (fun x => x.link = l && !x.done) (fun x => { x with link := l', queue := q }) r.legs }) s)
    | none => legDone p.num l (dropLinkDown l s)
  else legDone p.num l (dropLinkDown l s)

/-- A link leaves service (R442): the replay buffer goes, packets started are abandoned, those still arriving by it end
(R347), those not started are chosen again or dropped. -/
def leaveService (l : Nat) (s : State) : State :=
  let k := getLink s l
  let s := modStat l (fun t => { t with state := 0 }) s
  let started := (startedPkts k ++ ((s.pot.pkts.filter (fun p => p.legs.any (fun g => g.link = l && g.started && !g.done))).map (·.num))).eraseDups
  let s := modStat l (fun t => { t with abandoned := t.abandoned + started.length }) s
  let s := forAll (s.pot.pkts.filter (fun p => p.legs.any (fun g => g.link = l && g.started && !g.done))) (fun p => legDone p.num l) s
  let s := forAll (k.rx.parts.filterMap fun x => x.bind (·.pkt)) endPacket s
  let s := forAll (s.pot.pkts.filter (fun p => p.legs.any (fun g => g.link = l && !g.started && !g.done))) (fun p => rechoose l p) s
  let s := modPot (fun p => { p with egress := p.egress.set l {} }) s
  let s := loseTimeLink l s
  modLink l (fun k => { k with tx := {}, rx := {}, peer := none, train := { k.train with step := 0, fastSince := none } }) s

/-- Start a fast retrain (R441). -/
def startFast (l : Nat) (s : State) : State :=
  if (getLink s l).stat.state = 3 then s else
  modLink l (fun k => { k with
    stat := { k.stat with state := 3, retrains := k.stat.retrains + 1 }
    tx := { k.tx with ackAsNak := true }
    xchg := k.xchg.map fun x => { x with bad := true }
    train := { k.train with step := 4, countdown := 15, syncSent := 0, peerSync := none, fastSince := some (now s) } }) s

/-- Queue a CTRL flit (Table 13-6). -/
def sendCtrl (l : Nat) (f : List W64) : State → State := modTx l (fun t => { t with ctrl := t.ctrl ++ [f] })

/-- The ACK of R424: ACK_SEQ = E - 1, FREED of every pool. -/
def ackFlit (r : LinkRx) : List W64 :=
  let w := poolWords (r.pools.map (·.freed))
  ctrlFlit 1 [(43, 32, (r.expect + 4095) % 4096), (0, 0, b2n r.accepted)] (wd w 0) (wd w 1) (wd w 2)

/-- Send an ACK (R424). -/
def sendAck (l : Nat) (s : State) : State :=
  sendCtrl l (ackFlit (getLink s l).rx) (modTx l (fun t => { t with framesSinceAck := 0, lastAck := now s }) s)

/-- Send the n-th NAK(E) for an E, in REPLAY_WAIT (R422). -/
def sendNak (l n : Nat) (s : State) : State :=
  sendCtrl l (ctrlFlit 2 [(43, 32, (getLink s l).rx.expect)] 0 0 0)
    (modStat l (fun t => { t with naksSent := t.naksSent + 1 })
      (modRx l (fun r => { r with replayWait := some n, waitSince := now s }) s))

/-- CREDITS that the GT64 advertises (R431). -/
def ownCredits (lanes : Nat) (gt64 : Bool) : List Nat :=
  let b := 256 * lanes
  let far := if gt64 then b else 0
  [b, b, b, b, b, far, far, 64 * lanes, if gt64 then 16 * lanes else 0]

/-- Send INIT and open the receive pools (R430, R436). -/
def sendInit (l : Nat) (s : State) : State :=
  let k := getLink s l
  let cs := ownCredits k.stat.lanes k.stat.peerGt64
  let w := poolWords cs
  sendCtrl l (ctrlFlit 3 [] (wd w 0) (wd w 1) (wd w 2))
    (modRx l (fun r => { r with pools := cs.map (fun c => { credits := c }) }) s)

/-- What a link that comes up at its final generation starts (R439, R450, R568). -/
def onUp (l : Nat) (s : State) : State :=
  let s := modStat l (fun k => { k with tUp := now s }) s
  if linkUp s l && peerIsGt64 s l then
    if fenced s (getLink s l).stat.peerEid then modCnt (fun c => { c with fenceDrops := c.fenceDrops + 1 }) s else
    let p := mkPacket 5 7 0 (getLink s l).stat.peerEid s.ident.eid
      (mgmtPayload 1 (rulesetMax s) 0 0 0 romVer s.ident.patchVersion)
    store .own none 7 s.route.cur false p [] [(l, (getLink s l).stat.peerEid)] s
  else s

/-- A training attempt, or a fast retrain, is complete once both directions are (Table 13-8 step 6, R441). -/
def checkTrained (l : Nat) (s : State) : State :=
  let k := getLink s l
  if k.train.step ≠ 6 then s
  else if k.train.fastSince.isSome then
    if (k.train.peerSync.getD 0) < 64 then s else
    sendAck l (modLink l (fun k => { k with stat := { k.stat with state := 2 }, train := { k.train with fastSince := none } }) s)
  else if k.stat.state = 1 && k.train.initRecv then
    onUp l (modStat l (fun t => { t with state := 2 }) s)
  else s

/-- A training attempt fails: at VL1 it starts again at VL1; above, the end idles for 1 ms and falls back to the next
lower generation (R437). -/
def failAttempt (l : Nat) (s : State) : State :=
  let k := getLink s l
  if k.train.gen ≤ 1 then
    startTraining l 1 (modTrain l (fun t => { t with failedVl1 := true }) s)
  else
    modLink l (fun k => { k with
      stat := { k.stat with fallbacks := k.stat.fallbacks + 1 }
      train := { k.train with
        step := 0, fellBack := true, failedGens := k.train.gen :: k.train.failedGens
        idleUntil := some (now s + 1000000), afterIdle := k.train.gen - 1 } }) s

/-- The width W' of R440 from the lanes that passed step 2. -/
def formWidth (own peer : Nat) (ok : List Bool) : Nat :=
  ([8, 4, 2, 1].find? fun w => w ≤ own && w ≤ peer && (ok.take w).all id && w ≤ ok.length).getD 0

/-- Logical lanes that have passed step 2, in the order the link's lanes arrive (R407). -/
def lanesOk (t : LinkTrain) (w : Nat) : List Bool :=
  let g : List Bool := (List.range w).map fun i => 3 ≤ t.goodTs.getD i 0
  if t.reversed = some true then g.reverse else g

/-- Move one tap by an EQ_REQ within its range (R648). -/
def moveTap (lo hi preset : Int) (req : Nat) (v : Int) : Int :=
  if req = 1 then (if v + 2 ≤ hi then v + 2 else v)
  else if req = 2 then (if lo ≤ v - 2 then v - 2 else v)
  else if req = 3 then preset else v

/-- A tap may move again: at most one request per tap per 16 frames (Table 13-8 step 3). -/
def tapFree (last : Option Nat) (frames : Nat) : Bool := match last with
  | none => true
  | some f => f + 16 ≤ frames

/-- Apply the EQ_REQ of a TS to the transmit taps of its lane (R648). -/
def applyEq (lane req : Nat) (t : LinkTrain) : LinkTrain :=
  let r2 := req % 4
  let r1 := req / 4 % 4
  let r0 := req / 16 % 4
  let tap := t.taps.getD lane (0, -10, 0)
  let at_ := t.tapAt.getD lane [none, none, none]
  let ok := fun i r => r ≠ 0 && tapFree (at_.getD i none) t.frames
  let tap := (if ok 0 r2 then moveTap 0 12 0 r2 tap.1 else tap.1,
              if ok 1 r1 then moveTap (-30) 0 (-10) r1 tap.2.1 else tap.2.1,
              if ok 2 r0 then moveTap (-20) 0 0 r0 tap.2.2 else tap.2.2)
  let at2 := [if ok 0 r2 then some t.frames else at_.getD 0 none,
              if ok 1 r1 then some t.frames else at_.getD 1 none,
              if ok 2 r0 then some t.frames else at_.getD 2 none]
  { t with taps := t.taps.set lane tap, tapAt := t.tapAt.set lane at2 }

/-- W' as the lanes stand: 0 while lane 0 has not passed step 2 (R440). -/
def widthNow (l : Nat) (s : State) : Nat :=
  let t := (getLink s l).train
  formWidth (offered s l) t.peerWidth (lanesOk t (offered s l))

/-- Step 2 ends at a width: equalising begins, and LANE_FAIL records the lanes left out (R440). -/
def formLink (l w : Nat) (s : State) : State :=
  let fail := (List.range 8).foldl (fun a i => if w ≤ i && i < offered s l then a + 2 ^ i else a) 0
  modLink l (fun k => { k with
    stat := { k.stat with lanes := w, laneFail := fail }, train := { k.train with step := 3, stepAt := now s } }) s

/-- The lanes of a link lie within 8 lane frame periods of each other by their TRAIN_FC (R419). -/
def lanesAligned (t : LinkTrain) (w : Nat) : Bool :=
  let fcs := (t.laneFc.take w).filterMap id
  fcs.all fun a => fcs.all fun b => (a + 256 - b) % 256 ≤ 8 || (b + 256 - a) % 256 ≤ 8

/-- Steps 2 and 3 of Table 13-8 are done when every lane that both ends offer is locked and EQ_DONE has gone both ways; a
narrower link forms when step 2 passes its limit (R440). -/
def checkSteps (l : Nat) (s : State) : State :=
  let k := getLink s l
  let w := widthNow l s
  if k.train.step = 1 && 0 < w && w = min (offered s l) k.train.peerWidth then formLink l w s
  else if k.train.step = 3 && k.train.eqSent && (k.train.peerEqDone.take k.stat.lanes).all id then
    modTrain l (fun t => { t with step := 4, countdown := 15, syncSent := 0 }) s
  else s

/-! ### Replay and credits -/

/-- Forget replay frames up to and including a sequence number (R423, R424). -/
def ackUpTo (seq : Nat) (t : LinkTx) : LinkTx :=
  if t.replay.any (fun f => f.seq = seq) then
    let rest := ((t.replay.dropWhile (fun f => f.seq ≠ seq)).drop 1)
    { t with replay := rest, resend := t.resend.filter (fun f => rest.contains f) }
  else t

/-- Resend from sequence number E (R423). -/
def replayFrom (e : Nat) (t : LinkTx) : LinkTx :=
  let rest := t.replay.dropWhile (fun f => f.seq ≠ e)
  { t with replay := rest, resend := rest }

/-- Take FREED counts: each is cumulative modulo 65,536, so an older one changes nothing (R424, R430). -/
def takeFreed (cs : List Nat) (ps : List Pool) : List Pool :=
  List.zipWith (fun c p =>
    let d := (c + 65536 - p.freed % 65536) % 65536
    if d < 32768 then { p with freed := p.freed + d } else p) cs ps

/-- A pool lets one more flit go (R430). -/
def hasCredit (p : Pool) : Bool := p.count - p.freed < p.credits

/-- Take up to n flits of one pool, as its credits allow; DISCARD needs none (R417). -/
def takePool : Nat → List Flit → Pool → List Flit × List Flit × Pool
  | 0, q, p => ([], q, p)
  | n + 1, q, p => match q with
    | [] => ([], [], p)
    | f :: q' =>
      if f.tag = 4 then
        let (a, b, c) := takePool n q' p
        (f :: a, b, c)
      else if hasCredit p then
        let (a, b, c) := takePool n q' { p with count := p.count + 1 }
        (f :: a, b, c)
      else ([], q, p)

/-- Up to n of the PIP or KEEPER flits that wait on a link. -/
def takeQueue (l pool n : Nat) (s : State) : List Flit × State :=
  let t := (getLink s l).tx
  let (a, q, p) := takePool n (t.queues.getD pool []) (t.pools.getD pool {})
  (a, modTx l (fun t => { t with queues := t.queues.set pool q, pools := t.pools.set pool p }) s)

/-- The packet in progress in a class of a link, with its leg there. -/
def inClass (s : State) (l tc : Nat) : Option (QPkt × PLeg) :=
  (((s.pot.egress.getD l {}).active.find? fun a => a.1 = tc).bind fun a => findPkt s a.2).bind fun p =>
    (p.legs.find? fun g => g.link = l && g.started && !g.done).map fun g => (p, g)

/-- Up to n flits of a class: its discard end markers, then those of the packet in progress, as the credits allow
(R344, R430). -/
def takeClass (l tc n : Nat) (s : State) : List Flit × State :=
  let t := (getLink s l).tx
  let pool := classPool tc
  let ends := if tc = 6 then [] else t.queues.getD pool []
  let act := inClass s l tc
  let (a, _, p) := takePool n (ends ++ (act.map fun x => legFlits x.1 x.2).getD []) (t.pools.getD pool {})
  let s := modTx l (fun t => { t with
    queues := if tc = 6 then t.queues else t.queues.set pool (ends.drop a.length), pools := t.pools.set pool p }) s
  (a, match act with
    | some x => sendLeg x.1.num l (a.length - ends.length) s
    | none => s)

/-- Up to n flits over classes in order. -/
def takeClasses (l : Nat) : List Nat → Nat → State → List Flit × State
  | [], _, s => ([], s)
  | c :: cs, n, s =>
    let (a, s) := takeClass l c n s
    let (b, s) := takeClasses l cs (n - a.length) s
    (a ++ b, s)

/-- The classes of a link as a frame serves them: TC7, TC6, then TC0 to TC5 in the order in which deficit round robin
started their packets (R338). -/
def frameClasses (s : State) (l : Nat) : List Nat :=
  [7, 6] ++ ((((s.pot.egress.getD l {}).active.map (·.1)).filter (· < 6)) ++ List.range 6).eraseDups

/-- The flits of a frame's n free slots: PIP, KEEPER, then the bulk classes (DESIGN CHOICE, log 12). They are read from the
Pot as the frame takes them, at most the eight cells that its slots hold (R342). -/
def takeFrame (l n : Nat) (s : State) : List Flit × State :=
  let (a, s) := takeQueue l 7 n s
  let (b, s) := takeQueue l 8 (n - a.length) s
  let (c, s) := takeClasses l (frameClasses s l) (n - a.length - b.length) s
  (a ++ b ++ c, s)

/-- An IDLE flit. -/
def idleFlit : Flit := { tag := 0, words := List.replicate 8 0 }

/-- The lanes' content of a link frame of slots (R418). -/
def frameLanes (w : Nat) (unseq : Bool) (seq : Nat) (slots : List Flit) : List (List Byte) :=
  (List.range w).map fun lane =>
    buildLane unseq lane seq ((List.range 4).map fun p => slots.getD (p * w + lane) idleFlit)

/-- Emit a link frame and move the scramblers on (R413). -/
def emitFrame (l : Nat) (unseq : Bool) (seq : Nat) (slots : List Flit) (s : State) : State :=
  let k := getLink s l
  emit (.linkFrame l unseq seq (frameLanes k.stat.lanes unseq seq slots) (k.tx.scr.take k.stat.lanes))
    (modTx l (fun t => { t with scr := t.scr.map (fun r => (scramble 2160 r).2), periods := t.periods + 1 }) s)

end Sys2Proof.Machine
end

