-- ==== Sys2Proof/Machine/Mem.lean ====
section
/-! DEFINITION. Word protection and the Scoresheet: what a corrected or failing word counts and logs (16), the
events that HazardSpec counts (10), and appending a record with its CHAIN (17). -/

namespace Sys2Proof.Machine
open Sys2Proof

/-- Source entry i of HazardSpec (Table 10-6), and its fields. -/
def hazEntry (s : State) (i : Nat) : Nat := fld (wd s.hazard.spec (i / 2)) (32 * (i % 2) + 31) (32 * (i % 2))
def hazOn (e : Nat) : Bool := e.testBit 31
def hazThreshold (e : Nat) : Nat := e / 65536 % 32768
def hazWindow (e : Nat) : Nat := e % 65536

/-- The number of the window that runs (R314). -/
def hazWindowNow (s : State) (i : Nat) : Nat := now s / (hazWindow (hazEntry s i) * 1000000)

/-- An event of a HazardSpec source is counted in its window; the count restarts at each window's start (R314). -/
def hazardCount (i : Nat) (s : State) : State :=
  let k := hazWindowNow s i
  modHazard (fun h => { h with src := modAt h.src i (fun x =>
    if x.window = k then { x with count := x.count + 1 } else { window := k, count := 1 }) }) s

/-- The hazard source that counts a tier's corrections (R519): SRC0 HBM3E, SRC1 LPDDR5X, SRC2 the Pot. -/
def tierHazard (tier : Nat) : Option Nat :=
  if tier = 1 then some 0 else if tier = 2 then some 1 else if tier = 0 then some 2 else none

/-- REGION of Table 16-7. -/
def regionOf : WordOwner → Nat
  | .free => 0
  | .packetCell _ _ => 1
  | .accumulator _ _ _ => 2
  | .staging _ _ _ => 3
  | .keeper _ _ => 4
  | .feedQueue _ => 5
  | .residual _ _ _ => 6
  | .multicastCache _ _ _ => 7
  | .doubleSlot _ _ _ _ => 8
  | .gradientLog _ _ => 9
  | .scoresheet _ => 10
  | .checkpoint _ => 11
  | .moveWindow _ => 12
  | .routeBank _ _ _ => 13
  | .cpStore => 14
  | .other => 15

/-- The table that owns a word, where one does. -/
def ownerTable : WordOwner → Option Nat
  | .accumulator t _ _ => some t
  | .staging t _ _ => some t
  | .keeper t _ => some t
  | .feedQueue t => some t
  | .residual t _ _ => some t
  | .multicastCache t _ _ => some t
  | .doubleSlot _ t _ _ => some t
  | .gradientLog _ t => some t
  | .checkpoint t => some t
  | .moveWindow t => some t
  | _ => none

/-- Log a memory event, unless one of the same tier, address and kind was logged within the last 1 ms (R532). -/
def logEvent (tier kind bit addr : Nat) (o : WordOwner) (byScrub : Bool) (s : State) : State :=
  let dup := s.mem.log.any fun r => r.tier = tier && r.address = addr && r.kind = kind && now s < r.time + 1000000
  if dup then s else
  let unit := if tier = 0 then addr / 4194304 % 64 else if tier = 1 then addr / 256 % 8 else 0
  let r : MemLog := { seq := s.mem.logNext, time := now s, tier := tier, kind := kind, region := regionOf o,
                      byScrub := byScrub, bit := bit, unit := unit, table := ownerTable o, address := addr }
  modMem (fun m => { m with log := (r :: m.log).take 256, logNext := m.logNext + 1 }) s

def modTier (tier : Nat) (f : MemTier → MemTier) : State → State :=
  modMem (fun m => { m with tiers := modAt m.tiers tier f })

/-- What has been counted of a word. -/
def wordSeen (s : State) (tier addr : Nat) : WordSeen :=
  (s.mem.seen.find? (fun w => w.tier = tier && w.address = addr)).getD { tier := tier, address := addr }

def setSeen (w : WordSeen) : State → State :=
  modMem (fun m => { m with seen := w :: m.seen.filter (fun x => !(x.tier = w.tier && x.address = w.address)) })

/-- A word's value is written afresh: nothing is counted of it any more (R519). -/
def forgetWord (tier addr : Nat) : State → State :=
  modMem (fun m => { m with seen := m.seen.filter (fun x => !(x.tier = tier && x.address = addr)) })

/-- A word is corrected (R518, R519): counted, a second time after its write-back as PERSISTENT; the hazard source of
its tier counts it too. -/
def wordCorrected (tier addr bit : Nat) (o : WordOwner) (byScrub rewritten : Bool) (s : State) : State :=
  let w := wordSeen s tier addr
  let again := w.corrected
  let s := modTier tier (fun t => { t with
    corrected := t.corrected + 1, persistent := t.persistent + if again then 1 else 0 }) s
  let s := match tierHazard tier with
    | some i => hazardCount i s
    | none => s
  let s := logEvent tier (if again then 2 else 0) bit addr o byScrub s
  if rewritten then forgetWord tier addr s else setSeen { w with corrected := true } s

/-- A word fails (R516, R519): counted once for each value written to it, and WORD_FAIL sets (Table 20-8). -/
def wordFailed (tier addr : Nat) (o : WordOwner) (byScrub : Bool) (s : State) : State :=
  let w := wordSeen s tier addr
  if w.failed then s else
  let s := modTier tier (fun t => { t with uncorrectable := t.uncorrectable + 1 }) s
  setSeen { w with failed := true } (setCause 6 (logEvent tier 1 0x7F addr o byScrub s))

/-- A demand read of a word that lies where the GT64 has placed it: its address is the GT64's choice (R29), a free
value. -/
def readWord (tier : Nat) (o : WordOwner) (w : WordRead) (s : State) : State :=
  match w with
  | .ok => s
  | .corrected bit => freeNext (wordCorrected tier (8 * freeVal s) bit o false false s)
  | .failed => freeNext (wordFailed tier (8 * freeVal s) o false s)

/-- The GT64 writes a word in a tier and region: an armed ErrorInject is used up there (R534). -/
def wroteWord (tier region : Nat) (s : State) : State :=
  let i := s.mem.inject
  if bitAt i 48 && fld i 63 62 = tier && fld i 59 56 = region then
    modMem (fun m => { m with inject := m.inject - (1#64 <<< 48), injected := m.injected + 1 }) s
  else s

/-- Records that the Scoresheet ring holds (R538). -/
def sheetSize : Nat := 67108864

/-- Append a record whose words 1 to 6 are given: SEQ, and CHAIN over the chain before and bytes 0 to 55
(R538, R541). -/
def appendSheet (body : List W64) (s : State) : State :=
  let seq := s.sheet.newestSeq + 1
  let head := mkW [(63, 0, seq)] :: (body.take 6 ++ List.replicate (6 - body.length) 0)
  let chain := crc64 (bytesOf (s.sheet.chain :: head))
  wroteWord 2 10 (modSheet (fun t => { t with
    records := ((head ++ [chain]) :: t.records).take sheetSize
    newestSeq := seq, chain := chain, tNewest := now s }) s)

end Sys2Proof.Machine
end

