-- ==== Sys2Proof/Machine/TableOps.lean ====
section
/-! DEFINITION. Operations on tables: finding and updating them, the tree of their members, the places of seats,
reservations of HBM, and the Scoresheet records of tables and rounds (07, 16, 17). -/

namespace Sys2Proof.Machine
open Sys2Proof

/-! ### Tables and rounds -/

def findTable (s : State) (t : Nat) : Option Table := s.tables.find? (fun x => x.id = t)

def modTable (t : Nat) (f : Table → Table) (s : State) : State :=
  { s with tables := updWhere (fun x => x.id = t) f s.tables }

def getRound (tb : Table) (r : Nat) : Option Round := tb.rounds.find? (fun x => x.spec.round = r)

def findRound (s : State) (t r : Nat) : Option (Table × Round) :=
  match findTable s t with
  | none => none
  | some tb => (getRound tb r).map fun x => (tb, x)

def modRound (t r : Nat) (f : Round → Round) : State → State :=
  modTable t (fun tb => { tb with rounds := updWhere (fun x => x.spec.round = r) f tb.rounds })

def modKeeper (t : Nat) (f : Keeper → Keeper) : State → State :=
  modTable t (fun tb => { tb with keeper := tb.keeper.map f })

def modPrim (t : Nat) (f : PrimEnd → PrimEnd) : State → State :=
  modKeeper t (fun k => { k with dbl := f k.dbl })

/-- Rounds open device-wide (R161). -/
def openRounds (s : State) : Nat := (s.tables.map fun t => (t.rounds.filter fun r => !r.done).length).sum

/-- Insert or replace an entry of a list that rises by key. -/
def putE : List (Nat × Nat) → Nat → Nat → List (Nat × Nat)
  | [], k, v => [(k, v)]
  | e :: m, k, v => if e.1 < k then e :: putE m k v else if e.1 = k then (k, v) :: m else (k, v) :: e :: m

def getE (m : List (Nat × Nat)) (k : Nat) : Option Nat := (m.find? fun e => e.1 = k).map (·.2)

def putAll (m : List (Nat × Nat)) (es : List (Nat × Nat)) : List (Nat × Nat) := es.foldl (fun a e => putE a e.1 e.2) m

/-- Insert into a list of numbers kept rising, without repeats. -/
def insertN : Nat → List Nat → List Nat
  | k, [] => [k]
  | k, x :: xs => if x < k then x :: insertN k xs else if x = k then x :: xs else k :: x :: xs

def sortN (xs : List Nat) : List Nat := xs.foldl (fun a k => insertN k a) []

/-! ### The tree (R30 to R33, R163, R168) -/

/-- EID of a member that the TableSpec lists. -/
def eidOf (tb : Table) (m : Nat) : Nat := ((tb.entries.find? fun e => e.member = m).map (·.eid)).getD 0x1FFFFF

def membersOf (tb : Table) (rel : Nat) : List Nat := sortN ((tb.entries.filter fun e => e.relation = rel).map (·.member))

/-- Children in ascending member index. -/
def children (tb : Table) : List Nat := membersOf tb 1

def parentOf (tb : Table) : Option Nat := (membersOf tb 0).head?

def isLeaf (tb : Table) : Bool := tb.tier = 0 || tb.tier = 3
def isCrown (tb : Table) : Bool := tb.tier = 2 || tb.tier = 3

/-- Ring position of a member on a board. -/
def posOf (b : Board) (m : Nat) : Option Nat := b.ring.findIdx? (fun x => x = m)

/-- Own ring position of a crown member. -/
def ownPos (tb : Table) (b : Board) : Nat := (posOf b tb.member).getD 0

def ringAt (b : Board) (i : Nat) : Nat := b.ring.getD (i % max 1 b.ring.length) 0

def succOf (tb : Table) (b : Board) : Nat := ringAt b (ownPos tb b + 1)
def predOf (tb : Table) (b : Board) : Nat := ringAt b (ownPos tb b + b.ring.length - 1)

/-- Walk up from a leaf until a member that this GT64 places: itself, a child, or a ring member. What lies between
is not in its TableSpec (DESIGN CHOICE, log 14). -/
def walkUp (tb : Table) (b : Board) : Nat → Nat → Nat
  | 0, m => m
  | n + 1, m =>
    if m = tb.member || (children tb).contains m || b.ring.contains m then m
    else walkUp tb b n (Config.parentOf tb.id m)

/-- The seats attached here, in ascending seat number. -/
def seatsHere (tb : Table) (b : Board) : List SeatEntry :=
  if isLeaf tb then
    let xs := b.seats.filter fun e => e.leaf = tb.member
    (sortN (xs.map (·.seat))).filterMap fun k => xs.find? fun e => e.seat = k
  else []

/-- The seats beneath a child. -/
def seatsUnder (tb : Table) (b : Board) (child : Nat) : List SeatEntry :=
  b.seats.filter fun e => walkUp tb b 4 e.leaf = child

/-- A ring member has a seat of the board in its subtree (R168). -/
def ringSeated (tb : Table) (b : Board) (m : Nat) : Bool :=
  b.seats.any fun e =>
    let u := walkUp tb b 4 e.leaf
    u = m || (m = tb.member && (children tb).contains u)

/-- Position of a seat on a board (R196). -/
def seatPos (b : Board) (seat : Nat) : Option Nat := b.seats.findIdx? (fun e => e.seat = seat)

/-- The EIDs of a table's tree links here: parent, children, both ring neighbours of a crown member. -/
def treeEids (tb : Table) (b : Board) : List Nat :=
  let ring := if isCrown tb && 1 < b.ring.length then [succOf tb b, predOf tb b].eraseDups.map (eidOf tb) else []
  ((parentOf tb).map (eidOf tb)).toList ++ ring ++ (children tb).map (eidOf tb)

/-! ### HBM (R114, R263, R297, R512) -/

/-- Bytes per parameter by rule (Table 9-1). -/
def bpp (rule : Nat) : Nat := if rule = 1 then 14 else 10

/-- The boundary at which this GT64 sends upward (R99): its own level, in a leaf or middle role. -/
def sendSpec (tb : Table) (b : Board) : Option NSpec :=
  if tb.tier ≤ 1 then b.nspecs.find? fun n => n.enable && n.boundary = tb.level else none

/-- Residual reservation of a board here (R114). -/
def residBytes (tb : Table) (b : Board) : Nat :=
  match sendSpec tb b with
  | some n => n.residCap * 1048576 * 4
  | none => 0

def tableResid (tb : Table) : Nat :=
  residBytes tb tb.board + match tb.other with
    | some (b, _, true) => residBytes tb b
    | _ => 0

def keeperBytes (tb : Table) : Nat :=
  match tb.keeper with
  | some k => if isCrown tb then k.spec.quota * 1000000 * bpp k.spec.rule else 0
  | none => 0

def feedBytes (tb : Table) : Nat :=
  match tb.keeper with
  | some k => if isCrown tb then k.spec.quota * 1000000 * 2 else 0
  | none => 0

/-- RESERVED_BYTES of tier 1, tables that wait to open included (R492). -/
def hbmReserved (s : State) : Nat :=
  ((s.tables ++ s.opening.map (·.table)).map fun t => tableResid t + keeperBytes t + feedBytes t).sum

/-- Bytes of accumulators spilled to HBM. -/
def chunkBytes (c : Chunk) : Nat := if c.hbm && c.state ≤ 2 then 256 * c.cells else 0

def spillBytes (tb : Table) : Nat := (tb.rounds.map fun r => (r.chunks.map chunkBytes).sum).sum

/-- Bytes of the free region in use: spilled accumulators and the parameter multicast cache (R285, R512). -/
def freeUsed (s : State) : Nat :=
  (s.tables.map spillBytes).sum + ((s.pot.pkts.filter (·.cached)).map fun p => 256 * pktHolds p).sum

/-- Size of the free region (R512). -/
def freeRegion (s : State) : Nat := 768000000000 - 40000000000 - hbmReserved s

/-- Open rounds that hold no chunk in HBM, whose floors R515 keeps. -/
def floorRounds (s : State) : Nat :=
  (s.tables.map fun t => (t.rounds.filter fun r => !r.done && !r.chunks.any fun c => c.hbm && c.state ≤ 2).length).sum

/-- RED_CELLS (R355). -/
def redCells (s : State) : Nat :=
  (s.tables.map fun t => (t.rounds.map fun r => (r.chunks.map fun c => if !c.hbm && c.state ≤ 2 then c.cells else 0).sum).sum).sum

/-- F: free cells of the shared pool (R352). -/
def sharedFree (s : State) : Nat := sharedSize s - redCells s - stageShared s - queueShared s

/-! ### Scoresheet records (R539) -/

/-- A TABLE record (Table 17-4). -/
def tableRecord (event : Nat) (turn : Nat) (tb : Table) (s : State) : State :=
  appendSheet
    [mkW [(63, 60, 3), (59, 56, event), (55, 52, if event = 2 then tb.halt else 0), (51, 49, tb.phase), (25, 16, tb.id),
          (15, 0, tb.board.serial)],
     mkW [(19, 0, tb.member)], mkW [(63, 16, turn)], mkW [(63, 0, tb.board.digest)], mkW [(63, 0, now s)],
     mkW [(63, 0, tb.executed)]] s

/-- A ROUND record (Table 17-2); span is ELEM_HI - ELEM_LO. -/
def roundRecord (tb : Table) (r : Round) (span : Nat) (s : State) : State :=
  appendSheet
    [mkW [(63, 60, 1), (59, 56, r.status), (55, 55, b2n (r.status ≠ 0)), (54, 54, b2n r.spec.bank), (53, 53, b2n r.epoch),
          (52, 52, b2n r.spec.narrow), (51, 51, b2n r.spec.keeper), (50, 48, r.spec.kind), (47, 45, r.spec.op),
          (44, 43, tb.tier), (42, 35, r.spec.resFmt), (25, 16, tb.id), (15, 0, r.board.serial)],
     mkW [(63, 32, r.spec.round), (19, 0, tb.member)], mkW [(63, 16, r.turn)], mkW [(63, 0, r.digest)],
     mkW [(63, 0, r.tDone)], mkW [(34, 0, span)]] s

end Sys2Proof.Machine
end

