-- ==== Sys2Proof/Machine/KeeperOps.lean ====
section
/-! DEFINITION. Operations that the Keeper shares with rounds: Keeper flits and Pip packets on their way out, READY,
clip groups and commits (08, 09). -/

namespace Sys2Proof.Machine
open Sys2Proof

/-! ### Selecting for Kibitz copies (R399, R400) -/

/-- A packet carries a TABLE_ID in a ROUND_HDR, a DoubleFeed header or a DoubleSync header (R399). -/
def carriesTable (p : Packet) : Bool := pPtype p = 1 || pPtype p = 2 || (pPtype p = 4 && pKsub p ≤ 1)

/-- A flow field of KibitzSpec names an EID or any. -/
def flowIs (f eid : Nat) : Bool := f = 0x1FFFFF || f = eid

/-- An enabled session matches a packet that enters on a link (R399, MATCH 0, 2 and 3). -/
def entersMatch (l : Nat) (p : Packet) (k : Kibitz) : Bool :=
  let m := fld k.w0 63 61
  bitAt k.w0 60 &&
    ((m = 0 && portOf l = fld k.w0 47 42) || (m = 2 && flowIs (fld k.w1 41 21) (pSrc p) && flowIs (fld k.w1 20 0) (pDest p)) ||
     (m = 3 && carriesTable p && pTable p = fld k.w0 41 32))

/-- An enabled session matches a packet that leaves on a link (R399, MATCH 1). -/
def leavesMatch (l : Nat) (k : Kibitz) : Bool := bitAt k.w0 60 && fld k.w0 63 61 = 1 && portOf l = fld k.w0 47 42

def modKibitz (i : Nat) (f : Kibitz → Kibitz) : State → State := modRoute (fun r => { r with kibitz := modAt r.kibitz i f })

/-- Count a matching packet in every session, and name the sessions that select it (R400). -/
def kibitzSelect (m : Kibitz → Bool) (s : State) : List Nat × State :=
  let hit := (List.range 8).filter fun i => m (s.route.kibitz.getD i {})
  let sel := hit.filter fun i =>
    let k := s.route.kibitz.getD i {}
    k.matched % 2 ^ fld k.w0 59 56 = 0
  (sel, forAll hit (fun i => modKibitz i fun k => { k with matched := k.matched + 1 }) s)

/-- An enabled session matches a Pip packet that overflows (R399): by its ingress port, or by the TABLE_ID of its ROUND_HDR.
It names no source and no destination. -/
def pipMatch (port : Nat) (ws : List W64) (k : Kibitz) : Bool :=
  let m := fld k.w0 63 61
  bitAt k.w0 60 &&
    ((m = 0 && port = fld k.w0 47 42) || (m = 2 && fld k.w1 41 21 = 0x1FFFFF && fld k.w1 20 0 = 0x1FFFFF) ||
     (m = 3 && pipType ws ≤ 1 && fld (wd ws 0) 31 22 = fld k.w0 41 32))

/-! ### Sending beside the Pot -/

/-- The LOCAL link of an EID in a bank, when it is up (R390). -/
def bankLink (s : State) (bank eid : Nat) : Option Nat :=
  let e := spGet (getBank s bank).eids eid
  if eidKind e = 1 && linkUp s (eidLink e) then some (eidLink e) else none

/-- The LOCAL link of an EID in the current bank, when it is up. -/
def localLink (s : State) (eid : Nat) : Option Nat := bankLink s s.route.cur eid

def fenceDrop : State → State := modCnt (fun c => { c with fenceDrops := c.fenceDrops + 1 })

/-- A link that is up with a GT64 at its far end: the one that its EID table names first (R428). -/
def kLink (s : State) (eid : Nat) : Option Nat :=
  let far := fun l => linkUp s l && peerIsGt64 s l && (getLink s l).stat.peerEid = eid
  match localLink s eid with
  | some l => if far l then some l else (List.range 512).find? far
  | none => (List.range 512).find? far

/-- Send a Keeper flit to another GT64 (R428): bare on a link to that GT64, wrapped in a packet of TC5 otherwise. -/
def sendKFlit (eid : Nat) (ws : List W64) (s : State) : State :=
  if fenced s eid then fenceDrop s
  else match kLink s eid with
    | some l => pushFlits l 8 [{ tag := 3, words := ws }] s
    | none => sendTo .own 5 (mkPacket 4 5 2 eid s.ident.eid (bytesOf ws)) s

/-- Put a Pip packet of an issue queue through the Pot in TC6 on the links that remain (R235), counted for each port, and
selected for Kibitz copies like any bulk packet (R399). -/
def pipToPot (port : Nat) (ws : List W64) (links : List (Nat × Nat)) (epoch : Nat) (s : State) : State :=
  let p : Packet := { w0 := 0, w1 := 0, payload := bytesOf ws }
  let s := forAll (links.map fun l => portOf l.1).eraseDups (fun i => modPort i (fun k => { k with pipOverflow := k.pipOverflow + 1 })) s
  let (kib, s) := kibitzSelect (pipMatch port ws) s
  store (.pip port) none 6 epoch (1 < links.length) p kib links s

/-- A Pip packet as the Pot holds it. -/
def potPip (q : QPkt) : Option (List W64) := match q.kind with
  | .pip _ => some (wordsOf 8 q.pkt.payload)
  | _ => none

/-- Two Pip packets, by their words, are of one round. -/
def sameRoundW (a b : List W64) : Bool :=
  fld (wd a 0) 63 32 = fld (wd b 0) 63 32 && fld (wd a 0) 31 22 = fld (wd b 0) 31 22

/-- A ROUND packet of the same round already overflowed for one of the links (R232). -/
def roundOverflowed (s : State) (ws : List W64) (links : List (Nat × Nat)) : Bool :=
  s.pot.pkts.any fun q => match potPip q with
    | some ps => pipType ps = 0 && sameRoundW ps ws && q.legs.any fun l => (links.any fun x => x.1 = l.link) && !l.done
    | none => false

/-- Egress ports that a packet still needs. -/
def pipPorts (p : PipPkt) : List Nat := (p.links.map fun l => portOf l.1).eraseDups

/-- Two Pip packets are of one round. -/
def sameRound (p q : PipPkt) : Bool := sameRoundW p.words q.words

/-- Take a packet out of the issue queues. -/
def dropPip (num : Nat) : State → State :=
  modLadder (fun d => { d with queues := d.queues.map fun q => q.filter fun p => p.num ≠ num })

/-- A fence that waits for a packet waits for another as well. -/
def alsoWaits (num new : Nat) (f : Fence) : Fence :=
  if f.waitFor.contains num then { f with waitFor := f.waitFor ++ [new] } else f

/-- A packet forwarded in Pawn mode is counted (Table 15-12). -/
def countForward (s : State) : State :=
  if s.pawn.cause ≠ 0 then modPawn (fun p => { p with pktsForwarded := p.pktsForwarded + 1 }) s else s

/-- The issue queue that holds a packet. -/
def pipQueue (s : State) (num : Nat) : Nat :=
  ((List.range 64).find? fun i => (s.ladder.queues.getD i []).any fun p => p.num = num).getD 0

/-- Send a packet of the Ladder through the Pot; a fence that waits for it waits for what it becomes as well (R235,
R394). -/
def pipOver (p : PipPkt) (s : State) : State :=
  let new := s.pot.nextNum
  let s := modRoute (fun r => { r with fences := r.fences.map (alsoWaits p.num new) }) s
  countForward (pipToPot (pipQueue s p.num) p.words p.links p.epoch (dropPip p.num s))

/-- The ROUND packets of a SIG packet's round that are bound for a port of it go through the Pot ahead of it, so that it
does not pass them there (R232; DESIGN CHOICE, log 83). -/
def roundsAhead (ws : List W64) (ports : List Nat) (s : State) : State :=
  if pipType ws ≠ 1 then s else
  forAll ((s.ladder.queues.flatMap id).filter fun q =>
    pipType q.words = 0 && sameRoundW q.words ws && (pipPorts q).any ports.contains) pipOver s

/-- The issue queue of what no arriving packet causes, which is not stated (R233). -/
abbrev noPort : Nat := Config.ownQueue % 64

/-- The Pip engine emits one packet for a set of destinations (R233): into the issue queue of the port at which the causing
packet arrived, or through the Pot when that queue is full (R235). A fenced or unreachable destination is left out
(R390, R393). -/
def pipSend (port : Nat) (eids : List Nat) (ws : List W64) (s : State) : State :=
  let live := eids.filter fun e => !fenced s e
  let s := forAll (eids.filter (fenced s)) (fun _ => fenceDrop) s
  let links := (live.filterMap fun e => (localLink s e).map fun l => (l, e)).eraseDups
  let s := forAll (live.filter fun e => (localLink s e).isNone)
    (fun _ => modCnt (fun c => { c with linkDown := c.linkDown + 1 })) s
  if links.isEmpty then s
  else
    let q := s.ladder.queues.getD port []
    if 4 ≤ q.length || (pipType ws = 1 && roundOverflowed s ws links) then
      pipToPot port ws links s.route.cur (roundsAhead ws (links.map fun l => portOf l.1).eraseDups s)
    else modPot (fun t => { t with nextNum := t.nextNum + 1 })
      (modLadder (fun d => { d with
        queues := d.queues.set port (q ++ [{ num := s.pot.nextNum, words := ws, links := links, epoch := s.route.cur }]) }) s)

/-! ### READY and commits (R271 to R277) -/

/-- FP32 and FP64 1.0. -/
def one32 : Nat := 0x3F800000

/-- PART: the sum of g × g in FP64 (R275). -/
def partOf (gs : List Nat) : Nat :=
  gs.foldl (fun a g => let v := decodeF bf16 g; arithF fp64 (addV (decodeF fp64 a) (mulV v v))) 0

/-- A READY flit (Table 9-3). -/
def readyFlit (table round member turn pos : Nat) (good : Bool) (part : Nat) : List W64 :=
  [mkW [(63, 32, round), (31, 22, table), (19, 0, member)], mkW [(63, 16, turn), (13, 8, pos), (0, 0, b2n good)],
   mkW [(63, 0, part)], 0, 0, 0, 0, mkW [(63, 60, 1)]]

/-- CLIP of a turn clips: a finite value above 0 (R274). -/
def clips (clip : Nat) : Bool := isFiniteBits fp32 clip && ltV (.num 0 0) (decodeF fp32 clip) = some true

/-- A round holds READY from every position; a round that has failed counts as holding them (R276). -/
def allReady (r : Round) : Bool := r.done || (List.range r.board.ring.length).all fun i => r.ready.any fun h => h.pos = i

/-- Every READY of the round is good and the round has not failed. -/
def goodRound (r : Round) : Bool := !r.done && r.ready.all (·.good)

/-- A round commits at this member (R272): its updates are ready for the Keeper units, with c. -/
def commitRound (t r c : Nat) (s : State) : State :=
  modKeeper t (fun k => { k with work := k.work ++ [{ round := r, c := c }] })
    (modRound t r (fun x => { x with committed := true }) s)

/-- A PART of the good rounds in the order of R276. -/
def groupParts (rs : List Round) : List Nat :=
  rs.flatMap fun r => (List.range r.board.ring.length).filterMap fun i => (r.ready.find? fun h => h.pos = i).map (·.part)

/-- A closed clip group commits (R276, R277). -/
def commitGroup (t : Nat) (g : ClipGroup) (s : State) : State :=
  match findTable s t with
  | none => s
  | some tb =>
    let rs := ((sortN g.rounds).filterMap (getRound tb)).filter goodRound
    let n2 := (groupParts rs).foldl (fadd fp64) 0
    let nrm := fsqrt fp64 n2
    let above := ltV (decodeF fp32 g.clip) (decodeF fp64 nrm)
    let c := match above with
      | some false => one32
      | some true => match decodeF fp32 g.clip, decodeF fp64 nrm with
        | .num m e, .num m' e' => arithRat fp32 false m.natAbs m'.natAbs (e - e')
        | .num _ _, .inf _ => 0
        | _, _ => fp32.nanBits
      | none => fp32.nanBits
    let s := modKeeper t (fun k => { k with
      lastC := c, lastN2 := n2, clipGroups := k.clipGroups + 1
      clippedGroups := k.clippedGroups + if above = some true then 1 else 0
      groups := k.groups.filter (fun x => x ≠ g) }) s
    forAll rs (fun r => commitRound t r.spec.round c) s

/-- Commit whatever can commit at a table (R272, R276). -/
def commitCheck (t : Nat) (s : State) : State :=
  match findTable s t with
  | none => s
  | some tb =>
    let single := tb.rounds.filter fun r =>
      r.spec.keeper && !r.done && !r.committed && !r.clipped && r.readyAt.isSome && allReady r && r.ready.all (·.good)
    let s := forAll single (fun r => commitRound t r.spec.round one32) s
    match tb.keeper with
    | none => s
    | some k =>
      forAll (k.groups.filter fun g => g.closed && g.rounds.all fun r => match getRound tb r with
        | some x => allReady x
        | none => true) (commitGroup t) s

/-- Hold a READY for a round, once for each position. -/
def holdReady (t r pos : Nat) (good : Bool) (part : Nat) : State → State :=
  modRound t r (fun x =>
    if x.ready.any (fun h => h.pos = pos) then x else { x with ready := x.ready ++ [{ pos := pos, good := good, part := part }] })

/-- Send this member's READY to its ring successor and hold it (R271). -/
def sendReady (tb : Table) (r : Round) (good : Bool) (part : Nat) (s : State) : State :=
  let pos := ownPos tb r.board
  let s := holdReady tb.id r.spec.round pos good part s
  let s := modRound tb.id r.spec.round (fun x => { x with readyAt := some (now s) }) s
  let s := if 1 < r.board.ring.length then
      sendKFlit (eidOf tb (succOf tb r.board)) (readyFlit tb.id r.spec.round tb.member r.turn pos good part) s
    else s
  commitCheck tb.id s

/-- Close the open clip group of a table (R274). -/
def closeGroup (t : Nat) (s : State) : State :=
  commitCheck t (modKeeper t (fun k => { k with groups := k.groups.map fun g => { g with closed := true } }) s)

end Sys2Proof.Machine
end

