-- ==== Sys2Proof/Machine/KeeperMath.lean ====
section
/-! DEFINITION. The Keeper's arithmetic (09) and its records: the values of a turn, the update rules, state and turn
digests, the parameters that a GT64 holds, shard images, and the packets that carry Keeper state (10). -/

namespace Sys2Proof.Machine
open Sys2Proof

/-! ### Values of a turn (Table 9-4) -/

/-- Form the values of a turn from what the table holds; in START_UP rows 1 to 3 stand as they are (R278). What is recorded
is held with its zeros +0 and its NaNs canonical (R279). -/
def formVals (sp : KSpec) (startUp : Bool) (turn lr0 wd0 clip step b1 b2 : Nat) : TurnVals :=
  let lr := canonF fp32 lr0
  let wd := canonF fp32 wd0
  let step := if startUp then step else (step + 1) % 2 ^ 48
  let b1 := if !startUp && sp.rule = 1 then fmul fp32 b1 sp.beta1 else b1
  let b2 := if !startUp && sp.rule = 1 then fmul fp32 b2 sp.beta2 else b2
  let a := fmul fp32 lr wd
  { turn := turn, lr := lr, wd := wd, clip := canonF fp32 clip, step := step, b1pow := b1, b2pow := b2, a := a, k := fsub fp32 one32 a
    alpha := if sp.rule = 1 then fdiv fp32 lr (fsub fp32 one32 b1) else lr
    bc2 := if sp.rule = 1 then fsub fp32 one32 b2 else 0
    o1 := if sp.rule = 0 then 0 else fsub fp32 one32 sp.beta1
    o2 := if sp.rule = 0 then 0 else fsub fp32 one32 sp.beta2 }

/-! ### Update rules (R279 to R283) -/

/-- Steps of Tables 9-5 to 9-7 for one element: w, m, v, and every value formed. -/
def ruleSteps (sp : KSpec) (tv : TurnVals) (g w m v : Nat) : Nat × Nat × Nat × List Nat :=
  let na := fneg fp32 tv.alpha
  let w1 := fmul fp32 w tv.k
  if sp.rule = 0 then
    let m := ffma fp32 sp.beta1 m g
    let w := ffma fp32 na m w1
    (w, m, v, [g, m, w1, w])
  else if sp.rule = 1 then
    let t1 := fmul fp32 tv.o1 g
    let m := ffma fp32 sp.beta1 m t1
    let gg := fmul fp32 g g
    let t2 := fmul fp32 tv.o2 gg
    let v := ffma fp32 sp.beta2 v t2
    let h := fdiv fp32 v tv.bc2
    let d0 := fsqrt fp32 h
    let d := fadd fp32 d0 sp.eps
    let u := fdiv fp32 m d
    let w := ffma fp32 na u w1
    (w, m, v, [g, t1, m, gg, t2, v, h, d0, d, u, w1, w])
  else
    let t1 := fmul fp32 tv.o1 g
    let t := ffma fp32 sp.beta1 m t1
    let u := match ltV (.num 0 0) (decodeF fp32 t), ltV (decodeF fp32 t) (.num 0 0) with
      | some true, _ => fsub fp32 w1 tv.alpha
      | _, some true => fadd fp32 w1 tv.alpha
      | some false, some false => w1
      | _, _ => ffma fp32 na (canonF fp32 (Config.lionNan g m w % 2 ^ 32)) w1
    let t3 := fmul fp32 tv.o2 g
    let m := ffma fp32 sp.beta2 m t3
    (u, m, v, [g, t1, t, w1, u, t3, m])

/-- The multicast copy of a master: BF16, and whether it saturates or flushes (R60, R281). -/
def copyOf (w : Nat) : Nat × Bool × Bool :=
  let r := convF bf16 (decodeF fp32 w)
  (r.bits, r.saturated, r.flushed)

/-- An update of one parameter: the state after it, whether it was non-finite, and whether the copy saturated or flushed. -/
structure KOut where
  p   : KParam
  nf  : Bool := false
  sat : Bool := false
  fl  : Bool := false

/-- Apply the rule to a BF16 gradient under c (R277, R282); a NaN c makes every element non-finite. -/
def updateParam (sp : KSpec) (tv : TurnVals) (c g : Nat) (p : KParam) : KOut :=
  let gh := fmul fp32 (g * 65536) c
  let (w, m, v, formed) := ruleSteps sp tv gh p.w p.m p.v
  let nf := formed.any fun x => !isFiniteBits fp32 x
  if nf && sp.nfSkip then { p := p, nf := true }
  else
    let (cp, sat, fl) := copyOf w
    { p := { p with w := w, m := m, v := v, copy := cp, turn := tv.turn }, nf := nf, sat := sat, fl := fl }

/-- Load an FP32 value (R283). -/
def loadParam (turn x : Nat) (p : KParam) : KOut :=
  let w := canonF fp32 x
  let (cp, sat, fl) := copyOf w
  { p := { p with w := w, m := 0, v := 0, copy := cp, turn := turn }, sat := sat, fl := fl }

/-! ### Parameters held -/

def getP (ps : List KParam) (i : Nat) : KParam := (ps.find? fun p => p.param = i).getD { param := i }

/-- Insert or replace a parameter, rising by index. -/
def putP : List KParam → KParam → List KParam
  | [], p => [p]
  | q :: ps, p => if q.param < p.param then q :: putP ps p else if q.param = p.param then p :: ps else p :: q :: ps

def putPs (ps : List KParam) (xs : List KParam) : List KParam := xs.foldl putP ps

/-- Parameters of a range, in order. -/
def paramsIn (ps : List KParam) (start count : Nat) : List KParam :=
  ps.filter fun p => start ≤ p.param && p.param < start + count

/-- Cut a range out of a list of home ranges. -/
def cutRange (start count : Nat) (rs : List KRange) : List KRange :=
  rs.flatMap fun r =>
    let a : KRange := { r with count := min r.count (start - r.start) }
    let hi := max r.start (start + count)
    let b : KRange := { r with start := hi, count := r.start + r.count - hi }
    if r.start + r.count ≤ start || start + count ≤ r.start then [r] else [a, b].filter fun x => 0 < x.count

/-- A member becomes the home of a range (R268). -/
def setHome (start count member : Nat) (rs : List KRange) : List KRange :=
  if count = 0 then rs else cutRange start count rs ++ [{ start := start, count := count, member := member }]

def homeOf (rs : List KRange) (p : Nat) : Option Nat := (rs.find? fun r => r.start ≤ p && p < r.start + r.count).map (·.member)

/-- HELD: parameters whose home is a member. -/
def heldBy (rs : List KRange) (m : Nat) : Nat := ((rs.filter fun r => r.member = m).map (·.count)).sum

/-- The parts of a range whose home is another member than the one that is to hold it. -/
def foreignRanges (rs : List KRange) (start count member : Nat) : List KRange :=
  rs.filterMap fun r =>
    let lo := max start r.start
    let hi := min (start + count) (r.start + r.count)
    if r.member ≠ member && lo < hi then some { start := lo, count := hi - lo, member := r.member } else none

/-! ### Digests (R301) -/

def stateBytes (rule : Nat) (p : KParam) : List Byte :=
  leBytes 4 p.w ++ leBytes 4 p.m ++ if rule = 1 then leBytes 4 p.v else []

/-- State digest of a round over its slice's parameters from `start` on. A damaged parameter has no value to take (R28,
R293): the digest leaves it out (DESIGN CHOICE, log 92). -/
def stateDigest (rule : Nat) (ps : List KParam) (start count : Nat) : Nat :=
  (crc64 ((((List.range count).map fun i => getP ps (start + i)).filter fun p => !p.damaged).flatMap (stateBytes rule))).toNat

/-- The turn digest over state digests in ascending ROUND_ID, then STEP, B1POW and B2POW. -/
def turnDigest (ds : List (Nat × Nat)) (tv : TurnVals) : Nat :=
  let xs := ds.foldl (fun a d => putE a d.1 d.2) []
  (crc64 ((xs.flatMap fun d => leBytes 8 d.2) ++ leBytes 8 tv.step ++ leBytes 4 tv.b1pow ++ leBytes 4 tv.b2pow)).toNat

/-! ### Shard images (R318) -/

/-- Maximal runs of consecutive parameters. -/
def runsOf : List KParam → List (Nat × Nat)
  | [] => []
  | p :: ps => match runsOf ps with
    | (a, n) :: rest => if a = p.param + 1 then (p.param, n + 1) :: rest else (p.param, 1) :: (a, n) :: rest
    | [] => [(p.param, 1)]

/-- Planes of one range. -/
def rangeImage (rule : Nat) (ps : List KParam) : List Byte :=
  ps.flatMap (fun p => leBytes 4 p.w) ++ ps.flatMap (fun p => leBytes 4 p.m) ++
    if rule = 1 then ps.flatMap fun p => leBytes 4 p.v else []

/-- The image over the given ranges. -/
def shardImage (rule : Nat) (ps : List KParam) (ranges : List (Nat × Nat)) : List Byte :=
  ranges.flatMap fun r => rangeImage rule (paramsIn ps r.1 r.2)

/-- Chunks of 2^20 bytes. -/
def chunksOf : Nat → List Byte → List (List Byte)
  | 0, _ => []
  | n + 1, bs => if bs.isEmpty then [] else bs.take 1048576 :: chunksOf n (bs.drop 1048576)

def imageChunks (img : List Byte) : List (List Byte) := chunksOf (img.length / 1048576 + 1) img

def indexObject (img : List Byte) : List Byte := (imageChunks img).flatMap sm3

def shardDigest (img : List Byte) : List Byte := sm3 (indexObject img)

/-! ### DoubleFeed and DoubleSync (Tables 9-8, 10-5) -/

/-- A DoubleFeed header. -/
structure FeedHdr where
  round  : Nat := 0
  table  : Nat
  type   : Nat
  member : Nat
  turn   : Nat
  done   : Bool := false
  count  : Nat := 0
  param  : Nat := 0
  clipC  : Nat := 0
  n      : Nat := 0
  deriving DecidableEq, Repr, Inhabited

def feedHdrBytes (h : FeedHdr) : List Byte :=
  bytesOf [mkW [(63, 32, h.round), (31, 22, h.table), (21, 20, h.type), (19, 0, h.member)],
           mkW [(63, 16, h.turn), (0, 0, b2n h.done)], mkW [(55, 43, h.count), (34, 0, h.param)],
           mkW [(63, 32, h.clipC), (31, 0, h.n)]]

def feedHdrOf (bs : List Byte) : FeedHdr :=
  let w := payW bs
  { round := fld (w 0) 63 32, table := fld (w 0) 31 22, type := fld (w 0) 21 20, member := fld (w 0) 19 0,
    turn := fld (w 1) 63 16, done := bitAt (w 1) 0, count := fld (w 2) 55 43, param := fld (w 2) 34 0,
    clipC := fld (w 3) 63 32, n := fld (w 3) 31 0 }

/-- Reserved and unused fields of a DoubleFeed packet of its type are 0 and its data fill it (R16, R287). -/
def feedOk (bs : List Byte) : Bool :=
  let h := feedHdrOf bs
  let w := payW bs
  let d := bs.length - 32
  32 ≤ bs.length && fld (w 1) 15 1 = 0 && fld (w 2) 63 56 = 0 && fld (w 2) 42 35 = 0 &&
  (h.type = 2 || !h.done) && (h.type ≠ 2 || h.round = 0) && (h.type = 1 || (h.clipC = 0 && h.n = 0)) &&
  (if h.type = 0 then 1 ≤ h.count && h.count ≤ 2032 && d = 2 * h.count
   else if h.type = 3 then 1 ≤ h.count && h.count ≤ 1016 && d = 4 * h.count
   else h.count = 0 && h.param = 0 && d = if h.type = 2 then 32 else 0)

/-- Data of a TURN record (R287). -/
def turnData (tv : TurnVals) (fed : Nat) : List Byte :=
  leBytes 4 tv.lr ++ leBytes 4 tv.wd ++ leBytes 4 tv.b1pow ++ leBytes 4 tv.b2pow ++ leBytes 8 tv.step ++ leBytes 8 fed

/-- A DoubleSync header. -/
structure SyncHdr where
  kind  : Nat
  table : Nat
  prim  : Nat
  turn  : Nat
  param : Nat
  count : Nat
  deriving DecidableEq, Repr, Inhabited

def syncHdrBytes (h : SyncHdr) : List Byte :=
  bytesOf [mkW [(63, 62, h.kind), (31, 22, h.table), (20, 0, h.prim)], mkW [(63, 16, h.turn)], mkW [(40, 0, h.param)],
           mkW [(8, 0, h.count)]]

def syncHdrOf (bs : List Byte) : SyncHdr :=
  let w := payW bs
  { kind := fld (w 0) 63 62, table := fld (w 0) 31 22, prim := fld (w 0) 20 0, turn := fld (w 1) 63 16,
    param := fld (w 2) 40 0, count := fld (w 3) 8 0 }

/-- Bytes of a parameter in a DoubleSync packet. -/
def syncBytes (rule : Nat) : Nat := if rule = 1 then 12 else 8

/-- Reserved fields are 0, COUNT is in range and the data fill the packet. -/
def syncOk (rule : Nat) (bs : List Byte) : Bool :=
  let h := syncHdrOf bs
  let w := payW bs
  32 ≤ bs.length && fld (w 0) 61 32 = 0 && !bitAt (w 0) 21 && fld (w 1) 15 0 = 0 && fld (w 2) 63 41 = 0 &&
  fld (w 3) 63 9 = 0 && 1 ≤ h.count && h.count ≤ 338 && bs.length = 32 + h.count * syncBytes rule

/-- The parameters of a DoubleSync packet, with the BF16 copy formed (R281). -/
def syncParams (rule : Nat) (bs : List Byte) : List KParam :=
  let h := syncHdrOf bs
  let b := syncBytes rule
  (List.range h.count).map fun i =>
    let at_ := fun k => leAt bs (32 + i * b + 4 * k) 4
    { param := h.param + i, w := at_ 0, m := at_ 1, v := if rule = 1 then at_ 2 else 0, copy := (copyOf (at_ 0)).1, turn := h.turn }

/-- Cut parameters into runs of at most n. -/
def paramRuns (n : Nat) : List KParam → List (List KParam) → List (List KParam)
  | [], acc => acc.reverse.map List.reverse
  | p :: ps, acc => match acc with
    | (q :: r) :: more => if p.param = q.param + 1 && (q :: r).length < n then paramRuns n ps ((p :: q :: r) :: more)
      else paramRuns n ps ([p] :: acc)
    | _ => paramRuns n ps ([p] :: acc)

/-- DoubleSync payloads for parameters, at most 338 in each. -/
def syncPayloads (rule kind table prim turn : Nat) (ps : List KParam) : List (List Byte) :=
  (paramRuns 338 ps []).map fun r =>
    syncHdrBytes { kind := kind, table := table, prim := prim, turn := turn, param := (r.head?.map (·.param)).getD 0, count := r.length } ++
      r.flatMap (stateBytes rule)

/-- Send a Keeper packet of a sub-type in TC5. -/
def sendKPkt (ksub eid : Nat) (payload : List Byte) (s : State) : State :=
  sendTo .own 5 (mkPacket 4 5 ksub eid s.ident.eid payload) s

/-- Send parameters to an EID by DoubleSync, but for those that are damaged (R28). -/
def sendSync (rule kind table prim turn eid : Nat) (ps : List KParam) (s : State) : State :=
  forAll (syncPayloads rule kind table prim turn (ps.filter fun p => !p.damaged)) (sendKPkt 1 eid) s

/-! ### DOUBLE_CTL (Table 10-1) -/

/-- A DOUBLE_CTL flit's fields. -/
structure Ctl where
  ctl   : Nat
  code  : Nat := 0
  pos   : Nat := 0
  table : Nat
  prim  : Nat
  turn  : Nat := 0
  a     : Nat := 0
  b     : Nat := 0
  deriving DecidableEq, Repr, Inhabited

def ctlWords (c : Ctl) : List W64 :=
  [mkW [(63, 60, c.ctl), (59, 56, c.code), (37, 32, c.pos), (31, 22, c.table), (20, 0, c.prim)], mkW [(63, 16, c.turn)],
   mkW [(63, 0, c.a)], mkW [(63, 0, c.b)], 0, 0, 0, mkW [(63, 60, 2)]]

def ctlOf (ws : List W64) : Ctl :=
  { ctl := fld (wd ws 0) 63 60, code := fld (wd ws 0) 59 56, pos := fld (wd ws 0) 37 32, table := fld (wd ws 0) 31 22,
    prim := fld (wd ws 0) 20 0, turn := fld (wd ws 1) 63 16, a := (wd ws 2).toNat, b := (wd ws 3).toNat }

/-- The highest CODE that Table 10-2 gives for a CTL. -/
def ctlMaxCode (c : Nat) : Nat :=
  if c = 1 || c = 8 || c = 9 || c = 10 || c = 11 || c = 13 then 1
  else if c = 3 then 3 else if c = 5 then 5 else if c = 7 then 4 else 0

/-- Reserved fields and CODE of a DOUBLE_CTL flit (Table 10-2, R16). -/
def ctlFlitOk (ws : List W64) : Bool :=
  let c := ctlOf ws
  fld (wd ws 0) 55 38 = 0 && !bitAt (wd ws 0) 21 && fld (wd ws 1) 15 0 = 0 && (wd ws 4).toNat = 0 && (wd ws 5).toNat = 0 &&
  (wd ws 6).toNat = 0 && fld (wd ws 7) 63 60 = 2 && fld (wd ws 7) 59 0 = 0 && c.code ≤ ctlMaxCode c.ctl &&
  (c.ctl = 8 || c.ctl = 10 || c.ctl = 13 || c.pos = 0) && (!([1, 6, 7, 11].contains c.ctl) || c.a = 0) &&
  (!([0, 1, 4, 5, 6, 7, 9, 11, 12].contains c.ctl) || c.b = 0) &&
  (c.ctl ≠ 14 || (fld (wd ws 3) 63 9 = 0 && fld (wd ws 3) 7 5 = 0)) &&
  (c.ctl ≠ 13 || (fld (wd ws 2) 15 2 = 0 && fld (wd ws 3) 15 2 = 0))

def sendCtl (eid : Nat) (c : Ctl) : State → State := sendKFlit eid (ctlWords c)

end Sys2Proof.Machine
end

