-- ==== Sys2Proof/Machine/RoundOps.lean ====
section
/-! DEFINITION. Operations on rounds (02 to 06): the geometry of chunks and slices, sources and legs, accumulating,
shipping partials and results, narrowing at a boundary, folding, completing and failing. -/

namespace Sys2Proof.Machine
open Sys2Proof

/-! ### What a round is -/

def isFloat (c : RoundSpec) : Bool := (floatOf c.inFmt).isSome
/-- A SUM or AVERAGE of floating-point elements (R75). -/
def isSum (c : RoundSpec) : Bool := isFloat c && c.kind ≤ 2 && c.op ≤ 1
def isBank (c : RoundSpec) : Bool := isSum c && c.bank
/-- ALL_GATHER or BROADCAST (R150). -/
def isGather (c : RoundSpec) : Bool := 3 ≤ c.kind
/-- Format of phases 2 and 3 (Table 6-4). -/
def deliverFmt (c : RoundSpec) : Nat := if isGather c || !isFloat c then c.inFmt else c.resFmt
/-- Format of a Roll accumulator (Table 2-3). -/
def accFmt (c : RoundSpec) : FloatFmt := if c.inFmt = 5 then fp64 else fp32
/-- Format of an unnarrowed partial (Table 6-4, R79, R85). -/
def partialFmt (c : RoundSpec) : Nat :=
  if isSum c then (if c.bank then 0x20 else if c.inFmt = 5 then 5 else 0) else c.inFmt
/-- Seats N of the round, and the divisor of R87. -/
def seatCount (r : Round) : Nat := max 1 r.board.seats.length
def divisor (r : Round) : Nat := if isSum r.spec && r.spec.op = 1 then seatCount r else 1
/-- The phases that run with chunk notices (R179). -/
def notices (r : Round) : Bool := r.phase ≠ 0
/-- A round that travels on the Pip path (R228). -/
def isPip (c : RoundSpec) : Bool :=
  c.elems * elemBytes c.inFmt ≤ 32 && c.elems * elemBytes c.resFmt ≤ 32 && !c.narrow && !c.keeper && !isBank c

/-! ### Chunks and slices (R162, R167) -/

/-- Slice length: the whole round outside the crown. -/
def sliceLen (tb : Table) (r : Round) : Nat :=
  if isCrown tb then max 32 (ceilDiv r.spec.elems (32 * max 1 r.board.ring.length) * 32) else max 1 r.spec.elems

/-- Chunks in a full slice. -/
def perSlice (tb : Table) (r : Round) : Nat := ceilDiv (sliceLen tb r) (max 1 r.chunkLen)

def chunkOf (tb : Table) (r : Round) (off : Nat) : Nat :=
  off / sliceLen tb r * perSlice tb r + off % sliceLen tb r / max 1 r.chunkLen

def chunkCount (tb : Table) (r : Round) : Nat := chunkOf tb r (r.spec.elems - 1) + 1

def chunkLo (tb : Table) (r : Round) (i : Nat) : Nat :=
  i / perSlice tb r * sliceLen tb r + i % perSlice tb r * r.chunkLen

def chunkHi (tb : Table) (r : Round) (i : Nat) : Nat :=
  min (min (chunkLo tb r i + r.chunkLen) ((i / perSlice tb r + 1) * sliceLen tb r)) r.spec.elems

/-- The slice of a chunk. -/
def sliceOf (tb : Table) (r : Round) (i : Nat) : Nat := i / perSlice tb r

/-- Own slice of a crown member, as offsets. -/
def ownSlice (tb : Table) (r : Round) : Nat × Nat :=
  let lo := ownPos tb r.board * sliceLen tb r
  (min lo r.spec.elems, min (lo + sliceLen tb r) r.spec.elems)

/-! ### Sources and legs (R163, R168, R170) -/

def overlap (a b c d : Nat) : Nat := min b d - max a c

/-- The offsets that a seat owes. -/
def owesRange (r : Round) (e : SeatEntry) : Nat × Nat :=
  if r.spec.kind = 3 then
    let k := (seatPos r.board e.seat).getD 0
    let n := r.spec.elems / seatCount r
    (k * n, (k + 1) * n)
  else if r.spec.kind = 4 then (0, if e.seat = r.spec.root then r.spec.elems else 0)
  else (0, r.spec.elems)

/-- How many elements of a range a set of seats owes as one source. -/
def dueOf (r : Round) (lo hi : Nat) (es : List SeatEntry) : Nat :=
  if isGather r.spec then (es.map fun e => overlap lo hi (owesRange r e).1 (owesRange r e).2).sum
  else if es.isEmpty then 0 else hi - lo

/-- The ring predecessor is a source of a slice's chunks (R168). -/
def ringSource (tb : Table) (r : Round) (j : Nat) : Bool :=
  let C := r.board.ring.length
  let p := ownPos tb r.board
  isCrown tb && 1 < C && !isGather r.spec &&
    (List.range ((p + C - (j + 1) % C) % C)).any fun k => ringSeated tb r.board (ringAt r.board (j + 1 + k))

/-- What every source owes a chunk. -/
def sourcesOf (tb : Table) (r : Round) (i : Nat) : List Owed :=
  let lo := chunkLo tb r i
  let hi := chunkHi tb r i
  let seats := (seatsHere tb r.board).map fun e => ({ src := { id := e.seat }, due := dueOf r lo hi [e] } : Owed)
  let kids := (children tb).map fun c =>
    ({ src := { isMember := true, id := c }, due := dueOf r lo hi (seatsUnder tb r.board c) } : Owed)
  let ring := if ringSource tb r (sliceOf tb r i) then
      [({ src := { isMember := true, ring := true, id := predOf tb r.board }, due := hi - lo } : Owed)]
    else []
  (seats ++ kids ++ ring).filter fun o => 0 < o.due

/-- A destination of result data: a seat or a child, its EID and the ranges it takes. -/
structure Leg where
  dst    : Src
  eid    : Nat
  ranges : List (Nat × Nat)

/-- The range of result data that a seat takes. -/
def takesRange (r : Round) (e : SeatEntry) : Nat × Nat :=
  if r.spec.kind = 0 then (0, if e.seat = r.spec.root then r.spec.elems else 0)
  else if r.spec.kind = 2 then
    let k := (seatPos r.board e.seat).getD 0
    let n := r.spec.elems / seatCount r
    (k * n, (k + 1) * n)
  else (0, r.spec.elems)

def legsOf (tb : Table) (r : Round) : List Leg :=
  let seats := (seatsHere tb r.board).map fun e =>
    ({ dst := { id := e.seat }, eid := e.eid, ranges := [takesRange r e] } : Leg)
  let kids := (children tb).map fun c =>
    let rs := (seatsUnder tb r.board c).map (takesRange r)
    ({ dst := { isMember := true, id := c }, eid := eidOf tb c
       ranges := if r.spec.kind = 2 then rs else rs.eraseDups } : Leg)
  (seats ++ kids).filter fun l => l.ranges.any fun x => x.1 < x.2

def inRanges (rs : List (Nat × Nat)) (off : Nat) : Bool := rs.any fun x => x.1 ≤ off && off < x.2

/-- This GT64 delivers an element to someone below it (R172). -/
def delivers (legs : List Leg) (off : Nat) : Bool := legs.any fun l => inRanges l.ranges off

/-- The offsets of a chunk whose results must come by here (R169, R170). -/
def expected (tb : Table) (r : Round) (i : Nat) : List Nat :=
  let lo := chunkLo tb r i
  let xs := (List.range (chunkHi tb r i - lo)).map (lo + ·)
  if isCrown tb then xs else
    let legs := legsOf tb r
    xs.filter (delivers legs)

/-! ### Narrowing and folding of a round (R98, R99, R119) -/

/-- The NarrowSpec under which a round crosses a boundary: only a SUM or AVERAGE of a floating-point format other than FP64
is narrowed (R98). -/
def specAt (r : Round) (boundary : Nat) : Option NSpec :=
  if r.spec.narrow && isSum r.spec && r.spec.inFmt ≠ 5 then r.board.nspecs.find? fun n => n.enable && n.boundary = boundary else none

/-- The spec under which this GT64 sends the round upward. -/
def upSpec (tb : Table) (r : Round) : Option NSpec := if tb.tier ≤ 1 then specAt r tb.level else none

/-- The spec under which its children send to it. -/
def downSpec (tb : Table) (r : Round) : Option NSpec := if tb.level = 0 then none else specAt r (tb.level - 1)

def folds (r : Round) (n : NSpec) : Bool := r.spec.foldRows ≠ 0 && n.foldRank ≠ 0

/-- Elements that a round takes of its slot (R114, R123). -/
def extentOf (n : NSpec) (c : RoundSpec) : Nat :=
  (if n.feedback then c.elems else 0) + if c.foldRows ≠ 0 && n.foldRank ≠ 0 then n.foldRank * c.foldCols else 0

/-- Elements of the factor stream P̃ then Q̃. -/
def foldElems (r : Round) (n : NSpec) : Nat := n.foldRank * (r.spec.foldRows + r.spec.foldCols)

/-! ### Residuals (R113 to R117, R123) -/

/-- The reservation that a round's board has: by its number, current or draining. -/
def boardNumOf (tb : Table) (r : Round) : Nat :=
  if r.epoch = tb.epoch then tb.boardNum else match tb.other with
    | some (_, n, _) => n
    | none => tb.boardNum

def findResid (tb : Table) (num bd slot : Nat) : Resid :=
  (tb.resid.find? fun x => x.boardNum = num && x.boundary = bd && x.rslot = slot).getD
    { boardNum := num, boundary := bd, rslot := slot }

def setResid (t : Nat) (x : Resid) (s : State) : State :=
  wroteWord 1 6 (modTable t (fun tb => { tb with
    resid := x :: tb.resid.filter fun y => !(y.boardNum = x.boardNum && y.boundary = x.boundary && y.rslot = x.rslot) }) s)

/-- The previous board has drained once no round opened under it is open: its residuals and its slot are freed (R216). -/
def drainBoard (tb : Table) : Table :=
  match tb.other with
  | some (_, n, true) =>
    if tb.rounds.any fun r => !r.done && r.epoch ≠ tb.epoch then tb
    else { tb with
      other := none, resid := tb.resid.filter fun x => x.boardNum ≠ n, clears := tb.clears.filter fun c => c.boardNum ≠ n }
  | _ => tb

/-- Apply the RESID_CLEARs whose earlier rounds have all finished with the slot (R115), and let a board drain. A cleared slot
keeps its extent (DESIGN CHOICE, log 84). -/
def applyClears (t : Nat) (s : State) : State :=
  modTable t (fun tb =>
    let busy := fun (c : RClear) => tb.rounds.any fun r => !r.done && r.spec.narrow && r.spec.rslot = c.rslot && r.spec.round ≤ c.upTo
    let go := tb.clears.filter fun c => !busy c
    drainBoard { tb with
      clears := tb.clears.filter busy
      resid := tb.resid.map fun x =>
        if go.any fun c => c.boardNum = x.boardNum && c.rslot = x.rslot && c.mask.testBit x.boundary then
          { x with vals := [], q := none } else x }) s

/-- A round's chunk must wait for its slot: an earlier round has not narrowed the same offsets, or a clear is pending
(R115, R116). -/
def slotBlocked (tb : Table) (r : Round) (lo hi : Nat) : Bool :=
  match upSpec tb r with
  | none => false
  | some n =>
    (tb.clears.any (fun c => c.boardNum = boardNumOf tb r && c.rslot = r.spec.rslot && c.mask.testBit n.boundary && c.upTo < r.spec.round) ||
     tb.rounds.any fun q => !q.done && q.spec.narrow && q.spec.round < r.spec.round && q.spec.rslot = r.spec.rslot &&
       q.epoch = r.epoch &&
       (List.range (hi - lo)).any fun k => lo + k < q.spec.elems &&
         !(q.chunks.any fun c => c.lo ≤ lo + k && lo + k < c.hi && c.state = 3))

/-! ### Values -/

/-- A contribution in the accumulator's domain: its code, whether it is infinite or NaN, whether it was flushed or
saturated. -/
structure Val where
  v   : Nat
  nf  : Bool := false
  fl  : Bool := false
  sat : Bool := false

/-- A floating-point value as a contribution to a SUM or AVERAGE (R53, R57, R64). A finite decoded value above the range of
a Roll accumulator becomes its largest finite value, a SATURATED event (R56; DESIGN CHOICE, log 85). -/
def sumVal (c : RoundSpec) (x : FVal) : Val :=
  if c.bank then { v := bankOf x, nf := !x.isFinite }
  else
    let r := convF (accFmt c) x
    let (a, f) := flushAcc (accFmt c) r.bits
    { v := a, nf := !x.isFinite, fl := f || r.flushed, sat := r.saturated }

/-- An element of an element format as a contribution. -/
def elemVal (c : RoundSpec) (fmt bits : Nat) : Val :=
  match floatOf fmt with
  | none => { v := bits }
  | some f =>
    let x := decodeF f bits
    if isSum c then sumVal c x else { v := canonF f bits, nf := !x.isFinite }

/-- Combine an accumulator with a contribution: the new value, and whether the sum was flushed (R57, R77, R151, R152). -/
def combine (c : RoundSpec) (a b : Nat) : Nat × Bool :=
  if isBank c then (bankAdd a b, false)
  else if isSum c then flushAcc (accFmt c) (fadd (accFmt c) a b)
  else match floatOf c.inFmt with
    | some f => (minMaxF c.op f a b, false)
    | none => match intOf c.inFmt with
      | some (w, sgn) => (intOp c.op w sgn a b, false)
      | none => (b, false)

/-- The final rounding of a complete sum (R86 to R89): code, SATURATED, FLUSHED events. -/
def finish (r : Round) (a : Nat) : Nat × Nat × Nat :=
  let c := r.spec
  match floatOf c.resFmt with
  | none => (a, 0, 0)
  | some f =>
    if !isFloat c then (a, 0, 0)
    else if isBank c then
      let x := bankRound f a (divisor r)
      (x.bits, b2n x.saturated, b2n x.flushed)
    else if isSum c then
      let af := accFmt c
      let (q, fl) := if c.op = 1 then
          flushAcc af (match decodeF af a with
            | .num m e => arithRat af (m < 0) m.natAbs (divisor r) e
            | v => arithF af v)
        else (a, false)
      let x := convF f (decodeF af q)
      let (y, fl2) := if c.resFmt = 0 || c.resFmt = 1 || c.resFmt = 5 then flushAcc f x.bits else (x.bits, false)
      (y, b2n x.saturated, b2n fl + b2n (x.flushed || fl2))
    else match floatOf c.inFmt with
      | some g =>
        let x := convF f (decodeF g a)
        (x.bits, b2n x.saturated, b2n x.flushed)
      | none => (a, 0, 0)

/-! ### Sending packets of a round -/

/-- Cut data by offset into packets: consecutive offsets (step apart), one chunk, at most 4,080 bytes (R155). -/
def group (step limit : Nat) (chunk : Nat → Nat) : List (Nat × List Byte) → List (Nat × List (List Byte)) → List (Nat × List (List Byte))
  | [], acc => acc.reverse
  | (o, d) :: rest, acc =>
    match acc with
    | (o0, ds) :: more =>
      if o = o0 + step * ds.length && chunk o = chunk o0 && (ds.map (·.length)).sum + d.length ≤ limit then
        group step limit chunk rest ((o0, ds ++ [d]) :: more)
      else group step limit chunk rest ((o, [d]) :: acc)
    | [] => group step limit chunk rest [(o, [d])]

/-- Data of a round cut into packets: at most 4,080 bytes each, or the 32 of a Pip packet's OPERAND. A Pip round's data that
one ROUND packet cannot hold, being longer or not consecutive, go as several (R229; DESIGN CHOICE, log 86). -/
def cutData (tb : Table) (r : Round) (step : Nat) (items : List (Nat × List Byte)) : List (Nat × List (List Byte)) :=
  group step (if r.pip then 32 else 4080) (chunkOf tb r) items []

/-- ROUND_HDR of one of these packets (Table 6-3). -/
def dataHdr (tb : Table) (r : Round) (phase source fmt : Nat) (g : Nat × List (List Byte)) : RoundHdr :=
  { round := r.spec.round, table := tb.id, phase := phase, source := source, format := fmt,
    count := g.2.length, board := r.epoch, resv := 0, offset := g.1 }

/-- A Pip ROUND packet of a header and data (R229). -/
def pipRound (h : RoundHdr) (data : List Byte) : List W64 := roundHdrWords h ++ [0, 0] ++ wordsOf 4 data

/-- Send a partial of a round to an EID, as bulk packets or Pip ROUND packets (R155, R229). -/
def ship (tb : Table) (r : Round) (port phase source fmt step eid : Nat) (items : List (Nat × List Byte)) (s : State) : State :=
  forAll (cutData tb r step items) (fun g s =>
    let h := dataHdr tb r phase source fmt g
    let data := g.2.flatMap id
    if r.pip then pipSend port [eid] (pipRound h data) s
    else sendTo (.emitted tb.id r.spec.round (chunkOf tb r g.1)) 4
      (mkPacket 1 4 0 eid s.ident.eid (bytesOf (roundHdrWords h) ++ data)) s) s

/-- The multicast cache can take the cells of a KEEPER round's downward staging (R285, R515). -/
def cacheRoom (s : State) (cells : Nat) : Bool := freeUsed s + 256 * cells + 2621440 * floorRounds s ≤ freeRegion s

/-- Stage one result packet for all its legs, each a link, an EID and the ROUND_HDR word that the leg carries in place of the
packet's (R166). Whether a KEEPER round's staging lies in the multicast cache is the GT64's choice (R285), a free value. -/
def stageResult (tb : Table) (r : Round) (chunk epoch : Nat) (p : Packet) (legs : List (Nat × Nat × Option W64)) (s : State) : State :=
  if legs.isEmpty then s else
  let n := pCells p
  let cached := r.spec.keeper && legs.any (fun l => l.2.2.isNone) && freeVal s % 2 = 1 && cacheRoom s n
  let q : QPkt :=
    { num := 0, pkt := p, cells := n, epoch := epoch, ingress := none, pool := 4, tc := 4, mcast := 1 < legs.length
      kind := .emitted tb.id r.spec.round chunk, cached := cached, admitted := if cached then n else 0
      legs := legs.map fun l => { link := l.1, queue := queueNum s l.1 4 tb.id, eid := l.2.1, hdr := l.2.2 } }
  let s := if cached then wroteWord 1 7 s else s
  putPkt q (if r.spec.keeper then freeNext s else s)

/-- The link of a downward leg in the bank of a stamp; a leg that is not LOCAL or whose link is down is dropped (R373,
R390). -/
def downLink (bank eid : Nat) (s : State) : Option Nat × State :=
  match bankLink s bank eid with
  | some l => (some l, s)
  | none => (none, dropLinkDown (eidLink (spGet (getBank s bank).eids eid)) s)

/-- The links of the downward legs to EIDs. -/
def downLegs (bank : Nat) : List Nat → State → List (Nat × Nat × Option W64) × State
  | [], s => ([], s)
  | e :: es, s =>
    let (l, s) := downLink bank e s
    let (ls, s) := downLegs bank es s
    (match l with
      | some l => (l, e, none) :: ls
      | none => ls, s)

/-- Send one run of result elements to the downward EIDs that take it and, where it goes on round the ring, to the
successor: one staged packet for all legs, in the bank of the epoch stamp (R166, R169, R382, R390). A Pip round's go as one
ROUND packet for the downward set and one for the ring hop (R233). -/
def shipRun (tb : Table) (r : Round) (port epoch : Nat) (eids : List Nat) (succ : Option Nat) (items : List (Nat × List Byte))
    (s : State) : State :=
  let f := deliverFmt r.spec
  forAll (cutData tb r 1 items) (fun g s =>
    let down := dataHdr tb r 3 0 f g
    let ring := dataHdr tb r 2 tb.member f g
    let data := g.2.flatMap id
    if r.pip then
      let s := if eids.isEmpty then s else pipSend port eids (pipRound down data) s
      match succ with
      | some e => pipSend port [e] (pipRound ring data) s
      | none => s
    else
      let h := if eids.isEmpty then ring else down
      let p := mkPacket 2 4 0 ((eids ++ succ.toList).headD 0) s.ident.eid (bytesOf (roundHdrWords h) ++ data)
      let (legs, s) := downLegs epoch eids s
      let (last, s) := match succ with
        | none => (none, s)
        | some e => unicastLeg epoch e 4 s
      let more := match last, succ with
        | some l, some e => [(l, e, some (wd (roundHdrWords ring) 0))]
        | _, _ => []
      stageResult tb r (chunkOf tb r g.1) epoch p (legs ++ more) s) s

/-- Send a round signal to EIDs (R175, R231): of a Pip round one SIG packet for them all (R233). COUNT of the round header in
a SIG packet is not stated: a free value. -/
def sendSig (tb : Table) (r : Round) (port : Nat) (eids : List Nat) (g : RoundSig) (s : State) : State :=
  if eids.isEmpty then s
  else if r.pip then
    let h : RoundHdr := { round := r.spec.round, table := tb.id, phase := 3, source := 0, format := deliverFmt r.spec,
                          count := 1 + freeVal s % 4080, board := r.epoch, resv := 0, offset := 0 }
    pipSend port eids (roundHdrWords h ++ [mkW [(63, 60, 1)], 0] ++ roundSigWords g) (freeNext s)
  else forAll eids (fun e s => sendTo .own 4 (mkPacket 3 4 0 e s.ident.eid (bytesOf (roundSigWords g))) s) s

/-! ### Ending a round -/

/-- Bytes of an element of the delivered format. -/
def resBytes (c : RoundSpec) (v : Nat) : List Byte := leBytes (elemBytes (deliverFmt c)) v

/-- CRC over elements in ascending offset; none gives 0 (R172 to R174). -/
def elemsCrc (c : RoundSpec) (es : List (Nat × Nat)) : Nat := (crc64 (es.flatMap fun e => resBytes c e.2)).toNat

/-- Elements that this GT64 delivers or forms, of those taken here. -/
def digestElems (tb : Table) (r : Round) : List (Nat × Nat) :=
  let legs := legsOf tb r
  r.results.filter fun e => delivers legs e.1 || (getE r.formed e.1).isSome

/-- ELEM_LO and ELEM_HI of elements by rising offset (Table 6-8). -/
def spanLo (es : List (Nat × Nat)) : Nat := (es.head?.map (·.1)).getD 0
def spanHi (es : List (Nat × Nat)) : Nat := (es.getLast?.map (·.1 + 1)).getD 0

/-! ### Array tasks (R139 to R142) -/

/-- A task of a fold's first product, by number, reads some element of a range: for each segment of 256 columns the rows are
cut into equal parts (R134, R140; DESIGN CHOICE, log 90). -/
def taskReads (c : RoundSpec) (rank x lo hi : Nat) : Bool :=
  let full := max 1 (ceilDiv (c.foldRows * rank * 256) 16777216)
  let g := x / full
  let parts := if g < c.foldCols / 256 then full else max 1 (ceilDiv (c.foldRows * rank * (c.foldCols % 256)) 16777216)
  let h := ceilDiv c.foldRows parts
  (List.range h).any fun k =>
    let i := (x - g * full) * h + k
    i < c.foldRows && i * c.foldCols + 256 * g < hi && lo < i * c.foldCols + min (256 * (g + 1)) c.foldCols

/-- The tasks of a job that can run: none on a norm pipe, and none that reads a panel which is not here yet (R139). -/
def jobReady (tb : Table) (j : MuJob) : List Nat :=
  if j.stage = 1 then [] else match tb.rounds.find? fun r => r.spec.round = j.round with
    | none => []
    | some r => j.todo.filter fun x => !(j.panels.any fun i => taskReads r.spec j.rank x (chunkLo tb r i) (chunkHi tb r i))

/-- Ready tasks of a round, and of a table. -/
def roundTasks (tb : Table) (rid : Nat) : Nat := ((tb.jobs.filter fun j => j.round = rid).map fun j => (jobReady tb j).length).sum
def readyTasks (tb : Table) : Nat := (tb.jobs.map fun j => (jobReady tb j).length).sum

/-- Units of a pool that run a table's quantum. -/
def unitsOn (sv : Serve) (t : Nat) : Nat := (sv.units.filter fun u => u.any fun x => x.1 = t).length

/-- A table with no ready task beyond those that units run gives up the rest of its share (R142). -/
def giveUp (t : Nat) (s : State) : State :=
  if s.mu.last = t && !(findTable s t).any (fun tb => unitsOn s.mu t < readyTasks tb) then { s with mu := { s.mu with share := 0 } } else s

/-- A table that closes leaves the round robin of a pool; a unit that runs one of its quanta finishes its task (R148). -/
def closePool (t : Nat) (sv : Serve) : Serve :=
  { units := sv.units.map fun u => u.map fun x => (if x.1 = t then 1024 else x.1, x.2)
    last := sv.last, share := if sv.last = t then 0 else sv.share, members := sv.members.filter (· ≠ t) }

/-- Move a round that is done behind the others, and keep the newest 256 records (R73). -/
def retire (t rid : Nat) : State → State :=
  modTable t (fun tb =>
    let rs := tb.rounds.filter (fun r => r.spec.round ≠ rid) ++ tb.rounds.filter (fun r => r.spec.round = rid)
    let n := (rs.filter (·.done)).length
    { tb with rounds := (rs.filter (·.done)).drop (n - 256) ++ rs.filter (fun r => !r.done) })

/-- Take a round's parts out of the lanes and the ingress ports. -/
def dropParts (t rid : Nat) (s : State) : State :=
  let out := fun (p : Part) => p.table = t && p.round = rid
  let nums := ((s.feed.waiting.filter out).map (·.num)).eraseDups
  let cells := s.feed.cells.filter fun c => nums.contains c.num
  let s := forAll cells (fun c => freeCredits c.link c.pool c.flits) s
  { s with feed := { s.feed with
      lanes := s.feed.lanes.map fun l => l.filter fun p => !out p
      waiting := s.feed.waiting.filter fun p => !out p
      cells := s.feed.cells.filter fun c => !nums.contains c.num } }

/-- A Pip packet, by its words, is a ROUND packet of a round. -/
def isPipRound (t rid : Nat) (ws : List W64) : Bool :=
  pipType ws = 0 && fld (wd ws 0) 31 22 = t && fld (wd ws 0) 63 32 = rid

/-- A packet of the Pot carries a round's data that this GT64 emitted. -/
def carriesRound (t rid : Nat) (q : QPkt) : Bool := match q.kind with
  | .emitted t' r' _ => t' = t && r' = rid
  | _ => (potPip q).any (isPipRound t rid)

/-- Take a round's data out of the Pot and out of the Ladder (R188, R191): those started end with the discard marker. -/
def dropStaged (t rid : Nat) (s : State) : State :=
  let s := modLadder (fun d => { d with queues := d.queues.map fun q => q.filter fun p => !isPipRound t rid p.words }) s
  forAll (s.pot.pkts.filter (carriesRound t rid)) (fun q s => forAll q.legs (fun l => endLeg q.num l.link) s) s

/-- R117: every residual of a failed round's slot range goes to +0, and Q_prev of a fold is reset (R123). -/
def clearRange (tb : Table) (r : Round) (s : State) : State :=
  match upSpec tb r with
  | none => s
  | some n =>
    let x := findResid tb (boardNumOf tb r) n.boundary r.spec.rslot
    modRound tb.id r.spec.round (fun q => { q with
        narrowCnt := q.narrowCnt.map fun c => { c with residZero := c.residZero + if n.feedback then r.spec.elems else 0 } })
      (setResid tb.id { x with vals := x.vals.filter (fun e => r.spec.elems ≤ e.1), q := if folds r n then none else x.q } s)

/-- Round status codes (Table 6-9). -/
abbrev stLate : Nat := 1
abbrev stWord : Nat := 2
abbrev stMalformed : Nat := 3
abbrev stDup : Nat := 4
abbrev stBoard : Nat := 5
abbrev stPeer : Nat := 6
abbrev stAborted : Nat := 7

/-- A signal of a round that ended. -/
def endSig (tb : Table) (r : Round) (signal : Nat) : RoundSig :=
  { round := r.spec.round, table := tb.id, signal := signal, status := r.status, invalid := r.status ≠ 0
    isMember := r.faultMem, source := r.faultSrc, lo := r.elemLo, hi := r.elemHi, digest := r.digest }

/-- A round that is done keeps its record and none of its data (R191); of a committed KEEPER round, the gradients that its
updates still need. -/
def bare (r : Round) : Round :=
  { r with chunks := [], folds := [], pipOps := [], results := [], formed := [], kg := if r.committed then r.kg else [] }

/-- Free norm pipes take the work that waits: what became ready first, on a tie of the lowest table (R144). -/
def fillPipes (s : State) : State :=
  forAll (List.range s.pipes.length) (fun u s =>
    if (s.pipes.getD u none).isSome then s else
    match argMin (fun (w : NormWork) => w.ready * 1024 + w.table) s.norm with
    | none => s
    | some w => { s with norm := s.norm.erase w, pipes := s.pipes.set u (some w) }) s

/-- Take a round's work out of the norm pipes and the DMA channels (R191). -/
def dropWork (t rid : Nat) (s : State) : State :=
  let mine := fun (w : NormWork) => w.table = t && w.round = rid
  fillPipes { s with
    norm := s.norm.filter fun w => !mine w
    pipes := s.pipes.map fun p => if p.any mine then none else p
    dma := s.dma.filter fun d => !(d.2.1 = t && d.2.2.1 = rid) }

/-- Fail an open round (R188, R189, R271, R292), its SIG packets going out by an issue queue (R233): `from_` is the EID whose
ABORT it passes on. -/
def failRoundAt (port t rid status src : Nat) (mem : Bool) (chunk : Nat) (from_ : Option Nat) (s : State) : State :=
  match findRound s t rid with
  | none => s
  | some (tb, r) =>
    if r.done then s else
    let es := digestElems tb r
    let r' := bare { r with done := true, status := status, faultSrc := src, faultMem := mem, faultChunk := chunk
                            digest := 0, sliceDigest := 0, elemLo := spanLo es, elemHi := spanHi es, tDone := now s }
    let s := modRound t rid (fun _ => r') s
    let s := dropWork t rid (dropStaged t rid (dropParts t rid s))
    let s := clearRange tb r' s
    let s := giveUp t (modTable t (fun x => { x with jobs := x.jobs.filter fun j => j.round ≠ rid }) s)
    let s := sendSig tb r' port ((treeEids tb r.board).filter fun e => some e ≠ from_) (endSig tb r' 2) s
    let s := sendSig tb r' port ((seatsHere tb r.board).map (·.eid)) (endSig tb r' 1) s
    let s := roundRecord tb r' (r'.elemHi - r'.elemLo) s
    let s := if status = stWord then hazardCount 5 s else s
    let s := if s.pawn.cause ≠ 0 then modPawn (fun p => { p with roundsFailed := p.roundsFailed + 1 }) s else s
    let s := if r.spec.keeper && isCrown tb then
        if r.committed then modKeeper t (fun k => { k with comFailed := k.comFailed + 1 }) s
        else if r.readyAt.isNone then sendReady tb r' false 0 s else commitCheck t s
      else s
    applyClears t (retire t rid s)

/-- Fail a round for a cause that arrived at no port: which issue queue its SIG packets take is not stated (R233). -/
def failRound (t rid status src : Nat) (mem : Bool) (chunk : Nat) (from_ : Option Nat) : State → State :=
  failRoundAt noPort t rid status src mem chunk from_

/-- A round completes with OK (R176, Table 6-5 step 6). -/
def completeRound (t rid : Nat) (s : State) : State :=
  match findRound s t rid with
  | none => s
  | some (tb, r) =>
    if r.done then s else
    let es := digestElems tb r
    let r' := bare { r with done := true, tDone := now s, digest := elemsCrc r.spec es, elemLo := spanLo es, elemHi := spanHi es
                            sliceDigest := elemsCrc r.spec r.formed }
    let s := modRound t rid (fun _ => r') s
    let s := if notices r then s
      else sendSig tb r' noPort ((seatsHere tb r.board).map (·.eid)) (endSig tb r' 1) s
    applyClears t (retire t rid (roundRecord tb r' (r'.elemHi - r'.elemLo) s))

/-! ### Chunks that are sent (Table 6-5 steps 5 and 6) -/

/-- A chunk has no source and no result comes by here for it. -/
def idleChunk (tb : Table) (r : Round) (i : Nat) : Bool := (sourcesOf tb r i).isEmpty && (expected tb r i).isEmpty

/-- A chunk has been emitted and every result of it has come by (R169, R170). -/
def chunkReady (tb : Table) (r : Round) (i : Nat) : Bool :=
  ((sourcesOf tb r i).isEmpty || r.chunks.any fun c => c.index = i && c.state = 3) &&
    (expected tb r i).all fun o => (getE r.results o).isSome

/-- Nothing of a chunk is still to be sent. -/
def chunkGone (s : State) (t rid i : Nat) : Bool :=
  !(s.pot.pkts.any fun q => match q.kind with
    | .emitted t' r' i' => t' = t && r' = rid && i' = i
    | _ => (potPip q).any (isPipRound t rid)) &&
  !(s.ladder.queues.any fun q => q.any fun p => isPipRound t rid p.words)

/-- The notices of a chunk (R179): one for each seat that takes result data of it. -/
def chunkNotices (tb : Table) (r : Round) (i : Nat) (s : State) : State :=
  if !notices r then s else
  let lo := chunkLo tb r i
  let hi := chunkHi tb r i
  forAll (seatsHere tb r.board) (fun e s =>
    let x := takesRange r e
    if overlap lo hi x.1 x.2 = 0 then s else
    let es := r.results.filter fun q => max lo x.1 ≤ q.1 && q.1 < min hi x.2
    sendSig tb r noPort [e.eid] { round := r.spec.round, table := tb.id, signal := 0, lo := lo, hi := hi, digest := elemsCrc r.spec es } s) s

/-- A round is complete once every chunk has been sent. -/
def checkDone (t rid : Nat) (s : State) : State :=
  match findRound s t rid with
  | none => s
  | some (tb, r) =>
    if (List.range (chunkCount tb r)).all fun i => r.sent.contains i || idleChunk tb r i then completeRound t rid s else s

/-- A chunk has been sent on every destination. -/
def sentChunk (t rid i : Nat) (s : State) : State :=
  match findRound s t rid with
  | none => s
  | some (tb, r) =>
    if r.done || r.sent.contains i || chunkCount tb r ≤ i || !chunkReady tb r i || !chunkGone s t rid i then s
    else checkDone t rid (chunkNotices tb r i (modRound t rid (fun x => { x with sent := insertN i x.sent }) s))

/-! ### Results (R169, R170) -/

/-- A fenced leg among destinations that would take data (R393). -/
def fencedLeg (s : State) (legs : List Leg) (items : List (Nat × Nat)) : Option Leg :=
  legs.find? fun l => fenced s l.eid && items.any fun e => inRanges l.ranges e.1

/-- The crown member above the seat that owns an element of an ALL_GATHER or BROADCAST round. -/
def ownerMember (tb : Table) (r : Round) (off : Nat) : Nat :=
  let seat := if r.spec.kind = 3 then r.board.seats.getD (off / max 1 (r.spec.elems / seatCount r)) { seat := 0, eid := 0, leaf := 0 }
    else (r.board.seats.find? fun e => e.seat = r.spec.root).getD { seat := 0, eid := 0, leaf := 0 }
  let u := walkUp tb r.board 4 seat.leaf
  if (children tb).contains u then tb.member else u

/-- The ring successor takes an element on the all-gather pass (R169). -/
def forwards (tb : Table) (r : Round) (off : Nat) : Bool :=
  isCrown tb && 1 < r.board.ring.length &&
    if isGather r.spec then ownerMember tb r off ≠ succOf tb r.board
    else posOf r.board (succOf tb r.board) ≠ some (off / sliceLen tb r)

/-- The EIDs of legs that take one run of elements, run by run. -/
def runsOfLegs (legs : List (Nat × List Nat)) : List (List Nat × List Nat) :=
  ((legs.map (·.2)).eraseDups).map fun run => ((legs.filter fun l => l.2 = run).map (·.1), run)

/-- Take result elements here and replicate them to children, seats and the ring successor, under an epoch stamp. A fenced
leg fails the round, and none of the elements counts (R73, R396). -/
def resultsIn (port epoch t rid : Nat) (items : List (Nat × Nat)) (s : State) : State :=
  match findRound s t rid with
  | none => s
  | some (tb, r) =>
    if r.done then s else
    let legs := legsOf tb r
    let new := items.filter fun e => (getE r.results e.1).isNone
    let counted := (new.filter fun e => delivers legs e.1 || (getE r.formed e.1).isSome).length
    let fwd := (items.filter fun e => forwards tb r e.1).map (·.1)
    let succ := eidOf tb (succOf tb r.board)
    match fencedLeg s legs items with
    | some l => failRoundAt port t rid stAborted l.dst.id l.dst.isMember 0 none (fenceDrop s)
    | none =>
      if !fwd.isEmpty && fenced s succ then failRoundAt port t rid stAborted (succOf tb r.board) true 0 none (fenceDrop s) else
      let s := modRound t rid (fun x => { x with results := putAll x.results items, elements := x.elements + counted }) s
      let down := legs.map fun l => (l.eid, (items.filter fun e => inRanges l.ranges e.1).map (·.1))
      let runs := (runsOfLegs down).filter fun x => !x.2.isEmpty
      let bytes := fun (run : List Nat) => (items.filter fun e => run.contains e.1).map fun e => (e.1, resBytes r.spec e.2)
      let s := forAll runs (fun x =>
        shipRun tb r port epoch x.1 (if !fwd.isEmpty && x.2 = fwd then some succ else none) (bytes x.2)) s
      if fwd.isEmpty || runs.any (fun x => x.2 = fwd) then s else shipRun tb r port epoch [] (some succ) (bytes fwd) s

/-! ### Emitting a chunk -/

/-- The sums of a chunk as FP32 (Table 4-2 step 1): codes, SATURATED, FLUSHED. -/
def sumsFp32 (r : Round) (accs : List (Option Nat)) : List Nat × Nat × Nat :=
  let xs := accs.map fun a => if isBank r.spec then bankRound fp32 (a.getD 0) 1 else ⟨a.getD 0, false, false⟩
  (xs.map (·.bits), (xs.filter (·.saturated)).length, (xs.filter (·.flushed)).length)

/-- v = sum + residual (Table 4-2 step 2). -/
def addResid (x : Resid) (lo : Nat) (sums : List Nat) : List Nat :=
  (List.range sums.length).map fun i => fadd fp32 (sums.getD i 0) ((getE x.vals (lo + i)).getD 0)

/-- Write residuals: only those that are not +0 are listed; the extent grows (R114). -/
def writeResid (x : Resid) (lo : Nat) (vs : List Nat) : Resid :=
  let n := vs.length
  let keep := x.vals.filter fun e => e.1 < lo || lo + n ≤ e.1
  { x with vals := putAll keep (((List.range n).map fun i => (lo + i, vs.getD i 0)).filter fun e => e.2 ≠ 0)
           extent := max x.extent (lo + n) }

/-- Add what one block counts (R69, R128). -/
def countBlock (n : Nat) (fb : Bool) (b : BlockOut) (r : Round) : Round :=
  { r with
    escalated := r.escalated + b.escalated, flushed := r.flushed + b.flushed, saturated := r.saturated + b.saturated
    narrowCnt := r.narrowCnt.map fun c => { c with
      blocks := c.blocks + 1, zeroBlocks := c.zeroBlocks + b2n b.zero, escBlocks := c.escBlocks + b2n b.esc
      nfBlocks := c.nfBlocks + b2n b.nf
      epsLow := c.epsLow + b2n (b.eps = some 0), epsMid := c.epsMid + b2n (b.eps = some 1)
      epsHigh := c.epsHigh + b2n (b.eps = some 2)
      residZero := c.residZero + if b.residZero && fb then n else 0 } }

/-- A round whose partial would go to a fenced parent fails with ABORTED (R396). -/
def parentFenced (tb : Table) (s : State) : Bool := (parentOf tb).any fun p => fenced s (eidOf tb p)

def failFenced (port : Nat) (tb : Table) (r : Round) (s : State) : State :=
  failRoundAt port tb.id r.spec.round stAborted ((parentOf tb).getD 0) true 0 none (fenceDrop s)

/-- Narrow a chunk and send it upward block by block (R103). -/
def emitNarrow (tb : Table) (r : Round) (n : NSpec) (c : Chunk) (s : State) : State :=
  if parentFenced tb s then failFenced 0 tb r s else
  let (sums, sat, fl) := sumsFp32 r c.accs
  let x := findResid tb (boardNumOf tb r) n.boundary r.spec.rslot
  let v := if n.feedback then addResid x c.lo sums else sums
  let key := kTurn n r.turn
  let blocks := (List.range (ceilDiv v.length 32)).map fun b =>
    let part := (v.drop (32 * b)).take 32
    (c.lo + 32 * b, part.length, encodeBlock n key r.spec.round ((c.lo + 32 * b) / 32) part.length
      (part ++ List.replicate (32 - part.length) 0))
  let s := modRound tb.id r.spec.round (fun q =>
    blocks.foldl (fun q b => countBlock b.2.1 n.feedback b.2.2 q) { q with saturated := q.saturated + sat, flushed := q.flushed + fl }) s
  let s := if n.feedback then
      setResid tb.id (blocks.foldl (fun x b => writeResid x b.1 (b.2.2.resid.take b.2.1)) x) s
    else s
  let s := modTable tb.id (fun q => { q with rotBlocks := q.rotBlocks + (blocks.filter fun b => b.2.2.rotated).length }) s
  ship tb r 0 0 tb.member n.format 32 ((parentOf tb).elim 0x1FFFFF (eidOf tb)) (blocks.map fun b => (b.1, b.2.2.bytes)) s

/-- Bytes of an unnarrowed partial of an element (R79, R85). -/
def partialBytes (c : RoundSpec) (a : Nat) : List Byte :=
  if isBank c then bankRecord a else leBytes (elemBytes (partialFmt c)) a

/-- The accumulators of a chunk by offset. -/
def accItems (c : Chunk) : List (Nat × Nat) :=
  (List.range c.accs.length).filterMap fun i => (c.accs.getD i none).map fun a => (c.lo + i, a)

/-- Mark a chunk's state, freeing its accumulators once it is emitted. -/
def setChunk (t rid i st : Nat) : State → State :=
  modRound t rid (fun r => { r with
    chunks := updWhere (fun c => c.index = i) (fun c => { c with state := st, accs := if st = 3 then [] else c.accs }) r.chunks })

/-- Send a partial on a hop of the tree, unless the neighbour is fenced (R396). -/
def shipPartial (tb : Table) (r : Round) (port phase dst : Nat) (items : List (Nat × Nat)) (s : State) : State :=
  if items.isEmpty then s
  else if fenced s (eidOf tb dst) then failRoundAt port tb.id r.spec.round stAborted dst true 0 none (fenceDrop s)
  else ship tb r port phase tb.member (partialFmt r.spec) 1 (eidOf tb dst) (items.map fun e => (e.1, partialBytes r.spec e.2)) s

/-- Round the complete sums of a chunk at the member that holds them (R86), and start the all-gather pass. -/
def roundChunk (port : Nat) (tb : Table) (r : Round) (c : Chunk) (s : State) : State :=
  let xs := (accItems c).map fun e => (e.1, finish r e.2)
  let vals := xs.map fun e => (e.1, e.2.1)
  let s := modRound tb.id r.spec.round (fun q => { q with
    saturated := q.saturated + (xs.map (·.2.2.1)).sum, flushed := q.flushed + (xs.map (·.2.2.2)).sum
    formed := putAll q.formed vals }) s
  resultsIn port s.route.cur tb.id r.spec.round vals s

/-- The gradient of a complete chunk of a KEEPER round (R270), or the loaded value of a load round (R283). -/
def keeperChunk (tb : Table) (r : Round) (c : Chunk) (s : State) : State :=
  let f := if r.phase = 1 then fp32 else bf16
  let xs := (accItems c).map fun e => (e.1, bankRound f e.2 (divisor r))
  let s := modRound tb.id r.spec.round (fun q => { q with
    saturated := q.saturated + (if r.phase = 3 then 0 else (xs.filter (·.2.saturated)).length)
    flushed := q.flushed + (if r.phase = 3 then 0 else (xs.filter (·.2.flushed)).length)
    kg := putAll q.kg (xs.map fun e => (e.1, e.2.bits)) }) s
  let sl := ownSlice tb r
  match findRound s tb.id r.spec.round with
  | none => s
  | some (tb, r) =>
    if r.kg.length = sl.2 - sl.1 && r.readyAt.isNone then
      sendReady tb r true (if r.clipped then partOf (r.kg.map (·.2)) else 0) s
    else s

/-- Emit a complete chunk (Table 6-5 steps 3 and 4). -/
def emitChunk (port t rid i : Nat) (s : State) : State :=
  match findRound s t rid with
  | none => s
  | some (tb, r) => match r.chunks.find? fun c => c.index = i with
    | none => s
    | some c =>
      if r.done || c.state = 3 then s
      else if !isCrown tb && slotBlocked tb r c.lo c.hi then setChunk t rid i 2 s
      else
        let s := setChunk t rid i 3 s
        if !isCrown tb then
          match upSpec tb r with
          | some n => emitNarrow tb r n c s
          | none => match parentOf tb with
            | some p => shipPartial tb r port 0 p (accItems c) s
            | none => s
        else if isGather r.spec then
          resultsIn port s.route.cur t rid ((accItems c).map fun e => (e.1, canonElem r.spec.inFmt e.2)) s
        else if sliceOf tb r i = ownPos tb r.board then
          if r.spec.keeper then keeperChunk tb r c s else roundChunk port tb r c s
        else shipPartial tb r port 1 (succOf tb r.board) (accItems c) s

/-- Chunks that waited for their slot try again (R116). -/
def retrySlots (t : Nat) (s : State) : State :=
  match findTable s t with
  | none => s
  | some tb =>
    forAll (tb.rounds.filter fun r => !r.done && (upSpec tb r).any fun n => !folds r n) (fun r s =>
      forAll (r.chunks.filter fun c => c.state = 2) (fun c => emitChunk 0 t r.spec.round c.index) s) s

/-- Every element of a folding round's matrix has its complete sum (R121). -/
def foldReady (tb : Table) (r : Round) : Bool :=
  (List.range (chunkCount tb r)).all fun i => r.chunks.any fun c => c.index = i && c.state = 2

/-- Cells of Pot staging for n FP32 elements of a panel (R138). -/
def panelCells (n : Nat) : Nat := ceilDiv (4 * n) 256

/-- Staging cells of a fold or an unfold of rank k: P, Q and Â, and its panels (R138). -/
def foldCells (r : Round) (k : Nat) (panels : List Chunk) : Nat :=
  panelCells (r.spec.foldRows * k) + panelCells (r.spec.foldCols * k) + panelCells (r.spec.foldRows * r.spec.foldCols) +
    (panels.map fun c => panelCells (c.hi - c.lo)).sum

/-- Start the sender's matrix work (R121): M is sums + residuals in FP32; a task that needs a panel in HBM waits for it
(R139). Q_prev is the slot's list as it stands, entries it does not hold being +0 (DESIGN CHOICE, log 87). -/
def startFold (tb : Table) (r : Round) (n : NSpec) (s : State) : State :=
  let x := findResid tb (boardNumOf tb r) n.boundary r.spec.rslot
  let cs := (sortN (r.chunks.map (·.index))).filterMap fun i => r.chunks.find? fun c => c.index = i
  let parts := cs.map fun c => sumsFp32 r c.accs
  let sums := parts.flatMap (·.1)
  let m := if n.feedback then addResid x 0 sums else sums
  let panels := cs.filter (·.hbm)
  let q := x.q.getD (qInit n r.spec.rslot r.spec.foldCols n.foldRank)
  let job : MuJob := { round := r.spec.round, src := none, stage := 0, rank := n.foldRank, mat := m, qprev := q
                       panels := panels.map (·.index), staged := foldCells r n.foldRank panels
                       tasks := opTasks r.spec.foldRows n.foldRank r.spec.foldCols
                       todo := List.range (opTasks r.spec.foldRows n.foldRank r.spec.foldCols) }
  let s := modRound tb.id r.spec.round (fun y => { y with
    saturated := y.saturated + (parts.map (·.2.1)).sum, flushed := y.flushed + (parts.map (·.2.2)).sum }) s
  let s := modTable tb.id (fun y => { y with jobs := y.jobs ++ [job] }) s
  forAll panels (fun c s => freeNext { s with dma := s.dma ++ [(freeVal s % 16, tb.id, r.spec.round, c.index)] }) s

/-- Chunks and folds that waited for their slot try again (R115, R116). -/
def retryWork (t : Nat) (s : State) : State :=
  let s := retrySlots t s
  match findTable s t with
  | none => s
  | some tb =>
    forAll (tb.rounds.filter fun r => !r.done && !tb.jobs.any fun j => j.round = r.spec.round && j.src.isNone) (fun r s =>
      match findTable s t, upSpec tb r with
      | some tb, some n =>
        if folds r n && foldReady tb r && !slotBlocked tb r 0 r.spec.elems then startFold tb r n s else s
      | _, _ => s) s

/-- A chunk has all that its sources owe it: emit it, or keep it for the fold. -/
def finishChunk (port t rid i : Nat) (s : State) : State :=
  match findRound s t rid with
  | none => s
  | some (tb, r) =>
    match upSpec tb r with
    | some n =>
      if folds r n then
        let s := setChunk t rid i 2 s
        match findRound s t rid with
        | none => s
        | some (tb, r) => if foldReady tb r && !slotBlocked tb r 0 r.spec.elems then startFold tb r n s else s
      else retrySlots t (emitChunk port t rid i s)
    | none => emitChunk port t rid i s

end Sys2Proof.Machine
end

