-- ==== Sys2Proof/Machine/Virop.lean ====
section
/-! DEFINITION. The commands of the Virop Link (13): frames, ACK, NAK, INIT, time exchange, training, step-up, fast
retrain, leaving service, loopback and DISCARD. -/

namespace Sys2Proof.Machine
open Sys2Proof

/-! ### Receiving -/

/-- Take a CTRL, PIP or KEEPER flit that the link has handed up; its credit becomes returnable (R356). -/
def takeFlit (l tag : Nat) (ws : List W64) (s : State) : State :=
  let s' := takeArrived (.flit l tag ws) s
  match poolOf tag with
  | some p => if s.inbox.contains (.flit l tag ws) then freeCredits l p 1 s' else s'
  | none => s'

/-- A flit of a pool arrives: whether the advertised count lets it in (R430). -/
def poolRoom (k : Link) (p : Nat) : Bool :=
  let q := k.rx.pools.getD p {}
  q.count - q.freed < q.credits

def countPool (l p : Nat) : State → State :=
  modRx l (fun r => { r with pools := modAt r.pools p (fun q => { q with count := q.count + 1 }) })

def flitIn (l : Nat) : State → State := modPort (portOf l) (fun p => { p with flitsIn := p.flitsIn + 1 })

/-- What is in progress in a class of a link. -/
def setPart (l cls : Nat) (pp : Option PartPkt) : State → State := modRx l (fun r => { r with parts := r.parts.set cls pp })

/-- Bytes 1 to 63 of a DISCARD are 0 (Table 13-4). -/
def discardOk (ws : List W64) : Bool := fld (wd ws 0) 63 8 = 0 && (List.range 7).all fun i => (wd ws (i + 1)).toNat = 0

/-- The discard end marker ends the packet in progress in its class (R427), wherever it has gone on (R347), or breaks R427
(R429). -/
def recvDiscard (l cls : Nat) (s : State) : State :=
  match (getLink s l).rx.parts.getD cls none with
  | some pp =>
    let s := modPort (portOf l) (fun p => { p with discardEnds := p.discardEnds + 1 }) (setPart l cls none s)
    match pp.pkt with
    | some num => endPacket num s
    | none => freeCredits l (classPool cls) (pp.words.length / 8) s
  | none => protoError l s

/-- The payload that a header's LENGTH gives, from the words of a packet; what has not arrived stands as zeros. -/
def partBytes (ws : List W64) : List Byte := padTo (fld (wd ws 1) 63 51) ((bytesOf ws).drop 16)

/-- A packet of which these words have arrived. -/
def partPacket (ws : List W64) : Packet := { w0 := wd ws 0, w1 := wd ws 1, payload := partBytes ws }

/-- A stored packet, if any, is here no longer: it has ended on every leg. -/
def partGone (s : State) (pp : PartPkt) : Bool := pp.pkt.any fun num => (findPkt s num).isNone

/-- A BULK flit arrives in a class: it begins or continues the packet of that class (R426). A packet whose last flit
arrives is handed up, unless it has been stored already: that one grows, and ends where a flit is dropped (R347, R429). -/
def recvBulk (l cls : Nat) (ws : List W64) (s : State) : State :=
  let k := getLink s l
  let pool := classPool cls
  let room := poolRoom k pool
  let pp := (k.rx.parts.getD cls none).getD
    { left := max 1 (ceilDiv (16 + fld (wd ws 1) 63 51) 64), words := [] }
  let drop := pp.drop || !room || partGone s pp
  let s := if room then countPool l pool s else protoError l s
  let s := if drop && room then freeCredits l pool 1 s else s
  let ws' := if drop then pp.words else pp.words ++ ws
  let s := setPart l cls (if pp.left ≤ 1 then none else some { pp with left := pp.left - 1, words := ws', drop := drop }) s
  match pp.pkt with
  | some num => if drop then endPacket num s else grow num (pp.left - 1) (partBytes ws') s
  | none =>
    if 1 < pp.left then s
    else if drop then freeCredits l pool (pp.words.length / 8) s
    else { s with inbox := s.inbox ++ [.pkt l pool (partPacket ws')] }

/-- Hand up one flit of an accepted link frame (R417, R421, R429, R432). -/
def handUp (l : Nat) (f : Flit) (s : State) : State :=
  if f.tag = 0 then s
  else if f.tag = 1 then
    if ctrlOk f.words then { s with inbox := s.inbox ++ [.flit l 1 f.words] } else protoError l s
  else if f.tag = 2 then
    if poolRoom (getLink s l) 7 then flitIn l (countPool l 7 { s with inbox := s.inbox ++ [.flit l 2 f.words] })
    else protoError l s
  else if f.tag = 3 then
    if peerIsGt64 s l && poolRoom (getLink s l) 8 then
      flitIn l (countPool l 8 { s with inbox := s.inbox ++ [.flit l 3 f.words] })
    else protoError l s
  else if f.tag = 4 then
    if !discardOk f.words then protoError l s else
    let s := recvDiscard l (fld (wd f.words 0) 7 0) s
    { s with inbox := s.inbox ++ [.flit l 4 f.words] }
  else match classOfTag f.tag with
    | some c => flitIn l (recvBulk l c f.words s)
    | none => protoError l s

/-- Slots of decoded lanes, in slot order (R418). -/
def slotsOf (cs : List (List Byte)) : List Flit :=
  (List.range 4).flatMap fun p => cs.map fun c => laneFlit c p

/-- A bad lane frame on a lane in its last 8 (R416). -/
def pushHistory (bads : List Bool) (r : LinkRx) : LinkRx :=
  { r with history := List.zipWith (fun h b => (b :: h).take 8) r.history (bads ++ List.replicate 8 false) }

/-- Loss of lock: 4 of the last 8 lane frames on a lane were bad (R416). -/
def lockLost (k : Link) : Bool := (k.rx.history.take k.stat.lanes).any fun h => 4 ≤ h.count true

/-- Every lane frame that arrives, service or SYNC, enters its lane's history (R416). -/
def noteFrames (l : Nat) (lanes : List LaneRx) : State → State :=
  modRx l (pushHistory (lanes.map fun x => (decodeLane x.content).isNone || x.stuffBad))

/-- A service frame arrives on every lane (R415, R416, R421, R422). -/
def serviceFrame (l : Nat) (lanes : List LaneRx) (s : State) : State :=
  let k := getLink s l
  let w := k.stat.lanes
  let dec := lanes.map fun x => decodeLane x.content
  let cs := dec.filterMap (·.map (·.1))
  let e := k.rx.expect
  let full := lanes.length = w && cs.length = w
  let pass := fun (u : Bool) => full &&
    (List.range w).all fun i => laneCrcOk u i e (cs.getD i [])
  let slots := slotsOf cs
  let unseqOk := pass true && slots.all fun f => f.tag ≤ 1
  let fails := ((List.range w).filter fun i => match dec.getD i none with
    | some (c, _) => !laneCrcOk false i e c && !laneCrcOk true i e c
    | none => false).length
  let s := modStat l (fun t => { t with
    corrected := t.corrected + ((dec.filterMap (·.map (·.2))).sum)
    uncorrectable := t.uncorrectable + (dec.filter Option.isNone).length
    crcFails := t.crcFails + fails }) s
  let s := noteFrames l lanes s
  let s :=
    if pass false then
      let s := forAll slots (handUp l) s
      modTx l (fun t => { t with framesSinceAck := t.framesSinceAck + 1 })
        (modRx l (fun r => { r with expect := (e + 1) % 4096, accepted := true, replayWait := none }) s)
    else if unseqOk then forAll slots (handUp l) s
    else if k.rx.replayWait.isNone then sendNak l 1 s
    else s
  if lockLost (getLink s l) && (getLink s l).stat.state = 2 then startFast l s else s

/-- Ones among the bits of bytes. -/
def onesIn (bs : List Byte) : Nat := ((bitsOf bs).filter id).length

/-- A test frame arrives at a loopback tester (R447). -/
def testFrameIn (l : Nat) (lanes : List LaneRx) (s : State) : State :=
  let dec := lanes.map fun x => decodeLane x.content
  let ones := (lanes.map fun x => onesIn x.content).sum
  let fixed := (dec.filterMap (·.map (·.2))).sum
  let bad := (dec.filter Option.isNone).length
  modStat l (fun t => { t with
    rawBitErrors := t.rawBitErrors + ones, corrected := t.corrected + fixed, uncorrectable := t.uncorrectable + bad })
    (modLoop l (fun t => { t with raw := t.raw + ones, corr := t.corr + fixed, uncorr := t.uncorr + bad }) s)

/-- Every content byte of every lane is 0: a SYNC frame (Table 13-8 step 5). -/
def isSync (lanes : List LaneRx) : Bool := lanes.all fun x => x.content.all (· = 0)

/-- The peer's SYNC frame number n arrives: the last 32 of the 64 must descramble to 0 on every lane, or step 5 fails
(Table 13-8). A fast retrain that fails so runs on to its limit (R441). -/
def syncFrame (l n : Nat) (lanes : List LaneRx) (s : State) : State :=
  let k := getLink s l
  let bad := k.train.syncBad || (32 ≤ n && !(isSync lanes && lanes.length = k.stat.lanes))
  let s := noteFrames l lanes (modTrain l (fun t => { t with peerSync := some (n + 1), syncBad := bad }) s)
  if n + 1 < 64 then s
  else if !bad then checkTrained l s
  else if k.stat.state = 1 then failAttempt l s
  else modTrain l (fun t => { t with peerSync := none, syncBad := false }) s

/-- LINK_FRAME_RECEIVE (R421). A near-end loopback ignores the line (Table 13-9). -/
def linkFrameIn (l : Nat) (lanes : List LaneRx) (s : State) : State :=
  let k := getLink s l
  if !live s || !isLink s l then s
  else if k.stat.state = 4 then
    if k.loop.mode = 4 then emit (.returned l lanes) s else if k.loop.mode = 3 then testFrameIn l lanes s else s
  else match k.train.peerSync with
    | some n =>
      if n < 64 then syncFrame l n lanes s
      else if 1 ≤ k.stat.state && k.stat.state ≤ 3 then serviceFrame l lanes s else s
    | none => if k.stat.state = 2 then serviceFrame l lanes s else s

def execLinkFrameReceive (link : Nat) (lanes : List LaneRx) (s : State) : Host.Outcome State Fault Refusal :=
  .next (linkFrameIn link lanes s)

/-- 512 link frame periods of a generation, in ns (R422, Table 13-2). -/
def replayNs (gen : Nat) : Nat := if gen = 3 then 2622 else if gen = 2 then 5243 else 10486

/-- REPLAY_WAIT_TIMEOUT (R422): 512 link frame periods have passed since the last NAK: NAK(E) again, and a fast retrain
after 8 NAKs for one E. -/
def replayTimeout (l : Nat) (s : State) : State :=
  match (getLink s l).rx.replayWait with
  | none => s
  | some n =>
    if !linkRuns s l then s
    else
      let s := advanceTo ((getLink s l).rx.waitSince + replayNs (getLink s l).stat.gen) s
      if n < 8 then sendNak l (n + 1) s
      else startFast l (modRx l (fun r => { r with replayWait := none }) s)

def execReplayWaitTimeout (link : Nat) (s : State) : Host.Outcome State Fault Refusal := .next (replayTimeout link s)

/-- What a transmitter does with E of a NAK (R423). -/
def nakTo (l e : Nat) (s : State) : State :=
  let t := (getLink s l).tx
  if t.replay.any (fun f => f.seq = e) then modTx l (replayFrom e) s
  else if e = t.nextSeq then modTx l (fun t => { t with replay := [], resend := [] }) s
  else protoError l s

/-- NAK(E) (R423), which hazard source SRC3 counts (Table 13-10). -/
def nakIn (l e : Nat) (s : State) : State :=
  nakTo l e (hazardCount 3 (modStat l (fun t => { t with naksReceived := t.naksReceived + 1 }) s))

/-- ACK (R423, R424, R430); the ACK after a fast retrain counts as NAK(ACK_SEQ + 1) (R441). -/
def ackIn (l : Nat) (ws : List W64) (s : State) : State :=
  let t := (getLink s l).tx
  let seq := fld (wd ws 0) 43 32
  let s := modTx l (fun t => { t with pools := takeFreed (poolCounts ws) t.pools }) s
  let s := if bitAt (wd ws 0) 0 then modTx l (ackUpTo seq) s else s
  if t.ackAsNak then
    let e := if bitAt (wd ws 0) 0 then (seq + 1) % 4096 else 0
    nakTo l e (modTx l (fun t => { t with ackAsNak := false }) s)
  else s

/-- A CTRL flit of a type reaches a link that runs; its reserved bits are checked (R432). -/
def ctrlIn (l type : Nat) (ws : List W64) (f : State → State) (s : State) : State :=
  let s' := takeFlit l 1 ws s
  if !live s || !isLink s l || (getLink s l).stat.state = 0 || (getLink s l).stat.state = 5 then s'
  else if ctrlOk ws && fld (wd ws 0) 63 56 = type then f s'
  else protoError l s'

def execAck (link : Nat) (flit : List W64) (s : State) : Host.Outcome State Fault Refusal :=
  .next (ctrlIn link 1 flit (ackIn link flit) s)

def execAckTimer (link : Nat) (s : State) : Host.Outcome State Fault Refusal :=
  .next (if linkRuns s link then sendAck link s else s)

def execNak (link : Nat) (flit : List W64) (s : State) : Host.Outcome State Fault Refusal :=
  .next (ctrlIn link 2 flit (nakIn link (fld (wd flit 0) 43 32)) s)

/-- INIT: the peer's CREDITS; counts, sequence numbers and FREED start at 0 (R420, R430, Table 13-8). -/
def initIn (l : Nat) (ws : List W64) (s : State) : State :=
  let cs := (poolCounts ws).map fun c => ({ credits := c } : Pool)
  if (getLink s l).stat.state = 1 then
    checkTrained l (modLink l (fun k => { k with
      tx := { k.tx with pools := cs, nextSeq := 0, replay := [], resend := [] }
      train := { k.train with initRecv := true } }) s)
  else s

def execInit (link : Nat) (flit : List W64) (s : State) : Host.Outcome State Fault Refusal :=
  .next (ctrlIn link 3 flit (initIn link flit) s)

/-! ### Time exchange -/

/-- TIME_RESP to a TIME_REQ that arrived at t2 (R444); T3 is that of the frame that carries it (R443). In START_UP it
offers no root (R613). -/
def timeReqIn (l : Nat) (ws : List W64) (t2 : Nat) (s : State) : State :=
  let t := s.time
  let svc := inService s
  let f := ctrlFlit 5
    [(7, 0, fld (wd ws 0) 7 0), (15, 8, if svc then t.rootPriority else 255), (19, 16, if svc then t.hops else 8),
     (21, 20, if svc then t.state else 0)]
    (mkW [(63, 0, t2)]) 0
    (mkW [(63, 32, if svc then t.pathBound else 0), (20, 0, if svc && (t.isRoot || t.upLink.isSome) then t.rootEid else 0x1FFFFF)])
  sendCtrl l f s

def execTimeReq (link : Nat) (flit : List W64) (t2 : Nat) (s : State) : Host.Outcome State Fault Refusal :=
  .next (ctrlIn link 4 flit (fun x => if linkRuns x link then timeReqIn link flit t2 x else x) s)

/-- A rate correction within ±200 ppm (R238): the servo's law is not stated. -/
def slew (s : State) : State :=
  freeNext (modTime (fun t => { t with ratePpm := ((freeVal s % 401 : Nat) : Int) - 200 }) s)

/-- An exchange completes on the upstream link: TIME_STATE moves as Table 8-4. -/
def upstreamExchange (gen : Nat) (theta : Int) (near : Bool) (s : State) : State :=
  let b : Int := hopBound gen
  let s := slew (modTime (fun t => { t with theta := theta }) s)
  let st := s.time.state
  if st = 2 then
    if theta.natAbs > (2 * b).natAbs then
      let n := s.time.badRun + 1
      if n = 2 then setTimeState 1 s else modTime (fun t => { t with badRun := n }) s
    else modTime (fun t => { t with badRun := 0 }) s
  else if theta.natAbs ≤ b.natAbs then
    let n := s.time.goodRun + 1
    if 16 ≤ n && near then setTimeState 2 s else modTime (fun t => { t with goodRun := n }) s
  else modTime (fun t => { t with goodRun := 0 }) s

/-- TIME_RESP (R240 to R243, R445). -/
def timeRespIn (l : Nat) (ws : List W64) (t4 : Nat) (s : State) : State :=
  let k := getLink s l
  match k.xchg.bind fun x => x.t1.map fun t1 => (x, t1) with
  | none => s
  | some (x, t1) =>
    if x.xid ≠ fld (wd ws 0) 7 0 then s else
    let s := modLink l (fun k => { k with xchg := none }) s
    if x.bad || t1 + 640000 < t4 then modStat l (fun t => { t with timeDiscards := t.timeDiscards + 1 }) s else
    let s := modStat l (fun t => { t with timeExchanges := t.timeExchanges + 1 }) s
    let t2 := (wd ws 1).toNat
    let t3 := (wd ws 2).toNat
    let theta : Int := (((t2 : Int) - t1) - ((t4 : Int) - t3)) / 2
    let s := modLink l (fun k => { k with pathDelay := (((t2 : Int) - t1) + ((t4 : Int) - t3)) / 2 }) s
    let p : TimePeer := { link := l, priority := fld (wd ws 0) 15 8, rootEid := fld (wd ws 3) 20 0,
                          hops := fld (wd ws 0) 19 16, pathBound := fld (wd ws 3) 63 32 }
    let s := modTime (fun t => { t with peers := p :: t.peers.filter (fun q => q.link ≠ l) }) s
    let s := elect s
    if s.time.upLink = some l && inService s then upstreamExchange k.stat.gen theta (p.hops < 8) s else s

def execTimeResp (link : Nat) (flit : List W64) (t4 : Nat) (s : State) : Host.Outcome State Fault Refusal :=
  .next (ctrlIn link 5 flit (timeRespIn link flit t4) s)

/-- Request an exchange (R439, R446, R613); one that begins in a fast retrain is discarded with it (R445). An exchange
still unanswered when the next begins is discarded. -/
def timeRequest (l : Nat) (s : State) : State :=
  let k := getLink s l
  if inService s && linkUp s l && peerIsGt64 s l then
    sendCtrl l (ctrlFlit 4 [(7, 0, k.xid)] 0 0 0)
      (modLink l (fun k => { k with
        stat := { k.stat with timeDiscards := k.stat.timeDiscards + b2n k.xchg.isSome }
        xchg := some { xid := k.xid, bad := k.stat.state = 3 }, xid := (k.xid + 1) % 256 }) s)
  else s

def execTimeExchangeTimer (link : Nat) (s : State) : Host.Outcome State Fault Refusal := .next (timeRequest link s)

/-- No TIME_RESP within 10 µs of t1: the exchange is discarded (R445). -/
def timeTimeout (l : Nat) (s : State) : State :=
  match (getLink s l).xchg.bind (·.t1) with
  | none => s
  | some t1 =>
    modLink l (fun k => { k with
      xchg := none
      stat := { k.stat with timeDiscards := k.stat.timeDiscards + 1 } }) (advanceTo (t1 / 64 + 10000) s)

def execTimeExchangeTimeout (link : Nat) (s : State) : Host.Outcome State Fault Refusal := .next (timeTimeout link s)

/-! ### Step-up, retrain, training -/

/-- GEN_STEP (R438): once sent and received with the same NEXT, 8 further unsequenced frames go. -/
def genStepIn (l next : Nat) (s : State) : State :=
  let k := getLink s l
  if k.stat.state = 2 && next = k.stat.gen + 1 && k.stat.gen < targetGen s l then
    modTrain l (fun t => { t with
      genStepRecv := next
      stepLeft := if t.genStepSent = next && t.stepLeft.isNone then some 8 else t.stepLeft }) s
  else s

def execGenStep (link : Nat) (flit : List W64) (s : State) : Host.Outcome State Fault Refusal :=
  .next (ctrlIn link 6 flit (genStepIn link (fld (wd flit 0) 1 0)) s)

/-- GEN_STEP has gone both ways with one NEXT (R438). -/
def stepAgreed (k : Link) : Bool := k.stat.state = 2 && k.train.genStepRecv ≠ 0 && k.train.genStepRecv = k.train.genStepSent

/-- The step-up begins step 1 at NEXT once the 8 further frames have gone and 1 µs of electrical idle has passed (R438). -/
def stepUp (l : Nat) (s : State) : State :=
  let k := getLink s l
  match k.train.idleUntil with
  | none => s
  | some u => if stepAgreed k then startTraining l k.train.genStepRecv (advanceTo u s) else s

def execStepUpStart (link : Nat) (s : State) : Host.Outcome State Fault Refusal := .next (stepUp link s)

def execRetrain (link : Nat) (flit : List W64) (s : State) : Host.Outcome State Fault Refusal :=
  .next (ctrlIn link 7 flit (fun x => if (getLink x link).stat.state = 2 then startFast link x else x) s)

/-- What one lane's TS says (R407, R435, R436, R440, R648). -/
def laneTs (l : Nat) (x : TsRx) (s : State) : State :=
  let w0 := wd x.words 0
  let own := offered s l
  if x.lane ≥ own then s
  else if !tsOk x.words then modTrain l (fun t => { t with goodTs := t.goodTs.set x.lane 0 }) s
  else
    let logical := fld w0 59 57
    let straight := logical = x.lane
    let rev := logical + x.lane + 1 = own
    let t := (getLink s l).train
    let order := match t.reversed with
      | some r => if r then rev else straight
      | none => straight || rev
    if !order then modTrain l (fun t => { t with goodTs := t.goodTs.set x.lane 0, orderBad := true }) s else
    let isTs2 := fld w0 63 60 = 2
    modLink l (fun k => { k with
      stat := { k.stat with
        peerGt64 := bitAt w0 35, peerFamilyGen := fld w0 34 31, peerGens := fld w0 54 52, peerEid := fld w0 20 0 }
      train := applyEq logical (fld (wd x.words 1) 5 0) { k.train with
        peerTs := some (k.train.peerTs.getD (now s))
        goodTs := k.train.goodTs.set x.lane (min 3 (k.train.goodTs.getD x.lane 0 + 1))
        reversed := if straight && rev then k.train.reversed else some rev
        laneFc := k.train.laneFc.set logical (some (fld w0 43 36))
        peerWidth := 2 ^ fld w0 56 55
        peerEqDone := k.train.peerEqDone.set logical (bitAt w0 48 || isTs2)
        peerLoop := k.train.peerLoop || bitAt w0 49 } }) s

/-- A TS2 whose COUNTDOWN is 0: SYNC frames come next (Table 13-8 step 4). -/
def lastTs2 (x : TsRx) : Bool := tsOk x.words && fld (wd x.words 0) 63 60 = 2 && fld (wd x.words 0) 47 44 = 0

/-- The TS of one frame period: the peer's SYNC frames follow COUNTDOWN 0 where the lanes can be aligned (R419). -/
def lanesTs (l : Nat) (lanes : List TsRx) (s : State) : State :=
  let s := forAll lanes (laneTs l) s
  let k := getLink s l
  if lanes.any lastTs2 && lanesAligned k.train k.stat.lanes then
    modTrain l (fun t => { t with peerSync := some 0, syncBad := false }) s
  else s

/-- The equaliser of the GT64's own receivers is done at a moment of its own (log 13). -/
def ownEq (l : Nat) (s : State) : State :=
  let b := freeVal s % 2 = 1
  freeNext (modTrain l (fun t => { t with eqDone := t.eqDone || (t.step = 3 && b) }) s)

/-- TS arrive (R407, R436, R437, R440, R441, R448): a TS2 on a link that is up is its peer's fast retrain, and lanes in any other
order than straight or reversed fail the attempt. -/
def tsIn (l : Nat) (lanes : List TsRx) (s : State) : State :=
  let k := getLink s l
  if !live s || !isEnabled s l then s
  else if k.stat.state = 2 then
    if lanes.any (fun x => tsOk x.words && fld (wd x.words 0) 63 60 = 2) then
      lanesTs l lanes (startFast l s)
    else s
  else if k.stat.state = 1 || k.stat.state = 3 then
    let s := lanesTs l lanes s
    if k.stat.state = 1 && (getLink s l).train.orderBad then failAttempt l s else checkSteps l (ownEq l s)
  else if k.loop.mode = 4 then emit (.trainFrame l (lanes.map (·.words))) s
  else s

def execTsReceive (link : Nat) (lanes : List TsRx) (s : State) : Host.Outcome State Fault Refusal :=
  .next (tsIn link lanes s)

/-- When step 1 or 3 of an attempt passes its limit: 100 µs after the peer's first TS1, or 2 ms (Table 13-8). The other
steps have none. -/
def stepLimit (t : LinkTrain) : Option Nat :=
  if t.step = 1 then t.peerTs.map (· + 100000) else if t.step = 3 then some (t.stepAt + 2000000) else none

/-- A training attempt passes a limit (R437, R440): step 2 ends with the width that its lanes allow; at VL1 a step that
fails starts the attempt again; above VL1 the attempt fails 20 ms after its step 1. -/
def attemptTimeout (l : Nat) (s : State) : State :=
  let k := getLink s l
  let t := k.train
  if k.stat.state ≠ 1 || t.step = 0 || 6 ≤ t.step then s else
  let w := widthNow l s
  let last := t.startedAt + 20000000
  match stepLimit t with
  | some u =>
    if t.step = 1 && 0 < w && (t.gen ≤ 1 || u ≤ last) then formLink l w (advanceTo u s)
    else failAttempt l (advanceTo (if t.gen ≤ 1 then u else last) s)
  | none => if t.gen ≤ 1 then s else failAttempt l (advanceTo last s)

def execTrainingAttemptTimeout (link : Nat) (s : State) : Host.Outcome State Fault Refusal := .next (attemptTimeout link s)

/-- The idle of a fallback, or of a loopback's end, is over: training starts at the generation that follows
(R437, R449). -/
def idleEnd (l : Nat) (s : State) : State :=
  let t := (getLink s l).train
  match t.idleUntil with
  | none => s
  | some u => if t.afterIdle = 0 then s else startTraining l t.afterIdle (advanceTo u s)

def execFallbackIdleEnd (link : Nat) (s : State) : Host.Outcome State Fault Refusal := .next (idleEnd link s)

/-- A fast retrain has not finished within 200 µs: the link trains again from VL1 (R441). -/
def fastTimeout (l : Nat) (s : State) : State :=
  match (getLink s l).train.fastSince with
  | none => s
  | some u => trainFromStart l (leaveService l (advanceTo (u + 200000) s))

def execFastRetrainTimeout (link : Nat) (s : State) : Host.Outcome State Fault Refusal := .next (fastTimeout link s)

/-- The link leaves service in any other way (R442). -/
def execLinkLeaveService (link : Nat) (s : State) : Host.Outcome State Fault Refusal :=
  .next (if live s && linkRuns s link then trainFromStart link (leaveService link s) else s)

/-- Electrical idle is seen from the peer: in an attempt above VL1 a failure, at VL1 a new start, after GEN_STEP both
ways the peer's step-up, which changes nothing here, otherwise a link that has lost its peer (R437, R438, R442). -/
def idleSeen (l : Nat) (s : State) : State :=
  let k := getLink s l
  if !live s || !isEnabled s l then s
  else if k.stat.state = 1 && 1 ≤ k.train.step then failAttempt l s
  else if stepAgreed k then s
  else if k.stat.state = 2 || k.stat.state = 3 then trainFromStart l (leaveService l s)
  else s

def execElectricalIdleDetected (link : Nat) (s : State) : Host.Outcome State Fault Refusal := .next (idleSeen link s)

/-- The far-end loopback served for the peer ends, and the link trains from VL1 (R448). -/
def farExit (l : Nat) (s : State) : State :=
  if (getLink s l).loop.mode = 4 then trainFromStart l (modLoop l (fun _ => {}) s) else s

def execFarEndLoopbackExit (link : Nat) (s : State) : Host.Outcome State Fault Refusal := .next (farExit link s)

/-- DISCARD (R427): the marker that an accepted frame held has ended its packet already. -/
def discardIn (l : Nat) (ws : List W64) (s : State) : State :=
  if s.inbox.contains (.flit l 4 ws) then takeArrived (.flit l 4 ws) s
  else if !live s || !linkRuns s l then s
  else if discardOk ws then recvDiscard l (fld (wd ws 0) 7 0) s else protoError l s

def execDiscard (link : Nat) (flit : List W64) (s : State) : Host.Outcome State Fault Refusal :=
  .next (discardIn link flit s)

/-! ### Sending -/

/-- The training of a far-end loopback's generation runs: LOOPBACK is asked for in it alone, since the peer returns symbols
from its end on (Table 13-9, R448). -/
def loopTraining (s : State) (l : Nat) : Bool :=
  let k := getLink s l
  k.loop.mode = 3 && k.train.gen = targetGen s l

/-- The TS that each lane sends (Table 13-7). EQ_REQ is the receivers' own wish, a free value (log 13). -/
def ownTs (s : State) (l type countdown : Nat) : List (List W64) :=
  let k := getLink s l
  let w := if k.stat.lanes = 0 then offered s l else k.stat.lanes
  let width := if offered s l = 8 then 3 else if offered s l = 4 then 2 else if offered s l = 2 then 1 else 0
  (List.range w).map fun lane =>
    mkTs type lane width (gensOf (genAllow s l)) k.train.gen (loopTraining s l) k.train.eqDone countdown (k.train.trainFc % 256)
      s.ident.eid (if k.train.step = 3 && !k.train.eqDone then freeVal s % 64 else 0) (portOf l)

/-- A training frame goes out. -/
def sendTs (l type countdown : Nat) (s : State) : State :=
  let s := emit (.trainFrame l (ownTs s l type countdown)) s
  freeNext (modTrain l (fun t => { t with
    trainFc := (t.trainFc + 1) % 256, frames := t.frames + 1, eqSent := t.eqSent || t.eqDone }) s)

/-- A SYNC or test frame goes out (Table 13-8 step 5, R447). -/
def sendZero (l : Nat) (s : State) : State :=
  let k := getLink s l
  emit (.zeroFrame l (k.tx.scr.take k.stat.lanes))
    (modTx l (fun t => { t with scr := t.scr.map (fun r => (scramble 2160 r).2) }) s)

/-- TIME_REQ and TIME_RESP travel only in unsequenced frames (R433). -/
def isTimeCtrl (ws : List W64) : Bool := fld (wd ws 0) 63 56 = 4 || fld (wd ws 0) 63 56 = 5

/-- Own test frames reach the receiver inside a near-end loopback (Table 13-9). -/
def loopBack (l : Nat) (s : State) : State :=
  testFrameIn l (List.replicate (getLink s l).stat.lanes { content := List.replicate 270 0 }) s

/-- CTRL flits as the frame that carries them leaves: T3 of a TIME_RESP is its device time (R443). -/
def stampCtrl (t : Nat) (c : List W64) : List W64 :=
  if fld (wd c 0) 63 56 = 5 then c.set 2 (mkW [(63, 0, t)]) else c

/-- A frame with these CTRL flits has begun: t1 of the exchange whose TIME_REQ it carries (R443), and GEN_STEP sent: where
it has been received with the same NEXT, 8 further frames go (R438). -/
def ctrlGone (l : Nat) (ctrls : List (List W64)) (s : State) : State :=
  let carries := fun (type : Nat) => ctrls.any fun c => fld (wd c 0) 63 56 = type
  let s := if carries 4 then modLink l (fun k => { k with
      xchg := k.xchg.map fun x => { x with t1 := some (x.t1.getD s.time.t64) } }) s else s
  if carries 6 then
    let next := (getLink s l).stat.gen + 1
    modTrain l (fun t => { t with
      genStepSent := next, stepLeft := if t.genStepRecv = next && t.stepLeft.isNone then some 8 else t.stepLeft }) s
  else s

/-- Bulk flits whose last has gone: PKTS_OUT, and the packet has finished on this leg (R394). -/
def flitGone (l : Nat) (f : Flit) (s : State) : State :=
  let s := if f.tag = 4 then s else modPort (portOf l) (fun p => { p with flitsOut := p.flitsOut + 1 }) s
  if f.last && f.pkt ≠ 0 then
    clearActive l f.pkt <| legDone f.pkt l (if (classOfTag f.tag).isSome then modPort (portOf l) (fun p => { p with pktsOut := p.pktsOut + 1 }) s else s)
  else s

/-- A service frame goes out (R418 to R420, R423, R433, R438, R439). -/
def sendService (l : Nat) (s : State) : State :=
  let k := getLink s l
  let n := 4 * k.stat.lanes
  let stepping := k.stat.state = 2 && k.stat.gen < targetGen s l
  let s := if stepping && k.tx.periods % 16 = 0 && k.train.stepLeft.isNone then
      sendCtrl l (ctrlFlit 6 [(1, 0, k.stat.gen + 1)] 0 0 0) s
    else s
  let k := getLink s l
  let ctrls := (k.tx.ctrl.take n).map (stampCtrl s.time.t64)
  let ctrlFlits : List Flit := ctrls.map fun c => { tag := 1, words := c }
  let unseqOnly := k.stat.gen ≠ targetGen s l || k.stat.state = 1 || k.stat.state = 3 || ctrls.any isTimeCtrl
  let s := ctrlGone l ctrls (modTx l (fun t => { t with ctrl := t.ctrl.drop n }) s)
  match k.train.stepLeft with
  | some m =>
    let s := emitFrame l true 0 ctrlFlits s
    if m ≤ 1 then modTrain l (fun t => { t with idleUntil := some (now s + 1000) }) s
    else modTrain l (fun t => { t with stepLeft := some (m - 1) }) s
  | none =>
    if unseqOnly then emitFrame l true 0 ctrlFlits s
    else match k.tx.resend with
      | f :: rest =>
        emitFrame l false f.seq f.slots (modStat l (fun t => { t with framesReplayed := t.framesReplayed + 1 })
          (modTx l (fun t => { t with resend := rest }) s))
      | [] =>
        if 256 ≤ k.tx.replay.length then emitFrame l true 0 ctrlFlits s else
        let (fs, s) := takeFrame l (n - ctrlFlits.length) s
        if fs.isEmpty then emitFrame l true 0 ctrlFlits s
        else
          let slots := ctrlFlits ++ fs
          let s := modTx l (fun t => { t with
            nextSeq := (k.tx.nextSeq + 1) % 4096
            replay := t.replay ++ [{ seq := k.tx.nextSeq, slots := slots }] }) s
          forAll fs (flitGone l) (emitFrame l false k.tx.nextSeq slots s)

/-- One transmit frame period of a link (R436, R438, R447). -/
def framePeriod (l : Nat) (s : State) : State :=
  let k := getLink s l
  if !live s || !isEnabled s l then s
  else if k.train.idleUntil.isSome then emit (.idle l) s
  else if k.stat.state = 4 then
    if k.loop.mode = 1 then loopBack l (sendZero l s)
    else if k.loop.mode = 2 then loopBack l (emit (.idle l) s)
    else if k.loop.mode = 3 then sendZero l s else s
  else if k.train.step = 1 || k.train.step = 3 then checkSteps l (sendTs l 1 0 s)
  else if k.train.step = 4 then
    let s := sendTs l 2 k.train.countdown s
    if k.train.countdown = 0 then
      if k.train.peerLoop && k.train.fastSince.isNone then
        modLink l (fun k => { k with stat := { k.stat with state := 4 }, loop := { mode := 4 } }) s
      else modLink l (fun k => { k with
        train := { k.train with step := 5, syncSent := 0 }
        tx := { k.tx with scr := (List.range 8).map scrambleInit } }) s
    else modTrain l (fun t => { t with countdown := t.countdown - 1 }) s
  else if k.train.step = 5 then
    let s := sendZero l s
    let n := k.train.syncSent + 1
    let s := modTrain l (fun t => { t with syncSent := n }) s
    if n < 64 then s
    else if loopTraining s l then modStat l (fun t => { t with state := 4 }) (modTrain l (fun t => { t with step := 6 }) s)
    else
      let s := modTrain l (fun t => { t with step := 6 }) s
      checkTrained l (if k.train.fastSince.isSome then s else sendInit l s)
  else if k.train.step = 6 then sendService l s
  else s

def execLaneFramePeriod (link : Nat) (s : State) : Host.Outcome State Fault Refusal := .next (framePeriod link s)

end Sys2Proof.Machine
end

