-- ==== Sys2Proof/Machine/Rounds.lean ====
section
/-! DEFINITION. The commands of rounds (06, 11): contributions and results that arrive, the lanes, chunks that are
sent, round signals, the limits of chunks and rounds, and Pip rounds. -/

namespace Sys2Proof.Machine
open Sys2Proof

/-! ### Arrivals -/

/-- Take a packet addressed to the SELF EID by its payload, with its credit pool and its epoch stamp; its credits return
when its cells are used. -/
def takeSelf (l : Nat) (payload : List Byte) (s : State) : Option (Nat × Nat × Packet) × State :=
  let f : Arrived → Bool := fun a => match a with
    | .self l' _ _ p => l' = l && p.payload = payload
    | _ => false
  match takeFirst f s.inbox with
  | (some (.self _ pool epoch p), rest) => (some (pool, epoch, p), { s with inbox := rest })
  | _ => (none, s)

/-- Take it and give its credits back at once. -/
def takeSelfFree (l : Nat) (payload : List Byte) (s : State) : Option Packet × State :=
  match takeSelf l payload s with
  | (some (pool, _, p), s) => (some p, freeCredits l pool (pFlits p) s)
  | (none, s) => (none, s)

/-- The epoch stamp of a packet addressed to the SELF EID that waits (R382). -/
def selfEpoch (l : Nat) (payload : List Byte) (s : State) : Nat := ((takeSelf l payload s).1.map (·.2.1)).getD s.route.cur

/-! ### Strays (R158, R549) -/

def strayTable (t : Nat) (f : Stray → Stray) (s : State) : State :=
  if (findTable s t).isSome then modTable t (fun tb => { tb with stray := f tb.stray }) s
  else { s with strayAll := { s.strayAll with notOpen := s.strayAll.notOpen + 1 } }

/-- Count a packet that names no open round: not open, or ended. -/
def strayRound (t rid : Nat) (s : State) : State :=
  let ended : Bool := match findTable s t with
    | some tb => match tb.lastOpened with
      | some m => rid ≤ m
      | none => false
    | none => false
  strayTable t (fun x => if ended then { x with ended := x.ended + 1 } else { x with notOpen := x.notOpen + 1 }) s

def strayOffset (t : Nat) : State → State := strayTable t (fun x => { x with offset := x.offset + 1 })

/-! ### Formats on the wire (Table 6-4) -/

/-- The source that a contribution names (R155, R163). -/
def contribSrc (tb : Table) (h : RoundHdr) : Src :=
  if h.phase = 1 then { isMember := true, ring := true, id := h.source }
  else { isMember := !isLeaf tb, id := h.source }

/-- Format, elements per item, and the number of elements of a source's stream. -/
def wireFmt (tb : Table) (r : Round) (x : Src) : Nat × Nat × Nat :=
  if !x.isMember then (r.spec.inFmt, 1, r.spec.elems)
  else if x.ring || !isSum r.spec then (partialFmt r.spec, 1, r.spec.elems)
  else match downSpec tb r with
    | none => (partialFmt r.spec, 1, r.spec.elems)
    | some n => if folds r n then (1, 1, foldElems r n) else (n.format, 32, r.spec.elems)

/-- The factor stream of a fold comes from a source. -/
def foldFrom (tb : Table) (r : Round) (x : Src) : Option NSpec :=
  if x.isMember && !x.ring && isSum r.spec then
    match downSpec tb r with
    | some n => if folds r n then some n else none
    | none => none
  else none

/-- Read n elements of b bytes; none when the bytes are not exactly those (R156). -/
def readElems (b n : Nat) (bs : List Byte) : Option (List Nat) :=
  if b = 0 || bs.length ≠ b * n then none else some ((List.range n).map fun i => leAt bs (b * i) b)

/-- Read n bank records that fill the bytes exactly (R84). -/
def readRecords : Nat → List Byte → Option (List Nat)
  | 0, bs => if bs.isEmpty then some [] else none
  | n + 1, bs => match readRecord bs with
    | none => none
    | some (v, rest) => (readRecords n rest).map (v :: ·)

/-- One MX or Z block at block index k: its values after any inverse rotation, and whether it was rotated. -/
def readBlock (n : NSpec) (key : W64) (round k : Nat) (bs : List Byte) : Option (List FVal × Bool × List Byte) :=
  match zWidth n.format with
  | some w => (readZ w bs).map fun x =>
      (if x.2.1 then unrotate (signMask key round k) x.1 else x.1, x.2.1, x.2.2)
  | none => match mxOf n.format with
    | some (f, _) => (readMx f bs).map fun x => (x.1, false, x.2)
    | none => none

/-- Blocks from index k on that fill the bytes exactly: values by offset, and rotated blocks. -/
def readBlocks (n : NSpec) (key : W64) (round : Nat) : Nat → Nat → List Byte → Option (List (Nat × FVal) × Nat)
  | 0, _, bs => if bs.isEmpty then some ([], 0) else none
  | m + 1, k, bs => match readBlock n key round k bs with
    | none => none
    | some (vs, rot, rest) => (readBlocks n key round m (k + 1) rest).map fun x =>
        ((List.range 32).map (fun i => (32 * k + i, vs.getD i .nan)) ++ x.1, b2n rot + x.2)

/-- Read a packet's data as contributions in the accumulator's domain: by offset, and the blocks unrotated; none when
malformed (R156). Pad elements are left out (R51). -/
def readData (tb : Table) (r : Round) (x : Src) (h : RoundHdr) (data : List Byte) : Option (List (Nat × Val) × Nat) :=
  let c := r.spec
  let (fmt, step, _) := wireFmt tb r x
  if h.format ≠ fmt then none
  else if (foldFrom tb r x).isSome then
    (readElems 2 h.count data).map fun vs => ((List.range vs.length).map fun i => (h.offset + i, { v := vs.getD i 0 }), 0)
  else if step = 32 then
    if h.offset % 32 ≠ 0 then none else
    match downSpec tb r with
    | none => none
    | some n => (readBlocks n (kTurn n r.turn) c.round h.count (h.offset / 32) data).map fun p =>
        ((p.1.filter fun e => e.1 < c.elems).map fun e => (e.1, sumVal c e.2), p.2)
  else if fmt = 0x20 then
    (readRecords h.count data).map fun vs => ((List.range vs.length).map fun i =>
      (h.offset + i, { v := vs.getD i 0, nf := vs.getD i 0 = bankNan }), 0)
  else
    (readElems (elemBytes fmt) h.count data).map fun vs => ((List.range vs.length).map fun i =>
      (h.offset + i, elemVal c fmt (vs.getD i 0)), 0)

/-! ### Chunks and lanes (R165, R335, R341, R355) -/

/-- The entry of a chunk; one that nothing has come for yet is formed afresh. -/
def chunkAt (tb : Table) (r : Round) (i : Nat) : Chunk :=
  (r.chunks.find? fun c => c.index = i).getD
    { index := i, lo := chunkLo tb r i, hi := chunkHi tb r i, owed := sourcesOf tb r i, state := 0 }

/-- A chunk is still owed elements. -/
def stillOwed (c : Chunk) : Bool := c.owed.any fun o => o.taken < o.due

/-- The lowest-numbered source that owes elements, a seat before a member of the same number. -/
def lowestOwing (c : Chunk) : Option Src :=
  argMin (fun (x : Src) => 2 * x.id + b2n x.isMember) ((c.owed.filter fun o => o.taken < o.due).map (·.src))

/-- ABSENCE_LIMIT plus d × 1 ms, in ns. -/
def absenceNs (tb : Table) : Nat := (tb.absence + tb.level) * 1000000

/-- Whom R184 names: the lowest source owing in the lowest incomplete chunk, else where results come from; and the chunk. -/
def inactiveSrc (tb : Table) (r : Round) : Src × Nat :=
  match ((List.range (chunkCount tb r)).map (chunkAt tb r)).find? stillOwed with
  | some c => ((lowestOwing c).getD {}, c.index)
  | none => ({ isMember := true, id := if isCrown tb then predOf tb r.board else (parentOf tb).getD 0 }, 0)

/-- The failure of R183 or R184 whose time has come: the source and the chunk that it names. -/
def overdue (s : State) (tb : Table) (r : Round) : Option (Src × Nat) :=
  if r.done then none else
  match argMin (fun (c : Chunk) => c.index) (r.chunks.filter fun c => c.state = 1 && stillOwed c && c.clock + absenceNs tb ≤ now s) with
  | some c => some ((lowestOwing c).getD {}, c.index)
  | none => if r.accepted.any fun a => a + absenceNs tb ≤ now s then some (inactiveSrc tb r) else none

/-- A round whose failure time has come fails before anything more of it is taken (R185). -/
def failOverdue (port t rid : Nat) (s : State) : State :=
  match findRound s t rid with
  | none => s
  | some (tb, r) => match overdue s tb r with
    | none => s
    | some (x, i) => failRoundAt port t rid stLate x.id x.isMember i none s

def putChunk (t rid : Nat) (c : Chunk) : State → State :=
  modRound t rid (fun r => { r with chunks := c :: r.chunks.filter fun x => x.index ≠ c.index })

/-- Accumulators per unit (R334). -/
def unitSize (c : RoundSpec) : Nat := if isBank c || elemBytes c.inFmt = 8 then 32 else 64

/-- A of R355 for n elements. -/
def accCells (c : RoundSpec) (n : Nat) : Nat := if isBank c then 5 * ceilDiv n 32 else ceilDiv n (unitSize c)

/-- Chunks of a round that are open (R165). -/
def openChunks (tb : Table) (r : Round) : Nat :=
  (r.chunks.filter fun c => c.state = 1 || (c.state = 2 && !(upSpec tb r).any (folds r))).length

/-- Open a chunk at its first contribution, where its round and the memories can take it (R92, R165, R355, R515). -/
def openChunk (t rid i : Nat) (s : State) : Option State :=
  match findRound s t rid with
  | none => none
  | some (tb, r) =>
    let c := chunkAt tb r i
    if c.state ≠ 0 then some s
    else if 64 ≤ openChunks tb r then none
    else
      let A := accCells r.spec (c.hi - c.lo)
      let pot := redCells s + A ≤ 655360 && A + 131072 ≤ sharedFree s
      let own := if r.chunks.any fun c => c.hbm && c.state ≤ 2 then 0 else 1
      if !pot && freeRegion s < freeUsed s + 256 * A + 2621440 * (floorRounds s - own) then none
      else
        let c' := { c with state := 1, hbm := !pot, cells := A, base := freeVal s % 64, clock := now s
                           accs := List.replicate (c.hi - c.lo) none
                           applied := List.replicate (ceilDiv (c.hi - c.lo) (unitSize r.spec)) 0 }
        let s := putChunk t rid c' s
        some (freeNext (if pot then s else
          modPot (fun p => { p with spilledChunks := p.spilledChunks + 1 }) (modRound t rid (fun x => { x with spilled := x.spilled + 1 }) s)))

/-- The open chunk that a part belongs to. -/
def partChunk (s : State) (p : Part) : Option (Table × Round × Chunk) :=
  match findRound s p.table p.round with
  | none => none
  | some (tb, r) => if r.done then none else (r.chunks.find? fun c => c.index = p.chunk).map fun c => (tb, r, c)

/-- The lane of a part whose chunk is open (R335). -/
def laneOf (s : State) (p : Part) : Option Nat :=
  match partChunk s p with
  | some (_, _, c) => if c.state = 1 then some ((c.base + p.unit) % 64) else none
  | none => none

/-- Cells of a packet none of whose parts waits give their credits back (R356). -/
def releaseCells (num : Nat) (s : State) : State :=
  let waits := fun (c : HeldCell) => s.feed.waiting.any fun p => p.num = num && p.cellLo ≤ c.cell && c.cell ≤ p.cellHi
  let go := s.feed.cells.filter fun c => c.num = num && !waits c
  let s := forAll go (fun c => freeCredits c.link c.pool c.flits) s
  { s with feed := { s.feed with cells := s.feed.cells.filter fun c => !(c.num = num && !waits c) } }

/-- A lane accepts a part: its elements count as accepted (R184). -/
def acceptPart (lane : Nat) (p : Part) (s : State) : State :=
  let s := { s with feed := { s.feed with
    lanes := modAt s.feed.lanes lane (fun q => q ++ [p])
    lastPort := s.feed.lastPort.set lane p.port
    waiting := s.feed.waiting.erase p } }
  let s := modRound p.table p.round (fun r => { r with
    accepted := r.accepted.map fun _ => now s
    chunks := updWhere (fun c => c.index = p.chunk) (fun c => { c with
      owed := updWhere (fun o => o.src = p.src) (fun o => { o with taken := o.taken + p.elems.length }) c.owed }) r.chunks }) s
  releaseCells p.num s

/-- A lane takes waiting parts while it has room, the ports in rotation after the one it took last (R341). -/
def fillLane (lane : Nat) : Nat → State → State
  | 0, s => s
  | n + 1, s =>
    if 64 ≤ (s.feed.lanes.getD lane []).length then s else
    let last := s.feed.lastPort.getD lane 63
    match argMin (fun (p : Part) => (p.port + 127 - last) % 64) (s.feed.waiting.filter fun p => laneOf s p = some lane) with
    | none => s
    | some p => fillLane lane n (acceptPart lane p s)

/-- Open the chunks that waiting parts need and fill the lanes, once work that waited for a slot has gone on. A round whose
failure time has come takes no further part (R185). -/
def drain (s : State) : State :=
  let s := forAll (s.tables.filter fun tb => tb.rounds.any fun r => !r.done && r.chunks.any fun c => c.state = 2) (fun tb => retryWork tb.id) s
  let s := forAll (s.feed.waiting.map fun p => (p.table, p.round)).eraseDups (fun x => failOverdue noPort x.1 x.2) s
  if s.feed.waiting.isEmpty then s else
  let s := forAll s.feed.waiting (fun p s => (openChunk p.table p.round p.chunk s).getD s) s
  let lanes := (s.feed.waiting.filterMap (laneOf s)).eraseDups
  forAll lanes (fun l s => fillLane l s.feed.waiting.length s) s

/-- Split the cells of a packet into parts at unit boundaries of this GT64's chunks (R157, R341): runs of items of one chunk,
one unit and one cell; each item carries the first and the last packet cell that it lies in. -/
def splitParts (tb : Table) (r : Round) (x : Src) (num port : Nat) :
    List (Nat × Nat × Nat × Nat) → List Part → List Part
  | [], acc => acc.reverse
  | (o, v, cl, ch) :: rest, acc =>
    let i := chunkOf tb r o
    let u := (o - chunkLo tb r i) / unitSize r.spec
    match acc with
    | p :: more =>
      if p.chunk = i && p.unit = u && p.cellHi = ch then
        splitParts tb r x num port rest ({ p with elems := p.elems ++ [(o, v)] } :: more)
      else splitParts tb r x num port rest
        ({ table := tb.id, round := r.spec.round, chunk := i, src := x, elems := [(o, v)], unit := u, num := num,
           cellLo := cl, cellHi := ch, port := port } :: acc)
    | [] => splitParts tb r x num port rest
        [{ table := tb.id, round := r.spec.round, chunk := i, src := x, elems := [(o, v)], unit := u, num := num,
           cellLo := cl, cellHi := ch, port := port }]

/-- Elements of a list that lie in a chunk. -/
def inChunk (tb : Table) (r : Round) (i : Nat) (es : List (Nat × Val)) : Nat := (es.filter fun e => chunkOf tb r e.1 = i).length

/-- R159: elements would take a source past what it owes. -/
def overOwed (tb : Table) (r : Round) (x : Src) (es : List (Nat × Val)) : Option Nat :=
  ((es.map fun e => chunkOf tb r e.1).eraseDups).find? fun i =>
    match (chunkAt tb r i).owed.find? fun o => o.src = x with
    | some o => o.due < o.got + inChunk tb r i es
    | none => true

/-- Count the elements that a source has sent, chunk by chunk. -/
def countGot (tb : Table) (r : Round) (x : Src) (es : List (Nat × Val)) (s : State) : State :=
  forAll (es.map fun e => chunkOf tb r e.1).eraseDups (fun i s =>
    match findRound s tb.id r.spec.round with
    | none => s
    | some (tb, r) =>
      let c := chunkAt tb r i
      putChunk tb.id r.spec.round { c with
        owed := updWhere (fun o => o.src = x) (fun o => { o with got := o.got + inChunk tb r i es }) c.owed } s) s

/-- What taking contributions counts (R53, R69): flushes, saturations, and non-finite inputs of seats and children, an
unnarrowed partial of a child among them (DESIGN CHOICE, log 88). -/
def countIn (tb : Table) (r : Round) (x : Src) (es : List (Nat × Val)) (rot : Nat) (s : State) : State :=
  let fl := (es.filter fun e => e.2.fl).length
  let nf := if x.ring then 0 else (es.filter fun e => e.2.nf).length
  let sat := (es.filter fun e => e.2.sat).length
  modTable tb.id (fun q => { q with rotBlocks := q.rotBlocks + rot })
    (modRound tb.id r.spec.round (fun q => { q with
      flushed := q.flushed + fl, saturated := q.saturated + sat, nonfinite := q.nonfinite + nf }) s)

/-- Start the unfold of a source whose factors are all here (R122). -/
def startUnfold (tb : Table) (r : Round) (n : NSpec) (x : Src) (s : State) : State :=
  match r.folds.find? fun f => f.src = x with
  | none => s
  | some f =>
    if f.got.length ≠ foldElems r n then s else
    let at_ := fun i => ((getE f.got i).getD 0) * 65536
    let np := n.foldRank * r.spec.foldRows
    let job : MuJob := { round := r.spec.round, src := some x, stage := 3, rank := n.foldRank
                         p := (List.range np).map at_, q := (List.range (n.foldRank * r.spec.foldCols)).map fun i => at_ (np + i)
                         staged := foldCells r n.foldRank []
                         tasks := opTasks r.spec.foldRows r.spec.foldCols n.foldRank
                         todo := List.range (opTasks r.spec.foldRows r.spec.foldCols n.foldRank) }
    modTable tb.id (fun y => { y with jobs := y.jobs ++ [job] }) s

/-- Take factors of a folded round (R119, R159). -/
def takeFactors (tb : Table) (r : Round) (n : NSpec) (x : Src) (es : List (Nat × Val)) (s : State) : State :=
  let old := ((r.folds.find? fun f => f.src = x).map (·.got)).getD []
  let due := (children tb).contains x.id && !(seatsUnder tb r.board x.id).isEmpty
  if !due || foldElems r n < old.length + es.length then failRound tb.id r.spec.round stDup x.id true 0 none s
  else
    let s := modRound tb.id r.spec.round (fun q => { q with
      accepted := q.accepted.map fun _ => now s
      folds := { src := x, got := old ++ es.map fun e => (e.1, e.2.v) } :: q.folds.filter fun f => f.src ≠ x }) s
    match findRound s tb.id r.spec.round with
    | some (tb, r) => startUnfold tb r n x s
    | none => s

/-- Elements of one item of a packet's format: 32 for a block (R156). -/
def itemElems (fmt : Nat) : Nat := if (mxOf fmt).isSome || (zWidth fmt).isSome then 32 else 1

/-- FAULT_CHUNK of a failure that a contribution packet causes: the chunk of its first element (R176). -/
def packetChunk (tb : Table) (r : Round) (x : Src) (off : Nat) : Nat :=
  if (foldFrom tb r x).isSome then 0 else chunkOf tb r off

/-- A round's contribution header passes R158, R160 and R156 as far as its bounds go: the round it names, or the state
after it is dropped or has failed the round. One that comes when the round's failure time has come fails it (R185). -/
def contribRound (pip : Bool) (port : Nat) (h : RoundHdr) (s : State) : Except State (Table × Round × Src) :=
  match findRound s h.table h.round with
  | none => .error (strayRound h.table h.round s)
  | some (tb, r) =>
    let x := contribSrc tb h
    let (_, _, lim) := wireFmt tb r x
    if r.done then .error (strayRound h.table h.round s)
    else if (overdue s tb r).isSome then .error (failOverdue port h.table h.round s)
    else if lim ≤ h.offset + itemElems h.format * (h.count - 1) then .error (strayOffset h.table s)
    else if h.board ≠ r.epoch then .error (failRoundAt port tb.id h.round stBoard x.id x.isMember (packetChunk tb r x h.offset) none s)
    else if r.pip ≠ pip || 2 ≤ h.phase || h.count = 0 || 4080 < h.count then
      .error (failRoundAt port tb.id h.round stMalformed x.id x.isMember (packetChunk tb r x h.offset) none s)
    else .ok (tb, r, x)

/-- CONTRIB_RECEIVE (R156 to R160, R341). -/
def contribIn (l : Nat) (payload : List Byte) (s : State) : State :=
  let (p, s) := takeSelf l payload s
  let flits := ceilDiv (16 + payload.length) 64
  let pool := (p.map (·.1)).getD 4
  let free := fun (s : State) => if p.isSome then freeCredits l pool flits s else s
  let h := roundHdr (payW payload 0) (payW payload 1)
  if !live s || payload.length < 16 || hdrBad h then free s else
  match contribRound false (portOf l) h s with
  | .error s => free (drain s)
  | .ok (tb, r, x) =>
    match readData tb r x h (payload.drop 16) with
    | none => free (drain (failRound tb.id h.round stMalformed x.id x.isMember (packetChunk tb r x h.offset) none s))
    | some (es, rot) =>
      match foldFrom tb r x with
      | some n => free (drain (takeFactors tb r n x es s))
      | none =>
        match overOwed tb r x es with
        | some i => free (drain (failRound tb.id h.round stDup x.id x.isMember i none s))
        | none =>
          let num := s.feed.next
          let per := (payload.length - 16) / max 1 es.length
          let items := (List.range es.length).map fun k =>
            let e := es.getD k (0, { v := 0 })
            (e.1, e.2.v, (32 + k * per) / 256, (32 + (k + 1) * per - 1) / 256)
          let cells : List HeldCell := if p.isNone then [] else
            (List.range (ceilDiv (16 + payload.length) 256)).map fun c =>
              { num := num, cell := c, link := l, pool := pool, flits := min 4 (flits - 4 * c) }
          let s := countIn tb r x es rot (countGot tb r x es s)
          let s := { s with feed := { s.feed with
            next := num + 1
            cells := s.feed.cells ++ cells
            waiting := s.feed.waiting ++ splitParts tb r x num (portOf l) items [] } }
          drain (releaseCells num s)

def execContribReceive (link : Nat) (payload : List Byte) (s : State) : Host.Outcome State Fault Refusal :=
  .next (contribIn link payload s)

/-! ### The lanes (R363 to R367) -/

/-- Apply one element to its accumulator. -/
def applyElem (c : RoundSpec) (lo : Nat) (acc : List (Option Nat) × Nat) (e : Nat × Nat) : List (Option Nat) × Nat :=
  match acc.1.getD (e.1 - lo) none with
  | none => (acc.1.set (e.1 - lo) (some e.2), acc.2)
  | some a =>
    let (v, f) := combine c a e.2
    (acc.1.set (e.1 - lo) (some v), acc.2 + b2n f)

/-- A chunk has everything its sources owe, and no part of it is still in a lane. -/
def chunkComplete (s : State) (t rid : Nat) (c : Chunk) : Bool :=
  c.state = 1 && c.owed.all (fun o => o.due ≤ o.taken) &&
    !(s.feed.lanes.any fun q => q.any fun p => p.table = t && p.round = rid && p.chunk = c.index)

/-- Fail a round for a word of it, counted as a word of a region and tier (R189). -/
def wordFault (t rid chunk tier : Nat) (o : WordOwner) (w : WordRead) (s : State) : State :=
  failRound t rid stWord 0 false chunk none (readWord tier o w s)

/-- Elements of a unit of a chunk that its sources owe in all: each source of a reduction owes every element. -/
def unitOwed (r : Round) (c : Chunk) (n : Nat) : Nat := if isGather r.spec then n else n * c.owed.length

/-- LOCKED_SEQUENCE: a lane applies its oldest part. The part that first writes a whole unit reads no cell of it, and the
last contribution to a unit writes nothing back: its sums go on to be emitted (R366). -/
def lockedSeq (lane : Nat) (w : WordRead) (s : State) : State :=
  if !live s then s else
  match s.feed.lanes.getD lane [] with
  | [] => s
  | p :: rest =>
    let s := { s with feed := { s.feed with lanes := s.feed.lanes.set lane rest } }
    match partChunk s p with
    | none => drain s
    | some (_, r, c) =>
      let n := unitSize r.spec
      let cells := (c.accs.drop (n * p.unit)).take n
      let reads := cells.any Option.isSome || p.elems.length < cells.length
      let o : WordOwner := .accumulator p.table p.round p.chunk
      let tier := if c.hbm then 1 else 0
      if reads && w = .failed then drain (wordFault p.table p.round p.chunk tier o w s)
      else
        let s := if reads then readWord tier o w s else s
        let (accs, fl) := p.elems.foldl (applyElem r.spec c.lo) (c.accs, 0)
        let s := modRound p.table p.round (fun q => { q with
          flushed := q.flushed + fl
          chunks := updWhere (fun x => x.index = p.chunk) (fun x => { x with
            accs := accs, applied := modAt x.applied p.unit (· + p.elems.length) }) q.chunks }) s
        let s := if c.applied.getD p.unit 0 + p.elems.length < unitOwed r c cells.length then wroteWord tier 2 s else s
        match partChunk s p with
        | some (_, _, c) => drain (if chunkComplete s p.table p.round c then finishChunk p.port p.table p.round p.chunk s else s)
        | none => drain s

def execLockedSequence (lane : Nat) (word : WordRead) (s : State) : Host.Outcome State Fault Refusal :=
  .next (lockedSeq lane word s)

/-! ### Results (R169, R170) -/

/-- Result data of a header and bytes, under an epoch stamp: taken, dropped or malformed. -/
def resultData (pip : Bool) (port epoch : Nat) (h : RoundHdr) (data : List Byte) (s : State) : State :=
  match findRound s h.table h.round with
  | none => strayRound h.table h.round s
  | some (tb, r) =>
    let src := if h.phase = 2 then h.source else (parentOf tb).getD 0
    if r.done then strayRound h.table h.round s
    else if (overdue s tb r).isSome then failOverdue port h.table h.round s
    else if r.spec.elems < h.offset + h.count then strayOffset h.table s
    else if r.pip ≠ pip || h.phase < 2 || h.count = 0 || 4080 < h.count || h.format ≠ deliverFmt r.spec then
      failRoundAt port tb.id h.round stMalformed src true (chunkOf tb r h.offset) none s
    else match readElems (elemBytes h.format) h.count data with
      | none => failRoundAt port tb.id h.round stMalformed src true (chunkOf tb r h.offset) none s
      | some vs =>
        let items := (List.range vs.length).map fun i => (h.offset + i, canonElem h.format (vs.getD i 0))
        let new := items.filter fun e => (getE r.results e.1).isNone
        if new.isEmpty then s
        else resultsIn port epoch tb.id h.round new
          (modRound tb.id h.round (fun q => { q with accepted := q.accepted.map fun _ => now s }) s)

/-- RESULT_RECEIVE. -/
def resultIn (l : Nat) (payload : List Byte) (s : State) : State :=
  let epoch := selfEpoch l payload s
  let (_, s) := takeSelfFree l payload s
  let h := roundHdr (payW payload 0) (payW payload 1)
  if !live s || payload.length < 16 || hdrBad h then s
  else drain (resultData false (portOf l) epoch h (payload.drop 16) s)

def execResultReceive (link : Nat) (payload : List Byte) (s : State) : Host.Outcome State Fault Refusal :=
  .next (resultIn link payload s)

/-- CHUNK_SENT (Table 6-5 steps 5 and 6). -/
def execChunkSent (table round chunk : Nat) (s : State) : Host.Outcome State Fault Refusal :=
  .next (if live s then drain (sentChunk table round chunk s) else s)

/-! ### Signals (R188) -/

/-- The neighbour of a table's tree at the other end of a link. -/
def neighbourOn (tb : Table) (b : Board) (l : Nat) (s : State) : Option Nat :=
  (treeEids tb b).find? fun e => localLink s e = some l

/-- An ABORT arrives from a neighbour. -/
def abortIn (g : RoundSig) (l : Nat) (src : Option Nat) (s : State) : State :=
  match findRound s g.table g.round with
  | none => s
  | some (tb, r) =>
    let from_ := match src with
      | some e => some e
      | none => neighbourOn tb r.board l s
    failRoundAt (portOf l) g.table g.round stPeer g.source g.isMember 0 from_ s

def signalIn (l : Nat) (payload : List Byte) (s : State) : State :=
  let (p, s) := takeSelfFree l payload s
  let ws := wordsOf 4 payload
  if !live s || payload.length ≠ 32 || !roundSigOk ws || (roundSig ws).signal ≠ 2 then s
  else drain (abortIn (roundSig ws) l (p.map pSrc) s)

def execSignalReceive (link : Nat) (payload : List Byte) (s : State) : Host.Outcome State Fault Refusal :=
  .next (signalIn link payload s)

/-! ### Limits (R182 to R185) -/

/-- An open chunk of an open round. -/
def openChunkOf (s : State) (t rid i : Nat) : Option (Table × Round × Chunk) :=
  match findRound s t rid with
  | none => none
  | some (tb, r) =>
    if r.done then none else (r.chunks.find? fun c => c.index = i && c.state = 1 && stillOwed c).map fun c => (tb, r, c)

/-- CHUNK_DEADLINE (R182). -/
def chunkLate (t rid i : Nat) (s : State) : State :=
  match openChunkOf s t rid i with
  | none => s
  | some (tb, _, c) =>
    modRound t rid (fun r => { r with chunks := updWhere (fun x => x.index = i) (fun x => { x with late := true }) r.chunks })
      (advanceTo (c.clock + 1000 * tb.deadline) s)

def execChunkDeadline (table round chunk : Nat) (s : State) : Host.Outcome State Fault Refusal :=
  .next (if live s then chunkLate table round chunk s else s)

/-- ABSENCE_LIMIT (R183). -/
def chunkAbsent (t rid i : Nat) (s : State) : State :=
  match openChunkOf s t rid i with
  | none => s
  | some (tb, _, c) =>
    let x := (lowestOwing c).getD {}
    drain (failRound t rid stLate x.id x.isMember i none (advanceTo (c.clock + absenceNs tb) s))

def execAbsenceLimit (table round chunk : Nat) (s : State) : Host.Outcome State Fault Refusal :=
  .next (if live s then chunkAbsent table round chunk s else s)

/-- ROUND_INACTIVITY (R184): the lowest source owing in the lowest incomplete chunk, else where results come from. -/
def roundInactive (t rid : Nat) (s : State) : State :=
  match findRound s t rid with
  | none => s
  | some (tb, r) => match r.accepted with
    | none => s
    | some a =>
      if r.done then s else
      let (x, i) := inactiveSrc tb r
      drain (failRound t rid stLate x.id x.isMember i none (advanceTo (a + absenceNs tb) s))

def execRoundInactivity (table round : Nat) (s : State) : Host.Outcome State Fault Refusal :=
  .next (if live s then roundInactive table round s else s)

/-! ### Pip rounds (R229 to R231) -/

/-- Combine operands in order, each addition rounded once; none for a source that owes nothing here. -/
def pipCombine (c : RoundSpec) (vs : List Nat) : Option Nat × Nat :=
  vs.foldl (fun acc v => match acc.1 with
    | none => (some v, acc.2)
    | some a =>
      let (x, f) := combine c a v
      (some x, acc.2 + b2n f)) (none, 0)

/-- The order of R230: seats by number or children by member index, then the ring predecessor; each with all that its
packets brought. -/
def pipOrder (ops : List (Src × List (Nat × Nat))) : List (List (Nat × Nat)) :=
  let from_ := fun (t : Src → Bool) => (ops.filter fun o => t o.1).flatMap (·.2)
  let below := ((ops.map (·.1)).filter fun x => !x.ring).eraseDups
  (sortN (below.map (·.id))).map (fun i => from_ fun x => !x.ring && x.id = i) ++ [from_ (·.ring)]

/-- All operands of a Pip round are held: combine them and emit the chunk. -/
def pipFinish (port t rid : Nat) (s : State) : State :=
  match findRound s t rid with
  | none => s
  | some (tb, r) =>
    let c := chunkAt tb r 0
    if c.state ≠ 1 || stillOwed c then s else
    let ops := pipOrder r.pipOps
    let xs := (List.range (c.hi - c.lo)).map fun i => pipCombine r.spec (ops.filterMap fun o => getE o (c.lo + i))
    let s := modRound t rid (fun q => { q with pipOps := [], flushed := q.flushed + (xs.map (·.2)).sum }) s
    finishChunk port t rid 0 (putChunk t rid { c with accs := xs.map (·.1) } s)

/-- Hold a source's operand of a Pip round. -/
def pipContrib (port : Nat) (tb : Table) (r : Round) (x : Src) (es : List (Nat × Val)) (s : State) : State :=
  match overOwed tb r x es with
  | some i => failRoundAt port tb.id r.spec.round stDup x.id x.isMember i none s
  | none =>
    let s := countIn tb r x es 0 (countGot tb r x es s)
    let s := modRound tb.id r.spec.round (fun q => { q with
      accepted := q.accepted.map fun _ => now s
      pipOps := q.pipOps ++ [(x, es.map fun e => (e.1, e.2.v))]
      chunks := q.chunks.map fun c => { c with
        state := if c.state = 0 then 1 else c.state, clock := if c.state = 0 then now s else c.clock
        owed := c.owed.map fun o => { o with taken := o.got } } }) s
    pipFinish port tb.id r.spec.round s

/-- Bytes of a Pip packet's operand. -/
def pipOperand (ws : List W64) : List Byte := bytesOf [wd ws 4, wd ws 5, wd ws 6, wd ws 7]

/-- Data bytes of a ROUND packet: COUNT elements, every later byte 0 (R156). -/
def pipData (h : RoundHdr) (ws : List W64) : List Byte :=
  let bs := pipOperand ws
  let n := h.count * elemBytes h.format
  if n ≤ 32 && (bs.drop n).all (· = 0) then bs.take n else []

/-- R227: a dropped Pip packet counts in STRAY_PIP of an open table, otherwise in the drops of its ingress port. -/
def pipStray (l : Nat) (ws : List W64) (s : State) : State :=
  let t := fld (wd ws 0) 31 22
  if (findTable s t).isSome then modTable t (fun tb => { tb with bar := { tb.bar with stray := tb.bar.stray + 1 } }) s
  else modPort (portOf l) (fun p => { p with pipDrops := p.pipDrops + 1 }) s

/-- A Pip packet that R227 drops: a reserved type, or a JOIN, RELEASE or HALT with a reserved field that is not 0. -/
def pipBad (ws : List W64) : Bool := 5 ≤ pipType ws || (2 ≤ pipType ws && !pipOk ws)

/-- A Pip packet of a type arrives: the Pip engine takes it (R356), and R227 is applied. -/
def pipArrive (l type : Nat) (ws : List W64) (f : State → State) (s : State) : State :=
  let s := takeFlit l 2 ws s
  if !live s then s
  else if pipBad ws then pipStray l ws s
  else if pipType ws = type && pipOk ws then f s
  else s

/-- In Pawn mode only a ROUND or SIG packet of a round open here is taken (R560). -/
def pawnShuts (t rid : Nat) (s : State) : Bool :=
  s.pawn.cause ≠ 0 && !((findRound s t rid).any fun x => !x.2.done)

def selfDrop : State → State := modPawn (fun p => { p with selfDrops := p.selfDrops + 1 })

/-- PIP_ROUND_PACKET (R229, R230). -/
def pipRoundIn (l : Nat) (ws : List W64) (s : State) : State :=
  let h := roundHdr (wd ws 0) (wd ws 1)
  if pawnShuts h.table h.round s then selfDrop s
  else if hdrBad h then s
  else if 2 ≤ h.phase then drain (resultData true (portOf l) s.route.cur h (pipData h ws) s)
  else match contribRound true (portOf l) h s with
    | .error s => drain s
    | .ok (tb, r, x) => match readData tb r x h (pipData h ws) with
      | none => drain (failRoundAt (portOf l) tb.id h.round stMalformed x.id x.isMember (packetChunk tb r x h.offset) none s)
      | some (es, _) => drain (pipContrib (portOf l) tb r x es s)

def execPipRoundPacket (link : Nat) (flit : List W64) (s : State) : Host.Outcome State Fault Refusal :=
  .next (pipArrive link 0 flit (pipRoundIn link flit) s)

/-- PIP_SIG: an ABORT of a Pip round (R231). -/
def pipSigIn (l : Nat) (ws : List W64) (s : State) : State :=
  let g := [wd ws 4, wd ws 5, wd ws 6, wd ws 7]
  let h := roundHdr (wd ws 0) (wd ws 1)
  if pawnShuts h.table h.round s then selfDrop s
  else if hdrBad (roundHdr (wd ws 0) (wd ws 1)) || !roundSigOk g || (roundSig g).signal ≠ 2 then s
  else drain (abortIn (roundSig g) l none s)

def execPipSig (link : Nat) (flit : List W64) (s : State) : Host.Outcome State Fault Refusal :=
  .next (pipArrive link 1 flit (pipSigIn link flit) s)

end Sys2Proof.Machine
end

