-- ==== Sys2Proof/Machine/MatrixUnits.lean ====
section
/-! DEFINITION. The commands of the matrix units (05): quanta, array tasks, the norm pipes and DMA transfers, and what
each stage of a fold or an unfold gives (04). -/

namespace Sys2Proof.Machine
open Sys2Proof

/-! ### Weighted round robin (R141 to R143, R290) -/

/-- The table that a pool serves next, of those with ready work given as (table, weight) by rising table; a cycle serves the
tables that were open when it began. -/
def rrNext (tables : List Nat) (sv : Serve) (ready : List (Nat × Nat)) : Option (Nat × Serve) :=
  if 0 < sv.share && ready.any (fun x => x.1 = sv.last) then some (sv.last, { sv with share := sv.share - 1 })
  else match ready.find? fun x => sv.last < x.1 && sv.members.contains x.1 with
    | some (t, w) => some (t, { sv with last := t, share := w - 1 })
    | none => ((ready.find? fun x => sv.last < x.1).orElse fun _ => ready.head?).map fun x =>
        (x.1, { sv with last := x.1, share := x.2 - 1, members := tables })

/-- The tables that are open. -/
def tableIds (s : State) : List Nat := s.tables.map (·.id)

/-- Tables with a ready task that no unit runs. -/
def muReady (s : State) : List (Nat × Nat) :=
  (s.tables.filter fun tb => unitsOn s.mu tb.id < readyTasks tb).map fun tb => (tb.id, tb.muWeight)

/-! ### The task that a unit runs (R138, R142) -/

/-- Units other than one that run a task of a round. -/
def othersOn (s : State) (unit t rid : Nat) : Nat :=
  ((List.range s.mu.units.length).filter fun u => u ≠ unit && (s.mu.units.getD u none).any (fun x => x.1 = t) &&
    (s.mats.getD u {}).output = some (t, rid)).length

/-- The round whose task a unit takes next. -/
def pickRound (s : State) (unit : Nat) (tb : Table) : Option Nat :=
  (tb.jobs.map (·.round)).eraseDups.find? fun rid => othersOn s unit tb.id rid < roundTasks tb rid

/-- A unit takes a task: its operands come into its buffers (R138). -/
def takeTask (unit t : Nat) (s : State) : State :=
  match (findTable s t).bind (pickRound s unit) with
  | none => s
  | some rid => { s with mats := s.mats.set unit { operands := [some (t, rid), some (t, rid)], output := some (t, rid) } }

/-- A unit runs a quantum of a table, with some tasks left. -/
def runOn (unit t left : Nat) (s : State) : State :=
  takeTask unit t { s with mu := { s.mu with units := s.mu.units.set unit (some (t, left)) } }

def freeUnit (unit : Nat) (s : State) : State := { s with mu := { s.mu with units := s.mu.units.set unit none } }

/-- Give a free unit what is left of a quantum, for the table that the round robin serves next. -/
def grantTo (unit left : Nat) (s : State) : State :=
  match rrNext (tableIds s) s.mu (muReady s) with
  | none => s
  | some (t, sv) => runOn unit t left (modTable t (fun tb => { tb with muQuanta := tb.muQuanta + 1 }) { s with mu := sv })

/-- MU_QUANTUM_GRANT: a free unit gets the next quantum; where unit 0 is free as well, unit 0 takes it (R143). -/
def muGrant (unit : Nat) (s : State) : State :=
  if (s.mu.units.getD unit (some (0, 0))).isSome then s
  else grantTo (((List.range unit).find? fun i => (s.mu.units.getD i none).isNone).getD unit) 64 s

def execMuQuantumGrant (unit : Nat) (s : State) : Host.Outcome State Fault Refusal :=
  .next (if live s then muGrant unit s else s)

/-! ### Stages of a fold (R121 to R124, R137) -/

def anyNonFinite (xs : List Nat) : Bool := xs.any fun x => !isFiniteBits fp32 x

/-- Â = P̃ · Q̃ᵀ for factors given as FP32 (R121 step 6, R122). -/
def rebuildA (r : Round) (rank : Nat) (p q : List Nat) : List Nat :=
  matMul r.spec.foldRows rank r.spec.foldCols p (transpose r.spec.foldCols rank q)

def modJob (t rid : Nat) (src : Option Src) (f : MuJob → MuJob) : State → State :=
  modTable t (fun tb => { tb with jobs := updWhere (fun j => j.round = rid && j.src = src) f tb.jobs })

def endJob (t rid : Nat) (src : Option Src) : State → State :=
  modTable t (fun tb => { tb with jobs := tb.jobs.filter fun j => !(j.round = rid && j.src = src) })

/-- Begin a stage of a job with its array tasks. -/
def startStage (stage tasks : Nat) (j : MuJob) : MuJob := { j with stage := stage, tasks := tasks, todo := List.range tasks }

/-- Send the factors as BF16 elements: P̃ row-major, then Q̃ row-major (R121 step 5). -/
def sendFactors (tb : Table) (r : Round) (codes : List Nat) (s : State) : State :=
  ship tb r 0 0 tb.member 1 1 ((parentOf tb).elim 0x1FFFFF (eidOf tb))
    ((List.range codes.length).map fun i => (i, leBytes 2 (codes.getD i 0))) s

/-- All chunks of a folded round have been narrowed. -/
def foldSent (t rid : Nat) (s : State) : State :=
  modRound t rid (fun r => { r with chunks := r.chunks.map fun c => { c with state := 3, accs := [] } }) s

/-- R124: the slot's residuals of the round go to +0 and Q_prev is reset. -/
def foldZeroed (tb : Table) (r : Round) (n : NSpec) (s : State) : State :=
  let x := findResid tb (boardNumOf tb r) n.boundary r.spec.rslot
  let s := if n.feedback then modRound tb.id r.spec.round (fun q => { q with
      narrowCnt := q.narrowCnt.map fun c => { c with residZero := c.residZero + r.spec.elems } }) s else s
  setResid tb.id { x with vals := x.vals.filter (fun e => r.spec.elems ≤ e.1), q := none } s

/-- The last task or pass of a job's stage has run. -/
def stageDone (t : Nat) (j : MuJob) (s : State) : State :=
  match findRound s t j.round with
  | none => s
  | some (tb, r) =>
    let m := r.spec.foldRows
    let n := r.spec.foldCols
    let mb := j.mat.map toBf
    match j.src with
    | some x =>
      let vs := rebuildA r j.rank j.p j.q
      let es := (List.range vs.length).map fun i => (i, sumVal r.spec (decodeF fp32 (vs.getD i 0)))
      let s := endJob t j.round j.src s
      match overOwed tb r x es with
      | some i => failRound t j.round stDup x.id x.isMember i none s
      | none =>
        let s := countIn tb r x es 0 (countGot tb r x es s)
        drain { s with feed := { s.feed with
          waiting := s.feed.waiting ++ splitParts tb r x 0 0 (es.map fun e => (e.1, e.2.v, 0, 0)) [] } }
    | none => match upSpec tb r with
      | none => s
      | some ns =>
        if j.stage = 0 then
          let p := matMul m n j.rank mb (j.qprev.map toBf)
          let s := modJob t j.round none (fun j => { j with stage := 1, p := p }) s
          fillPipes { s with norm := s.norm ++ [{ table := t, round := j.round, ready := now s }] }
        else if j.stage = 1 then
          let (cols, z) := gramSchmidt ((List.range j.rank).map fun c => colOf m j.rank c j.p)
          let p := transpose j.rank m (cols.flatMap id)
          modRound t j.round (fun q => { q with narrowCnt := q.narrowCnt.map fun c => { c with foldZero := c.foldZero + z } })
            (modJob t j.round none (fun j => startStage 2 (opTasks n j.rank m) { j with p := p }) s)
        else if j.stage = 2 then
          if parentFenced tb s then drain (failFenced 0 tb r s) else
          let pb := j.p.map toBf
          let q := matMul n m j.rank (transpose m n mb) pb
          let qb := q.map toBf
          if anyNonFinite j.p || anyNonFinite q || anyNonFinite (rebuildA r j.rank pb qb) then
            let s := sendFactors tb r (List.replicate (foldElems r ns) bf16.nanBits) s
            drain (foldSent t j.round (foldZeroed tb r ns (endJob t j.round none s)))
          else
            let s := sendFactors tb r ((pb ++ qb).map (· / 65536)) s
            modJob t j.round none (fun j => startStage 3 (opTasks m n j.rank) { j with p := pb, q := qb }) s
        else
          let a := rebuildA r j.rank j.p j.q
          let x := findResid tb (boardNumOf tb r) ns.boundary r.spec.rslot
          let x := if ns.feedback then writeResid x 0 (List.zipWith (fun m a => fsub fp32 m a) j.mat a) else x
          let x := { x with q := some j.q, extent := max x.extent (extentOf ns r.spec) }
          drain (foldSent t j.round (setResid t x (endJob t j.round none s)))

/-- Fail a round for a word of its matrix work; which chunk the word lies in is the GT64's placement, a free value. -/
def matrixFault (t rid : Nat) (w : WordRead) (s : State) : State :=
  match findRound s t rid with
  | none => s
  | some (tb, r) =>
    let i := freeVal s % max 1 (chunkCount tb r)
    drain (wordFault t rid i 0 (.staging t rid i) w (freeNext s))

/-- The rest of a quantum whose table has closed passes to the next table (R148), for which it counts as a quantum (DESIGN
CHOICE, log 89). -/
def passOn (unit left : Nat) (s : State) : State :=
  let s := freeUnit unit s
  if left ≤ 1 then s else grantTo unit (left - 1) s

/-- A unit has run its task: the next one of its quantum, or the quantum ends (R142). -/
def nextTask (unit t left : Nat) (s : State) : State :=
  if (findTable s t).any fun tb => unitsOn s.mu t ≤ readyTasks tb then
    if left ≤ 1 then freeUnit unit s else runOn unit t (left - 1) s
  else giveUp t (freeUnit unit s)

/-- A task of a job has run; the last one ends the job's stage. -/
def taskRan (t : Nat) (tb : Table) (j : MuJob) (w : WordRead) (s : State) : State :=
  if w = .failed then matrixFault t j.round w s
  else
    let left := j.todo.erase ((jobReady tb j).headD 0)
    let s := modJob t j.round j.src (fun j => { j with todo := left }) (readWord 0 (.staging t j.round 0) w s)
    if left.isEmpty then stageDone t j s else s

/-- The job of a unit's round that has a ready task; none when its round has ended meanwhile. -/
def unitJob (s : State) (unit t : Nat) : Option (Table × MuJob) :=
  match findTable s t with
  | none => none
  | some tb => (tb.jobs.find? fun j => (s.mats.getD unit {}).output = some (t, j.round) && !(jobReady tb j).isEmpty).map fun j => (tb, j)

/-- MU_TASK_COMPLETE (R142, R147, R148): the output of a task whose table has closed, or whose round has ended, is
discarded. -/
def muTask (unit : Nat) (w : WordRead) (s : State) : State :=
  match s.mu.units.getD unit none with
  | none => s
  | some (t, left) =>
    if (findTable s t).isNone then passOn unit left (readWord 0 .other w s) else
    let s := modTable t (fun tb => { tb with muTasks := tb.muTasks + 1 }) s
    nextTask unit t left (match unitJob s unit t with
      | none => readWord 0 .other w s
      | some (tb, j) => taskRan t tb j w s)

def execMuTaskComplete (unit : Nat) (word : WordRead) (s : State) : Host.Outcome State Fault Refusal :=
  .next (if live s then muTask unit word s else s)

/-- NORM_PIPE_DONE: the norm pipe of a unit finishes the work that it holds (R135, R144); a word that fails fails the round
(R147). -/
def normDone (unit : Nat) (w : WordRead) (s : State) : State :=
  match s.pipes.getD unit none with
  | none => s
  | some x =>
    let s := { s with pipes := s.pipes.set unit none }
    let j := (findTable s x.table).bind fun tb => tb.jobs.find? fun j => j.round = x.round && j.src.isNone && j.stage = 1
    fillPipes (match j with
      | none => readWord 0 .other w s
      | some j =>
        if w = .failed then matrixFault x.table x.round w s
        else stageDone x.table j (readWord 0 (.staging x.table x.round 0) w s))

def execNormPipeDone (read : PipeRead) (s : State) : Host.Outcome State Fault Refusal :=
  .next (if live s then normDone read.unit read.word s else s)

/-- DMA_TRANSFER_DONE: an operand panel is in Pot staging (R139). -/
def dmaDone (ch : Nat) (w : WordRead) (s : State) : State :=
  match takeFirst (fun (d : Nat × Nat × Nat × Nat) => d.1 = ch) s.dma with
  | (none, _) => s
  | (some (_, t, rid, c), rest) =>
    let s := { s with dma := rest }
    if (findRound s t rid).isNone then s
    else if w = .failed then drain (wordFault t rid c 1 (.accumulator t rid c) w s)
    else modJob t rid none (fun j => { j with panels := j.panels.erase c }) (readWord 1 (.accumulator t rid c) w s)

def execDmaTransferDone (channel : Nat) (word : WordRead) (s : State) : Host.Outcome State Fault Refusal :=
  .next (if live s then dmaDone channel word s else s)

end Sys2Proof.Machine
end

