-- ==== Sys2Proof/Machine/Keeper.lean ====
section
/-! DEFINITION. The Keeper at a crown member (09): forwarding to the double, the end of a turn, updates, moves of
ranges, and the commands READY, READY_TIMEOUT, KEEPER_QUANTUM and SHARD_MOVE_DONE. -/

namespace Sys2Proof.Machine
open Sys2Proof

/-! ### Forwarding (R286, R303) -/

/-- The primary forwards to its partner at all (R304, R308). -/
def feeds (k : Keeper) : Bool := k.dbl.state ≤ 1

/-- Every earlier turn's verdict has arrived (R303). -/
def turnClear (k : Keeper) (turn : Nat) : Bool := k.turns.all fun q => turn ≤ q.vals.turn || q.verdict

/-- Send a record to the partner; with the record that ends a turn goes DIGEST (R302). -/
def sendRecord (t : Nat) (k : Keeper) (bytes : List Byte) (s : State) : State :=
  let h := feedHdrOf bytes
  let s := sendKPkt 0 k.spec.partner bytes s
  if h.type = 2 && h.done then
    let d := ((k.turns.find? fun q => q.vals.turn = h.turn).map (·.dPrim)).getD 0
    sendCtl k.spec.partner { ctl := 2, table := t, prim := s.ident.eid, turn := h.turn, a := d } s
  else s

/-- Forward a DoubleFeed record of a turn, or keep it in the feed queue. -/
def feedRecord (t turn : Nat) (bytes : List Byte) (s : State) : State :=
  match (findTable s t).bind (·.keeper) with
  | none => s
  | some k =>
    if !feeds k then s
    else if turnClear k turn && k.dbl.feed.isEmpty then sendRecord t k bytes s
    else wroteWord 1 5 (modPrim t (fun d => { d with feed := d.feed ++ [{ turn := turn, bytes := bytes }] }) s)

/-- Send what the feed queue holds of turns that may go. -/
def flushFeed (t : Nat) (s : State) : State :=
  match (findTable s t).bind (·.keeper) with
  | none => s
  | some k =>
    if !feeds k then modPrim t (fun d => { d with feed := [] }) s
    else
      let s := forAll (k.dbl.feed.filter fun f => turnClear k f.turn) (fun f => sendRecord t k f.bytes) s
      modPrim t (fun d => { d with feed := d.feed.filter fun f => !turnClear k f.turn }) s

def modTurn (t turn : Nat) (f : KTurn → KTurn) : State → State :=
  modKeeper t (fun k => { k with turns := updWhere (fun q => q.vals.turn = turn) f k.turns })

/-- Count values forwarded in a turn. -/
def countFed (t turn n : Nat) (s : State) : State :=
  modTurn t turn (fun q => { q with fed := q.fed + n }) (modKeeper t (fun k => { k with fed := k.fed + n }) s)

/-- A KEEPER round that updates or loads: not a publish round (R330). -/
def feedsRound (r : Round) : Bool := r.spec.keeper && r.phase ≠ 3

/-- Every KEEPER round of a turn has committed and run, or failed (R286). -/
def turnOver (tb : Table) (k : Keeper) (turn : Nat) : Bool :=
  tb.rounds.all (fun r => !(feedsRound r && r.turn = turn) || r.done || r.committed) &&
    k.work.all fun w => !(tb.rounds.any fun r => r.spec.round = w.round && r.turn = turn)

/-- End a turn that is due and over: the TURN record with DONE 1 and DIGEST (R286, R302); not in Pawn mode (R559). -/
def checkTurn (t : Nat) (s : State) : State :=
  if s.pawn.cause ≠ 0 then s else
  match findTable s t with
  | none => s
  | some tb => match tb.keeper with
    | none => s
    | some k =>
      if !isCrown tb then s else
      forAll (k.turns.filter fun q => q.due && !q.sent && turnOver tb k q.vals.turn) (fun q s =>
        let d := turnDigest q.digests q.vals
        let s := modTurn t q.vals.turn (fun q => { q with
          sent := true, dPrim := d, board := (tb.board.serial, tb.board.digest, tb.board.params) }) s
        let h : FeedHdr := { table := t, type := 2, member := tb.member, turn := q.vals.turn, done := true }
        feedRecord t q.vals.turn (feedHdrBytes h ++ turnData q.vals q.fed) s) s

/-- A move that ends a turn has come up for execution (R286). -/
def turnDue (t : Nat) (s : State) : State :=
  checkTurn t (modKeeper t (fun k => { k with turns := k.turns.map fun q => { q with due := true } }) s)

/-! ### Updates (R284, R290 to R293) -/

/-- First parameter of a round. -/
def firstParam (r : Round) : Nat := r.spec.paramBase * 1024

/-- The value of a parameter in RESULT_FMT: code, SATURATED, FLUSHED (R284). -/
def paramResult (c : RoundSpec) (p : KParam) : Nat × Nat × Nat :=
  if c.resFmt = 1 then (p.copy, 0, 0)
  else match floatOf c.resFmt with
    | none => (0, 0, 0)
    | some f =>
      let x := convF f (decodeF fp32 p.w)
      (x.bits, b2n x.saturated, b2n x.flushed)

/-- A damaged parameter, or one whose word fails now. -/
def hurt (word : Option Nat) (p : KParam) : Bool := p.damaged || word = some p.param

/-- What a pass over one chunk gives. -/
structure ChunkOut where
  params  : List KParam := []
  grads   : List (Nat × Nat) := []
  results : List (Nat × Nat × Nat × Nat) := []
  hurts   : List Nat := []
  updated : Nat := 0
  nf      : Nat := 0
  sat     : Nat := 0
  fl      : Nat := 0

/-- One element of a chunk: update, load or publish. -/
def chunkElem (k : Keeper) (r : Round) (c : Nat) (word : Option Nat) (acc : ChunkOut) (off : Nat) : ChunkOut :=
  let p := getP k.params (firstParam r + off)
  if hurt word p then { acc with hurts := acc.hurts ++ [p.param] }
  else if r.phase = 3 then { acc with results := acc.results ++ [(off, paramResult r.spec p)] }
  else
    let g := (getE r.kg off).getD 0
    let o := if r.phase = 1 then loadParam r.turn g p else updateParam k.spec r.tv c g p
    { acc with
      params := acc.params ++ [o.p], grads := acc.grads ++ [(p.param, g)]
      results := acc.results ++ [(off, paramResult r.spec o.p)]
      updated := acc.updated + b2n !(o.nf && k.spec.nfSkip), nf := acc.nf + b2n o.nf, sat := acc.sat + b2n o.sat
      fl := acc.fl + b2n o.fl }

/-- GRAD or LOAD records of values by parameter, cut at gaps and at the record's size (R287). -/
def feedRuns (n : Nat) : List (Nat × Nat) → List (Nat × List Nat) → List (Nat × List Nat)
  | [], acc => acc.reverse
  | (p, v) :: rest, acc => match acc with
    | (q, vs) :: more => if p = q + vs.length && vs.length < n then feedRuns n rest ((q, vs ++ [v]) :: more)
      else feedRuns n rest ((p, [v]) :: acc)
    | [] => feedRuns n rest [(p, [v])]

/-- Forward a chunk's gradients or loaded masters. -/
def feedGrads (tb : Table) (r : Round) (gs : List (Nat × Nat)) (s : State) : State :=
  match tb.keeper with
  | none => s
  | some k =>
    if !feeds k then s else
    let load := r.phase = 1
    let runs := feedRuns (if load then 1016 else 2032) gs []
    let s := forAll runs (fun x s =>
      feedRecord tb.id r.turn (feedHdrBytes { round := r.spec.round, table := tb.id, type := if load then 3 else 0, member := tb.member
                                              turn := r.turn, count := x.2.length, param := x.1 } ++
        x.2.flatMap (leBytes (if load then 4 else 2))) s) s
    countFed tb.id r.turn gs.length s

/-- Run one chunk of committed work. -/
def runChunk (t rid i c : Nat) (word : Option Nat) (s : State) : State :=
  match findRound s t rid with
  | none => s
  | some (tb, r) => match tb.keeper with
    | none => s
    | some k =>
      let lo := chunkLo tb r i
      let o := ((List.range (chunkHi tb r i - lo)).map (lo + ·)).foldl (chunkElem k r c word) {}
      let s := modKeeper t (fun k => { k with
        params := putPs (putPs k.params o.params) (o.hurts.map fun p => { getP k.params p with damaged := true })
        updated := k.updated + o.updated
        nfSkipped := k.nfSkipped + if k.spec.nfSkip then o.nf else 0
        nfStored := k.nfStored + if k.spec.nfSkip then 0 else o.nf
        work := updWhere (fun w => w.round = rid) (fun w => { w with
          done := i :: w.done, fed := w.fed + if feeds k && r.phase ≠ 3 then o.grads.length else 0 }) k.work }) s
      let s := match word with
        | some p => if o.hurts.contains p then readWord 1 (.keeper t p) .failed s else s
        | none => s
      let s := if o.params.isEmpty then s else wroteWord 1 4 s
      let s := feedGrads tb r o.grads s
      let vals := o.results.map fun x => (x.1, x.2.1)
      let s := modRound t rid (fun q => if q.done then q else { q with
        saturated := q.saturated + o.sat + (o.results.map (·.2.2.1)).sum
        flushed := q.flushed + o.fl + (o.results.map (·.2.2.2)).sum
        formed := putAll q.formed vals }) s
      let s := resultsIn noPort s.route.cur t rid vals s
      if o.hurts.isEmpty then s else failRound t rid stWord 0 false i none s

/-- Chunks of a member's own slice. -/
def ownChunks (tb : Table) (r : Round) : List Nat :=
  (List.range (chunkCount tb r)).filter fun i => sliceOf tb r i = ownPos tb r.board

/-- A chunk's parameters are all here: none is moving or has its home elsewhere (R218, R268). -/
def chunkHome (tb : Table) (k : Keeper) (r : Round) (i : Nat) : Bool :=
  let a := firstParam r + chunkLo tb r i
  let n := chunkHi tb r i - chunkLo tb r i
  !(k.moves.any fun m => m.start < a + n && a < m.start + m.count) && (foreignRanges k.homes a n tb.member).isEmpty

/-- Parameters that two rounds both touch. -/
def roundsMeet (a b : Round) : Bool := firstParam a < firstParam b + b.spec.elems && firstParam b < firstParam a + a.spec.elems

/-- An earlier KEEPER round of the turn on the same parameters has not run here (R288). -/
def earlierPending (tb : Table) (k : Keeper) (r : Round) : Bool :=
  tb.rounds.any fun q => q.spec.keeper && q.spec.round < r.spec.round && q.turn = r.turn && roundsMeet q r &&
    ((!q.done && !q.committed) || k.work.any fun w => w.round = q.spec.round)

/-- The next chunk of a table's committed work that can run. -/
def nextChunk (tb : Table) (k : Keeper) : Option (KWork × Nat) :=
  ((sortN (k.work.map (·.round))).filterMap fun i => k.work.find? fun w => w.round = i).findSome? fun w =>
    match getRound tb w.round with
    | none => none
    | some r =>
      if earlierPending tb k r then none
      else ((ownChunks tb r).find? fun i => !w.done.contains i && chunkHome tb k r i).map fun i => (w, i)

/-- A committed round has run: COMMIT, and its state digest (R286, R301). -/
def workDone (t : Nat) (w : KWork) (s : State) : State :=
  let s := modKeeper t (fun k => { k with work := k.work.filter fun x => x.round ≠ w.round }) s
  match findRound s t w.round with
  | none => s
  | some (tb, r) => match tb.keeper with
    | none => s
    | some k =>
      let sl := ownSlice tb r
      let s := if r.phase = 3 then s else
        let s := if feeds k then
            feedRecord t r.turn (feedHdrBytes { round := w.round, table := t, type := 1, member := tb.member, turn := r.turn
                                                clipC := w.c, n := w.fed }) s
          else s
        modTurn t r.turn (fun q => { q with
          digests := q.digests ++ [(w.round, stateDigest k.spec.rule k.params (firstParam r + sl.1) (sl.2 - sl.1))] }) s
      let s := if r.phase = 3 then s else
        modKeeper t (fun k => { k with homes := setHome (firstParam r + sl.1) (sl.2 - sl.1) tb.member k.homes }) s
      checkTurn t (modRound t w.round (fun q => { q with kg := [] }) s)

/-- Tables that hold committed work that can run, for the Keeper pool. -/
def keeperReady (s : State) : List (Nat × Nat) :=
  s.tables.filterMap fun tb => match tb.keeper with
    | some k => if (nextChunk tb k).isSome then some (tb.id, k.spec.weight) else none
    | none => none

/-- Rounds of a table whose last chunk has run end their work; of a round with no chunk here, at once. -/
def endWork (t : Nat) (s : State) : State :=
  match findTable s t with
  | none => s
  | some tb => match tb.keeper with
    | none => s
    | some k => forAll k.work (fun w s => match findTable s t with
      | some tb => match tb.keeper, getRound tb w.round with
        | some k, some r =>
          if (ownChunks tb r).all (fun i => (k.work.find? fun x => x.round = w.round).any fun x => x.done.contains i) then workDone t w s else s
        | _, _ => s
      | none => s) s

/-- Run up to n chunks of one table (R290). -/
def runQuantum (t : Nat) (word : Option Nat) : Nat → State → State
  | 0, s => s
  | n + 1, s => match findTable s t with
    | none => s
    | some tb => match tb.keeper.bind (nextChunk tb) with
      | none => s
      | some (w, i) => runQuantum t word n (endWork t (runChunk t w.round i w.c word s))

/-- Run all the committed work of a table that can run: at END or TABLE_CLOSE it runs ahead of its quanta (R286, R292;
DESIGN CHOICE, log 91). -/
def flushWork (t : Nat) (s : State) : State :=
  match findTable s t with
  | none => s
  | some tb => runQuantum t none ((tb.rounds.filter (·.committed)).map (chunkCount tb)).sum (endWork t s)

/-- Ranges that a committed round takes from their homes begin to move to the members that round them (R268). -/
def startMoves (t rid : Nat) (s : State) : State :=
  match findRound s t rid with
  | none => s
  | some (tb, r) =>
    forAll (List.range r.board.ring.length) (fun j s =>
      let lo := firstParam r + min (j * sliceLen tb r) r.spec.elems
      let n := firstParam r + min ((j + 1) * sliceLen tb r) r.spec.elems - lo
      let m := ringAt r.board j
      modKeeper t (fun k =>
        let mine := (foreignRanges k.homes lo n m).filter fun f => f.member = tb.member || m = tb.member
        { k with
          moves := k.moves ++ mine.map fun f => { start := f.start, count := f.count, src := f.member, dst := m }
          homes := if m = tb.member then k.homes
            else mine.foldl (fun hs f => setHome f.start f.count f.member hs) (setHome lo n m k.homes) }) s) s

/-- Let newly committed rounds start their moves. -/
def movesCheck (t : Nat) (s : State) : State :=
  match (findTable s t).bind (·.keeper) with
  | none => s
  | some k => forAll (k.work.filter fun w => !w.moved) (fun w s =>
      modKeeper t (fun k => { k with work := updWhere (fun x => x.round = w.round) (fun x => { x with moved := true }) k.work })
        (startMoves t w.round s)) s

/-- KEEPER_QUANTUM: a quantum of 64 chunks of the table that the round robin gives, which gives up its share when it runs out
of work (R142, R290). -/
def keeperQuantum (unit : Nat) (word : Option Nat) (s : State) : State :=
  if 8 ≤ unit then s else
  let s := forAll s.tables (fun tb s => endWork tb.id (movesCheck tb.id s)) s
  let dry := fun (s : State) => { s with kunits := { s.kunits with share := 0 } }
  match rrNext (tableIds s) s.kunits (keeperReady s) with
  | none => dry s
  | some (t, sv) =>
    let s := runQuantum t word 64 { s with kunits := sv }
    drain (if (keeperReady s).any fun x => x.1 = t then s else dry s)

def execKeeperQuantum (unit : Nat) (word : Option Nat) (s : State) : Host.Outcome State Fault Refusal :=
  .next (if live s then keeperQuantum unit word s else s)

/-! ### READY (R271 to R273) -/

/-- A Keeper flit arrives bare on a link, or wrapped in a packet of KSUB 2 (R428). -/
def takeKFlit (l : Nat) (ws : List W64) (s : State) : State :=
  if s.inbox.contains (.flit l 3 ws) then takeFlit l 3 ws s
  else (takeSelfFree l (bytesOf ws) s).2

/-- Reserved fields of a READY flit (Table 9-3). -/
def readyOk (ws : List W64) : Bool :=
  fld (wd ws 0) 21 20 = 0 && fld (wd ws 1) 15 14 = 0 && fld (wd ws 1) 7 1 = 0 && (wd ws 3).toNat = 0 && (wd ws 4).toNat = 0 &&
  (wd ws 5).toNat = 0 && (wd ws 6).toNat = 0 && fld (wd ws 7) 63 60 = 1 && fld (wd ws 7) 59 0 = 0

/-- Commit what can commit, and start the moves that it needs. -/
def commitAll (t : Nat) (s : State) : State := checkTurn t (endWork t (movesCheck t (commitCheck t s)))

/-- Pass a READY on to the ring successor, unless that one sent it. -/
def passReady (tb : Table) (b : Board) (ws : List W64) (s : State) : State :=
  let succ := succOf tb b
  if ringAt b (fld (wd ws 1) 13 8) ≠ succ && 1 < b.ring.length then sendKFlit (eidOf tb succ) ws s else s

/-- A READY that comes before its round opens here is passed on, and held for it (R271). -/
def readyEarly (t rid : Nat) (h : ReadyHeld) (ws : List W64) (s : State) : State :=
  match findTable s t with
  | none => s
  | some tb =>
    if !isCrown tb || tb.keeper.isNone then s else
    let s := passReady tb tb.board ws s
    if tb.lastOpened.any (fun m => rid ≤ m) then s else
    modKeeper t (fun k => if k.early.any (fun e => e.1 = rid && e.2.pos = h.pos) then k else { k with early := k.early ++ [(rid, h)] }) s

/-- PART is 0 in the READY of a round that is not clipped (Table 9-3, R16). -/
def partOk (r : Round) (part : Nat) : Bool := r.clipped || part = 0

/-- The READYs that came before a round opened are taken. -/
def takeEarly (t rid : Nat) (s : State) : State :=
  match findRound s t rid with
  | none => s
  | some (tb, r) =>
    let mine := ((tb.keeper.map (·.early)).getD []).filter fun e => e.1 = rid
    let s := modKeeper t (fun k => { k with early := k.early.filter fun e => e.1 ≠ rid }) s
    forAll (mine.filter fun e => partOk r e.2.part) (fun e => holdReady t rid e.2.pos e.2.good e.2.part) s

def readyIn (l : Nat) (ws : List W64) (s : State) : State :=
  let s := takeKFlit l ws s
  let t := fld (wd ws 0) 31 22
  let rid := fld (wd ws 0) 63 32
  if !live s then s
  else if !readyOk ws then protoError l s
  else if s.pawn.cause ≠ 0 then selfDrop s
  else
    let h : ReadyHeld := { pos := fld (wd ws 1) 13 8, good := bitAt (wd ws 1) 0, part := (wd ws 2).toNat }
    match findRound s t rid with
    | none => readyEarly t rid h ws s
    | some (tb, r) =>
      if !isCrown tb || !r.spec.keeper then s
      else if !partOk r h.part then protoError l s
      else commitAll t (passReady tb r.board ws (holdReady t rid h.pos h.good h.part s))

def execReady (link : Nat) (flit : List W64) (s : State) : Host.Outcome State Fault Refusal := .next (readyIn link flit s)

/-- READY_TIMEOUT (R273): the member at the lowest missing ring position is named. -/
def readyTimeout (t rid : Nat) (s : State) : State :=
  match findRound s t rid with
  | none => s
  | some (tb, r) => match r.readyAt with
    | none => s
    | some a =>
      if r.done then s else
      match (List.range r.board.ring.length).find? fun i => !(r.ready.any fun h => h.pos = i) with
      | none => s
      | some i => commitAll t (drain (failRound t rid stLate (ringAt r.board i) true 0 none (advanceTo (a + absenceNs tb) s)))

def execReadyTimeout (table round : Nat) (s : State) : Host.Outcome State Fault Refusal :=
  .next (if live s then readyTimeout table round s else s)

/-! ### Moves of ranges (R218, R268, R309) -/

/-- State that arrives for a range: how it travels between holders is not stated, so what arrives is free (log 15). -/
def arrivedParams (start count turn : Nat) (s : State) : List KParam :=
  (List.range count).map fun i =>
    let v := fun j => canonF fp32 (Config.freeNat (s.free + 3 * i + j) % 2 ^ 32)
    { param := start + i, w := v 0, m := v 1, v := v 2, copy := (copyOf (v 0)).1, turn := turn }

/-- Slice j of a round over all of KEEPER_PARAMS on a ring of C: first parameter, count (R167). -/
def wholeSlice (params C j : Nat) : Nat × Nat :=
  let ls := max 32 (ceilDiv params (32 * max 1 C) * 32)
  let lo := min (j * ls) params
  (lo, min (lo + ls) params - lo)

/-- The ranges whose holder a board switch changes: first parameter, count, and the member that holds them under the new
board (R218). -/
def changedRanges (oldRing : List Nat) (oldParams : Nat) (b : Board) : List (Nat × Nat × Nat) :=
  (List.range b.ring.length).flatMap fun j =>
    let x := wholeSlice b.params b.ring.length j
    (List.range oldRing.length).filterMap fun i =>
      let y := wholeSlice oldParams oldRing.length i
      let lo := max x.1 y.1
      let n := min (x.1 + x.2) (y.1 + y.2) - lo
      if oldRing.getD i 0 ≠ ringAt b j && 0 < n then some (lo, n, ringAt b j) else none

/-- Begin the moves that a board switch asks for. -/
def reshard (t : Nat) (s : State) : State :=
  match findTable s t with
  | none => s
  | some tb =>
    if !isCrown tb then s else
    forAll (changedRanges tb.oldRing tb.oldParams tb.board) (fun x s =>
      modKeeper t (fun k =>
        let fs := foreignRanges k.homes x.1 x.2.1 x.2.2
        let mine := fs.filter fun f => f.member = tb.member || x.2.2 = tb.member
        let others := fs.filter fun f => !(f.member = tb.member || x.2.2 = tb.member)
        { k with
          moves := k.moves ++ mine.map fun f => { start := f.start, count := f.count, src := f.member, dst := x.2.2 }
          homes := others.foldl (fun hs f => setHome f.start f.count x.2.2 hs) k.homes }) s) s

/-- Rounds whose committed work reaches a parameter. -/
def roundsOn (tb : Table) (k : Keeper) (p : Nat) : List Round :=
  (k.work.filterMap fun w => getRound tb w.round).filter fun r => firstParam r ≤ p && p < firstParam r + r.spec.elems

/-- A word of Keeper state fails during a move: the parameter is damaged, and the rounds that wait for it fail (R293). -/
def moveHurt (t : Nat) (tb : Table) (k : Keeper) (p : Nat) (s : State) : State :=
  let s := readWord 1 (.keeper t p) .failed (modKeeper t (fun k => { k with params := putP k.params { getP k.params p with damaged := true } }) s)
  drain (forAll (roundsOn tb k p) (fun r => failRound t r.spec.round stWord 0 false (chunkOf tb r (p - firstParam r)) none) s)

/-- SHARD_MOVE_DONE: the new holder's shard digest, reported for a range, and the parameter whose word fails on the way. -/
def moveDone (t first count : Nat) (digest : List Byte) (word : Option Nat) (s : State) : State :=
  let s := movesCheck t s
  match findTable s t with
  | none => s
  | some tb => match tb.keeper with
    | none => s
    | some k => match k.moves.find? fun m => m.start = first && m.count = count with
      | none => s
      | some m =>
        let hurts := word.filter fun p => first ≤ p && p < first + count
        let after := fun (s : State) => match hurts with
          | some p => moveHurt t tb k p s
          | none => s
        let fin := fun (k : Keeper) => { k with
          moves := k.moves.filter (fun x => x ≠ m), homes := setHome m.start m.count m.dst k.homes }
        if m.dst = tb.member then
          if k.spec.quota * 1000000 < heldBy k.homes tb.member + count then s else
          let ps := arrivedParams first count (tb.turn - 1) s
          let s := modKeeper t (fun k => { fin k with params := putPs k.params ps }) { s with free := s.free + 3 * count }
          let s := after (wroteWord 1 4 s)
          if feeds k then sendSync k.spec.rule 0 t s.ident.eid (tb.turn - 1) k.spec.partner (ps.filter fun p => hurts ≠ some p.param) s else s
        else if hurts.isSome then after s
        else
          let ps := (List.range count).map fun i => getP k.params (first + i)
          if shardDigest (rangeImage k.spec.rule ps) = digest && ps.all (fun p => !p.damaged) then
            modKeeper t (fun k => { fin k with params := k.params.filter fun p => !(first ≤ p.param && p.param < first + count) }) s
          else s

def execShardMoveDone (table first count : Nat) (read : RangeRead) (s : State) : Host.Outcome State Fault Refusal :=
  .next (if live s && s.pawn.cause ≠ 1 then moveDone table first count read.digest read.failed s else s)

/-! ### A stopped Keeper (R308) -/

/-- Verdict 2 or 3: KEEPER rounds that have not committed fail with ABORTED. -/
def stopKeeper (t : Nat) (s : State) : State :=
  let s := modPrim t (fun d => { d with state := 3, feed := [] }) s
  match findTable s t with
  | none => s
  | some tb => forAll (tb.rounds.filter fun r => r.spec.keeper && !r.done && !r.committed)
      (fun r => failRound t r.spec.round stAborted 0 false 0 none) s

end Sys2Proof.Machine
end

