-- ==== Sys2Proof/Machine/Barriers.lean ====
section
/-! DEFINITION. Rule-set levels (18) and barriers (08): LEVEL_ADV, LEVEL_UP and LEVEL_SET, JOINs that arrive or are
held, the JOIN and the decision of a GT64, RELEASE passed on, and HALT. -/

namespace Sys2Proof.Machine
open Sys2Proof

/-! ### Held packets (R572, R649) -/

/-- Hold a packet for a table that is not open here; past the bound of 4,096 it is dropped and counted by f. -/
def holdMsg (m : HeldMsg) (f : State → State) (s : State) : State :=
  if 4096 ≤ s.held.length then f s else { s with held := s.held ++ [m] }

def pipDrop (l : Nat) : State → State := modPort (portOf l) (fun p => { p with pipDrops := p.pipDrops + 1 })

/-! ### Levels (R566 to R573) -/

def sendMgmt (eid : Nat) (payload : List Byte) (s : State) : State :=
  sendTo .own 7 (mkPacket 5 7 0 eid s.ident.eid payload) s

/-- Reserved and unused fields of a MGMT payload for its type (Table 18-6, R16). -/
def mgmtOk (bs : List Byte) : Bool :=
  let w := payW bs
  let t := fld (w 0) 63 60
  bs.length = 32 && 1 ≤ t && t ≤ 3 && 1 ≤ fld (w 0) 59 58 && fld (w 0) 57 32 = 0 && fld (w 0) 21 20 = 0 && (w 3).toNat = 0 &&
  (if t = 1 then fld (w 0) 31 22 = 0 && fld (w 0) 19 0 = 0 && (w 1).toNat = 0 else (w 2).toNat = 0)

/-- Position of a member in the first board's ring. -/
def firstPos (tb : Table) : Nat := (tb.lvl.ring.findIdx? fun x => x = tb.member).getD 0

def firstSucc (tb : Table) : Nat := tb.lvl.ring.getD ((firstPos tb + 1) % max 1 tb.lvl.ring.length) 0
def firstPred (tb : Table) : Nat := tb.lvl.ring.getD ((firstPos tb + tb.lvl.ring.length - 1) % max 1 tb.lvl.ring.length) 0

/-- Members whose LEVEL_UP a GT64 needs (R570). -/
def levelSources (tb : Table) : List Nat :=
  children tb ++ if isCrown tb && 1 < tb.lvl.ring.length && firstPos tb ≠ 1 then [firstPred tb] else []

def levelPayload (tb : Table) (type level : Nat) : List Byte := mgmtPayload type level tb.id tb.member tb.lvl.digest 0 0

/-- Send LEVEL_SET to members (R570): the ring neighbours given, and the children. -/
def sendLevelSet (tb : Table) (level : Nat) (ring : List Nat) (s : State) : State :=
  forAll (ring.eraseDups ++ children tb) (fun m => sendMgmt (eidOf tb m) (levelPayload tb 3 level)) s

def setLevel (t level : Nat) (s : State) : State :=
  modTable t (fun tb => { tb with lvl := { tb.lvl with set := true, level := level, tSet := now s } }) s

/-- Send LEVEL_UP, or at ring position 0 hold the table level, once every LEVEL_UP is held (R570). -/
def levelCheck (t : Nat) (s : State) : State :=
  match findTable s t with
  | none => s
  | some tb =>
    let need := levelSources tb
    if tb.lvl.sent || !need.all (fun m => tb.lvl.ups.any fun u => u.1 = m) then s else
    let lv := (tb.lvl.ups.map (·.2)).foldl min tb.lvl.ownMax
    let s := modTable t (fun tb => { tb with lvl := { tb.lvl with sent := true } }) s
    if isCrown tb && firstPos tb = 0 then
      sendLevelSet tb lv (if 1 < tb.lvl.ring.length then [firstSucc tb, firstPred tb] else []) (setLevel t lv s)
    else
      let dst := if isCrown tb then some (firstSucc tb) else parentOf tb
      match dst with
      | some m => sendMgmt (eidOf tb m) (levelPayload tb 2 lv) s
      | none => s

/-! ### JOIN (R247 to R251) -/

/-- A barrier named by TURN and BARRIER_SEQ has released here. -/
def isReleased (b : Barrier) (turn seq : Nat) : Bool :=
  match b.released with
  | some (t, q) => if b.turned then turn < t || (turn = t && seq ≤ q) else turn = t && 1 ≤ seq && seq ≤ q
  | none => false

/-- Sources of a barrier at this GT64 (R250). -/
def joinSources (tb : Table) : List Src :=
  (if isLeaf tb then (seatsHere tb tb.board).map fun e => ({ id := e.seat } : Src)
   else (children tb).map fun m => ({ isMember := true, id := m } : Src)) ++
    if isCrown tb && 1 < tb.board.ring.length && ownPos tb tb.board ≠ 1 then
      [({ isMember := true, ring := true, id := predOf tb tb.board } : Src)] else []

/-- The EIDs of a GT64's children and attached seats. -/
def below (tb : Table) : List Nat := (children tb).map (eidOf tb) ++ (seatsHere tb tb.board).map (·.eid)

def modBar (t : Nat) (f : Barrier → Barrier) : State → State := modTable t (fun tb => { tb with bar := f tb.bar })

/-- Send HALT on every link of the tree but one, and to the seats (R252). -/
def sendHalt (tb : Table) (port code : Nat) (except : Option Nat) (s : State) : State :=
  let w := barrierWords { table := tb.id, source := tb.member, isMember := true, turn := tb.bar.turn, seq := tb.bar.seq, type := 4, code := code }
  pipSend port (((treeEids tb tb.board).filter fun e => some e ≠ except) ++ (seatsHere tb tb.board).map (·.eid)) w s

/-- The table halts here (R211, R212, R252): it joins no barrier, its open clip group closes, and a TABLE record is
appended. -/
def haltTable (t code port : Nat) (src : Option Nat) (except : Option Nat) (s : State) : State :=
  match findTable s t with
  | none => s
  | some tb =>
    if tb.halt ≠ 0 then s else
    let s := modTable t (fun tb => { tb with halt := code, closing := false, waiting := false, poolWait := false, bar := { tb.bar with haltSrc := src } }) s
    let s := closeGroup t s
    let s := match findTable s t with
      | some tb => tableRecord 2 tb.turn tb s
      | none => s
    sendHalt tb port code except s

/-- A member JOIN's digests differ from this GT64's own (R251). -/
def joinDiffers (tb : Table) (j : BarrierJoin) : Bool :=
  j.src.isMember && (j.digest ≠ tb.window.toNat || j.board ≠ tb.board.digest)

/-- The JOINs held for the pending barrier. -/
def pendingJoins (tb : Table) : List BarrierJoin := tb.bar.joins.filter fun j => j.turn = tb.bar.turn && j.seq = tb.bar.seq

/-- Send the JOIN, or at ring position 0 decide the release, once the sources' JOINs are held (R250, R253, R571). -/
def joinCheck (t port : Nat) (s : State) : State :=
  match findTable s t with
  | none => s
  | some tb =>
    let js := pendingJoins tb
    if !tb.bar.joined || tb.bar.sent || tb.halt ≠ 0 then s
    else if js.any (joinDiffers tb) then haltTable t 4 port none none s
    else if !tb.lvl.set || !(joinSources tb).all (fun x => js.any fun j => j.src = x) then s
    else if isCrown tb && ownPos tb tb.board = 0 then
      let at_ := now s + 1000 * tb.bar.lead
      let s := modBar t (fun b => { b with sent := true, releaseAt := some at_, lastAt := at_ }) s
      let ring := if 1 < tb.board.ring.length then [succOf tb tb.board, predOf tb tb.board].eraseDups else []
      pipSend port (ring.map (eidOf tb) ++ below tb)
        (barrierWords { table := t, turn := tb.bar.turn, seq := tb.bar.seq, type := 3, value := at_ }) s
    else
      let s := modBar t (fun b => { b with sent := true }) s
      let dst := if isCrown tb then some (succOf tb tb.board) else parentOf tb
      match dst with
      | some m => pipSend port [eidOf tb m]
          (barrierWords { table := t, source := tb.member, isMember := true, turn := tb.bar.turn, seq := tb.bar.seq, type := 2
                          value := tb.window.toNat, board := tb.board.digest }) s
      | none => s

/-- A JOIN is taken for an open table (R249). -/
def joinIn (l : Nat) (ws : List W64) (s : State) : State :=
  let b := barrierPkt ws
  match findTable s b.table with
  | none => s
  | some tb =>
    let ring := isCrown tb && 1 < tb.board.ring.length && b.isMember && b.source = predOf tb tb.board && !(children tb).contains b.source
    let x : Src := { isMember := b.isMember, ring := ring, id := b.source }
    if isReleased tb.bar b.turn b.seq || !(joinSources tb).contains x ||
        tb.bar.joins.any (fun j => j.src = x && j.turn = b.turn && j.seq = b.seq) then pipStray l ws s
    else
      let j : BarrierJoin := { src := x, turn := b.turn, seq := b.seq, digest := b.value, board := b.board }
      joinCheck b.table (portOf l) (modBar b.table (fun q => { q with joins := q.joins ++ [j] }) s)

/-- JOIN: for a table not open here it is held (R649). -/
def joinArrive (l : Nat) (ws : List W64) (s : State) : State :=
  let t := (barrierPkt ws).table
  if (findTable s t).isSome then joinIn l ws s
  else holdMsg { isJoin := true, table := t, link := l, since := now s, bytes := [], words := ws } (pipDrop l) s

def execJoin (link : Nat) (flit : List W64) (s : State) : Host.Outcome State Fault Refusal :=
  .next (pipArrive link 2 flit (joinArrive link flit) s)

/-- JOIN_HOLD_EXPIRE: JOINs held for 10 s are dropped (R649). -/
def joinExpire (s : State) : State :=
  match s.held.find? (·.isJoin) with
  | none => s
  | some m =>
    let s := advanceTo (m.since + 10000000000) s
    let old := fun (h : HeldMsg) => h.isJoin && h.since + 10000000000 ≤ now s
    forAll (s.held.filter old) (fun h => pipDrop h.link) { s with held := s.held.filter fun h => !old h }

def execJoinHoldExpire (s : State) : Host.Outcome State Fault Refusal := .next (if live s then joinExpire s else s)

/-! ### LEVEL packets -/

/-- LEVEL_UP or LEVEL_SET for an open table; one whose BOARD_DIGEST is not the first board's is dropped (R570, R572). -/
def levelIn (l : Nat) (bs : List Byte) (s : State) : State :=
  let w := payW bs
  let t := fld (w 0) 31 22
  let lv := fld (w 0) 59 58
  match findTable s t with
  | none => s
  | some tb =>
    if (w 1).toNat ≠ tb.lvl.digest then protoError l s
    else if fld (w 0) 63 60 = 2 then
      let m := fld (w 0) 19 0
      if !(levelSources tb).contains m then s
      else joinCheck t (Config.ownQueue % 64) (levelCheck t (modTable t (fun tb => { tb with
        lvl := { tb.lvl with ups := (m, lv) :: tb.lvl.ups.filter fun u => u.1 ≠ m } }) s))
    else if tb.lvl.set then s
    else
      let from_ := fld (w 0) 19 0
      let ring := if !isCrown tb then []
        else if 1 < tb.lvl.ring.length then
          let nb := if from_ = firstPred tb then firstSucc tb else firstPred tb
          if some nb = tb.lvl.ring.head? then [] else [nb]
        else []
      joinCheck t (Config.ownQueue % 64) (sendLevelSet tb lv ring (setLevel t lv s))

/-- A MGMT packet of a type arrives; in Pawn mode it is dropped (R560, R567). -/
def mgmtArrive (l type : Nat) (bs : List Byte) (f : Option Packet → State → State) (s : State) : State :=
  let (p, s) := takeSelfFree l bs s
  if !live s then s
  else if s.pawn.cause ≠ 0 then selfDrop s
  else if !mgmtOk bs then protoError l s
  else if fld (payW bs 0) 63 60 = type then f p s else s

/-- LEVEL_ADV: the peer's values (R568). -/
def levelAdvIn (l : Nat) (bs : List Byte) (p : Option Packet) (s : State) : State :=
  if !linkRuns s l then s else
  let eid := match p with
    | some q => pSrc q
    | none => (getLink s l).stat.peerEid
  let v : PeerLevel := { level := fld (payW bs 0) 59 58, eid := eid, rom := fld (payW bs 2) 63 32, patch := fld (payW bs 2) 31 0 }
  modLink l (fun k => { k with peer := some v }) s

def execLevelAdv (link : Nat) (payload : List Byte) (s : State) : Host.Outcome State Fault Refusal :=
  .next (mgmtArrive link 1 payload (levelAdvIn link payload) s)

/-- A LEVEL packet for an open table is taken, otherwise held (R572). -/
def levelArrive (l : Nat) (bs : List Byte) (s : State) : State :=
  let t := fld (payW bs 0) 31 22
  if (findTable s t).isSome then levelIn l bs s
  else holdMsg { isJoin := false, table := t, link := l, since := now s, bytes := bs, words := [] } (protoError l) s

def execLevelUp (link : Nat) (payload : List Byte) (s : State) : Host.Outcome State Fault Refusal :=
  .next (mgmtArrive link 2 payload (fun _ => levelArrive link payload) s)

def execLevelSet (link : Nat) (payload : List Byte) (s : State) : Host.Outcome State Fault Refusal :=
  .next (mgmtArrive link 3 payload (fun _ => levelArrive link payload) s)

/-- LEVEL_HOLD_EXPIRE: LEVEL packets held for 10 s are dropped and counted (R572). -/
def levelExpire (s : State) : State :=
  match s.held.find? fun h => !h.isJoin with
  | none => s
  | some m =>
    let s := advanceTo (m.since + 10000000000) s
    let old := fun (h : HeldMsg) => !h.isJoin && h.since + 10000000000 ≤ now s
    forAll (s.held.filter old) (fun h => protoError h.link) { s with held := s.held.filter fun h => !old h }

def execLevelHoldExpire (s : State) : Host.Outcome State Fault Refusal := .next (if live s then levelExpire s else s)

/-- A table opens: what was held for it is taken as if it had just arrived (R572, R649). -/
def releaseHeld (t : Nat) (s : State) : State :=
  let live := fun (h : HeldMsg) => h.table = t && now s < h.since + 10000000000
  forAll (s.held.filter live) (fun h => if h.isJoin then joinIn h.link h.words else levelIn h.link h.bytes)
    { s with held := s.held.filter fun h => !live h }

/-! ### HALT (R252, R256) -/

def haltIn (l : Nat) (ws : List W64) (s : State) : State :=
  let b := barrierPkt ws
  match findTable s b.table with
  | none => pipDrop l s
  | some tb =>
    if b.code = 0 || 4 < b.code then pipStray l ws s
    else haltTable b.table b.code (portOf l) (some b.source) (neighbourOn tb tb.board l s) s

def execHalt (link : Nat) (flit : List W64) (s : State) : Host.Outcome State Fault Refusal :=
  .next (pipArrive link 4 flit (haltIn link flit) s)

/-! ### BARRIER_STALL (R260) -/

def barrierStall (t : Nat) (s : State) : State :=
  match findTable s t with
  | none => s
  | some tb =>
    if !tb.bar.joined || tb.bar.sent || tb.halt ≠ 0 then s else
    let js := pendingJoins tb
    let missing := (joinSources tb).filter fun x => !(js.any fun j => j.src = x)
    match argMin (fun (x : Src) => 2 * x.id + b2n x.isMember) missing with
    | none => s
    | some x => modBar t (fun b => { b with stalled := some x }) (advanceTo (tb.bar.joinedAt + absenceNs tb) s)

def execBarrierStall (table : Nat) (s : State) : Host.Outcome State Fault Refusal :=
  .next (if live s then barrierStall table s else s)

end Sys2Proof.Machine
end

