-- ==== Sys2Proof/Machine/Mailbox.lean ====
section
/-! DEFINITION. The mailbox transport, sessions and bulk transfers (14, 15): requests and segments that arrive, the
checks of R484, responses, and the commands MBOX_REQUEST, BULK_SEGMENT, SESSION_IDLE_EXPIRE, SESSION_OPEN,
SESSION_CLOSE, NOP and BULK_FETCH. -/

namespace Sys2Proof.Machine
open Sys2Proof

/-! ### Host frames -/

/-- Host port p is UP (Table 14-8). -/
def hostUp (s : State) (p : Nat) : Bool := p < 8 && (getHost s p).state = 2

/-- The port's configuration holds an IP address (R455). -/
def hasIp (s : State) (p : Nat) : Bool := (getHost s p).cfg.v4Prefix ≠ 0 || (getHost s p).cfg.v6Prefix ≠ 0

/-- A frame with good FCS has come in. -/
def frameIn (p : Nat) : State → State := modHost p (fun h => { h with framesRx := h.framesRx + 1 })

def dropFrame (p : Nat) : State → State := modHost p (fun h => { h with dropped := h.dropped + 1 })

/-- A frame goes out on a port that is UP; on another it is discarded (R472). -/
def sendOn (p : Nat) (e : Emission) (s : State) : State :=
  if hostUp s p then emit e (modHost p (fun h => { h with framesTx := h.framesTx + 1 }) s) else s

/-! ### Sessions (R478 to R482) -/

def curSession (s : State) (m : Nat) : Option Session := (getMbox s m).session

/-- The session of a request is current (R478). -/
def isCurrent (s : State) (m : Nat) (r : Request) : Bool := (curSession s m).any fun x => x.id = r.session

/-- The STAGING bank becomes FREE (R383). -/
def freeStaging (s : State) : State :=
  modRoute (fun r => { r with banks := r.banks.map (fun b => if b.state = 3 then {} else b), owner := none }) s

/-- A session ends (R480): its stored responses, bulk buffers and route staging go. -/
def endSession (m : Nat) (s : State) : State :=
  match curSession s m with
  | none => s
  | some x =>
    let s := modMbox m (fun b => { b with session := none, stored := [], inb := none, outb := none }) s
    if s.route.owner = some (m, x.id) then freeStaging s else s

/-! ### Answers -/

/-- A response: STATUS, DETAIL, data. -/
structure Answer where
  status  : Nat := 0
  detail  : Nat := 0
  data    : List Byte := []
  bulkOut : Bool := false
  deriving DecidableEq, Repr, Inhabited

/-- STATUS codes (Table 15-6). -/
def gLength : Nat := 1
def gNoSession : Nat := 2
def gSessionBusy : Nat := 3
def gVersion : Nat := 4
def gUnknown : Nat := 5
def gReserved : Nat := 6
def gValue : Nat := 7
def gBusy : Nat := 8
def gResource : Nat := 9
def gNoObject : Nat := 0xA
def gReadOnly : Nat := 0xB
def gSequence : Nat := 0xC
def gIncomplete : Nat := 0xD
def gBulkCrc : Nat := 0xE
def gPartner : Nat := 0xF
def gUnlocked : Nat := 0x10
def gLevel : Nat := 0x11
def gRole : Nat := 0x12
def gState : Nat := 0x13
def gFailed : Nat := 0x14
def gAuth : Nat := 0x15
def gPawn : Nat := 0x16

/-- What a command does: its answer, or none while it waits (R492), and the state it leaves. -/
abbrev Reply := Option Answer × State

def okWith (data : List Byte) (s : State) : Reply := (some { data := data }, s)
def okay (s : State) : Reply := okWith [] s
def reject (status detail : Nat) (s : State) : Reply := (some { status := status, detail := detail }, s)
def waits (s : State) : Reply := (none, s)

/-- FAILED of a command, by its code: DETAIL is open. -/
def failedAns (code : Nat) (s : State) : Answer := { status := gFailed, detail := Config.failedDetail code s.free }

/-- CMD of a message. -/
def cmdOf (msg : List Byte) : Nat := leAt msg 6 2

/-- Argument word i of a message. -/
def argW (msg : List Byte) (i : Nat) : W64 := payW msg (2 + i)

/-- The datagram of a response. -/
def responseBytes (m : Nat) (r : Request) (a : Answer) : List Byte :=
  let msg := gciMsg (cmdOf r.msg) a.status a.bulkOut a.detail (if a.status = 0 then a.data else [])
  mboxHdr 1 m r.session r.seq msg.length ++ msg

/-- The command that executes in a mailbox responds (R462, R464, R486). -/
def respond (m : Nat) (a : Answer) (s : State) : State :=
  match (getMbox s m).exec with
  | none => s
  | some r =>
    let d := responseBytes m r a
    let keep := isCurrent s m r
    let s := modMbox m (fun b => { b with
      exec := none
      stored := if keep then ({ session := r.session, seq := r.seq, bytes := d } :: b.stored).take 256 else b.stored }) s
    let s := modGci (fun g => { g with requests := g.requests + 1, errors := g.errors + b2n (a.status ≠ 0) }) s
    sendOn r.src.port (.datagram r.src 47710 d) s

/-! ### Bulk data (R487 to R490) -/

/-- Segments of 8,176 bytes from an offset on, ascending. -/
def segments (m session seq id total : Nat) : Nat → Nat → List Byte → List (List Byte)
  | 0, _, _ => []
  | n + 1, off, bs =>
    if bs.isEmpty then [] else
    let part := bs.take 8176
    (mboxHdr 3 m session seq (16 + part.length) ++ bytesOf [mkW [(63, 32, id), (31, 0, total)], mkW [(63, 32, off)]] ++ part) ::
      segments m session seq id total n (off + 8176) (bs.drop 8176)

/-- Send a range of an outbound buffer to a source; the SEQ of a segment is open. -/
def sendSegments (m session : Nat) (dst : Source) (o : OutBulk) (off len : Nat) (s : State) : State :=
  let ds := segments m session (freeVal s % 65536) o.id o.data.length (len / 8176 + 1) off (slice o.data off len)
  forAll ds (fun d => sendOn dst.port (.datagram dst 47710 d)) (freeNext s)

/-- Respond with bulk data: the BULK_REF comes first in the data, the segments after the response (R490). Which
BULK_ID a transfer takes is open. -/
def respondBulk (m : Nat) (a : Answer) (data : List Byte) (s : State) : State :=
  match (getMbox s m).exec with
  | none => s
  | some r =>
    let o : OutBulk := { id := 1 + freeVal s % 0xFFFFFFFF, data := data }
    let ref := bytesOf [mkW [(63, 32, o.id), (31, 0, data.length)], crc64 data]
    let s := modMbox m (fun b => { b with outb := some o }) (freeNext s)
    sendSegments m r.session r.src o 0 data.length (respond m { a with data := ref ++ a.data, bulkOut := true } s)

/-- The lowest byte that has not arrived. -/
def missingAt : Nat → List (Option Byte) → Option Nat
  | _, [] => none
  | i, none :: _ => some i
  | i, some _ :: bs => missingAt (i + 1) bs

/-- Take the buffer that a BULK_REF at a message offset in bytes names (R488). -/
def bulkRef (m at_ : Nat) (msg : List Byte) (s : State) : Except Answer (List Byte) :=
  match (getMbox s m).inb with
  | none => .error { status := gIncomplete }
  | some b =>
    if leAt msg (at_ + 4) 4 ≠ b.id then .error { status := gIncomplete }
    else if leAt msg at_ 4 ≠ b.data.length then .error { status := gValue, detail := 8 * at_ }
    else match missingAt 0 b.data with
      | some i => .error { status := gIncomplete, detail := i }
      | none =>
        let data := b.data.map fun x => x.getD 0
        let c := crc64 data
        if c.toNat ≠ leAt msg (at_ + 8) 8 then .error { status := gBulkCrc, detail := c.toNat } else .ok data

/-- Commands that name the inbound buffer. -/
def namesBulk (msg : List Byte) : Bool :=
  let c := cmdOf msg
  c = 0x20 || c = 0x23 || c = 0x60 || (c = 0x22 && fld (argW msg 0) 18 16 = 0) || (c = 0x41 && !bitAt (argW msg 0) 61)

/-- Overlay bytes from an offset on. -/
def overlay (buf : List (Option Byte)) (off : Nat) (bs : List Byte) : List (Option Byte) :=
  buf.take off ++ bs.map some ++ buf.drop (off + bs.length)

def dropSegment : State → State := modGci (fun g => { g with bulkDrops := g.bulkDrops + 1 })

/-- A BULK segment arrives (R487, R489). -/
def segmentIn (m session : Nat) (body : List Byte) (s : State) : State :=
  let id := leAt body 4 4
  let total := leAt body 0 4
  let off := leAt body 12 4
  let data := body.drop 16
  let b := getMbox s m
  if body.length < 16 || !(b.session.any fun x => x.id = session) || b.exec.any (fun r => namesBulk r.msg) ||
      id = 0 || total = 0 || 16777216 < total || leAt body 8 4 ≠ 0 || total ≤ off || total < off + data.length ||
      b.inb.any (fun x => x.id = id && x.data.length ≠ total) then dropSegment s
  else
    let old := match b.inb with
      | some x => if x.id = id then x.data else List.replicate total none
      | none => List.replicate total none
    modMbox m (fun b => { b with inb := some { id := id, data := overlay old off data } }) s

/-! ### Requests that arrive (R460 to R464) -/

def countDup : State → State := modGci (fun g => { g with duplicates := g.duplicates + 1 })

def requestIn (src : Source) (h : MboxHdr) (msg : List Byte) (s : State) : State :=
  let m := h.mailbox
  let b := getMbox s m
  let same := fun (r : Request) => r.session = h.session && r.seq = h.seq
  if b.ring.any same || b.exec.any same then countDup s
  else match b.stored.find? fun x => x.session = h.session && x.seq = h.seq with
    | some x => sendOn src.port (.datagram src 47710 x.bytes) (countDup s)
    | none =>
      if 256 ≤ b.ring.length then
        sendOn src.port (.datagram src 47710 (mboxHdr 2 m h.session h.seq 0))
          (modHost src.port (fun p => { p with ringFull := p.ringFull + 1 }) s)
      else modMbox m (fun b => { b with ring := b.ring ++ [{ src := src, session := h.session, seq := h.seq, msg := msg }] }) s

/-- A frame meets no mailbox transport: before step 9 of start-up it is dropped and counted (R610), in Pawn mode it is
dropped (R506). -/
def turnAway (p : Nat) (s : State) : State :=
  if !live s || !hostUp s p then s
  else whenDo (s.pawn.cause = 0 && !s.boot.transport) (dropFrame p) (frameIn p s)

/-- A datagram to UDP port 47710 arrives (R456, R460); a request in Pawn mode is the row PAWN_REQUEST's. -/
def mailboxIn (src : Source) (d : List Byte) (s : State) : State :=
  if s.pawn.cause ≠ 0 && mboxOk 0 d then s
  else if !cpRuns s || !s.boot.transport || !hostUp s src.port then turnAway src.port s
  else
    let s := frameIn src.port s
    let h := mboxHdrOf d
    if !hasIp s src.port then dropFrame src.port s
    else if mboxOk 0 d then requestIn src h (d.drop 16) s
    else if mboxOk 3 d then segmentIn h.mailbox h.session (d.drop 16) s
    else dropFrame src.port s

def execMboxRequest (src : Source) (datagram : List Byte) (s : State) : Host.Outcome State Fault Refusal :=
  .next (mailboxIn src datagram s)

def execBulkSegment (src : Source) (datagram : List Byte) (s : State) : Host.Outcome State Fault Refusal :=
  .next (mailboxIn src datagram s)

/-- IDLE_S seconds pass with no request of the session beginning execution (R480). -/
def idleExpire (m : Nat) (s : State) : State :=
  match curSession s m with
  | none => s
  | some x => endSession m (advanceTo (x.lastBegin + x.idleS * 1000000000) s)

def execSessionIdleExpire (mailbox : Nat) (s : State) : Host.Outcome State Fault Refusal :=
  .next (if cpRuns s then idleExpire mailbox s else s)

/-! ### Executing a request (R484) -/

/-- n bits from bit lo of bytes. -/
def bitsFld (bs : List Byte) (lo n : Nat) : Nat := (leAt bs (lo / 8) ((lo % 8 + n + 7) / 8) >>> (lo % 8)) % 2 ^ n

/-- The first of fields (lowest bit, width) that is not 0. -/
def firstSet (bs : List Byte) (fs : List (Nat × Nat)) : Option Nat := (fs.find? fun f => bitsFld bs f.1 f.2 ≠ 0).map (·.1)

/-- The first of fields (lowest bit, width, least, greatest) that lies outside its values. -/
def firstBad (bs : List Byte) (fs : List (Nat × Nat × Nat × Nat)) : Option Nat :=
  (fs.find? fun f => let v := bitsFld bs f.1 f.2.1
    v < f.2.2.1 || f.2.2.2 < v).map (·.1)

/-- What R484 checks of a command before its body: code, first major, argument length, reserved fields beyond
GCI_HDR and field values, by bit of the message. -/
structure CmdSpec where
  code  : Nat
  since : Nat := 1
  len   : List Byte → Nat := fun _ => 0
  resv  : List Byte → List (Nat × Nat) := fun _ => []
  vals  : List (Nat × Nat × Nat × Nat) := []

/-- Reserved fields of GCI_HDR in a request (R484 step 5). -/
def hdrResv : List (Nat × Nat) := [(0, 39), (39, 1), (40, 8), (64, 64)]

/-- Checks 1 to 5 of R484 and the field values, in order; the session's major comes with a pass. SESSION_OPEN needs
no session. -/
def checkReq (sp : CmdSpec) (m : Nat) (r : Request) (s : State) : Except Answer Nat :=
  let len := r.msg.length
  if len < 16 || len % 8 ≠ 0 then .error { status := gLength }
  else
    let cur := curSession s m
    if sp.code ≠ 1 && !isCurrent s m r then .error { status := gNoSession, detail := (cur.map (·.id)).getD 0 }
    else
      let major := if sp.code = 1 then 3 else (cur.map (·.major)).getD 0
      if major < sp.since then .error { status := gUnknown }
      else if len - 16 ≠ sp.len r.msg then .error { status := gLength, detail := sp.len r.msg }
      else match firstSet r.msg (hdrResv ++ sp.resv r.msg) with
        | some i => .error { status := gReserved, detail := i }
        | none => match firstBad r.msg sp.vals with
          | some i => .error { status := gValue, detail := i }
          | none => .ok major

/-- The oldest waiting request begins execution, if it is one that the row names (R462, R463, R480). -/
def beginReq (m : Nat) (names : List Byte → Bool) (s : State) : Option (Request × State) :=
  if !cpRuns s || 64 ≤ m then none else
  let b := getMbox s m
  if b.exec.isSome then none else
  match b.ring with
  | [] => none
  | r :: rest =>
    if !names r.msg then none else
    some (r, modMbox m (fun b => { b with
      ring := rest, exec := some r
      session := b.session.map fun x => if x.id = r.session then { x with lastBegin := now s } else x }) s)

/-- Execute a command of a row: its checks, then its body; a rejected request changes nothing (R17). -/
def runCmd (m : Nat) (sp : CmdSpec) (extra : List Byte → Bool) (body : Request → Nat → State → Reply) (s : State) : State :=
  match beginReq m (fun msg => 16 ≤ msg.length && cmdOf msg = sp.code && extra msg) s with
  | none => s
  | some (r, s) => match checkReq sp m r s with
    | .error a => respond m a s
    | .ok major => match body r major s with
      | (none, s') => s'
      | (some a, s') => respond m a (if a.status = 0 then s' else s)

def anyMsg (_ : List Byte) : Bool := true

/-! ### SESSION_OPEN, SESSION_CLOSE, NOP, BULK_FETCH -/

/-- The minor of a major that the firmware implements (R481). -/
def minorOf (s : State) (major : Nat) : Nat :=
  if s.ident.patchSlot.isSome then Config.patchMinor s.ident.patchVersion major % 256 else 0

def patchVer (s : State) : Nat := if s.ident.patchSlot.isSome then s.ident.patchVersion else 0

def sessionOpenSpec : CmdSpec :=
  { code := 1, len := fun _ => 8, resv := fun _ => [(144, 31)], vals := [(128, 16, 1, 65535), (176, 8, 1, 3), (184, 8, 1, 3)] }

/-- SESSION_OPEN (R479, R481). -/
def sessionOpenBody (m : Nat) (r : Request) (_ : Nat) (s : State) : Reply :=
  let a := argW r.msg 0
  let major := fld a 55 48
  let cur := curSession s m
  if major < fld a 63 56 then reject gVersion 0x0103 s
  else if r.session = 0 then reject gValue 0 s
  else if cur.any (fun x => x.id ≠ r.session) && !bitAt a 47 then reject gSessionBusy ((cur.map (·.id)).getD 0) s
  else
    let s := endSession m s
    let x : Session := { id := r.session, major := major, minor := minorOf s major, idleS := fld a 15 0, lastBegin := now s }
    okWith (bytesOf [mkW [(63, 56, major), (55, 48, x.minor), (47, 40, rulesetMax s)], mkW [(63, 32, romVer), (31, 0, patchVer s)]])
      (modMbox m (fun b => { b with session := some x }) s)

def execSessionOpen (mailbox : Nat) (s : State) : Host.Outcome State Fault Refusal :=
  .next (runCmd mailbox sessionOpenSpec anyMsg (sessionOpenBody mailbox) s)

def sessionCloseBody (m : Nat) (_ : Request) (_ : Nat) (s : State) : Reply := okay (endSession m s)

def execSessionClose (mailbox : Nat) (s : State) : Host.Outcome State Fault Refusal :=
  .next (runCmd mailbox { code := 2 } anyMsg (sessionCloseBody mailbox) s)

/-- Codes of Table 15-5. -/
def listedCmds : List Nat :=
  [0x01, 0x02, 0x03, 0x04, 0x10, 0x11, 0x20, 0x21, 0x22, 0x23, 0x30, 0x31, 0x32, 0x33, 0x34, 0x40, 0x41, 0x42, 0x43, 0x44, 0x45,
   0x50, 0x60, 0x61, 0x62, 0x70]

def nopSpec : CmdSpec := { code := 3, len := fun msg => msg.length - 16 }

/-- A request that no other row names: NOP, a message too short for a command, or an unknown command. -/
def nopNames (msg : List Byte) : Bool := msg.length < 16 || cmdOf msg = 3 || !listedCmds.contains (cmdOf msg)

def nopRun (m : Nat) (s : State) : State :=
  match beginReq m nopNames s with
  | none => s
  | some (r, s) =>
    let sp := if r.msg.length < 16 || cmdOf r.msg = 3 then nopSpec else { nopSpec with code := 0xFFFF, since := 4 }
    match checkReq sp m r s with
    | .error a => respond m a s
    | .ok _ => respond m { data := r.msg.drop 16 } s

def execNop (mailbox : Nat) (s : State) : Host.Outcome State Fault Refusal := .next (nopRun mailbox s)

def bulkFetchSpec : CmdSpec := { code := 4, len := fun _ => 16, resv := fun _ => [(128, 32)] }

/-- BULK_FETCH (R490): a BULK_ID that is not held and a range past the buffer are bad values. -/
def bulkFetchRun (m : Nat) (s : State) : State :=
  match beginReq m (fun msg => 16 ≤ msg.length && cmdOf msg = 4) s with
  | none => s
  | some (r, s) => match checkReq bulkFetchSpec m r s with
    | .error a => respond m a s
    | .ok _ =>
      let id := fld (argW r.msg 0) 63 32
      let off := fld (argW r.msg 1) 63 32
      let len := fld (argW r.msg 1) 31 0
      match (getMbox s m).outb with
      | none => respond m { status := gValue, detail := 160 } s
      | some o =>
        if o.id ≠ id then respond m { status := gValue, detail := 160 } s
        else if o.data.length < off + len then respond m { status := gValue, detail := 192 } s
        else sendSegments m r.session r.src o off len (respond m {} s)

def execBulkFetch (mailbox : Nat) (s : State) : Host.Outcome State Fault Refusal := .next (bulkFetchRun mailbox s)

end Sys2Proof.Machine
end

