-- ==== Sys2Proof/Machine/Moves.lean ====
section
/-! DEFINITION. The moves of a table (07): each as it comes up for execution, the release of a barrier (08), and the
closing of a table. -/

namespace Sys2Proof.Machine
open Sys2Proof

/-! ### The front of a list (R206, R207) -/

def opcode (m : List W64) : Nat := fld (wd m 0) 63 56

/-- The move that comes up for execution, if it is of an opcode and the table runs; none in Pawn mode (R212). -/
def frontMove (t op : Nat) (s : State) : Option (Table × List W64) :=
  if !cpRuns s then none else
  match findTable s t with
  | none => none
  | some tb =>
    if tb.halt ≠ 0 then none else
    match tb.moves with
    | [] => none
    | m :: _ => if opcode m = op then some (tb, m) else none

/-- A move has executed: it leaves the window and enters MOVE_DIGEST (R201, R210). -/
def retireMove (t : Nat) : State → State :=
  modTable t (fun tb => match tb.moves with
    | [] => tb
    | m :: ms => { tb with
      moves := ms, executed := tb.executed + 1, window := crc64From tb.window (bytesOf m), waiting := false, poolWait := false })

/-- A move waits; pool: for a place among the open rounds (R161, R207). -/
def waitMove (t : Nat) (pool : Bool) : State → State := modTable t (fun tb => { tb with waiting := true, poolWait := pool })

/-- Halt for a check made at execution (R211). -/
def haltMove (t code : Nat) (s : State) : State := haltTable t code (Config.ownQueue % 64) none none s

def draining (tb : Table) : Bool := match tb.other with
  | some (_, _, true) => true
  | _ => false

/-! ### Closing (R219, R220) -/

/-- The table that waits on a storage operation; a shard is written for a double. -/
def storeTable : StoreFor → Option Nat
  | .shard _ _ => none
  | .report t _ => some t
  | .slotRec t _ => some t
  | .slotMan t _ => some t
  | .removeRec t => some t
  | .putManifest t => some t
  | .putCommit t => some t
  | .candRec t _ _ => some t
  | .candMan t _ _ => some t
  | .loadMan t => some t
  | .loadIndex t _ => some t
  | .loadChunk t _ _ => some t

def dropStore (p : StoreFor → Bool) (s : State) : State :=
  { s with store := { s.store with ops := s.store.ops.filter fun o => !p o.who } }

/-- A RESTORE that waits answers that it has failed. -/
def failRestore (t : Nat) (s : State) : State :=
  match ((findTable s t).bind (·.keeper)).bind (·.restore) with
  | none => s
  | some r => respond r.mailbox (failedAns 0x34 s) (modKeeper t (fun k => { k with restore := none }) s)

/-- Close a table: open rounds fail with ABORTED, the turn ends if it can, the partner hears CLOSE, and everything the
table holds is released. -/
def closeTable (t : Nat) (s : State) : State :=
  match findTable s t with
  | none => s
  | some tb =>
    let s := modTable t (fun tb => { tb with closing := true }) s
    let s := forAll (tb.rounds.filter fun r => !r.done) (fun r => failRound t r.spec.round stAborted 0 false 0 none) s
    let s := turnDue t (flushWork t s)
    let s := match tb.keeper with
      | some k => if isCrown tb then
          sendCtl k.spec.partner { ctl := 6, table := t, prim := s.ident.eid } s
        else s
      | none => s
    let s := failRestore t s
    let s := match findTable s t with
      | some tb => tableRecord 3 tb.turn tb s
      | none => s
    let s := dropStore (fun w => storeTable w = some t) s
    drain { s with
      tables := s.tables.filter fun x => x.id ≠ t
      mu := closePool t s.mu, kunits := closePool t s.kunits }

/-! ### The release of a barrier (R255, R259) -/

/-- Send PHASE to the table's other members along its tree (R312). -/
def sendPhase (tb : Table) (code turn : Nat) (except : Option Nat) (s : State) : State :=
  forAll ((treeEids tb tb.board).filter fun e => some e ≠ except)
    (fun e s => sendCtl e { ctl := 7, code := code, table := tb.id, prim := s.ident.eid, turn := turn } s) s

/-- A full rebuild begins or ends at the release of a turn barrier (R312, R527). -/
def rebuildStep (t turn : Nat) (s : State) : State :=
  match findTable s t with
  | none => s
  | some tb => match tb.keeper with
    | none => s
    | some k =>
      match k.dbl.rebuild with
      | some phases =>
        let s := if phases then modTable t (fun tb => { tb with phaseDue := some 0, phaseSeen := some (turn, 0) }) (sendPhase tb 0 turn none s) else s
        let s := match k.dbl.oldPartner with
          | some e => sendCtl e { ctl := 6, table := t, prim := s.ident.eid, turn := turn } s
          | none => s
        flushFeed t (modKeeper t (fun k => { k with
          turns := k.turns.map fun q => { q with verdict := q.verdict || q.vals.turn < turn }
          dbl := { k.dbl with state := if k.dbl.state = 1 then 0 else k.dbl.state, rebuild := none, oldPartner := none } }) s)
      | none =>
        if k.dbl.moveTo.isSome || k.dbl.rebuildDue || Config.logFailed s.ident.eid t (turn - 1) then
          let p := k.dbl.moveTo.getD k.spec.partner
          let phases := k.dbl.moveTo.isSome
          let s := modKeeper t (fun k => { k with
            spec := { k.spec with partner := p }
            turns := k.turns.map fun q => { q with verdict := true }
            dbl := { k.dbl with
              state := if k.dbl.state = 3 then 3 else 1, feed := [], moveTo := none, rebuildDue := false, rebuild := some phases
              oldPartner := if k.dbl.moveTo.any (fun e => e ≠ k.spec.partner) then some k.spec.partner else none } }) s
          let s := if phases then modTable t (fun tb => { tb with phaseDue := some 4, phaseSeen := some (turn, 4) }) (sendPhase tb 4 turn none s) else s
          sendSync k.spec.rule 0 t s.ident.eid (turn - 1) p k.params s
        else s

/-- What a crown member sends its partner at the release of a turn barrier: parameters marked in the double's slots
(R310), and a full rebuild. -/
def keeperRelease (t turn : Nat) (s : State) : State :=
  match findTable s t with
  | none => s
  | some tb => match tb.keeper with
    | none => s
    | some k =>
      if !isCrown tb then s else
      let s := modKeeper t (fun k => { k with turns := k.turns.filter fun q => !(q.verdict && q.vals.turn + 2 ≤ turn) }) s
      let marks := Config.slotMarks s.ident.eid t (turn - 1)
      let s := if feeds k then
          sendSync k.spec.rule 0 t s.ident.eid (turn - 1) k.spec.partner (k.params.filter fun p => marks.contains p.param) s
        else s
      rebuildStep t turn s

/-- A barrier's move executes: the window restarts with its record (R210). -/
def retireBarrier (t : Nat) : State → State :=
  modTable t (fun tb => match tb.moves with
    | [] => tb
    | m :: ms => { tb with moves := ms, executed := tb.executed + 1, window := crc64 (bytesOf m), waiting := false, poolWait := false })

/-- The pending barrier releases now. -/
def releaseBarrier (t : Nat) (s : State) : State :=
  match findTable s t with
  | none => s
  | some tb => match tb.bar.releaseAt, tb.moves with
    | some at_, m :: _ =>
      if tb.halt ≠ 0 then s else
      let first := opcode m = 1
      let late := now s - at_
      let bad := s.time.state ≠ 2 || 64 < s.time.pathBound
      let b := tb.bar
      let s := retireBarrier t s
      let s := modTable t (fun tb => { tb with
        bar := { b with
          joined := false, sent := false, releaseAt := none, released := some (b.turn, b.seq), stalled := none
          turned := b.turned || first
          joins := b.joins.filter fun j => !(j.turn = b.turn && j.seq = b.seq)
          late := b.late + b2n (0 < late), maxLate := max b.maxLate late, unlocked := b.unlocked + b2n bad }
        rounds := tb.rounds.map fun r => if r.done then r else { r with accepted := some (r.accepted.getD (now s)) }
        turn := if first then b.turn else tb.turn
        barrierSeq := if first then 0 else b.seq
        phase := if first then tb.phaseDue.getD tb.phase else tb.phase
        phaseDue := if first then none else tb.phaseDue
        switched := if first then false else tb.switched }) s
      if first then
        keeperRelease t b.turn (if tb.switched && tb.keeper.isSome then reshard t s else s)
      else s
    | _, _ => s

/-- Join a barrier (R208, R247). -/
def joinMove (t turn seq lead : Nat) (s : State) : State :=
  let s := modBar t (fun b => { b with
    joined := true, joinedAt := now s, turn := turn, seq := seq, lead := lead, sent := false, releaseAt := none, stalled := none }) s
  joinCheck t (Config.ownQueue % 64) (waitMove t false s)

/-! ### TURN_BEGIN (R217, R304, R329) -/

/-- TURN_BEGIN waits for a VERDICT (R304). -/
def verdictDue (tb : Table) (turn : Nat) : Bool :=
  isCrown tb && match tb.keeper with
    | some k => k.dbl.state = 0 && k.turns.any fun q => q.vals.turn + 2 ≤ turn && !q.verdict
    | none => false

/-- The first TURN_BEGIN waits for RESTORE (R329). -/
def restoreDue (tb : Table) : Bool :=
  isCrown tb && !tb.bar.turned && match tb.keeper with
    | some k => !k.restored
    | none => false

def turnBegin (t : Nat) (s : State) : State :=
  match frontMove t 1 s with
  | none => s
  | some (tb, m) =>
    if tb.bar.joined then s else
    let s := turnDue t (closeGroup t s)
    let turn := fld (wd m 1) 47 0
    match findTable s t with
    | none => s
    | some tb =>
      if draining tb || restoreDue tb then waitMove t false s
      else if verdictDue tb turn then
        waitMove t false (modPrim t (fun d => { d with waitSince := some (d.waitSince.getD (now s)) }) s)
      else joinMove t turn 0 (fld (wd m 0) 15 0) (modPrim t (fun d => { d with waitSince := none }) s)

def execTurnBegin (table : Nat) (s : State) : Host.Outcome State Fault Refusal := .next (turnBegin table s)

/-- VERDICT_WAIT_TIMEOUT: the double is LOST and the member joins (R304). -/
def verdictTimeout (t : Nat) (s : State) : State :=
  match findTable s t with
  | none => s
  | some tb => match tb.keeper.bind (·.dbl.waitSince) with
    | none => s
    | some a =>
      turnBegin t (modPrim t (fun d => { d with state := 2, feed := [], waitSince := none }) (advanceTo (a + absenceNs tb) s))

def execVerdictWaitTimeout (table : Nat) (s : State) : Host.Outcome State Fault Refusal :=
  .next (if cpRuns s then verdictTimeout table s else s)

/-! ### BARRIER, WAIT_ROUNDS, PHASE_SET -/

def barrierMove (t : Nat) (s : State) : State :=
  match frontMove t 2 s with
  | none => s
  | some (tb, m) => if tb.bar.joined then s else joinMove t tb.turn (tb.barrierSeq + 1) (fld (wd m 0) 15 0) (closeGroup t s)

def execBarrier (table : Nat) (s : State) : Host.Outcome State Fault Refusal := .next (barrierMove table s)

def roundsOver (tb : Table) : Bool := tb.rounds.all (·.done)

def waitRounds (t : Nat) (s : State) : State :=
  match frontMove t 3 s with
  | none => s
  | some (tb, _) =>
    let s := closeGroup t s
    if roundsOver tb then retireMove t s else waitMove t false s

def execWaitRounds (table : Nat) (s : State) : Host.Outcome State Fault Refusal := .next (waitRounds table s)

def phaseSet (t : Nat) (s : State) : State :=
  match frontMove t 4 s with
  | none => s
  | some (_, m) => retireMove t (modTable t (fun tb => { tb with phase := fld (wd m 0) 2 0 }) s)

def execPhaseSet (table : Nat) (s : State) : Host.Outcome State Fault Refusal := .next (phaseSet table s)

/-! ### ROUND_OPEN (R204, R211, R213) -/

def roundSpecOf (m : List W64) : RoundSpec :=
  let w := wd m
  { kind := fld (w 0) 55 53, op := fld (w 0) 52 50, bank := bitAt (w 0) 49, narrow := bitAt (w 0) 48, keeper := bitAt (w 0) 47
    rslot := fld (w 0) 43 36, resFmt := fld (w 0) 35 28, inFmt := fld (w 0) 27 20, root := fld (w 0) 19 0, round := fld (w 1) 63 32
    paramBase := fld (w 1) 31 0, elems := fld (w 2) 34 0, foldRows := fld (w 3) 63 40, foldCols := fld (w 3) 39 16 }

/-- The round breaks R120, R153, R154 or the parameter range of R211 under a board. -/
def roundInvalid (b : Board) (c : RoundSpec) : Bool :=
  let n := max 1 b.seats.length
  let m := c.foldRows * c.foldCols
  (c.foldRows ≠ 0 && (m ≠ c.elems || b.nspecs.any fun x => x.enable && x.foldRank ≠ 0 && m < 2 * (x.foldRank * (c.foldRows + c.foldCols)))) ||
  ((c.kind = 2 || c.kind = 3) && c.elems % n ≠ 0) ||
  ((c.kind = 0 || c.kind = 4) && !b.seats.any fun e => e.seat = c.root) ||
  (c.keeper && b.params < c.paramBase * 1024 + c.elems)

/-- The slots of a boundary cannot take the extent (R114). -/
def extentPasses (tb : Table) (n : NSpec) (c : RoundSpec) : Bool :=
  let mine := tb.resid.filter fun x => x.boardNum = tb.boardNum && x.boundary = n.boundary
  let others := ((mine.filter fun x => x.rslot ≠ c.rslot).map (·.extent)).sum
  n.residCap * 1048576 < others + max (extentOf n c) (findResid tb tb.boardNum n.boundary c.rslot).extent

/-- The first sequencer from a number on that has a place (R161). -/
def freeSeq (s : State) (i : Nat) : Nat :=
  let held := fun q => (s.tables.map fun t => (t.rounds.filter fun r => !r.done && r.seqr = q).length).sum
  (((List.range 8).map fun k => (i + k) % 8).find? fun q => held q < 2048).getD (i % 8)

def newRound (tb : Table) (c : RoundSpec) (s : State) : Round :=
  let pip := isPip c
  let r : Round :=
    { spec := c, board := tb.board, epoch := tb.epoch, turn := tb.turn, phase := tb.phase, pip := pip
      chunkLen := if pip then 1024 else 32 * (32 + freeVal s % 2017), seqr := freeSeq s (freeVal (freeNext s) % 8), tOpen := now s
      tv := (tb.keeper.map (·.vals)).getD {}
      clipped := c.keeper && tb.phase ≠ 1 && tb.phase ≠ 3 && isCrown tb && tb.keeper.any fun k => clips k.vals.clip }
  match upSpec tb r with
  | none => r
  | some n =>
    let cnt : NarrowCnt :=
      { boundary := n.boundary, format := if folds r n then 1 else n.format, feedback := n.feedback
        rotate := n.rotate && !folds r n, folded := folds r n }
    { r with narrowCnt := some cnt }

/-- A clipped KEEPER round joins the open clip group, or opens one (R274). -/
def joinGroup (rid clip : Nat) (gs : List ClipGroup) : List ClipGroup :=
  if gs.any (fun g => !g.closed) then gs.map fun g => if g.closed then g else { g with rounds := g.rounds ++ [rid] }
  else gs ++ [{ rounds := [rid], clip := clip }]

def roundOpen (t : Nat) (s : State) : State :=
  match frontMove t 0x10 s with
  | none => s
  | some (tb, m) =>
    let c := roundSpecOf m
    if roundInvalid tb.board c then haltMove t 3 s
    else
      let r := newRound tb c s
      let up := upSpec tb r
      if up.any (fun n => extentPasses tb n c) then haltMove t 2 s
      else if 16384 ≤ openRounds s then waitMove t true s
      else
        let s := freeNext (freeNext s)
        let s := modTable t (fun tb => { tb with rounds := tb.rounds ++ [r], lastOpened := some c.round }) s
        let s := match up with
          | some n =>
            let x := findResid tb tb.boardNum n.boundary c.rslot
            setResid t { x with extent := max x.extent (extentOf n c) } s
          | none => s
        let s := retireMove t s
        let s := if r.clipped then modKeeper t (fun k => { k with groups := joinGroup c.round k.vals.clip k.groups }) s else s
        let sl := ownSlice tb r
        let s := if c.keeper && isCrown tb then
            if tb.keeper.any (fun k => k.dbl.state = 3) then failRound t c.round stAborted 0 false 0 none s
            else
              let s := takeEarly t c.round s
              commitAll t (if sl.1 = sl.2 then sendReady tb r true 0 s else s)
          else s
        checkDone t c.round s

def execRoundOpen (table : Nat) (s : State) : Host.Outcome State Fault Refusal := .next (roundOpen table s)

/-! ### RESID_CLEAR, KEEPER_TURN, CHECKPOINT -/

def residClear (t : Nat) (s : State) : State :=
  match frontMove t 0x11 s with
  | none => s
  | some (_, m) =>
    let clear := fun (tb : Table) =>
      ({ boardNum := tb.boardNum, rslot := fld (wd m 0) 43 36, mask := fld (wd m 0) 2 0, upTo := tb.lastOpened.getD 0 } : RClear)
    let s := modTable t (fun tb => { tb with clears := tb.clears ++ [clear tb] }) s
    drain (applyClears t (retireMove t s))

def execResidClear (table : Nat) (s : State) : Host.Outcome State Fault Refusal := .next (residClear table s)

/-- KEEPER_TURN (R278, R286). A stopped Keeper keeps its state as it stands and feeds nothing (R308). -/
def keeperTurn (t : Nat) (s : State) : State :=
  match frontMove t 0x20 s with
  | none => s
  | some (tb, m) =>
    let s := retireMove t s
    match tb.keeper with
    | none => s
    | some k =>
      if k.dbl.state = 3 then s else
      let tv := formVals k.spec (tb.phase = 1) tb.turn (fld (wd m 1) 63 32) (fld (wd m 1) 31 0) (fld (wd m 2) 63 32) k.step k.b1pow k.b2pow
      let s := modKeeper t (fun k => { k with vals := tv, step := tv.step, b1pow := tv.b1pow, b2pow := tv.b2pow }) s
      if isCrown tb then
        let s := modKeeper t (fun k => { k with turns := k.turns ++ [{ vals := tv }] }) s
        feedRecord t tb.turn (feedHdrBytes { table := t, type := 2, member := tb.member, turn := tb.turn } ++ turnData tv 0) s
      else s

def execKeeperTurn (table : Nat) (s : State) : Host.Outcome State Fault Refusal := .next (keeperTurn table s)

/-- CHECKPOINT: it takes the place of a hazard checkpoint of the same turn (R214, R315). -/
def checkpointMove (t : Nat) (s : State) : State :=
  match frontMove t 0x21 s with
  | none => s
  | some (tb, m) =>
    let s := closeGroup t s
    retireMove t (modKeeper t (fun k => { k with
      ckptReq := (k.ckptReq.filter fun c => c.turn ≠ tb.turn) ++ [{ turn := tb.turn, target := fld (wd m 0) 3 0, hazard := false }] }) s)

def execCheckpoint (table : Nat) (s : State) : Host.Outcome State Fault Refusal := .next (checkpointMove table s)

/-! ### BOARD_SWITCH, END -/

/-- BOARD_SWITCH (R215). -/
def boardSwitch (t : Nat) (s : State) : State :=
  match frontMove t 0x30 s with
  | none => s
  | some (tb, m) =>
    let s := closeGroup t s
    match tb.other with
    | some (b, n, false) =>
      if b.serial ≠ fld (wd m 0) 15 0 then haltMove t 1 s
      else if 664000000000 < hbmReserved s + residBytes tb b then haltMove t 2 s
      else
        let s := retireMove t s
        let s := modTable t (fun tb => drainBoard { tb with
          board := b, epoch := !tb.epoch, boardNum := n, other := some (tb.board, tb.boardNum, true), switched := true
          oldRing := if tb.switched then tb.oldRing else tb.board.ring
          oldParams := if tb.switched then tb.oldParams else tb.board.params }) s
        match findTable s t with
        | some tb => tableRecord 1 tb.turn tb s
        | none => s
    | _ => waitMove t false s

def execBoardSwitch (table : Nat) (s : State) : Host.Outcome State Fault Refusal := .next (boardSwitch table s)

/-- END (R219). -/
def endMove (t : Nat) (s : State) : State :=
  match frontMove t 0x3F s with
  | none => s
  | some (tb, _) =>
    let s := turnDue t (closeGroup t (modTable t (fun tb => { tb with closing := true }) s))
    if roundsOver tb then closeTable t (retireMove t s) else waitMove t false s

def execEndMove (table : Nat) (s : State) : Host.Outcome State Fault Refusal := .next (endMove table s)

/-! ### RELEASE (R253 to R256) -/

/-- The ring neighbour to which a RELEASE is passed: the one it did not come from, unless that is position 0. -/
def passRing (tb : Table) (from_ : Option Nat) : List Nat :=
  let C := tb.board.ring.length
  if !isCrown tb || C < 2 then [] else
  let nb := if from_ = some (eidOf tb (succOf tb tb.board)) then predOf tb tb.board else succOf tb tb.board
  if some nb = tb.board.ring.head? || from_ = some (eidOf tb nb) then [] else [nb]

def releaseIn (l : Nat) (ws : List W64) (s : State) : State :=
  let b := barrierPkt ws
  match findTable s b.table with
  | none => pipDrop l s
  | some tb =>
    if tb.halt ≠ 0 || !tb.bar.joined || tb.bar.releaseAt.isSome || tb.bar.turn ≠ b.turn || tb.bar.seq ≠ b.seq then s
    else
      let s := modBar b.table (fun q => { q with releaseAt := some b.value, lastAt := b.value }) s
      let s := pipSend (portOf l) ((passRing tb (neighbourOn tb tb.board l s)).map (eidOf tb) ++ below tb) ws s
      if b.value ≤ now s then releaseBarrier b.table s else s

def execRelease (link : Nat) (flit : List W64) (s : State) : Host.Outcome State Fault Refusal :=
  .next (pipArrive link 3 flit (releaseIn link flit) s)

/-- BARRIER_RELEASE: device time reaches RELEASE_AT (R255). -/
def barrierRelease (t : Nat) (s : State) : State :=
  match (findTable s t).bind (·.bar.releaseAt) with
  | none => s
  | some a => releaseBarrier t (advanceTo a s)

def execBarrierRelease (table : Nat) (s : State) : Host.Outcome State Fault Refusal :=
  .next (if live s then barrierRelease table s else s)

end Sys2Proof.Machine
end

