-- ==== Sys2Proof/Machine/Storage.lean ====
section
/-! DEFINITION. Sending through the host ports (14) and the storage engine: next hops, STORE_HDR, issuing and resending
operations, and what a REPLY or DATA datagram says. -/

namespace Sys2Proof.Machine
open Sys2Proof

/-! ### Next hops (R458) -/

/-- An address in one form: IPv4 in IPv4-mapped form. -/
def normIp (ip : Nat) : Nat := if ip < 2 ^ 32 then 0xFFFF * 2 ^ 32 + ip else ip

def isV4 (ip : Nat) : Bool := normIp ip / 2 ^ 32 = 0xFFFF

/-- The next hop to an address on a port: the address itself within the port's prefix, otherwise the gateway. -/
def nextHop (s : State) (p ip : Nat) : Option Nat :=
  let c := (getHost s p).cfg
  let ip := normIp ip
  if isV4 ip then
    if c.v4Prefix = 0 then none
    else if ip % 2 ^ 32 / 2 ^ (32 - c.v4Prefix) = c.ipv4 / 2 ^ (32 - c.v4Prefix) then some ip
    else if s.ident.gateway4 = 0 then none else some (normIp s.ident.gateway4)
  else
    if c.v6Prefix = 0 then none
    else if ip / 2 ^ (128 - c.v6Prefix) = c.ipv6 / 2 ^ (128 - c.v6Prefix) then some ip
    else if s.ident.gateway6 = 0 then none else some s.ident.gateway6

/-- A datagram waits on a port for its next hop. -/
def holdUdp (p : Nat) (d : Nat × Source × Nat × List Byte) : State → State :=
  modHost p (fun h => { h with held := if h.held.contains d then h.held else h.held ++ [d] })

/-- Send a UDP datagram to an address: once its next hop is resolved, otherwise the resolution is asked for and the datagram
waits. -/
def sendUdp (p ip udp srcUdp : Nat) (payload : List Byte) (s : State) : State :=
  match nextHop s p ip with
  | none => s
  | some h => match (getHost s p).neighbours.find? fun n => normIp n.1 = h with
    | some n => sendOn p (.datagram { port := p, mac := n.2, ip := normIp ip, udp := udp } srcUdp payload) s
    | none => if hostUp s p then
        holdUdp p (h, { port := p, mac := 0, ip := normIp ip, udp := udp }, srcUdp, payload) (sendOn p (.resolve p h) s)
      else s

/-! ### Targets and keys (Table 10-7, R465) -/

def getTarget (s : State) (i : Nat) : Target := s.targets.getD i {}
def tgtUdp (g : Target) : Nat := fld g.w0 63 48
def tgtValid (g : Target) : Bool := bitAt g.w0 47
def tgtVerify (g : Target) : Bool := bitAt g.w0 46
def tgtNet (g : Target) : Nat := fld g.w0 45 44
def tgtIp (g : Target) : Nat := normIp (g.w2.toNat + 2 ^ 64 * g.w3.toNat)

/-- Up ports that serve a target (R469). -/
def tgtPorts (s : State) (g : Target) : List Nat :=
  if !tgtValid g then [] else
  let ps := if tgtNet g = 0 then [0, 1, 2, 3] else if tgtNet g = 1 then [4, 5, 6, 7] else List.range 8
  ps.filter (hostUp s)

/-- Key of a named object. -/
def namedKey (g : Target) (table slot obj : Nat) (shard : Option (Nat × Nat)) : List Byte :=
  leBytes 8 g.w1.toNat ++ leBytes 2 table ++ leBytes 1 slot ++ leBytes 1 obj ++
    match shard with
    | some (pos, turn) => leBytes 4 pos ++ leBytes 6 turn ++ List.replicate 10 0
    | none => List.replicate 20 0

/-! ### STORE_HDR (Table 14-4) -/

def storeHdr (oper reqId : Nat) (named : Bool) (offset length total : Nat) (key : List Byte) : List Byte :=
  bytesOf [mkW [(63, 56, 1), (55, 52, oper), (47, 47, b2n named), (31, 0, reqId)], mkW [(63, 0, offset)], mkW [(63, 32, length)],
           mkW [(63, 0, total)]] ++ padTo 32 key

/-- An object in datagrams of 8,192 bytes at ascending OFFSET. -/
def putParts (o : StoreOp) : Nat → Nat → List Byte → List (List Byte)
  | 0, _, _ => []
  | n + 1, off, bs =>
    let d := bs.take 8192
    (storeHdr o.oper o.reqId o.named off d.length o.data.length o.key ++ d) ::
      if bs.length ≤ 8192 then [] else putParts o n (off + 8192) (bs.drop 8192)

/-- Runs of bytes that have not arrived, each of at most 8,192. -/
def gapRuns : Nat → List (Option Byte) → List (Nat × Nat) → List (Nat × Nat)
  | _, [], acc => acc.reverse
  | i, b :: bs, acc => match b with
    | some _ => gapRuns (i + 1) bs acc
    | none => match acc with
      | (o, n) :: more => if o + n = i && n < 8192 then gapRuns (i + 1) bs ((o, n + 1) :: more) else gapRuns (i + 1) bs ((i, 1) :: acc)
      | [] => gapRuns (i + 1) bs [(i, 1)]

/-- The datagrams of an operation as it is sent (Table 14-5): a GET asks for what is missing. -/
def opDatagrams (o : StoreOp) : List (List Byte) :=
  if o.oper = 1 || o.oper = 3 then putParts o (o.data.length / 8192 + 1) 0 o.data
  else if o.oper = 0 then [storeHdr 0 o.reqId o.named 0 0 0 o.key]
  else match o.got with
    | none => [storeHdr o.oper o.reqId o.named 0 0 0 o.key]
    | some b => (gapRuns 0 b []).map fun g => storeHdr o.oper o.reqId o.named g.1 g.2 0 o.key

def modOp (id : Nat) (f : StoreOp → StoreOp) (s : State) : State :=
  { s with store := { s.store with ops := updWhere (fun o => o.reqId = id) f s.store.ops } }

def sendOp (o : StoreOp) (s : State) : State :=
  match o.port with
  | none => s
  | some p =>
    let g := getTarget s o.target
    modOp o.reqId (fun o => { o with last := now s })
      (forAll (opDatagrams o) (fun d => sendUdp p (tgtIp g) (tgtUdp g) 47711 d) s)

/-- Operations of a target that have been sent. -/
def placedOn (s : State) (t : Nat) : Nat := (s.store.ops.filter fun o => o.target = t && o.port.isSome).length

/-- Resends counted for an operation sent again: an object, or its requests (Table 14-8). -/
def resendsOf (o : StoreOp) : Nat := if o.oper = 1 || o.oper = 3 then 1 else (opDatagrams o).length

def countResends (p : Nat) (o : StoreOp) : State → State := modHost p (fun h => { h with storeResends := h.storeResends + resendsOf o })

/-- Place an operation on the next port of the rotation and send it, within 256 of its target (R466, R469); one sent before
is sent again in full. -/
def placeOp (id : Nat) (s : State) : State :=
  match s.store.ops.find? fun o => o.reqId = id with
  | none => s
  | some o =>
    let ps := tgtPorts s (getTarget s o.target)
    if o.port.isSome || 256 ≤ placedOn s o.target || ps.isEmpty then s else
    let p := (ps.find? fun p => s.store.lastPort < p).getD (ps.headD 0)
    let s := { s with store := { s.store with lastPort := p } }
    let again := o.sent
    let o := { o with port := some p, sent := true, since := if o.sent then o.since else now s }
    sendOp o (whenDo again (countResends p o) (modOp id (fun _ => o) s))

/-- Place what can be placed. -/
def pump (s : State) : State := forAll (s.store.ops.filter fun o => o.port.isNone) (fun o => placeOp o.reqId) s

/-- A REQ_ID that no outstanding operation has, from an open value on. -/
def freshReq (s : State) : Nat :=
  let base := freeVal s
  ((List.range (s.store.ops.length + 1)).map (fun i => (base + i) % 2 ^ 32)).find? (fun i => !(s.store.ops.any fun o => o.reqId = i)) |>.getD 0

/-- Begin an operation. -/
def issue (who : StoreFor) (target oper : Nat) (named : Bool) (key data : List Byte) (s : State) : State :=
  let id := freshReq s
  let o : StoreOp := { reqId := id, target := target, oper := oper, named := named, key := key, data := data, port := none
                       since := now s, last := now s, who := who }
  let s := freeNext s
  placeOp id { s with store := { s.store with ops := s.store.ops ++ [o] } }

/-- How an operation ends. -/
inductive StoreResult where
  | ok (data : List Byte)
  | absent
  | error
  deriving DecidableEq, Repr, Inhabited

/-- An operation ends: its place goes to the next. -/
def endOp (id : Nat) (s : State) : State := pump { s with store := { s.store with ops := s.store.ops.filter fun o => o.reqId ≠ id } }

/-! ### Replies (R456, R466) -/

def storeStray (p : Nat) : State → State := modHost p (fun h => { h with storeStrays := h.storeStrays + 1 })

/-- The sender of a datagram is a configured target. -/
def fromTarget (s : State) (src : Source) : Bool := s.targets.any fun g => tgtValid g && tgtIp g = normIp src.ip && tgtUdp g = src.udp

/-- A REPLY or DATA datagram holds together (Table 14-4). -/
def replyOk (d : List Byte) : Bool :=
  let w := payW d
  64 ≤ d.length && fld (w 0) 63 56 = 1 && (fld (w 0) 55 52 = 5 || fld (w 0) 55 52 = 6) && fld (w 0) 51 48 ≤ 2 && fld (w 0) 46 32 = 0 &&
  fld (w 2) 31 0 = 0 && fld (w 2) 63 32 = d.length - 64 && fld (w 2) 63 32 ≤ 8192 && (w 3).toNat ≤ 16777216

/-- Take a reply: which operation it ends, and how; DATA that leaves bytes missing ends none. -/
def replyIn (src : Source) (d : List Byte) (s : State) : Option (StoreFor × StoreResult) × State :=
  let w := payW d
  let id := fld (w 0) 31 0
  match s.store.ops.find? fun o => o.reqId = id && o.sent with
  | none => (none, storeStray src.port s)
  | some o =>
    let g := getTarget s o.target
    let get := o.oper = 2 || o.oper = 4
    if !replyOk d || tgtIp g ≠ normIp src.ip || tgtUdp g ≠ src.udp || slice d 32 32 ≠ padTo 32 o.key ||
        bitAt (w 0) 47 ≠ o.named || (fld (w 0) 55 52 = 6) ≠ get then (none, storeStray src.port s)
    else
      let st := fld (w 0) 51 48
      if st = 2 then (some (o.who, .error), endOp id s)
      else if st = 1 then (some (o.who, .absent), endOp id s)
      else if !get then (some (o.who, .ok []), endOp id s)
      else
        let total := (w 3).toNat
        let off := (w 1).toNat
        let data := d.drop 64
        let old := o.got.getD (List.replicate total none)
        if old.length ≠ total || total < off + data.length then (none, storeStray src.port s)
        else
          let new := overlay old off data
          if new.all Option.isSome then (some (o.who, .ok (new.map fun b => b.getD 0)), endOp id s)
          else (none, modOp id (fun o => { o with got := some new, last := if new = old then o.last else now s }) s)

/-- Send an operation again after 100 ms (R466). -/
def retryOp (id : Nat) (s : State) : State :=
  match s.store.ops.find? fun o => o.reqId = id with
  | none => s
  | some o => match o.port with
    | none => s
    | some p =>
      let s := advanceTo (o.last + 100000000) s
      sendOp o (countResends p o s)

/-- A port goes down: what was placed on it is sent again in full on the next port (R469). -/
def replaceOps (p : Nat) (s : State) : State :=
  let mine := s.store.ops.filter fun o => o.port = some p
  let s := forAll mine (fun o => modOp o.reqId (fun o => { o with port := none, got := none })) s
  pump s

end Sys2Proof.Machine
end

