-- ==== Sys2Proof/Machine/DoubleOps.lean ====
section
/-! DEFINITION. Operations on doubles (10): the double that a key names, its slots, its gradient log, and the replay of a
turn. -/

namespace Sys2Proof.Machine
open Sys2Proof

/-! ### Keys (R655) -/

def attached (d : Double) : Bool := d.state ≠ 4

/-- The attached double of a key. -/
def attachedOf (s : State) (prim table : Nat) : Option Double :=
  s.doubles.find? fun d => d.primary = prim && d.table = table && attached d

/-- The detached double of a key that was detached last. -/
def detachedOf (s : State) (prim table : Nat) : Option Double :=
  let ds := s.doubles.filter fun d => d.primary = prim && d.table = table && !attached d
  ds.find? fun d => ds.all fun e => e.order ≤ d.order

/-- The double that a key names. -/
def doubleOf (s : State) (prim table : Nat) : Option Double := (attachedOf s prim table).or (detachedOf s prim table)

def modDouble (prim table : Nat) (f : Double → Double) (s : State) : State :=
  { s with doubles := updWhere (fun d => d.primary = prim && d.table = table && attached d) f s.doubles }

/-- Remove a double: the one of its key and order. -/
def removeDouble (d : Double) (s : State) : State :=
  { s with doubles := s.doubles.filter fun e => !(e.primary = d.primary && e.table = d.table && e.order = d.order) }

/-! ### Slots (R299, R300) -/

def slotOf (d : Double) (i : Nat) : DSlot := d.slots.getD i {}

/-- The source slot: the VALID slot with the newer tag; OPENING counts as older than any tag. -/
def sourceSlot (d : Double) : Option Nat :=
  let age := fun i => let x := slotOf d i
    if x.opening then 0 else x.tag + 1
  match (slotOf d 0).valid, (slotOf d 1).valid with
  | true, true => some (if age 0 < age 1 then 1 else 0)
  | true, false => some 0
  | false, true => some 1
  | false, false => none

def modSlot (i : Nat) (f : DSlot → DSlot) (d : Double) : Double := { d with slots := modAt d.slots i f }

/-- No turn has been replayed into the slots since the double was opened: what REBUILD brings waits for RESTORE_GO or the
first TURN record (log 17). -/
def freshDouble (d : Double) : Bool := (d.reused && !d.adopted) || (slotOf d 0).opening

/-- Take staged parameters into both slots as the state after a turn (R328); STEP and the powers are the primary's after that
turn (log 35). -/
def adoptStaged (turn : Nat) (d : Double) : Double :=
  let v := Config.valsAfter d.primary d.table turn
  { d with
    slots := d.slots.map fun x => { x with
      tag := turn, opening := false, valid := true, params := d.staged
      step := v 0 % 2 ^ 48, b1pow := v 1 % 2 ^ 32, b2pow := v 2 % 2 ^ 32 }
    staged := [], adopted := true }

/-- Step 1 of R300, once the destination is not held (R305). -/
def startReplay (d : Double) : Double :=
  match d.log, sourceSlot d with
  | some l, some i =>
    if l.started || l.vals.isNone || (slotOf d (1 - i)).held then d
    else { modSlot (1 - i) (fun x => { x with valid := false, opening := false }) d with log := some { l with started := true } }
  | _, _ => d

/-! ### The gradient log (R287, R288, R303) -/

def emptyLog (h : FeedHdr) : GradLog := { turn := h.turn, member := h.member }

/-- Values of a turn as a partner forms them from its TURN record (R300 step 2). -/
def recordVals (sp : KSpec) (turn : Nat) (data : List Byte) : TurnVals :=
  formVals sp true turn (leAt data 0 4) (leAt data 4 4) 0 (leAt data 16 8) (canonF fp32 (leAt data 8 4)) (canonF fp32 (leAt data 12 4))

/-- Add a record to a log. -/
def logRecord (sp : KSpec) (bytes : List Byte) (l : GradLog) : GradLog :=
  let h := feedHdrOf bytes
  let data := bytes.drop 32
  let l := { l with records := l.records ++ [bytes] }
  if h.type = 0 then
    { l with grads := l.grads ++ (List.range h.count).map fun i => (h.round, h.param + i, leAt data (2 * i) 2, false) }
  else if h.type = 3 then
    { l with grads := l.grads ++ (List.range h.count).map fun i => (h.round, h.param + i, leAt data (4 * i) 4, true) }
  else if h.type = 1 then { l with commits := l.commits ++ [(h.round, h.clipC, h.n)] }
  else if h.done then { l with fed := some (leAt data 24 8) }
  else { l with vals := some (recordVals sp h.turn data) }

/-- Values held of a round. -/
def roundGrads (l : GradLog) (r : Nat) : List (Nat × Nat × Nat × Bool) := l.grads.filter fun g => g.1 = r

/-- The forwarded gradient of a round is complete (R288). -/
def roundHeld (l : GradLog) (r : Nat) : Bool := l.commits.any fun c => c.1 = r && c.2.2 = (roundGrads l r).length

/-- Rounds whose gradient has become complete are noted as applied. -/
def noteApplied (l : GradLog) : GradLog :=
  { l with applied := sortN ((l.commits.map (·.1)).filter (roundHeld l)) }

/-- Everything of the turn is held (R300 steps 3 and 4): every value that the turn forwarded, and every round of which a
value or the COMMIT is held is complete. -/
def logComplete (l : GradLog) : Bool :=
  l.vals.isSome && l.fed = some l.grads.length && (l.commits.all fun c => roundHeld l c.1) &&
    l.grads.all fun g => roundHeld l g.1

/-- Parameters that the turn wrote. -/
def writtenBy (l : GradLog) : List Nat := sortN (l.grads.map (·.2.1))

/-! ### Replay (R300, R301) -/

/-- Apply a round's values to parameters, in ascending index. -/
def applyRound (sp : KSpec) (tv : TurnVals) (c : Nat) (gs : List (Nat × Nat × Nat × Bool)) (ps : List KParam) : List KParam :=
  gs.foldl (fun ps g =>
    let p := getP ps g.2.1
    putP ps (if g.2.2.2 then loadParam tv.turn g.2.2.1 p else updateParam sp tv c g.2.2.1 p).p) ps

/-- State digest of a round: of every parameter of its slice that is not damaged at the primary, for those are what it
forwarded (log 92). -/
def roundDigest (sp : KSpec) (gs : List (Nat × Nat × Nat × Bool)) (ps : List KParam) : Nat :=
  (crc64 ((sortN (gs.map (·.2.1))).flatMap fun i => stateBytes sp.rule (getP ps i))).toNat

/-- Replay a turn from source parameters: the parameters after it, and the turn digest. -/
def replayTurn (sp : KSpec) (l : GradLog) (src : List KParam) : List KParam × Nat :=
  let tv := l.vals.getD {}
  let rs := sortN (l.commits.map (·.1))
  let (ps, ds) := rs.foldl (fun (acc : List KParam × List (Nat × Nat)) r =>
    let c := ((l.commits.find? fun c => c.1 = r).map (·.2.1)).getD 0
    let gs := roundGrads l r
    let ps := applyRound sp tv c gs acc.1
    (ps, acc.2 ++ [(r, roundDigest sp gs ps)])) (src, [])
  (ps, turnDigest ds tv)

end Sys2Proof.Machine
end

