-- ==== Sys2Proof/Machine/Checkpoint.lean ====
section
/-! DEFINITION. Checkpoints (10): the shard write-out at a partner, the manifest and commit record at ring position 0, and
the commands SHARD_WRITE_DONE, SHARD_DONE, MANIFEST_DURABLE, COMMIT_DURABLE, SLOT_RELEASE, CHECKPOINT_ABANDON_TIMEOUT and
SLOT_SELF_RELEASE. -/

namespace Sys2Proof.Machine
open Sys2Proof

/-- A DOUBLE_CTL flit arrives bare or wrapped; one that is not laid out right is dropped and counted (Table 10-2), and in
Pawn mode every one is dropped (R560). -/
def ctlArrive (l ctl : Nat) (ws : List W64) (f : Ctl → State → State) (s : State) : State :=
  let s := takeKFlit l ws s
  if !live s then s
  else if !ctlFlitOk ws then protoError l s
  else if s.pawn.cause ≠ 0 then selfDrop s
  else if (ctlOf ws).ctl = ctl then f (ctlOf ws) s else s

/-! ### The shard at a partner (R318, R319) -/

/-- The double of a key that writes a shard out. -/
def outDouble (s : State) (prim table : Nat) : Option Double :=
  let ds := s.doubles.filter fun d => d.primary = prim && d.table = table && d.out.isSome
  (ds.find? attached).or ds.head?

/-- Update one double, attached or detached. -/
def modThis (d : Double) (f : Double → Double) (s : State) : State :=
  { s with doubles := updWhere (fun e => e.primary = d.primary && e.table = d.table && e.order = d.order) f s.doubles }

/-- A range entry of a manifest (Table 10-9). -/
def rangeEntry (shard : Nat) (r : Nat × Nat) : List Byte := bytesOf [mkW [(63, 58, shard), (40, 0, r.1)], mkW [(40, 0, r.2)]]

/-- The shard report object: its shard entry and its range entries (Table 10-8 step 2). -/
def shardReport (self : Nat) (o : ShardOut) : List Byte :=
  bytesOf [mkW [(63, 44, o.member), (43, 38, o.ringPos), (37, 17, self)], mkW [(63, 0, o.image.length)],
           mkW [(63, 32, ceilDiv o.image.length 1048576), (31, 0, o.ranges.length)], 0] ++
    sm3 o.index ++ o.ranges.flatMap (rangeEntry o.ringPos)

/-- Chunk that is under way. -/
def outChunk (o : ShardOut) : List Byte := (imageChunks o.image).getD o.next []

/-- Begin the storage operation of a write-out's stage. -/
def shardIssue (d : Double) (o : ShardOut) (s : State) : State :=
  let w := StoreFor.shard d.primary d.table
  let s := modThis d (fun d => { d with out := some o }) s
  if o.stage = 0 then issue w o.target 0 false (sm3 (outChunk o)) [] s
  else if o.stage = 1 then issue w o.target 1 false (sm3 (outChunk o)) (outChunk o) s
  else if o.stage = 2 then issue w o.target 2 false (sm3 (outChunk o)) [] s
  else if o.stage = 3 then issue w o.target 1 false (sm3 o.index) o.index s
  else if o.stage = 5 then issue w o.target 3 true (namedKey (getTarget s o.target) d.table 0 3 (some (o.ringPos, o.turn))) o.report s
  else s

/-- Go on to a chunk, or to the index object after the last. -/
def shardChunk (d : Double) (o : ShardOut) (next : Nat) (s : State) : State :=
  shardIssue d { o with next := next, stage := if 1048576 * next < o.image.length then 0 else 3 } s

/-- Tell the primary how the shard came out. -/
def sendShardDone (d : Double) (o : ShardOut) (code : Nat) : State → State :=
  sendCtl d.primary { ctl := 10, code := code, pos := o.ringPos, table := d.table, prim := d.primary, turn := o.turn
                      a := (crc64 o.report).toNat, b := o.image.length }

/-- A write-out fails: the checkpoint is abandoned here; the slot stays held until it is released. -/
def shardFail (d : Double) (o : ShardOut) (s : State) : State :=
  sendShardDone d o 1 (modThis d (fun d => { d with out := some { o with stage := 7 }, abandoned := d.abandoned + 1 }) s)

/-- The slot that is VALID with a turn's tag. -/
def taggedSlot (d : Double) (turn : Nat) : Option Nat :=
  [0, 1].find? fun i => let x := slotOf d i
    x.valid && !x.opening && x.tag = turn

/-- Start the write-out of the slot tagged with a turn, over the parameters whose home the primary was at its end, once no
earlier one is in flight (R318 to R320). It fails where a word of theirs has failed (R28). -/
def beginShard (d : Double) (turn target since : Nat) (ps : List KParam) (s : State) : State :=
  if d.out.isSome then modThis d (fun d => { d with ckptReq := d.ckptReq ++ [(turn, target, since, ps)] }) s
  else match taggedSlot d turn with
  | none => s
  | some i =>
    let img := shardImage d.spec.rule ps (runsOf ps)
    let o : ShardOut :=
      { turn := turn, target := target, slot := i, since := since, image := img, ranges := runsOf ps, member := d.member
        ringPos := Config.ringPosOf d.primary d.table turn % 64, index := indexObject img }
    let s := modThis d (modSlot i fun x => { x with held := true }) s
    if ps.any (fun p => d.marks.contains p.param) then shardFail d { o with image := [], ranges := [], index := [] } s
    else shardChunk d o 0 (wroteWord 2 11 s)

/-- An operation of a write-out ends. -/
def shardResult (prim table : Nat) (r : StoreResult) (s : State) : State :=
  match outDouble s prim table with
  | none => s
  | some d => match d.out with
    | none => s
    | some o =>
      match o.stage, r with
      | 0, .ok _ =>
        let d' := { d with dedup := d.dedup + (outChunk o).length }
        shardChunk d' o (o.next + 1) (modThis d (fun _ => d') s)
      | 0, .absent => shardIssue d { o with stage := 1 } s
      | 1, .ok _ => if tgtVerify (getTarget s o.target) then shardIssue d { o with stage := 2 } s else shardChunk d o (o.next + 1) s
      | 2, .ok data => if sm3 data = sm3 (outChunk o) then shardChunk d o (o.next + 1) s else shardFail d o s
      | 3, .ok _ => modThis d (fun d => { d with out := some { o with stage := 4 } }) s
      | 5, .ok _ => sendShardDone d o 0 (modThis d (fun d => { d with out := some { o with stage := 6 } }) s)
      | _, _ => shardFail d o s

/-- SHARD_WRITE_DONE: the index object is durable, and the report is put. -/
def shardWritten (prim table : Nat) (s : State) : State :=
  match outDouble s prim table with
  | none => s
  | some d => match d.out with
    | none => s
    | some o => if o.stage = 4 then shardIssue d { o with stage := 5, report := shardReport s.ident.eid o } s else s

def execShardWriteDone (primary table : Nat) (s : State) : Host.Outcome State Fault Refusal :=
  .next (if cpRuns s then shardWritten primary table s else s)

/-- The held slot is released: replays resume, and the next checkpoint that waits starts (R305, R320). -/
def releaseSlot (d : Double) (s : State) : State :=
  match d.out with
  | none => s
  | some o =>
    let s := dropStore (fun w => w = .shard d.primary d.table) s
    let d := { modSlot o.slot (fun x => { x with held := false }) d with out := none }
    match d.ckptReq with
    | [] => modThis d (fun _ => startReplay d) s
    | (turn, target, since, ps) :: rest =>
      let d := { d with ckptReq := rest }
      let s := modThis d (fun _ => d) s
      let s := beginShard d turn target since ps s
      { s with doubles := updWhere (fun e => e.primary = d.primary && e.table = d.table && e.order = d.order) startReplay s.doubles }

/-- SLOT_SELF_RELEASE: 660 s after the verdict of the turn. -/
def selfRelease (prim table : Nat) (s : State) : State :=
  match outDouble s prim table with
  | none => s
  | some d => match d.out with
    | none => s
    | some o =>
      let d := { d with abandoned := d.abandoned + b2n (o.stage ≠ 7) }
      releaseSlot d (advanceTo (o.since + 660000000000) s)

def execSlotSelfRelease (primary table : Nat) (s : State) : Host.Outcome State Fault Refusal :=
  .next (if live s then selfRelease primary table s else s)

/-! ### Manifests and commit records (R322 to R324) -/

def manShards (man : List Byte) : Nat := fld (payW man 6) 22 16
def manRanges (man : List Byte) : Nat := fld (payW man 7) 63 32
def manParams (man : List Byte) : Nat := fld (payW man 6) 63 23
def manTurn (man : List Byte) : Nat := fld (payW man 1) 63 16

/-- Shard entry i. -/
def manShard (man : List Byte) (i : Nat) : List Byte := slice man (128 + 64 * i) 64

/-- Range entries: shard index, first parameter, count. -/
def manRangeList (man : List Byte) : List (Nat × Nat × Nat) :=
  (List.range (manRanges man)).map fun j =>
    let e := slice man (128 + 64 * manShards man + 16 * j) 16
    (fld (payW e 0) 63 58, fld (payW e 0) 40 0, fld (payW e 1) 40 0)

/-- Where the signer block begins. -/
def manSigner (man : List Byte) : Nat := 128 + 64 * manShards man + 16 * manRanges man

/-- Ranges are disjoint. -/
def rangesApart : List (Nat × Nat) → Bool
  | [] => true
  | r :: rs => rs.all (fun q => r.1 + r.2 ≤ q.1 || q.1 + q.2 ≤ r.1) && rangesApart rs

/-- Ranges are disjoint and cover 0 to n - 1. -/
def rangesCover (n : Nat) (rs : List (Nat × Nat)) : Bool :=
  rangesApart rs && rs.all (fun r => r.1 + r.2 ≤ n) && (rs.map (·.2)).sum = n

/-- SLOT, TABLE_ID, TURN and NAMESPACE agree between the two objects and the target. -/
def slotAgrees (g : Target) (table slot : Nat) (rec man : List Byte) : Bool :=
  let c := payW rec
  let m := payW man
  fld (c 0) 55 55 = slot && fld (m 0) 55 55 = slot && fld (c 0) 25 16 = table && fld (m 0) 25 16 = table &&
  fld (c 1) 63 16 = fld (m 1) 63 16 && c 2 = g.w1 && m 8 = g.w1

/-- A slot exists for restore (R324). -/
def slotExists (g : Target) (table slot : Nat) (rec man : List Byte) : Bool :=
  let at_ := manSigner man
  let key := slice man at_ 64
  let ca := slice man (at_ + 64) 64
  let cert := slice man (at_ + 128) (fld (payW man 12) 31 0)
  rec.length = 128 && slice rec 32 32 = sm3 man && sm3 ca = Config.deviceCaDigest && Config.certSubject cert ca = some key &&
  sm2Verify key (man.take (man.length - 64)) (man.drop (man.length - 64)) && sm2Verify key (rec.take 64) (rec.drop 64) &&
  slotAgrees g table slot rec man && rangesCover (manParams man) ((manRangeList man).map (·.2))

/-- Sign with the device key; without one nothing is signed (R581). -/
def signOwn (s : State) (msg : List Byte) : List Byte :=
  match s.ident.key with
  | some k => sm2Sign k.1 msg
  | none => List.replicate 64 0

/-- The signer block of this GT64 (R322): its key, the CA's key, its certificate. -/
def identBlock (s : State) : List Byte := flashRead s.flash 0 65536
def ownCert (s : State) : List Byte := (Config.deviceCert (identBlock s)).take 2048
def signerBlock (s : State) : List Byte :=
  let key := match s.ident.key with
    | some k => beBytes 32 k.2.1 ++ beBytes 32 k.2.2
    | none => List.replicate 64 0
  key ++ padTo 64 (Config.deviceCaKey (identBlock s)) ++ padTo (up8 (ownCert s).length) (ownCert s)

/-- A manifest over the reports, by rising ring position (Table 10-9). -/
def manifestOf (tb : Table) (k : Keeper) (c : Ckpt) (g : Target) (s : State) : List Byte :=
  let sp := k.spec
  let reps := (List.range 64).filterMap fun i => (c.reports.find? fun r => r.1 = i).map (·.2)
  let ranges := reps.flatMap fun r => r.drop 64
  let head := bytesOf
    [mkW [(63, 56, 1), (55, 55, c.slot), (54, 53, sp.rule), (52, 52, b2n sp.nfSkip), (51, 51, b2n c.hazard), (25, 16, tb.id),
          (15, 0, c.board.1)],
     mkW [(63, 16, c.turn)], mkW [(63, 16, c.vals.step)], mkW [(63, 32, c.vals.b1pow), (31, 0, c.vals.b2pow)],
     mkW [(63, 32, sp.beta1), (31, 0, sp.beta2)], mkW [(63, 32, sp.eps)], mkW [(63, 23, c.board.2.2), (22, 16, reps.length)],
     mkW [(63, 32, ranges.length / 16)], g.w1, mkW [(63, 0, c.board.2.1)], mkW [(63, 0, now s)], mkW [(20, 0, s.ident.eid)],
     mkW [(31, 0, (ownCert s).length)], 0, 0, 0]
  let body := head ++ reps.flatMap (fun r => r.take 64) ++ ranges ++ signerBlock s
  body ++ signOwn s body

/-- A commit record (Table 10-10). -/
def commitOf (tb : Table) (c : Ckpt) (g : Target) (s : State) : List Byte :=
  let body := bytesOf [mkW [(63, 56, 1), (55, 55, c.slot), (25, 16, tb.id)], mkW [(63, 16, c.turn)], g.w1, mkW [(63, 0, now s)]] ++
    sm3 c.manifest
  body ++ signOwn s body

/-- The slot to write into (R321); with neither valid, A. -/
def chooseSlot (g : Target) (table : Nat) (c : Ckpt) : Nat :=
  let obj := fun (l : List (Nat × List Byte)) i => ((l.find? fun e => e.1 = i).map (·.2)).getD []
  let ok := fun i => slotExists g table i (obj c.recs i) (obj c.mans i)
  let turn := fun i => manTurn (obj c.mans i)
  if !ok 0 then 0 else if !ok 1 then 1 else if turn 1 < turn 0 then 1 else 0

/-! ### A checkpoint at ring position 0 (Table 10-8) -/

def modCkpt (t : Nat) (f : Ckpt → Ckpt) : State → State := modKeeper t (fun k => { k with ckpt := k.ckpt.map f })

def ckptOf (s : State) (t : Nat) : Option (Table × Keeper × Ckpt) :=
  match findTable s t with
  | none => none
  | some tb => match tb.keeper with
    | none => none
    | some k => k.ckpt.map fun c => (tb, k, c)

/-- Storage work of a checkpoint of a table. -/
def ckptWork (t : Nat) : StoreFor → Bool
  | .report x _ => x = t
  | .slotRec x _ => x = t
  | .slotMan x _ => x = t
  | .removeRec x => x = t
  | .putManifest x => x = t
  | .putCommit x => x = t
  | _ => false

/-- Send SLOT_RELEASE to the ring successor, unless that is position 0, and to the partner. -/
def passRelease (tb : Table) (turn code from_ : Nat) (s : State) : State :=
  let s := if 1 < tb.board.ring.length && some (succOf tb tb.board) ≠ tb.board.ring.head? then
      sendCtl (eidOf tb (succOf tb tb.board)) { ctl := 11, code := code, table := tb.id, prim := from_, turn := turn } s
    else s
  match tb.keeper with
  | some k => sendCtl k.spec.partner { ctl := 11, code := code, table := tb.id, prim := s.ident.eid, turn := turn } s
  | none => s

/-- With every ring position's shard done, the reports are read (step 3). -/
def readReports (t : Nat) (s : State) : State :=
  match ckptOf s t with
  | none => s
  | some (tb, _, c) =>
    let ps := List.range tb.board.ring.length
    if c.stage = 0 && ps.all (fun i => c.shards.any fun x => x.1 = i) then
      forAll ps (fun i s => issue (.report t i) c.target 4 true (namedKey (getTarget s c.target) t 0 3 (some (i, c.turn))) [] s)
        (modCkpt t (fun c => { c with stage := 1 }) s)
    else s

/-- The next checkpoint whose turn has its verdict starts, where none is in flight. -/
def startCkpt (t : Nat) (s : State) : State :=
  match findTable s t with
  | none => s
  | some tb => match tb.keeper with
    | none => s
    | some k =>
      if !isCrown tb || ownPos tb tb.board ≠ 0 || k.ckpt.isSome then s else
      match k.ckptReq.find? fun c => c.since.isSome with
      | none => s
      | some c => readReports t (modKeeper t (fun k => { k with ckpt := some c, ckptReq := k.ckptReq.filter fun x => x.turn ≠ c.turn }) s)

/-- The checkpoint of a turn ends at position 0: committed or abandoned. -/
def endCkpt (t turn code : Nat) (s : State) : State :=
  match findTable s t with
  | none => s
  | some tb =>
    let mine := tb.keeper.any fun k => k.ckpt.any fun c => c.turn = turn
    let s := if mine then dropStore (ckptWork t) s else s
    let s := modKeeper t (fun k => { k with
      ckpt := k.ckpt.filter fun c => c.turn ≠ turn, ckptReq := k.ckptReq.filter fun c => c.turn ≠ turn
      dbl := { k.dbl with committed := k.dbl.committed + b2n (code = 0), abandoned := k.dbl.abandoned + b2n (code ≠ 0) } }) s
    startCkpt t (passRelease tb turn code s.ident.eid s)

/-- A verdict of a turn arrives at a crown member: its checkpoint may start, or is abandoned (R320). -/
def ckptVerdict (t turn code : Nat) (s : State) : State :=
  match (findTable s t).bind (·.keeper) with
  | none => s
  | some k => match k.ckptReq.find? fun c => c.turn = turn with
    | none => s
    | some c =>
      if 2 ≤ code then
        if (findTable s t).any fun tb => isCrown tb && ownPos tb tb.board = 0 then endCkpt t turn 1 s
        else modKeeper t (fun k => { k with
          ckptReq := k.ckptReq.filter fun x => x.turn ≠ turn, dbl := { k.dbl with abandoned := k.dbl.abandoned + 1 } }) s
      else
        let q := (k.turns.find? fun q => q.vals.turn = turn).getD { vals := {} }
        startCkpt t (modKeeper t (fun k => { k with
          ckptReq := updWhere (fun x => x.turn = turn) (fun x => { x with since := some (now s), vals := q.vals, board := q.board }) k.ckptReq
          hazAt := if c.hazard then some (now s) else k.hazAt
          dbl := { k.dbl with hazards := k.dbl.hazards + b2n c.hazard } }) s)

/-- SHARD_DONE at ring position 0. -/
def takeShard (t : Nat) (c : Ctl) (s : State) : State :=
  match (findTable s t).bind (·.keeper) with
  | none => s
  | some k =>
    if !(k.ckpt.toList ++ k.ckptReq).any (fun x => x.turn = c.turn) then s
    else if c.code = 1 then endCkpt t c.turn 1 s
    else
      let add := fun (x : Ckpt) => if x.turn = c.turn then
          { x with shards := (c.pos, c.a, c.b) :: x.shards.filter fun y => y.1 ≠ c.pos } else x
      readReports t (modKeeper t (fun k => { k with ckpt := k.ckpt.map add, ckptReq := k.ckptReq.map add }) s)

/-- SHARD_DONE (Table 10-8 step 2): from the own partner with the own ring position, and passed on round the ring. -/
def shardDoneIn (c : Ctl) (s : State) : State :=
  match findTable s c.table with
  | none => s
  | some tb =>
    if !isCrown tb || tb.keeper.isNone then s else
    let pos := ownPos tb tb.board
    let c := if c.prim = s.ident.eid then { c with pos := pos } else c
    if pos = 0 then takeShard c.table c s else sendCtl (eidOf tb (succOf tb tb.board)) c s

def execShardDone (link : Nat) (flit : List W64) (s : State) : Host.Outcome State Fault Refusal :=
  .next (ctlArrive link 10 flit shardDoneIn s)

/-- Slots as read, or the choice of slot and the removal of its record once both are. -/
def slotsRead (t : Nat) (s : State) : State :=
  match ckptOf s t with
  | none => s
  | some (_, _, c) =>
    if c.stage ≠ 2 || c.mans.length < 2 then s else
    let g := getTarget s c.target
    let slot := chooseSlot g t c
    issue (.removeRec t) c.target 3 true (namedKey g t slot 2 none) [] (modCkpt t (fun c => { c with slot := slot, stage := 3 }) s)

/-- An operation of a checkpoint at ring position 0 ends. -/
def ckptResult (t : Nat) (w : StoreFor) (r : StoreResult) (s : State) : State :=
  match ckptOf s t with
  | none => s
  | some (tb, k, c) =>
    let g := getTarget s c.target
    match w, r with
    | .report _ i, .ok data =>
      if c.stage ≠ 1 then s
      else if !(c.shards.any fun x => x.1 = i && x.2.1 = (crc64 data).toNat) then endCkpt t c.turn 1 s
      else
        let s := modCkpt t (fun c => { c with reports := c.reports ++ [(i, data)] }) s
        if c.reports.length + 1 < tb.board.ring.length then s
        else
          let s := modCkpt t (fun c => { c with stage := 2 }) s
          forAll [0, 1] (fun i s => issue (.slotRec t i) c.target 4 true (namedKey g t i 2 none) [] s) s
    | .slotRec _ i, .ok data =>
      issue (.slotMan t i) c.target 4 true (namedKey g t i 1 none) [] (modCkpt t (fun c => { c with recs := c.recs ++ [(i, data)] }) s)
    | .slotRec _ i, .absent => slotsRead t (modCkpt t (fun c => { c with recs := c.recs ++ [(i, [])], mans := c.mans ++ [(i, [])] }) s)
    | .slotMan _ i, .ok data => slotsRead t (modCkpt t (fun c => { c with mans := c.mans ++ [(i, data)] }) s)
    | .slotMan _ i, .absent => slotsRead t (modCkpt t (fun c => { c with mans := c.mans ++ [(i, [])] }) s)
    | .removeRec _, .ok _ =>
      let m := manifestOf tb k c g s
      issue (.putManifest t) c.target 3 true (namedKey g t c.slot 1 none) m (modCkpt t (fun c => { c with manifest := m, stage := 4 }) s)
    | .putManifest _, .ok _ => modCkpt t (fun c => { c with stage := 5 }) s
    | .putCommit _, .ok _ => modCkpt t (fun c => { c with stage := 7 }) s
    | _, _ => endCkpt t c.turn 1 s

/-- MANIFEST_DURABLE: the commit record is put. -/
def manifestDurable (t : Nat) (s : State) : State :=
  match ckptOf s t with
  | none => s
  | some (tb, _, c) =>
    if c.stage ≠ 5 then s else
    let g := getTarget s c.target
    issue (.putCommit t) c.target 3 true (namedKey g t c.slot 2 none) (commitOf tb c g s) (modCkpt t (fun c => { c with stage := 6 }) s)

def execManifestDurable (table : Nat) (s : State) : Host.Outcome State Fault Refusal :=
  .next (if cpRuns s then manifestDurable table s else s)

/-- COMMIT_DURABLE: the checkpoint has committed. -/
def commitDurable (t : Nat) (s : State) : State :=
  match ckptOf s t with
  | none => s
  | some (_, _, c) => if c.stage = 7 then endCkpt t c.turn 0 s else s

def execCommitDurable (table : Nat) (s : State) : Host.Outcome State Fault Refusal :=
  .next (if cpRuns s then commitDurable table s else s)

/-- CHECKPOINT_ABANDON_TIMEOUT: 600 s after position 0's own verdict of the turn. -/
def ckptTimeout (t : Nat) (s : State) : State :=
  match (findTable s t).bind (·.keeper) with
  | none => s
  | some k => match (k.ckpt.toList ++ k.ckptReq).find? fun c => c.since.isSome with
    | none => s
    | some c =>
      if !(findTable s t).any (fun tb => isCrown tb && ownPos tb tb.board = 0) then s
      else endCkpt t c.turn 1 (advanceTo (c.since.getD 0 + 600000000000) s)

def execCheckpointAbandonTimeout (table : Nat) (s : State) : Host.Outcome State Fault Refusal :=
  .next (if cpRuns s then ckptTimeout table s else s)

/-- SLOT_RELEASE at a partner. -/
def partnerRelease (c : Ctl) (s : State) : State :=
  match attachedOf s c.prim c.table with
  | none => s
  | some d => match d.out with
    | some o => if o.turn ≠ c.turn then s else
        releaseSlot { d with abandoned := d.abandoned + b2n (c.code = 1 && o.stage ≠ 7) } s
    | none => s

/-- SLOT_RELEASE at a crown member other than position 0: it is passed on, and its own checkpoint of the turn ends. -/
def ringRelease (c : Ctl) (s : State) : State :=
  match findTable s c.table with
  | none => s
  | some tb => match tb.keeper with
    | none => s
    | some k =>
      if !isCrown tb || ownPos tb tb.board = 0 || c.prim = s.ident.eid || k.relSeen = some c.turn ||
          (tb.board.ring.head?.map (eidOf tb)).any (fun e => e ≠ 0x1FFFFF && e ≠ c.prim) then s else
      let mine := k.ckptReq.any fun x => x.turn = c.turn
      let s := modKeeper c.table (fun k => { k with
        relSeen := some c.turn, ckptReq := k.ckptReq.filter fun x => x.turn ≠ c.turn
        dbl := { k.dbl with abandoned := k.dbl.abandoned + b2n (mine && c.code = 1) } }) s
      passRelease tb c.turn c.code c.prim s

/-- SLOT_RELEASE, in whichever of the two roles it finds this GT64 (Table 10-8 step 5). -/
def slotReleaseIn (c : Ctl) (s : State) : State := ringRelease c (partnerRelease c s)

def execSlotRelease (link : Nat) (flit : List W64) (s : State) : Host.Outcome State Fault Refusal :=
  .next (ctlArrive link 11 flit slotReleaseIn s)

end Sys2Proof.Machine
end

