-- ==== Sys2Proof/Machine/Doubles.lean ====
section
/-! DEFINITION. Doubles at both ends (10): records, replay, verdicts and tiebreaks, HELLO and CLOSE, PHASE, hazards, and
DoubleSync packets. -/

namespace Sys2Proof.Machine
open Sys2Proof

/-! ### REPAIR and REBUILD (R309 to R312) -/

/-- Write parameters into both slots as the state after a turn (R312). -/
def rebuildBoth (turn : Nat) (ps : List KParam) (d : Double) : Double :=
  { d with slots := d.slots.map fun x => { x with tag := turn, opening := false, valid := true, params := putPs x.params ps } }

/-- Parameters that a REBUILD brings: into the slot of its turn, and into both where a word had failed. -/
def rebuildSlots (turn : Nat) (ps : List KParam) (d : Double) : Double :=
  { d with
    slots := d.slots.map fun x =>
      { x with params := putPs x.params (ps.filter fun p => x.tag = turn || d.marks.contains p.param) }
    marks := d.marks.filter fun m => !(ps.any fun p => p.param = m) }

/-- What a partner does with REBUILD: staged for a restore or a new double, at once while the double is REBUILDING, and
otherwise once the slot of its turn is VALID; none: it waits. -/
def rebuildIn (bytes : List Byte) (d : Double) : Option Double :=
  let h := syncHdrOf bytes
  let ps := syncParams d.spec.rule bytes
  if freshDouble d then some { d with staged := putPs d.staged ps }
  else if d.state = 1 then
    let d := rebuildBoth h.turn ps d
    some { d with
      marks := [], dDbl := none, dPrim := none, early := d.early.filter fun b => h.turn < (feedHdrOf b).turn
      log := d.log.filter fun l => h.turn < l.turn }
  else if (List.range 2).any (fun i => (slotOf d i).valid && (slotOf d i).tag = h.turn) then some (rebuildSlots h.turn ps d)
  else if (List.range 2).any (fun i => (slotOf d i).valid && h.turn < (slotOf d i).tag) then some d
  else none

/-- A DoubleSync packet of a kind arrives; reserved fields are checked by its receiver (R16), and in Pawn mode it is
dropped (R560). -/
def syncArrive (l kind : Nat) (bytes : List Byte) (f : Option Packet → State → State) (s : State) : State :=
  let (p, s) := takeSelfFree l bytes s
  if !live s then s
  else if s.pawn.cause ≠ 0 then selfDrop s
  else if (syncHdrOf bytes).kind = kind then f p s else s

def rebuildPkt (bytes : List Byte) (_ : Option Packet) (s : State) : State :=
  let h := syncHdrOf bytes
  match attachedOf s h.prim h.table with
  | none => s
  | some d =>
    if !syncOk d.spec.rule bytes then s else
    match rebuildIn bytes d with
    | some d' => modThis d (fun _ => d') s
    | none => modThis d (fun d => { d with lateSync := d.lateSync ++ [bytes] }) s

def execRebuild (link : Nat) (payload : List Byte) (s : State) : Host.Outcome State Fault Refusal :=
  .next (syncArrive link 0 payload (rebuildPkt payload) s)

/-- REPAIR at the primary (R311): a damaged parameter takes the value of a slot at or after its last update. -/
def repairPkt (bytes : List Byte) (_ : Option Packet) (s : State) : State :=
  let h := syncHdrOf bytes
  match (findTable s h.table).bind (·.keeper) with
  | none => s
  | some k =>
    if h.prim ≠ s.ident.eid || !syncOk k.spec.rule bytes then s else
    let ps := (syncParams k.spec.rule bytes).filter fun p => let q := getP k.params p.param
      q.damaged && q.turn ≤ h.turn
    wroteWord 1 4 (modKeeper h.table (fun k => { k with
      params := putPs k.params (ps.map fun p => { p with turn := (getP k.params p.param).turn }) }) s)

def execRepair (link : Nat) (payload : List Byte) (s : State) : Host.Outcome State Fault Refusal :=
  .next (syncArrive link 1 payload (repairPkt payload) s)

/-! ### Records at a partner (R287, R288, R300, R303) -/

/-- Take one record: into the log of its turn, or aside while the log holds another turn. -/
def recordIn (bytes : List Byte) (d : Double) : Double :=
  let h := feedHdrOf bytes
  if d.state = 3 then d else
  let d := if h.type = 2 && !h.done && !d.staged.isEmpty then adoptStaged (h.turn - 1) d else d
  let l := d.log.getD (emptyLog h)
  if l.turn ≠ h.turn then { d with early := d.early ++ [bytes] }
  else startReplay { d with member := h.member, log := some (noteApplied (logRecord d.spec bytes l)) }

/-- What came too early is taken again. -/
def retakeEarly (d : Double) : Double :=
  let d' := { d with early := [], lateSync := [] }
  let d' := d.lateSync.foldl (fun d b => (rebuildIn b d).getD { d with lateSync := d.lateSync ++ [b] }) d'
  d.early.foldl (fun d b => recordIn b d) d'

/-! ### A verdict at a partner (R302, R307) -/

/-- A VERDICT record (Table 17-3). -/
def verdictRecord (d : Double) (turn code : Nat) : State → State :=
  appendSheet
    [mkW [(63, 60, 2), (59, 56, code), (55, 55, b2n d.tie), (25, 16, d.table)], mkW [(20, 0, d.primary)], mkW [(63, 16, turn)],
     mkW [(63, 0, (d.dPrim.map (·.2)).getD 0)], mkW [(63, 0, (d.dDbl.map (·.2)).getD 0)],
     mkW [(63, 0, if d.tie then d.repOwn.getD 0 else 0)]]

/-- The double after a verdict on a turn: the destination is VALID but for STOP_NO_MAJORITY, and the log is free. -/
def verdictState (turn code : Nat) (d : Double) : Double :=
  let d := if code ≤ 2 then { d with slots := d.slots.map fun x => if x.tag = turn && !x.opening then { x with valid := true } else x } else d
  { d with
    lastVerdict := code, verified := if code ≤ 1 then turn else d.verified, repairs := d.repairs + b2n (code = 1)
    state := if 2 ≤ code then 3 else d.state, log := none, dDbl := none, dPrim := none, tie := false, repPrim := none, repOwn := none }

/-- After a verdict that the turn stands, ranges that its primary handed on are discarded (R309). -/
def discardMoved (turn : Nat) (d : Double) : Double :=
  let away := Config.movedAway d.primary d.table turn
  { d with slots := d.slots.map fun x => { x with
      params := x.params.filter fun p => !(away.any fun r => r.1 ≤ p.param && p.param < r.1 + r.2) } }

/-- Send REPAIR for parameters that the primary has marked (R311). -/
def sendRepair (d : Double) (turn : Nat) (s : State) : State :=
  let want := Config.damagedAt d.primary d.table turn
  match (d.slots.filter fun x => x.valid && !x.opening && x.tag = turn).head? with
  | none => s
  | some x => sendSync d.spec.rule 1 d.table d.primary turn d.primary (x.params.filter fun p => want.contains p.param && !d.marks.contains p.param) s

/-- Give the verdict of the turn that has been replayed. -/
def giveVerdict (d : Double) (code : Nat) (s : State) : State :=
  match d.dDbl with
  | none => s
  | some (turn, x) =>
    let s := sendCtl d.primary { ctl := 3, code := code, table := d.table, prim := d.primary, turn := turn, a := x
                                 b := if d.tie then d.repOwn.getD 0 else 0 } s
    let s := verdictRecord d turn code s
    let d' := verdictState turn code d
    let s := modThis d (fun _ => d') s
    let s := if code ≤ 1 then
        let s := sendRepair d' turn s
        match Config.checkpointAsked d.primary d.table turn with
        | some (target, hazard) =>
          let d'' := { d' with hazards := d'.hazards + b2n hazard }
          let ps := (taggedSlot d'' turn).elim [] fun i => (slotOf d'' i).params
          beginShard d'' turn (target % 16) (now s) ps (modThis d (fun _ => d'') s)
        | none => s
      else modThis d (fun d => { d with abandoned := d.abandoned + b2n (Config.checkpointAsked d.primary d.table turn).isSome }) s
    modThis d (fun d => retakeEarly (if code ≤ 1 then discardMoved turn d else d)) s

/-- Start a tiebreak: TIEBREAK, the source slot's state of what the turn wrote, and the turn's records (R306). Where a word of
that state has failed, no tiebreak is decided on it (R528). -/
def startTie (d : Double) (s : State) : State :=
  match d.dDbl, d.log, sourceSlot d with
  | some (turn, x), some l, some i =>
    if (writtenBy l).any (d.marks.contains) then giveVerdict { d with tie := true } 3 s else
    let s := modThis d (fun d => { d with tie := true, tiebreaks := d.tiebreaks + 1 }) s
    let s := sendCtl d.primary { ctl := 4, table := d.table, prim := d.primary, turn := turn, a := x } s
    let src := slotOf d i
    let s := sendSync d.spec.rule 2 d.table d.primary src.tag d.primary ((writtenBy l).map (getP src.params)) s
    forAll l.records (sendKPkt 0 d.primary) s
  | _, _, _ => s

/-- Compare D_prim with D_dbl once both are held (R302). -/
def compareDigests (prim table : Nat) (s : State) : State :=
  match attachedOf s prim table with
  | none => s
  | some d => match d.dDbl, d.dPrim with
    | some (t, x), some (t', y) =>
      if t ≠ t' || d.tie then s else if x = y then giveVerdict d 0 s else startTie d s
    | _, _ => s

/-- Decide a tiebreak once both replay digests are held (Table 10-3); a repair replays the turn again into the
destination. -/
def decideTie (prim table : Nat) (s : State) : State :=
  match attachedOf s prim table with
  | none => s
  | some d => match d.repOwn, d.repPrim, d.dDbl, d.dPrim with
    | some a, some b, some (turn, x), some (_, y) =>
      if !d.tie then s
      else if a ≠ b then giveVerdict d 3 s
      else if a = y then
        match d.log, sourceSlot d with
        | some l, some i =>
          let (ps, z) := replayTurn d.spec l (slotOf d i).params
          let d' := { modSlot (1 - i) (fun q => { q with params := ps }) d with dDbl := some (turn, z) }
          giveVerdict d' (if z = y then 1 else 3) (modThis d (fun _ => d') s)
        | _, _ => giveVerdict d 3 s
      else if a = x then giveVerdict d 2 s
      else giveVerdict d 3 s
    | _, _, _, _ => s

/-! ### GRAD, COMMIT, TURN and LOAD records that arrive -/

/-- The streamed inputs of a tiebreak are complete: the primary replays and returns D_rep (R306). -/
def tieCheck (t : Nat) (s : State) : State :=
  match (findTable s t).bind (·.keeper) with
  | none => s
  | some k => match k.dbl.tie with
    | none => s
    | some x =>
      if x.turn ≠ x.log.turn || !logComplete x.log || !(writtenBy x.log).all (fun p => x.state.any fun q => q.param = p) then s else
      let rep := (replayTurn k.spec x.log x.state).2
      let d := ((k.turns.find? fun q => q.vals.turn = x.turn).map (·.dPrim)).getD 0
      sendCtl k.spec.partner { ctl := 2, table := t, prim := s.ident.eid, turn := x.turn, a := d, b := rep }
        (modPrim t (fun p => { p with tie := none }) s)

/-- The primary's end of a tiebreak on a turn, made where it is not yet there. -/
def modTie (t turn : Nat) (f : Tie → Tie) : State → State :=
  modPrim t (fun p => { p with tie := some (f ((p.tie.filter fun x => x.turn = turn).getD { turn := turn, dDbl := 0, log := { turn := turn } })) })

/-- The double whose record arrives: by its sender where that is known. -/
def recordOf (s : State) (p : Option Packet) (table : Nat) : Option Double :=
  match p with
  | some q => attachedOf s (pSrc q) table
  | none => s.doubles.find? fun d => d.table = table && attached d

/-- A DoubleFeed packet arrives: at a partner into its log, at a primary as a tiebreak's input; in Pawn mode it is lost
(R560, R564). -/
def feedArrive (l type : Nat) (bytes : List Byte) (s : State) : State :=
  let (p, s) := takeSelfFree l bytes s
  let h := feedHdrOf bytes
  if !live s then s
  else if s.pawn.cause ≠ 0 then
    let s := selfDrop s
    match recordOf s p h.table with
    | some d => modThis d (fun d => { d with lost := true }) s
    | none => s
  else if !feedOk bytes || h.type ≠ type then s
  else
    let own : Bool := match findTable s h.table with
      | some tb => isCrown tb && h.member = tb.member && tb.keeper.any fun k => match p with
          | some q => pSrc q = k.spec.partner
          | none => k.dbl.tie.isSome
      | none => false
    if own then
      match (findTable s h.table).bind (·.keeper) with
      | some k => tieCheck h.table (modTie h.table h.turn (fun x => { x with log := noteApplied (logRecord k.spec bytes x.log) }) s)
      | none => s
    else match recordOf s p h.table with
      | some d => wroteWord 2 9 (modThis d (recordIn bytes) s)
      | none => s

def execGrad (link : Nat) (payload : List Byte) (s : State) : Host.Outcome State Fault Refusal := .next (feedArrive link 0 payload s)
def execCommit (link : Nat) (payload : List Byte) (s : State) : Host.Outcome State Fault Refusal := .next (feedArrive link 1 payload s)
def execTurnRecord (link : Nat) (payload : List Byte) (s : State) : Host.Outcome State Fault Refusal :=
  .next (feedArrive link 2 payload s)
def execLoad (link : Nat) (payload : List Byte) (s : State) : Host.Outcome State Fault Refusal := .next (feedArrive link 3 payload s)

/-! ### TURN_REPLAY_DONE (R300) -/

/-- The replay of a turn ends: the destination holds the state after it and carries its tag; a rebuilt double returns to
ATTACHED without a verdict (R312, R527). -/
def replayDone (prim table : Nat) (s : State) : State :=
  match attachedOf s prim table with
  | none => s
  | some d => match d.log, sourceSlot d with
    | some l, some i =>
      if !l.started || !logComplete l || d.dDbl.isSome || d.state = 3 then s else
      let src := (slotOf d i).params
      let (ps, dig) := replayTurn d.spec l src
      let wrote := writtenBy l
      let tv := l.vals.getD {}
      let d' := modSlot (1 - i) (fun x => { x with
        tag := l.turn, opening := false, valid := d.state = 1, params := ps, step := tv.step, b1pow := tv.b1pow, b2pow := tv.b2pow }) d
      let d' := { d' with reused := false, copied := d'.copied + (src.filter fun (p : KParam) => !wrote.contains p.param).length }
      let s := wroteWord 2 8 s
      if d.state = 1 then modThis d (fun _ => retakeEarly { d' with state := 0, log := none, dPrim := none }) s
      else compareDigests prim table (modThis d (fun _ => { d' with dDbl := some (l.turn, dig) }) s)
    | _, _ => s

def execTurnReplayDone (primary table : Nat) (s : State) : Host.Outcome State Fault Refusal :=
  .next (if cpRuns s then replayDone primary table s else s)

/-! ### DIGEST, VERDICT, TIEBREAK -/

/-- DIGEST: D_prim, and in a tiebreak the primary's D_rep. -/
def digestIn (c : Ctl) (s : State) : State :=
  match attachedOf s c.prim c.table with
  | none => s
  | some d =>
    if d.tie then decideTie c.prim c.table (modThis d (fun d => { d with repPrim := some c.b }) s)
    else compareDigests c.prim c.table (modThis d (fun d => { d with dPrim := some (c.turn, c.a) }) s)

def execDigest (link : Nat) (flit : List W64) (s : State) : Host.Outcome State Fault Refusal := .next (ctlArrive link 2 flit digestIn s)

/-- VERDICT at the primary (R304, R308). -/
def verdictIn (c : Ctl) (s : State) : State :=
  match (findTable s c.table).bind (·.keeper) with
  | none => s
  | some _ =>
    if c.prim ≠ s.ident.eid then s else
    let s := modTurn c.table c.turn (fun q => { q with verdict := true }) s
    let s := modPrim c.table (fun d => { d with
      lastVerdict := c.code, lastTurn := some c.turn, verified := if c.code ≤ 1 then c.turn else d.verified
      repairs := d.repairs + b2n (c.code = 1), tie := none }) s
    let s := if 2 ≤ c.code then stopKeeper c.table s else flushFeed c.table s
    let s := if (findTable s c.table).any fun tb => verdictDue tb (tb.turn + 1) then s else modPrim c.table (fun d => { d with waitSince := none }) s
    ckptVerdict c.table c.turn c.code s

def execVerdict (link : Nat) (flit : List W64) (s : State) : Host.Outcome State Fault Refusal :=
  .next (ctlArrive link 3 flit verdictIn s)

/-- TIEBREAK at the primary. -/
def tiebreakIn (c : Ctl) (s : State) : State :=
  match (findTable s c.table).bind (·.keeper) with
  | none => s
  | some _ =>
    if c.prim ≠ s.ident.eid then s else
    let s := modPrim c.table (fun d => { d with tiebreaks := d.tiebreaks + 1 }) s
    tieCheck c.table (modTie c.table c.turn (fun x => { x with dDbl := c.a }) s)

def execTiebreak (link : Nat) (flit : List W64) (s : State) : Host.Outcome State Fault Refusal :=
  .next (ctlArrive link 4 flit tiebreakIn s)

/-- DoubleSync KIND 2 at the primary. -/
def tieState (bytes : List Byte) (_ : Option Packet) (s : State) : State :=
  let h := syncHdrOf bytes
  match (findTable s h.table).bind (·.keeper) with
  | none => s
  | some k =>
    if h.prim ≠ s.ident.eid || !syncOk k.spec.rule bytes then s else
    let turn := (k.dbl.tie.map (·.turn)).getD (h.turn + 1)
    tieCheck h.table (modTie h.table turn (fun x => { x with state := putPs x.state (syncParams k.spec.rule bytes) }) s)

def execDoublesyncTiebreak (link : Nat) (payload : List Byte) (s : State) : Host.Outcome State Fault Refusal :=
  .next (syncArrive link 2 payload (tieState payload) s)

/-- TIEBREAK_REPLAY_DONE at the partner (R307, R528). -/
def tieReplayDone (prim table : Nat) (w : WordRead) (s : State) : State :=
  match attachedOf s prim table with
  | none => s
  | some d =>
    if !d.tie then s else
    match w, d.log, sourceSlot d with
    | .failed, some _, some i =>
      giveVerdict d 3 (readWord 2 (.doubleSlot prim table i 0) .failed s)
    | _, some l, some i =>
      let s := readWord 2 (.gradientLog prim table) w s
      decideTie prim table (modThis d (fun d => { d with repOwn := some (replayTurn d.spec l (slotOf d i).params).2 }) s)
    | _, _, _ => s

def execTiebreakReplayDone (primary table : Nat) (word : WordRead) (s : State) : Host.Outcome State Fault Refusal :=
  .next (if cpRuns s then tieReplayDone primary table word s else s)

/-! ### HELLO, ACCEPT, CLOSE (R297, R298) -/

def helloIn (c : Ctl) (s : State) : State :=
  let good := (attachedOf s c.prim c.table).any fun d => d.spec.crc = c.a
  sendCtl c.prim { ctl := 1, code := b2n !good, table := c.table, prim := c.prim } s

def execHello (link : Nat) (flit : List W64) (s : State) : Host.Outcome State Fault Refusal := .next (ctlArrive link 0 flit helloIn s)

/-- Insert a table by rising TABLE_ID. -/
def insertTable (tb : Table) : List Table → List Table
  | [] => [tb]
  | x :: xs => if x.id < tb.id then x :: insertTable tb xs else tb :: x :: xs

/-- A table is open from now on: its TABLE record, its LEVEL packets, and what was held for it (R539, R570, R572, R649). -/
def openNow (tb : Table) (s : State) : State :=
  let tb := { tb with openedAt := now s }
  let s := tableRecord 0 0 tb { s with tables := insertTable tb s.tables }
  releaseHeld tb.id (levelCheck tb.id s)

def dropOpening (t : Nat) (s : State) : State := { s with opening := s.opening.filter fun o => o.table.id ≠ t }

/-- ACCEPT completes or rejects TABLE_OPEN. -/
def acceptIn (c : Ctl) (s : State) : State :=
  match s.opening.find? fun o => o.table.id = c.table with
  | none => s
  | some o =>
    if c.prim ≠ s.ident.eid then s
    else
      let s := dropOpening c.table s
      if c.code = 0 then respond o.mailbox { data := leBytes 8 o.table.board.digest } (openNow o.table s)
      else respond o.mailbox { status := gPartner, detail := 1 } s

def execAccept (link : Nat) (flit : List W64) (s : State) : Host.Outcome State Fault Refusal := .next (ctlArrive link 1 flit acceptIn s)

/-- HELLO_TIMEOUT: 10 ms without ACCEPT. -/
def helloTimeout (t : Nat) (s : State) : State :=
  match s.opening.find? fun o => o.table.id = t with
  | none => s
  | some o => respond o.mailbox { status := gPartner } (dropOpening t (advanceTo (o.since + 10000000) s))

def execHelloTimeout (table : Nat) (s : State) : Host.Outcome State Fault Refusal :=
  .next (if live s then helloTimeout table s else s)

/-- Release a double with the storage work it began. -/
def closeDouble (d : Double) (s : State) : State :=
  let s := if (outDouble s d.primary d.table).any (fun e => e.order = d.order) then dropStore (fun w => w = .shard d.primary d.table) s else s
  removeDouble d s

def closeIn (c : Ctl) (s : State) : State :=
  match attachedOf s c.prim c.table with
  | some d => closeDouble d s
  | none => s

def execClose (link : Nat) (flit : List W64) (s : State) : Host.Outcome State Fault Refusal := .next (ctlArrive link 6 flit closeIn s)

/-! ### PHASE (R312) -/

/-- PHASE: the member enters that phase at its next TURN_BEGIN; passed on as HALT is. -/
def phaseIn (l : Nat) (c : Ctl) (s : State) : State :=
  match findTable s c.table with
  | none => s
  | some tb =>
    if tb.phaseSeen = some (c.turn, c.code) then s else
    let from_ := neighbourOn tb tb.board l s
    let s := modTable c.table (fun tb => { tb with phaseDue := some c.code, phaseSeen := some (c.turn, c.code) }) s
    forAll ((treeEids tb tb.board).filter fun e => some e ≠ from_) (fun e => sendCtl e c) s

def execPhase (link : Nat) (flit : List W64) (s : State) : Host.Outcome State Fault Refusal :=
  .next (ctlArrive link 7 flit (phaseIn link) s)

/-! ### Hazards (R313 to R315) -/

def holdoffNs (s : State) : Nat := fld (wd s.hazard.spec 3) 63 48 * 1000000000
def hazardTarget (s : State) : Nat := fld (wd s.hazard.spec 3) 3 0

/-- A hazard is taken for a turn: a checkpoint is asked for at its end, and HAZARD goes to ring neighbours. -/
def takeHazard (tb : Table) (turn source time prim : Nat) (except : Option Nat) (s : State) : State :=
  match tb.keeper with
  | none => s
  | some k =>
    if !isCrown tb || k.hazTurn = some turn || k.hazAt.any (fun a => now s < a + holdoffNs s) then s else
    let s := modKeeper tb.id (fun k => { k with
      hazTurn := some turn
      ckptReq := if k.ckptReq.any (fun c => c.turn = turn) then k.ckptReq
        else k.ckptReq ++ [{ turn := turn, target := hazardTarget s, hazard := true }] }) s
    let ring := if 1 < tb.board.ring.length then ([succOf tb tb.board, predOf tb tb.board].eraseDups.map (eidOf tb)) else []
    forAll (ring.filter fun e => some e ≠ except)
      (fun e => sendCtl e { ctl := 5, code := source, table := tb.id, prim := prim, turn := turn, a := time }) s

/-- HAZARD_FIRE (R314, R315); the TURN that a partner's HAZARD names is open. -/
def hazardFire (i : Nat) (s : State) : State :=
  let e := hazEntry s i
  let x := s.hazard.src.getD i {}
  if 6 ≤ i || !hazOn e || x.fired || x.window ≠ hazWindowNow s i || x.count < hazThreshold e then s else
  let s := modHazard (fun h => { h with src := modAt h.src i (fun x => { x with fired := true }) }) s
  let s := forAll s.tables (fun tb s => takeHazard tb (tb.turn + 1) i (now s) s.ident.eid none s) s
  forAll (s.doubles.filter attached) (fun d s =>
    sendCtl d.primary { ctl := 5, code := i, table := d.table, prim := d.primary, turn := freeVal s, a := now s } (freeNext s)) s

def execHazardFire (source : Nat) (s : State) : Host.Outcome State Fault Refusal :=
  .next (if cpRuns s then hazardFire source s else s)

/-- HAZARD_WINDOW: the next window begins and the count restarts. -/
def hazardNext (i : Nat) (s : State) : State :=
  let w := hazWindow (hazEntry s i) * 1000000
  if 6 ≤ i || w = 0 then s else
  let s := advanceTo ((now s / w + 1) * w) s
  modHazard (fun h => { h with src := modAt h.src i (fun _ => { window := hazWindowNow s i }) }) s

def execHazardWindow (source : Nat) (s : State) : Host.Outcome State Fault Refusal :=
  .next (if live s then hazardNext source s else s)

/-- HAZARD: from the own partner it names the turn after the current one here; from the ring, the turn it carries. -/
def hazardIn (l : Nat) (c : Ctl) (s : State) : State :=
  match findTable s c.table with
  | none => s
  | some tb =>
    if c.prim = s.ident.eid then takeHazard tb (tb.turn + 1) c.code c.a s.ident.eid none s
    else takeHazard tb c.turn c.code c.a c.prim (neighbourOn tb tb.board l s) s

def execHazard (link : Nat) (flit : List W64) (s : State) : Host.Outcome State Fault Refusal :=
  .next (ctlArrive link 5 flit (hazardIn link) s)

end Sys2Proof.Machine
end

