-- ==== Sys2Proof/Machine/Routes.lean ====
section
/-! DEFINITION. Commands on routes, fences and links (12, 13, 15): ROUTE_BEGIN, ROUTE_WRITE, ROUTE_ABORT, ROUTE_COMMIT,
FENCE, UNFENCE, LINK_LOOPBACK with LOOPBACK_END, RESTART, and the events DRAIN_TIMER_EXPIRE, FENCE_ACK and
FENCE_TIMEOUT. -/

namespace Sys2Proof.Machine
open Sys2Proof

/-! ### Banks (R381 to R385) -/

/-- The STAGING bank. -/
def stagingBank (s : State) : Option Nat := s.route.banks.findIdx? fun b => b.state = 3

/-- The STAGING bank as a session may use it (R493). -/
def ownStaging (m : Nat) (r : Request) (s : State) : Except Answer Nat :=
  match stagingBank s with
  | none => .error { status := gState }
  | some b => if s.route.owner = some (m, r.session) then .ok b else .error { status := gBusy }

/-- The copy of an entry whose word failed: an INVALID entry, an empty set or an empty entry (R525); which kind it is of
counts as WHAT of ROUTE_WRITE. -/
def loseEntry (b : RouteBank) (e : Nat × Nat) : RouteBank :=
  if e.1 = 0 then { b with eids := spSet b.eids e.2 0 }
  else if e.1 = 1 then { b with pathSets := spSet b.pathSets e.2 0 }
  else if e.1 = 2 then { b with groups := spSet b.groups e.2 0 }
  else { b with legs := spSet b.legs e.2 0 }

/-- ROUTE_BEGIN copies the CURRENT bank (R383), of which the words of some entries fail (R525). -/
def routeBeginBody (failed : List (Nat × Nat)) (m : Nat) (r : Request) (_ : Nat) (s : State) : Reply :=
  let n := (s.route.cur + 1) % 4
  if (stagingBank s).isSome || (getBank s n).state ≠ 0 then reject gBusy 0 s
  else
    let bank := failed.foldl loseEntry { curBank s with state := 3, chosen := [], drainEnd := 0 }
    let s := forAll failed (fun e s => readWord 3 (.routeBank s.route.cur e.1 e.2) .failed s) s
    let s := wroteWord 3 13 (modBank n (fun _ => bank) s)
    okWith (leBytes 8 n) (modRoute (fun t => { t with owner := some (m, r.session) }) s)

def execRouteBegin (copy : BankCopy) (s : State) : Host.Outcome State Fault Refusal :=
  .next (runCmd copy.mailbox { code := 0x40 } anyMsg (routeBeginBody copy.failed copy.mailbox) s)

/-- Bytes of an entry of WHAT, and how many entries a bank holds. -/
def entrySize (what : Nat) : Nat := if what = 1 then 64 else if what = 2 then 8 else 4
def entryLimit (what : Nat) : Nat := if what = 0 then 2097152 else if what = 1 then 4096 else if what = 2 then 65536 else 1048576

/-- Entries as numbers. -/
def entriesOf (size n : Nat) (bs : List Byte) : List Nat := (List.range n).map fun i => leAt bs (size * i) size

/-- Reserved fields of an entry at a bit (R16, Tables 12-1 and 12-4). -/
def entryResv (what lo e : Nat) : List (Nat × Nat) :=
  if what = 0 then
    (if eidKind e = 2 then [] else [(lo, 12)]) ++ (if eidKind e = 1 then [] else [(lo + 12, 9)]) ++ [(lo + 21, 8)]
  else if what = 2 then [(lo, 34)]
  else if what = 3 then [(lo + 30, 2)]
  else []

def entriesResv (what lo : Nat) (es : List Nat) : List (Nat × Nat) :=
  (List.range es.length).flatMap fun i => entryResv what (lo + 8 * entrySize what * i) (es.getD i 0)

def writeWhat (msg : List Byte) : Nat := fld (argW msg 0) 63 62
def writeCount (msg : List Byte) : Nat := fld (argW msg 1) 31 0
def writeInline (msg : List Byte) : Bool := bitAt (argW msg 0) 61

/-- ROUTE_WRITE (R654): an entry count that a message cannot hold fails at the length already. -/
def routeWriteSpec : CmdSpec :=
  { code := 0x41
    len := fun msg =>
      if msg.length < 32 then 16 else if !writeInline msg then 32 else 16 + up8 (writeCount msg * entrySize (writeWhat msg))
    resv := fun msg =>
      let what := writeWhat msg
      let n := writeCount msg
      [(149, 40), (224, 32)] ++
        if writeInline msg && n ≤ 56 then
          entriesResv what 256 (entriesOf (entrySize what) n (msg.drop 32)) ++
            [(256 + 8 * entrySize what * n, 8 * (up8 (n * entrySize what) - n * entrySize what))]
        else [] }

/-- A bank with entries written from an index on. -/
def writeEntries (what first : Nat) (es : List Nat) (b : RouteBank) : RouteBank :=
  if what = 0 then { b with eids := spSets b.eids first es }
  else if what = 1 then { b with pathSets := spSets b.pathSets first es }
  else if what = 2 then { b with groups := spSets b.groups first es }
  else { b with legs := spSets b.legs first es }

/-- The checks of R369, R372, R374 and R388 on one entry: the bit of the field at fault. -/
def entryBad (s : State) (what idx lo e : Nat) : Option Nat :=
  if what = 0 then
    if idx = 0x1FFFFF && e ≠ 0 then some (lo + 29)
    else if 4 ≤ eidKind e then some (lo + 29)
    else if eidKind e = 1 && !isLink s (eidLink e) then some (lo + 12)
    else if (eidKind e = 3) ≠ (idx = s.ident.eid) then some (lo + 29)
    else none
  else if what = 1 then
    if (List.range 512).any fun l => e.testBit l && !isLink s l then some lo else none
  else if what = 2 then
    if 512 < groupCount e || 1048576 < groupBase e + groupCount e then some (lo + 34) else none
  else none

/-- Legs of a group break R388: a link that does not exist, or one twice (R653). -/
def groupBad (s : State) (b : RouteBank) (g : Nat) : Bool :=
  let ls := (List.range (groupCount g)).map fun i => legLink (spGet b.legs (groupBase g + i))
  hasDup ls || ls.any fun l => !isLink s l

/-- The leg check over every group that the write would leave, whatever it writes (R653): the first entry of the write that
belongs to a group at fault, or the first entry of all where none does. -/
def legsBad (s : State) (what first lo n : Nat) (b : RouteBank) : Option Nat :=
  let bad := b.groups.filter fun g => groupBad s b g.2
  if bad.isEmpty then none
  else if what < 2 then some lo
  else
    let mine := fun i => bad.any fun g =>
      if what = 2 then g.1 = first + i else groupBase g.2 ≤ first + i && first + i < groupBase g.2 + groupCount g.2
    let i := ((List.range n).find? mine).getD 0
    some (lo + 8 * entrySize what * i + if what = 2 then 34 else 21)

/-- Check entries from `lo` on and write them, all or none. -/
def routeWrite (bank what first lo : Nat) (es : List Nat) (s : State) : Reply :=
  if entryLimit what < first + es.length then reject gValue 128 s
  else
    let after := writeEntries what first es (getBank s bank)
    let one := (List.range es.length).findSome? fun i => entryBad s what (first + i) (lo + 8 * entrySize what * i) (es.getD i 0)
    match one.or (legsBad s what first lo es.length after) with
    | some b => reject gValue b s
    | none => okay (wroteWord 3 13 (modBank bank (fun _ => after) s))

/-- ROUTE_WRITE (R383): a buffer holds exactly COUNT entries. -/
def routeWriteBody (m : Nat) (r : Request) (_ : Nat) (s : State) : Reply :=
  match ownStaging m r s with
  | .error a => (some a, s)
  | .ok bank =>
    let what := writeWhat r.msg
    let first := fld (argW r.msg 0) 20 0
    let n := writeCount r.msg
    let size := entrySize what
    if writeInline r.msg then routeWrite bank what first 256 (entriesOf size n (r.msg.drop 32)) s
    else match bulkRef m 32 r.msg s with
      | .error a => (some a, s)
      | .ok bs =>
        if entryLimit what < first + n then reject gValue 128 s
        else if bs.length ≠ n * size then reject gValue 256 s
        else
          let es := entriesOf size n bs
          match firstSet bs (entriesResv what 0 es) with
          | some i => reject gReserved (2 ^ 63 + i) s
          | none => routeWrite bank what first (2 ^ 63) es s

def execRouteWrite (mailbox : Nat) (s : State) : Host.Outcome State Fault Refusal :=
  .next (runCmd mailbox routeWriteSpec anyMsg (routeWriteBody mailbox) s)

def routeAbortBody (m : Nat) (r : Request) (_ : Nat) (s : State) : Reply :=
  match ownStaging m r s with
  | .error a => (some a, s)
  | .ok _ => okay (freeStaging s)

def execRouteAbort (mailbox : Nat) (s : State) : Host.Outcome State Fault Refusal :=
  .next (runCmd mailbox { code := 0x42 } anyMsg (routeAbortBody mailbox) s)

/-- ROUTE_COMMIT (R383, R384). -/
def routeCommitBody (m : Nat) (r : Request) (_ : Nat) (s : State) : Reply :=
  match ownStaging m r s with
  | .error a => (some a, s)
  | .ok bank =>
    let old := s.route.cur
    let s' := modBank old (fun b => { b with state := 2, drainEnd := now s + s.route.drainUs * 1000 }) s
    let s' := modRoute (fun t => { t with cur := bank, owner := none, commits := t.commits + 1 }) (modBank bank (fun b => { b with state := 1 }) s')
    okWith (bytesOf [mkW [(1, 0, bank)], mkW [(63, 0, now s)]]) s'

def execRouteCommit (mailbox : Nat) (s : State) : Host.Outcome State Fault Refusal :=
  .next (runCmd mailbox { code := 0x43 } anyMsg (routeCommitBody mailbox) s)

/-- A packet still needs a lookup in its bank (R382, R385): its first cell has not been enqueued, so that its
replication is to come (R391), or a reorder context holds it. -/
def needsLookup (p : QPkt) : Bool := p.admitted = 0 || p.held

/-- Drop a packet of a bank that is gone. -/
def dropStale (p : QPkt) (s : State) : State :=
  let s := modCnt (fun c => { c with staleEpoch := c.staleEpoch + 1 }) s
  forAll (p.legs.filter fun l => !l.done) (fun l s => legDone p.num l.link (egressDrop l.link s)) s

/-- A packet that waits to be put in order, or to be replicated by its round, needs a lookup in its bank still (R382): its
link, pool and flits. -/
def staleIn (b : Nat) (a : Arrived) : Option (Nat × Nat × Nat) := match a with
  | .order l pool e p _ => if e = b then some (l, pool, pFlits p) else none
  | .self l pool e p => if e = b && pPtype p = 2 then some (l, pool, pFlits p) else none
  | _ => none

/-- A DRAINING bank's timer expires (R385). -/
def drainExpire (b : Nat) (s : State) : State :=
  if !live s || (getBank s b).state ≠ 2 then s
  else
    let s := advanceTo (getBank s b).drainEnd s
    let s := forAll (s.pot.pkts.filter fun p => p.epoch = b && needsLookup p) dropStale s
    let s := forAll (s.inbox.filterMap (staleIn b)) (fun x s =>
      freeCredits x.1 x.2.1 x.2.2 (modCnt (fun c => { c with staleEpoch := c.staleEpoch + 1 }) s)) s
    let s := { s with inbox := s.inbox.filter fun a => (staleIn b a).isNone }
    let s := modRoute (fun r => { r with contexts := r.contexts.map fun c =>
      { c with held := c.held.filter fun h => s.pot.pkts.any fun p => p.num = h.pkt } }) s
    modBank b (fun _ => {}) s

def execDrainTimerExpire (bank : Nat) (s : State) : Host.Outcome State Fault Refusal := .next (drainExpire bank s)

/-! ### Fences (R392 to R397) -/

def fenceOf (s : State) (eid : Nat) : Option Fence := s.route.fences.find? fun f => f.eid = eid
def modFence (eid : Nat) (g : Fence → Fence) : State → State :=
  modRoute (fun r => { r with fences := updWhere (fun f => f.eid = eid) g r.fences })

/-- A multicast packet has still to reach its replication point (R391). -/
def unreplicated (p : QPkt) : Bool := p.admitted = 0 && p.mcast && p.kind = .forwarded

/-- A Pip packet's flit waits in a link for an EID. -/
def pipFor (eid : Nat) (f : Flit) : Bool := f.tag = 2 && f.eid = eid

/-- Packets that have reached their replication point and not finished on a leg to an EID (R394): in the Pot, in the Ladder,
or as a flit of a Pip packet that waits in a link. -/
def packetsFor (s : State) (eid : Nat) : List Nat :=
  (s.pot.pkts.filter fun p => !unreplicated p && p.legs.any fun l => l.eid = eid && !l.done).map (·.num) ++
  ((s.ladder.queues.flatMap id).filter fun p => p.links.any fun l => l.2 = eid).map (·.num) ++
  (s.links.flatMap fun k => (k.tx.queues.getD 7 []).filter (pipFor eid)).map (·.pkt)

def fenceSpec : CmdSpec := { code := 0x44, len := fun _ => 8, resv := fun _ => [(144, 27)], vals := [(128, 16, 1, 65535)] }

def fenceReply (f : Fence) (waited : Nat) (forced : Bool) : Answer :=
  { data := bytesOf [mkW [(63, 0, f.time)], mkW [(63, 32, waited), (0, 0, b2n forced)]] }

/-- EID in W0[63:43]. -/
def argEid (r : Request) : Nat := fld (argW r.msg 0) 63 43

/-- FENCE (R392, R393, R397). Every ingress stage applies the marker at the command's own moment (DEDUCED, log 38). -/
def fenceBody (m : Nat) (r : Request) (_ : Nat) (s : State) : Reply :=
  let eid := argEid r
  if eid = s.ident.eid then reject gValue 171 s
  else match fenceOf s eid with
    | some f => (some (fenceReply f 0 false), s)
    | none =>
      if 256 ≤ s.route.fences.length then reject gBusy 0 s
      else
        let ps := packetsFor s eid
        let f : Fence :=
          { eid := eid, time := now s, accepted := now s, timeoutUs := fld (argW r.msg 0) 15 0, mailbox := some m, waitFor := ps,
            waited := ps.length }
        waits (modRoute (fun t => { t with fences := t.fences ++ [f] }) s)

def execFence (mailbox : Nat) (s : State) : Host.Outcome State Fault Refusal :=
  .next (runCmd mailbox fenceSpec anyMsg (fenceBody mailbox) s)

def unfenceBody (r : Request) (_ : Nat) (s : State) : Reply :=
  match fenceOf s (argEid r) with
  | none => reject gState 0 s
  | some f =>
    if !f.acked then reject gBusy 0 s
    else okay (modRoute (fun t => { t with fences := t.fences.filter fun x => x.eid ≠ f.eid }) s)

def execUnfence (mailbox : Nat) (s : State) : Host.Outcome State Fault Refusal :=
  .next (runCmd mailbox { code := 0x45, len := fun _ => 8, resv := fun _ => [(128, 43)] } anyMsg unfenceBody s)

/-- Acknowledge a fence; where its mailbox no longer waits, nothing is answered (R505). -/
def ackFence (f : Fence) (forced : Bool) (s : State) : State :=
  let s := modFence f.eid (fun x => { x with acked := true, mailbox := none, waitFor := [] }) s
  match f.mailbox with
  | some m => respond m (fenceReply f f.waited forced) s
  | none => s

/-- A packet waited for is not finished on its fenced leg (R394). -/
def unfinished (s : State) (f : Fence) (num : Nat) : Bool := (packetsFor s f.eid).contains num

/-- FENCE_ACK (R394). -/
def fenceAck (eid : Nat) (s : State) : State :=
  match fenceOf s eid with
  | none => s
  | some f => if !live s || f.acked || f.waitFor.any (unfinished s f) then s else ackFence f false s

def execFenceAck (eid : Nat) (s : State) : Host.Outcome State Fault Refusal := .next (fenceAck eid s)

/-- End every packet left on a fenced leg (R395). -/
def endFenced (f : Fence) (s : State) : State :=
  let ps := s.pot.pkts.filter fun p => f.waitFor.contains p.num && p.legs.any fun l => l.eid = f.eid && !l.done
  let s := forAll ps (fun p s =>
    forAll (p.legs.filter fun l => l.eid = f.eid && !l.done) (fun l s => endLeg p.num l.link (fenceDrop s)) s) s
  let pips := (s.ladder.queues.flatMap id).filter fun p => f.waitFor.contains p.num && p.links.any fun l => l.2 = f.eid
  let s := forAll pips (fun _ => fenceDrop) s
  let flits := (s.links.flatMap fun k => (k.tx.queues.getD 7 []).filter fun x => pipFor f.eid x && f.waitFor.contains x.pkt)
  let s := forAll flits (fun _ => fenceDrop) s
  let s := { s with links := s.links.map fun k =>
    { k with tx := { k.tx with queues := modAt k.tx.queues 7 fun q => q.filter fun x => !(pipFor f.eid x && f.waitFor.contains x.pkt) } } }
  modLadder (fun d => { d with queues := d.queues.map fun q =>
    (q.map fun p => { p with links := p.links.filter fun l => l.2 ≠ f.eid }).filter fun p => !p.links.isEmpty }) s

/-- FENCE_TIMEOUT (R395). -/
def fenceTimeout (eid : Nat) (s : State) : State :=
  match fenceOf s eid with
  | none => s
  | some f => if !live s || f.acked then s else ackFence f true (endFenced f (advanceTo (f.accepted + f.timeoutUs * 1000) s))

def execFenceTimeout (eid : Nat) (s : State) : Host.Outcome State Fault Refusal := .next (fenceTimeout eid s)

/-! ### LINK_LOOPBACK (R447 to R449) -/

def loopbackSpec : CmdSpec :=
  { code := 0x50, len := fun _ => 16, resv := fun _ => [(137, 1), (142, 50), (224, 32)]
    vals := [(138, 2, 1, 3), (140, 2, 1, 3), (192, 32, 1, 3600000)] }

/-- LINK_LOOPBACK: a link that is not enabled, whose port die has no clock, or that runs a loopback already cannot enter
one; the stated time runs from acceptance (DEDUCED, log 39). -/
def loopbackBody (m : Nat) (r : Request) (_ : Nat) (s : State) : Reply :=
  let w := argW r.msg 0
  let l := fld w 8 0
  let mode := fld w 11 10
  let gen := fld w 13 12
  if !isLink s l then reject gValue 128 s
  else if !mayTrain s l || (getLink s l).loop.mode ≠ 0 then (some (failedAns 0x50 s), s)
  else
    let loop : Loopback := { mode := mode, gen := gen, endAt := now s + fld (argW r.msg 1) 31 0 * 1000000, mailbox := some m }
    let s := if linkRuns s l then leaveService l s else s
    waits (if mode = 3 then modLoop l (fun _ => loop) (trainFromStart l s)
      else modLink l (fun k => { k with
        stat := { k.stat with state := 4, gen := gen, lanes := offered s l }
        train := {}, rx := {}, loop := loop
        tx := { scr := (List.range 8).map scrambleInit } }) s)

def execLinkLoopback (mailbox : Nat) (s : State) : Host.Outcome State Fault Refusal :=
  .next (runCmd mailbox loopbackSpec anyMsg (loopbackBody mailbox) s)

/-- The tester sends electrical idle for 1 µs; training from VL1 follows (R449). -/
def endLoop (l : Nat) (s : State) : State :=
  modLink l (fun k => { k with
    stat := { k.stat with state := 1, gen := 0, lanes := 0 }
    train := { idleUntil := some (now s + 1000), afterIdle := 1 }
    tx := {}, rx := {}, loop := {} }) s

/-- LOOPBACK_END (R449): a far-end loopback that never came about answers FAILED. -/
def loopbackEnd (l : Nat) (s : State) : State :=
  let k := getLink s l
  if !live s || k.loop.mode = 0 || k.loop.mode = 4 then s
  else
    let s := advanceTo k.loop.endAt s
    let a : Answer := if k.stat.state ≠ 4 then failedAns 0x50 s else
      { data := bytesOf [mkW [(63, 0, k.loop.raw)], mkW [(63, 32, k.loop.corr), (31, 0, k.loop.uncorr)]] }
    let s := endLoop l s
    match k.loop.mailbox with
    | some m => respond m a s
    | none => s

def execLoopbackEnd (link : Nat) (s : State) : Host.Outcome State Fault Refusal := .next (loopbackEnd link s)

/-! ### RESTART -/

def restartSpec : CmdSpec :=
  { code := 0x70, len := fun _ => 8, resv := fun _ => [(160, 32)], vals := [(128, 32, 0x5A4E5253, 0x5A4E5253)] }

/-- RESTART (R494): RESTART_RESET follows 10 ms after the response. -/
def restartBody (_ : Request) (_ : Nat) (s : State) : Reply :=
  okay (modBoot (fun b => { b with restartAt := some (now s + 10000000) }) s)

def execRestart (mailbox : Nat) (s : State) : Host.Outcome State Fault Refusal :=
  .next (runCmd mailbox restartSpec anyMsg restartBody s)

end Sys2Proof.Machine
end

