-- ==== Sys2Proof/Machine/Restoring.lean ====
section
/-! DEFINITION. Restore (10): RESTORE, the reports of double sources, candidates, loads from storage and from doubles, and
their end by RESTORE_GO. -/

namespace Sys2Proof.Machine
open Sys2Proof

def restoreOf (s : State) (t : Nat) : Option (Table × Keeper × Restore) :=
  match findTable s t with
  | none => none
  | some tb => match tb.keeper with
    | none => none
    | some k => k.restore.map fun r => (tb, k, r)

def modRestore (t : Nat) (f : Restore → Restore) : State → State :=
  modKeeper t (fun k => { k with restore := k.restore.map f })

/-- Update a table's restore, made where RESTORE has not come yet. -/
def needRestore (t : Nat) (f : Restore → Restore) : State → State :=
  modKeeper t (fun k => { k with restore := some (f (k.restore.getD {})) })

/-- Storage work of a restore of a table. -/
def restoreWork (t : Nat) : StoreFor → Bool
  | .candRec x _ _ => x = t
  | .candMan x _ _ => x = t
  | .loadMan x => x = t
  | .loadIndex x _ => x = t
  | .loadChunk x _ _ => x = t
  | _ => false

def loadWork (t : Nat) : StoreFor → Bool
  | .loadMan x => x = t
  | .loadIndex x _ => x = t
  | .loadChunk x _ _ => x = t
  | _ => false

/-- Send a control flit to the ring successor, unless that is position 0. -/
def sendAround (tb : Table) (c : Ctl) (s : State) : State :=
  if 1 < tb.board.ring.length && some (succOf tb tb.board) ≠ tb.board.ring.head? then sendCtl (eidOf tb (succOf tb tb.board)) c s else s

/-- Slice of a member of one KEEPER round with PARAM_BASE 0 and E = KEEPER_PARAMS (R167): first parameter, count. -/
def fullSlice (b : Board) (j : Nat) : Nat × Nat :=
  wholeSlice b.params b.ring.length j

/-! ### Loads (R327) -/

/-- A load at this member has ended: LOADED goes to ring position 0, or is taken there. -/
def sendLoaded (tb : Table) (l : Load) (code : Nat) (f : Ctl → State → State) (s : State) : State :=
  let pos := ownPos tb tb.board
  let c : Ctl := { ctl := 8, code := code, pos := pos, table := tb.id, prim := s.ident.eid, turn := l.turn, a := l.num, b := l.got.length }
  if pos = 0 then f c s else sendCtl (eidOf tb (succOf tb tb.board)) c s

/-- Bytes of a shard image that a parameter's planes lie at, and the chunks that hold them. -/
def planeAt (rule base start count p : Nat) : List Nat :=
  (List.range (if rule = 1 then 3 else 2)).map fun i => base + 4 * count * i + 4 * (p - start)

/-- Ranges of a shard with the offset of each in its image: start, count, offset. -/
def shardRanges (rule : Nat) (man : List Byte) (i : Nat) : List (Nat × Nat × Nat) :=
  let rs := (manRangeList man).filter fun r => r.1 = i
  (rs.foldl (fun (acc : List (Nat × Nat × Nat) × Nat) r =>
    (acc.1 ++ [(r.2.1, r.2.2, acc.2)], acc.2 + r.2.2 * syncBytes rule)) ([], 0)).1

/-- The chunks of a shard that hold parameters of a slice. -/
def neededChunks (rule : Nat) (man : List Byte) (l : Load) (i : Nat) : List Nat :=
  sortN ((shardRanges rule man i).flatMap fun r =>
    let lo := max l.start r.1
    let hi := min (l.start + l.count) (r.1 + r.2.1)
    if lo < hi then
      (List.range (if rule = 1 then 3 else 2)).flatMap fun k =>
        let a := (r.2.2 + 4 * r.2.1 * k + 4 * (lo - r.1)) / 1048576
        let b := (r.2.2 + 4 * r.2.1 * k + 4 * (hi - 1 - r.1)) / 1048576
        (List.range (b + 1 - a)).map (a + ·)
    else [])

/-- Shards that hold parameters of a slice. -/
def neededShards (rule : Nat) (l : Load) : List Nat :=
  (List.range (manShards l.manifest)).filter fun i => !(neededChunks rule l.manifest l i).isEmpty

/-- A 4-byte value of a shard's image from the chunks read. -/
def imageWord (l : Load) (i off : Nat) : Nat :=
  match l.chunks.find? fun c => c.1 = i && c.2.1 = off / 1048576 with
  | some c => leAt c.2.2 (off % 1048576) 4
  | none => 0

/-- The parameters of a slice from the chunks read. -/
def loadedParams (rule : Nat) (l : Load) : List KParam :=
  putPs [] ((List.range (manShards l.manifest)).flatMap fun i =>
    (shardRanges rule l.manifest i).flatMap fun r =>
      ((List.range l.count).map (l.start + ·)).filterMap fun p =>
        if r.1 ≤ p && p < r.1 + r.2.1 then
          let v := (planeAt rule r.2.2 r.1 r.2.1 p).map (imageWord l i)
          let w := v.getD 0 0
          some { param := p, w := w, m := v.getD 1 0, v := v.getD 2 0, copy := (copyOf w).1, turn := l.turn }
        else none)

def modLoad (t : Nat) (f : Load → Load) : State → State := modRestore t (fun r => { r with load := r.load.map f })

/-- Begin reading chunks of a shard once its index object is held. -/
def readChunks (t i : Nat) (rule : Nat) (l : Load) (idx : List Byte) (s : State) : State :=
  forAll (neededChunks rule l.manifest l i) (fun c s => issue (.loadChunk t i c) l.source 2 false (slice idx (32 * c) 32) [] s) s

/-! ### Candidates (R326) -/

/-- A newer candidate comes first; at equal turns the doubles, then targets in order, slot A before B. -/
def candBefore (a b : Cand) : Bool :=
  let rank := fun (c : Cand) => if c.source = 16 then 0 else 1 + 2 * c.source + c.slot
  b.turn < a.turn || (a.turn = b.turn && rank a < rank b)

def insertCand (c : Cand) : List Cand → List Cand
  | [] => [c]
  | x :: xs => if candBefore c x then c :: x :: xs else x :: insertCand c xs

/-- A manifest suits the table (R326). -/
def manSuits (tb : Table) (k : Keeper) (maxTurn : Nat) (man : List Byte) : Bool :=
  let w := payW man
  manTurn man ≤ maxTurn && fld (w 0) 54 53 = k.spec.rule && bitAt (w 0) 52 = k.spec.nfSkip && fld (w 4) 63 32 = k.spec.beta1 &&
  fld (w 4) 31 0 = k.spec.beta2 && fld (w 5) 63 32 = k.spec.eps && manParams man = tb.board.params

/-- Candidates that the targets give. -/
def storedCands (s : State) (tb : Table) (k : Keeper) (r : Restore) : List Cand :=
  r.mans.filterMap fun m =>
    match r.recs.find? fun x => x.1 = m.1 && x.2.1 = m.2.1 with
    | none => none
    | some x =>
      if slotExists (getTarget s m.1) tb.id m.2.1 x.2.2 m.2.2 && manSuits tb k r.maxTurn m.2.2 then
        some { turn := manTurn m.2.2, source := m.1, slot := m.2.1, manifest := m.2.2 }
      else none

/-- Candidates that the doubles give: the turns of the VALID tagged slots reported. Whether every parameter lies in one, and
whether a source suits the KeeperSpec, shows in the load, which fails without (R326; DEDUCED, log 34). -/
def doubleCands (r : Restore) : List Cand :=
  let turns := ((r.reps.flatMap fun x => x.slots.filterMap fun y => if y.2 = 1 then some y.1 else none).filter fun t => t ≤ r.maxTurn).eraseDups
  turns.map fun t => { turn := t, source := 16, slot := 0 }

/-! ### The end of a restore (R328) -/

/-- Member adopts what it has loaded. -/
def adoptLoad (t : Nat) (s : State) : State :=
  match restoreOf s t with
  | none => s
  | some (tb, k, r) => match r.load with
    | none => s
    | some l =>
      let stored := l.source < 16
      let w := payW l.manifest
      let v := Config.valsAfter s.ident.eid t l.turn
      let homes := (List.range tb.board.ring.length).foldl (fun hs j =>
        setHome (fullSlice tb.board j).1 (fullSlice tb.board j).2 (ringAt tb.board j) hs) []
      let s := modKeeper t (fun k => { k with
        params := l.got, homes := homes, moves := [], restored := true, restore := none
        step := if stored then fld (w 2) 63 16 else v 0 % 2 ^ 48
        b1pow := if stored then fld (w 3) 63 32 else v 1 % 2 ^ 32
        b2pow := if stored then fld (w 3) 31 0 else v 2 % 2 ^ 32 }) s
      let s := wroteWord 1 4 s
      let s := tableRecord 4 l.turn tb s
      let s := sendCtl k.spec.partner { ctl := 9, code := 0, table := t, prim := s.ident.eid, turn := l.turn, a := l.num } s
      respond r.mailbox { data := bytesOf [mkW [(63, 16, l.turn), (8, 8, l.slot), (4, 0, l.source)]] } s

/-- Member drops what it has loaded. -/
def dropLoad (t num : Nat) (s : State) : State :=
  match restoreOf s t with
  | none => s
  | some (_, k, r) =>
    let s := dropStore (loadWork t) (modRestore t (fun r => { r with load := none }) s)
    match r.load with
    | some l => sendCtl k.spec.partner { ctl := 9, code := 1, table := t, prim := s.ident.eid, turn := l.turn, a := num } s
    | none => s

/-- Ring position 0 sends RESTORE_GO and does what it says itself. -/
def sendGo (tb : Table) (code : Nat) (c : Cand) (num : Nat) (s : State) : State :=
  let s := sendAround tb { ctl := 9, code := code, table := tb.id, prim := s.ident.eid, turn := c.turn, a := num } s
  if code = 0 then adoptLoad tb.id s else dropLoad tb.id num s

/-- LOADED at ring position 0 from one member: every member's, or one failure, decides; `next` tries the next candidate. -/
def loadedAtZero (next : Nat → State → State) (c : Ctl) (s : State) : State :=
  match restoreOf s c.table with
  | none => s
  | some (tb, _, r) => match r.cur with
    | none => s
    | some cd =>
      if c.a ≠ r.num then s
      else if c.code = 1 then next c.table (sendGo tb 1 cd r.num s)
      else
        let done := (c.pos, true) :: r.loaded.filter fun x => x.1 ≠ c.pos
        let s := modRestore c.table (fun r => { r with loaded := done }) s
        if (List.range tb.board.ring.length).all fun i => done.any fun x => x.1 = i then sendGo tb 0 cd r.num s else s

/-- A load that has everything ends; what was loaded has gone to the partner. -/
def loadEnds (next : Nat → State → State) (t code : Nat) (s : State) : State :=
  match restoreOf s t with
  | none => s
  | some (tb, _, r) => match r.load with
    | none => s
    | some l => if l.told then s else
        sendLoaded tb l code (loadedAtZero next) (dropStore (loadWork t) (modLoad t (fun l => { l with told := true }) s))

/-- Begin the load of this member's slice of a candidate. -/
def startLoad (next : Nat → State → State) (t num turn source slot : Nat) (s : State) : State :=
  match restoreOf s t with
  | none => s
  | some (tb, k, _) =>
    let sl := fullSlice tb.board (ownPos tb tb.board)
    let l : Load := { num := num, turn := turn, source := source, slot := slot, start := sl.1, count := sl.2, since := now s }
    let s := modRestore t (fun r => { r with load := some l }) (dropStore (loadWork t) s)
    if source < 16 then issue (.loadMan t) source 4 true (namedKey (getTarget s source) t slot 1 none) [] s
    else if sl.2 = 0 then loadEnds next t 0 s
    else
      let c : Ctl := { ctl := 15, table := t, prim := s.ident.eid, turn := turn, a := sl.1, b := sl.2 }
      let s := if 1 < tb.board.ring.length then sendCtl (eidOf tb (succOf tb tb.board)) c s else s
      sendCtl k.spec.partner c s

/-- Ring position 0 tries the next candidate, at most n of them here; with none left RESTORE fails. -/
def tryNext : Nat → Nat → State → State
  | 0, _, s => s
  | n + 1, t, s =>
    match restoreOf s t with
    | none => s
    | some (tb, _, r) => match r.cands with
      | [] => respond r.mailbox (failedAns 0x34 s) (modKeeper t (fun k => { k with restore := none }) s)
      | c :: rest =>
        let num := r.num + 1
        let s := modRestore t (fun r => { r with cands := rest, cur := some c, num := num, sentAt := now s, loaded := [] }) s
        let s := sendAround tb { ctl := 14, table := t, prim := s.ident.eid, turn := c.turn, a := num
                                 b := 256 * c.slot + c.source } s
        startLoad (tryNext n) t num c.turn c.source c.slot s

/-- Try candidates until one is under way. -/
def nextCand (t : Nat) (s : State) : State :=
  match restoreOf s t with
  | none => s
  | some (_, _, r) => tryNext (r.cands.length + 1) t s

/-- Form the candidates and try the first (R325). -/
def formCands (t : Nat) (s : State) : State :=
  match restoreOf s t with
  | none => s
  | some (tb, k, r) =>
    if r.formed || r.mailbox = 64 || ownPos tb tb.board ≠ 0 then s else
    let cs := storedCands s tb k r ++ if r.mask.testBit 16 then doubleCands r else []
    nextCand t (modRestore t (fun r => { r with formed := true, cands := cs.foldl (fun a c => insertCand c a) [] }) s)

/-- Candidates are formed once every report and read is in. -/
def formCheck (t : Nat) (s : State) : State :=
  match restoreOf s t with
  | none => s
  | some (tb, _, r) =>
    let reported := !r.mask.testBit 16 || (List.range tb.board.ring.length).all fun i => r.ends.contains i
    if reported && r.reads = 0 then formCands t s else s

/-! ### RESTORE -/

def restoreSpec : CmdSpec := { code := 0x34, since := 3, len := fun _ => 16, resv := fun _ => [(138, 6), (161, 31), (192, 16)] }

/-- RESTORE (R325). -/
def restoreBody (m : Nat) (r : Request) (_ : Nat) (s : State) : Reply :=
  let t := fld (argW r.msg 0) 9 0
  let mask := fld (argW r.msg 0) 32 16
  let maxTurn := fld (argW r.msg 1) 63 16
  match findTable s t with
  | none => reject gNoObject 0 s
  | some tb =>
    if !isCrown tb then reject gRole 0 s else
    match tb.keeper with
    | none => (some (failedAns 0x34 s), s)
    | some k =>
      if tb.phase ≠ 3 then reject gState 0 s
      else if k.restore.any (fun r => r.mailbox ≠ 64) then reject gBusy 0 s
      else
        let s := needRestore t (fun x => { x with mailbox := m, mask := mask, maxTurn := maxTurn, since := now s }) s
        let s := if mask.testBit 16 then
            sendCtl k.spec.partner { ctl := 12, table := t, prim := s.ident.eid, a := if maxTurn = 2 ^ 48 - 1 then 2 ^ 64 - 1 else maxTurn } s
          else s
        if ownPos tb tb.board ≠ 0 then waits s
        else
          let reads := ((List.range 16).filter fun i => mask.testBit i).flatMap fun i => [(i, 0), (i, 1)]
          let s := modRestore t (fun x => { x with reads := reads.length }) s
          let s := forAll reads (fun x s => issue (.candRec t x.1 x.2) x.1 4 true (namedKey (getTarget s x.1) t x.2 2 none) [] s) s
          waits (formCheck t s)

def execRestore (mailbox : Nat) (s : State) : Host.Outcome State Fault Refusal :=
  .next (runCmd mailbox restoreSpec anyMsg (restoreBody mailbox) s)

/-! ### Reports of double sources -/

/-- A double that a restore may read (R325). -/
def isSource (d : Double) : Bool := !attached d || d.reused

def slotWord (x : DSlot) : Nat := (if x.opening then 0 else x.tag * 65536) + 2 * b2n x.opening + b2n x.valid

/-- DOUBLE_QUERY at a partner. -/
def queryIn (c : Ctl) (s : State) : State :=
  let ds := s.doubles.filter fun d => d.table = c.table && isSource d
  let s := forAll ds (fun d => sendCtl c.prim
    { ctl := 13, table := c.table, prim := d.primary, turn := c.turn, a := slotWord (slotOf d 0), b := slotWord (slotOf d 1) }) s
  sendCtl c.prim { ctl := 13, code := 1, table := c.table, prim := c.prim, turn := c.turn } s

def execDoubleQuery (link : Nat) (flit : List W64) (s : State) : Host.Outcome State Fault Refusal :=
  .next (ctlArrive link 12 flit queryIn s)

/-- A slot of a report: its turn, and 1 when a restore may use it. -/
def repSlot (v : Nat) : Nat × Nat := (v / 65536, if v % 4 = 1 then 1 else 0)

/-- DOUBLE_HELD: from the own partner it gets the own ring position; passed round to position 0. One that a member has sent on
names that member and its position, which is never 0 (DEDUCED, log 93). -/
def heldIn (c : Ctl) (s : State) : State :=
  match findTable s c.table with
  | none => s
  | some tb =>
    if !isCrown tb || tb.keeper.isNone then s else
    let pos := ownPos tb tb.board
    let fromRing := c.prim ≠ s.ident.eid && c.pos ≠ 0 && c.pos < tb.board.ring.length && eidOf tb (ringAt tb.board c.pos) = c.prim
    let c := if fromRing then c else { c with pos := pos, prim := s.ident.eid }
    if pos ≠ 0 then sendCtl (eidOf tb (succOf tb tb.board)) c s
    else
      let s := needRestore c.table (fun r =>
        if c.code = 1 then { r with ends := insertN c.pos r.ends }
        else { r with reps := r.reps ++ [{ pos := c.pos, eid := c.prim, slots := [repSlot c.a, repSlot c.b] }] }) s
      formCheck c.table s

def execDoubleHeld (link : Nat) (flit : List W64) (s : State) : Host.Outcome State Fault Refusal :=
  .next (ctlArrive link 13 flit heldIn s)

/-- CANDIDATE_FORM_TIMEOUT: 10 s after RESTORE. -/
def formTimeout (t : Nat) (s : State) : State :=
  match restoreOf s t with
  | none => s
  | some (_, _, r) => if r.formed || r.mailbox = 64 then s else formCands t (advanceTo (r.since + 10000000000) s)

def execCandidateFormTimeout (table : Nat) (s : State) : Host.Outcome State Fault Refusal :=
  .next (if cpRuns s then formTimeout table s else s)

/-! ### CANDIDATE, LOADED, RESTORE_GO -/

def candidateIn (c : Ctl) (s : State) : State :=
  match findTable s c.table with
  | none => s
  | some tb =>
    if !isCrown tb || tb.keeper.isNone || ownPos tb tb.board = 0 then s else
    let s := sendAround tb c s
    startLoad nextCand c.table c.a c.turn (c.b % 32) (c.b / 256 % 2) (needRestore c.table id s)

def execCandidate (link : Nat) (flit : List W64) (s : State) : Host.Outcome State Fault Refusal :=
  .next (ctlArrive link 14 flit candidateIn s)

/-- LOADED: passed round to position 0. -/
def loadedIn (c : Ctl) (s : State) : State :=
  match findTable s c.table with
  | none => s
  | some tb =>
    if !isCrown tb then s
    else if ownPos tb tb.board = 0 then loadedAtZero nextCand c s
    else sendCtl (eidOf tb (succOf tb tb.board)) c s

def execLoaded (link : Nat) (flit : List W64) (s : State) : Host.Outcome State Fault Refusal := .next (ctlArrive link 8 flit loadedIn s)

/-- LOADED_TIMEOUT: position 0 lacks a LOADED 60 s after it sent the candidate. -/
def loadedTimeout (t : Nat) (s : State) : State :=
  match restoreOf s t with
  | none => s
  | some (tb, _, r) => match r.cur with
    | none => s
    | some c => nextCand t (sendGo tb 1 c r.num (advanceTo (r.sentAt + 60000000000) s))

def execLoadedTimeout (table : Nat) (s : State) : Host.Outcome State Fault Refusal :=
  .next (if cpRuns s then loadedTimeout table s else s)

/-- RESTORE_GO at a partner: the state loaded for its primary is taken or dropped. -/
def partnerGo (c : Ctl) (s : State) : State :=
  match attachedOf s c.prim c.table with
  | none => s
  | some d =>
    if c.code = 0 then if freshDouble d then modThis d (adoptStaged c.turn) s else s
    else modThis d (fun d => { d with staged := [] }) s

/-- RESTORE_GO at a member: passed round, and done. -/
def memberGo (c : Ctl) (s : State) : State :=
  match restoreOf s c.table with
  | none => s
  | some (tb, _, r) =>
    if ownPos tb tb.board = 0 || c.prim = s.ident.eid || !(r.load.any fun l => l.num = c.a) then s else
    let s := sendAround tb c s
    if c.code = 0 then adoptLoad c.table s else dropLoad c.table c.a s

def goIn (c : Ctl) (s : State) : State := memberGo c (partnerGo c s)

def execRestoreGo (link : Nat) (flit : List W64) (s : State) : Host.Outcome State Fault Refusal := .next (ctlArrive link 9 flit goIn s)

/-! ### Loads from doubles (R327) -/

/-- Two KeeperSpecs agree in what R326 compares. -/
def specSuits (a b : KSpec) : Bool :=
  a.rule = b.rule && a.nfSkip = b.nfSkip && a.beta1 = b.beta1 && a.beta2 = b.beta2 && a.eps = b.eps

/-- A double source suits the table's KeeperSpec, as far as this partner holds a copy of it (R295, R326). -/
def sourceSuits (s : State) (d : Double) : Bool :=
  (s.doubles.filter fun e => e.table = d.table && attached e).all fun e => specSuits e.spec d.spec

/-- A partner sends what its double sources hold of a range in a VALID slot tagged with the turn. -/
def sendHeld (c : Ctl) (s : State) : State :=
  forAll (s.doubles.filter fun d => d.table = c.table && isSource d && sourceSuits s d) (fun d s =>
    match (List.range 2).find? fun i => let x := slotOf d i
        x.valid && !x.opening && x.tag = c.turn with
    | none => s
    | some i => sendSync d.spec.rule 3 c.table d.primary c.turn c.prim
        ((paramsIn (slotOf d i).params c.a c.b).filter fun p => !d.marks.contains p.param) s) s

/-- LOAD_REQ: passed round the ring and to the own partner, once for each sender and turn. -/
def loadReqIn (c : Ctl) (s : State) : State :=
  let s := sendHeld c s
  match findTable s c.table with
  | none => s
  | some tb => match tb.keeper with
    | none => s
    | some k =>
      if !isCrown tb || c.prim = s.ident.eid || k.restore.any (fun r => r.reqs.contains (c.prim, c.turn)) then s else
      let s := needRestore c.table (fun r => { r with reqs := (c.prim, c.turn) :: r.reqs }) s
      let next := eidOf tb (succOf tb tb.board)
      let s := if next = c.prim then s else sendCtl next c s
      sendCtl k.spec.partner c s

def execLoadReq (link : Nat) (flit : List W64) (s : State) : Host.Outcome State Fault Refusal := .next (ctlArrive link 15 flit loadReqIn s)

/-- Take loaded parameters, and send them to the own partner. -/
def takeLoaded (t : Nat) (ps : List KParam) (s : State) : State :=
  match restoreOf s t with
  | none => s
  | some (_, k, r) => match r.load with
    | none => s
    | some l =>
      let new := ps.filter fun p => l.start ≤ p.param && p.param < l.start + l.count
      let s := modLoad t (fun l => { l with got := putPs l.got new }) s
      let s := sendSync k.spec.rule 0 t s.ident.eid l.turn k.spec.partner new s
      if l.count ≤ (putPs l.got new).length then loadEnds nextCand t 0 s else s

/-- DoubleSync KIND 3 at a loading member. -/
def restorePkt (bytes : List Byte) (_ : Option Packet) (s : State) : State :=
  let h := syncHdrOf bytes
  match restoreOf s h.table with
  | none => s
  | some (_, k, r) =>
    if !syncOk k.spec.rule bytes || !(r.load.any fun l => l.source = 16 && l.turn = h.turn && !l.told) then s
    else takeLoaded h.table (syncParams k.spec.rule bytes) s

def execDoublesyncRestore (link : Nat) (payload : List Byte) (s : State) : Host.Outcome State Fault Refusal :=
  .next (syncArrive link 3 payload (restorePkt payload) s)

/-- LOAD_TIMEOUT: 30 s after LOAD_REQ. -/
def loadTimeout (t : Nat) (s : State) : State :=
  match restoreOf s t with
  | none => s
  | some (_, _, r) => match r.load with
    | none => s
    | some l => if l.source < 16 || l.told then s else loadEnds nextCand t 1 (advanceTo (l.since + 30000000000) s)

def execLoadTimeout (table : Nat) (s : State) : Host.Outcome State Fault Refusal :=
  .next (if cpRuns s then loadTimeout table s else s)

/-! ### Loads from storage -/

/-- Everything that a load from storage needs has been read. -/
def storedCheck (t : Nat) (s : State) : State :=
  match restoreOf s t with
  | none => s
  | some (_, k, r) => match r.load with
    | none => s
    | some l =>
      if l.told || s.store.ops.any (fun o => loadWork t o.who) then s
      else if l.count = 0 then loadEnds nextCand t 0 s
      else takeLoaded t (loadedParams k.spec.rule l) s

/-- One read is done: forming waits for one less. -/
def readDone (t : Nat) (s : State) : State := formCheck t (modRestore t (fun r => { r with reads := r.reads - 1 }) s)

/-- An operation of a restore ends. -/
def restoreResult (t : Nat) (w : StoreFor) (res : StoreResult) (s : State) : State :=
  match restoreOf s t with
  | none => s
  | some (_, k, r) =>
    match w, res with
    | .candRec _ g slot, .ok data =>
      issue (.candMan t g slot) g 4 true (namedKey (getTarget s g) t slot 1 none) [] (modRestore t (fun r => { r with recs := r.recs ++ [(g, slot, data)] }) s)
    | .candMan _ g slot, .ok data => readDone t (modRestore t (fun r => { r with mans := r.mans ++ [(g, slot, data)] }) s)
    | .candRec _ _ _, _ => readDone t s
    | .candMan _ _ _, _ => readDone t s
    | w, .ok data =>
      match r.load with
      | none => s
      | some l =>
        match w with
        | .loadMan _ =>
          if manTurn data ≠ l.turn then loadEnds nextCand t 1 s else
          let l := { l with manifest := data }
          let s := modLoad t (fun _ => l) s
          storedCheck t (forAll (neededShards k.spec.rule l) (fun i s =>
            issue (.loadIndex t i) l.source 2 false (slice (manShard data i) 32 32) [] s) s)
        | .loadIndex _ i =>
          if sm3 data ≠ slice (manShard l.manifest i) 32 32 then loadEnds nextCand t 1 s
          else storedCheck t (readChunks t i k.spec.rule l data (modLoad t (fun l => { l with index := l.index ++ [(i, data)] }) s))
        | .loadChunk _ i c =>
          let key := slice (((l.index.find? fun x => x.1 = i).map (·.2)).getD []) (32 * c) 32
          if sm3 data ≠ key then loadEnds nextCand t 1 s
          else storedCheck t (modLoad t (fun l => { l with chunks := l.chunks ++ [(i, c, data)] }) s)
        | _ => s
    | _, _ => loadEnds nextCand t 1 s

/-! ### What an operation's end does -/

/-- The end of a storage operation goes to whom it was for. -/
def storeEnds (x : StoreFor × StoreResult) (s : State) : State :=
  match x.1 with
  | .shard p t => shardResult p t x.2 s
  | .report t _ => ckptResult t x.1 x.2 s
  | .slotRec t _ => ckptResult t x.1 x.2 s
  | .slotMan t _ => ckptResult t x.1 x.2 s
  | .removeRec t => ckptResult t x.1 x.2 s
  | .putManifest t => ckptResult t x.1 x.2 s
  | .putCommit t => ckptResult t x.1 x.2 s
  | .candRec t _ _ => restoreResult t x.1 x.2 s
  | .candMan t _ _ => restoreResult t x.1 x.2 s
  | .loadMan t => restoreResult t x.1 x.2 s
  | .loadIndex t _ => restoreResult t x.1 x.2 s
  | .loadChunk t _ _ => restoreResult t x.1 x.2 s

/-- STORAGE_REPLY (R466). -/
def storageReply (src : Source) (d : List Byte) (s : State) : State :=
  if !cpRuns s || !s.boot.transport || !hostUp s src.port then turnAway src.port s else
  let s := frameIn src.port s
  if !hasIp s src.port then dropFrame src.port s
  else if !fromTarget s src then dropFrame src.port s
  else match replyIn src d s with
    | (none, s) => s
    | (some x, s) => storeEnds x s

def execStorageReply (src : Source) (datagram : List Byte) (s : State) : Host.Outcome State Fault Refusal :=
  .next (storageReply src datagram s)

/-- STORAGE_RETRY (R466). -/
def execStorageRetry (reqId : Nat) (s : State) : Host.Outcome State Fault Refusal :=
  .next (if cpRuns s then retryOp reqId s else s)

/-- STORAGE_TIMEOUT: 10 s after its first datagram an operation fails (R468, R469). -/
def storageTimeout (id : Nat) (s : State) : State :=
  match s.store.ops.find? fun o => o.reqId = id with
  | none => s
  | some o =>
    if !o.sent && !(tgtPorts s (getTarget s o.target)).isEmpty then s
    else storeEnds (o.who, .error) (endOp id (advanceTo (o.since + 10000000000) s))

def execStorageTimeout (reqId : Nat) (s : State) : Host.Outcome State Fault Refusal :=
  .next (if cpRuns s then storageTimeout reqId s else s)

end Sys2Proof.Machine
end

