-- ==== Sys2Proof/Machine/Tables.lean ====
section
/-! DEFINITION. The commands that open, load and close tables and doubles (07, 09, 10, 15): TABLE_OPEN, TABLE_CLOSE,
MOVES_APPEND, BOARD_LOAD, DOUBLE_OPEN, DOUBLE_CLOSE, DOUBLE_DETACH and DOUBLE_MOVE. -/

namespace Sys2Proof.Machine
open Sys2Proof

/-- The first failed check: what a rejected command answers. -/
abbrev Check := Option Answer

/-- Checks in order: the first that fails. -/
def firstFail : List Check → Check
  | [] => none
  | some a :: _ => some a
  | none :: cs => firstFail cs

/-- A bad value in the message, or in a bulk buffer (R485). -/
def badMsg (bit : Nat) : Check := some { status := gValue, detail := bit }
def badBuf (bit : Nat) : Check := some { status := gValue, detail := 2 ^ 63 + bit }

def failIf (b : Bool) (c : Check) : Check := if b then c else none

/-- The first of fields outside its values, in a buffer. -/
def valsBuf (bs : List Byte) (fs : List (Nat × Nat × Nat × Nat)) : Check := (firstBad bs fs).bind badBuf

def resvBuf (bs : List Byte) (fs : List (Nat × Nat)) : Check :=
  (firstSet bs fs).map fun i => { status := gReserved, detail := 2 ^ 63 + i }

/-! ### Objects in a buffer (R193, R195, R264) -/

/-- Where a BoardSpec lies in a buffer, in bytes, and its counts. -/
structure BoardAt where
  at_   : Nat
  ring  : Nat
  nspec : Nat
  seats : Nat
  deriving DecidableEq, Repr, Inhabited

def boardAt (bs : List Byte) (at_ : Nat) : BoardAt :=
  { at_ := at_, ring := bitsFld bs (8 * at_ + 41) 7, nspec := bitsFld bs (8 * at_ + 39) 2, seats := bitsFld bs (8 * at_) 21 }

def ringByte (b : BoardAt) (i : Nat) : Nat := b.at_ + 16 + 8 * i
def nspecByte (b : BoardAt) (i : Nat) : Nat := b.at_ + 16 + 8 * b.ring + 32 * i
def seatByte (b : BoardAt) (i : Nat) : Nat := b.at_ + 16 + 8 * b.ring + 32 * b.nspec + 8 * i
def boardEnd (b : BoardAt) : Nat := seatByte b b.seats

def nspecAt (bs : List Byte) (at_ : Nat) : NSpec :=
  let f := fun lo n => bitsFld bs (8 * at_ + lo) n
  { boundary := f 11 2, enable := f 8 1 = 1, format := f 0 8, rotate := f 9 1 = 1, feedback := f 10 1 = 1, residCap := f 16 16
    foldRank := f 40 8, escNum := f 48 16, seedLo := f 128 64, seedHi := f 192 64 }

def seatAt (bs : List Byte) (at_ : Nat) : SeatEntry :=
  { seat := bitsFld bs (8 * at_ + 44) 20, eid := bitsFld bs (8 * at_ + 23) 21, leaf := bitsFld bs (8 * at_ + 3) 20 }

/-- The board at a place in a buffer, with its digest (R200). -/
def readBoard (bs : List Byte) (b : BoardAt) : Board :=
  { serial := bitsFld bs (8 * b.at_ + 48) 16, params := bitsFld bs (8 * b.at_ + 64) 41
    ring := (List.range b.ring).map fun i => bitsFld bs (8 * ringByte b i + 44) 20
    nspecs := (List.range b.nspec).map fun i => nspecAt bs (nspecByte b i)
    seats := (List.range b.seats).map fun i => seatAt bs (seatByte b i)
    digest := (crc64 (slice bs b.at_ (boardEnd b - b.at_))).toNat }

/-- A KeeperSpec of 40 bytes. -/
def readKSpec (bs : List Byte) : KSpec :=
  let f := fun lo n => bitsFld bs lo n
  { rule := f 62 2, nfSkip := f 61 1 = 1, weight := f 57 4, partner := f 21 21, quota := f 0 15, beta1 := f 96 32, beta2 := f 64 32
    eps := f 160 32, b1pow0 := f 128 32, b2pow0 := f 224 32, step0 := f 272 48, crc := (crc64 bs).toNat }

def readEntry (bs : List Byte) (i : Nat) : MemberEntry :=
  { member := bitsFld bs (256 + 64 * i + 44) 20, eid := bitsFld bs (256 + 64 * i + 23) 21, relation := bitsFld bs (256 + 64 * i + 21) 2 }

/-- Reserved fields of the objects. -/
def kspecResv : List (Nat × Nat) := [(15, 6), (42, 15), (192, 32), (256, 16)]
def shiftF (d : Nat) (fs : List (Nat × Nat)) : List (Nat × Nat) := fs.map fun f => (f.1 + d, f.2)
def boardResv (b : BoardAt) : List (Nat × Nat) :=
  shiftF (8 * b.at_) [(21, 18), (105, 23)] ++
  (List.range b.ring).map (fun i => (8 * ringByte b i, 44)) ++
  (List.range b.nspec).flatMap (fun i => shiftF (8 * nspecByte b i) [(13, 3), (32, 8), (64, 64)]) ++
  (List.range b.seats).map (fun i => (8 * seatByte b i, 3))
def tspecResv (entries : Nat) : List (Nat × Nat) :=
  [(10, 10), (52, 4), (64, 32), (202, 54)] ++ (List.range entries).map fun i => (256 + 64 * i, 21)

/-! ### Counts and length (R651) -/

/-- The counts of a board lie in range and its entries in the buffer. -/
def boardCounts (bs : List Byte) (b : BoardAt) : Check :=
  firstFail
    [failIf (b.at_ + 16 ≤ bs.length && (b.seats < 1 || 1048576 < b.seats)) (badBuf (8 * b.at_)),
     failIf (b.at_ + 16 ≤ bs.length && (b.ring < 1 || 64 < b.ring)) (badBuf (8 * b.at_ + 41)),
     failIf (bs.length < nspecByte b 0) (badBuf (8 * b.at_ + 41)),
     failIf (bs.length < seatByte b 0) (badBuf (8 * b.at_ + 39)),
     failIf (bs.length < boardEnd b) (badBuf (8 * b.at_))]

/-! ### Value checks (R101, R193, R197, R265) -/

/-- Index of the first element that a later one repeats. -/
def firstTwin : Nat → List Nat → Option Nat
  | _, [] => none
  | i, x :: xs => if xs.contains x then some i else firstTwin (i + 1) xs

def isMxCode (f : Nat) : Bool := 0x10 ≤ f && f ≤ 0x14
def isZCode (f : Nat) : Bool := 0x18 ≤ f && f ≤ 0x1A

/-- R101 for one record; `lo` is its lowest bit in the buffer. -/
def nspecCheck (lo : Nat) (n : NSpec) (twin : Option Nat) : Check :=
  if !n.enable then none else
  firstFail
    [failIf (n.boundary = 3) (badBuf (lo + 11)),
     failIf (!isMxCode n.format && !isZCode n.format) (badBuf lo),
     failIf (isMxCode n.format && (n.rotate || n.escNum ≠ 0)) (badBuf lo),
     failIf (64 < n.foldRank) (badBuf (lo + 40)),
     failIf (n.feedback && n.residCap = 0) (badBuf (lo + 10)),
     twin.bind fun t => badBuf (min lo t + 11)]

/-- What a board is checked against: parts of a TableSpec. -/
structure TSpecView where
  moveFmt : Nat
  keeperEn : Bool
  tier    : Nat
  member  : Nat
  entries : List MemberEntry
  deriving DecidableEq, Repr, Inhabited

def relOf (v : TSpecView) (m : Nat) : Option Nat := (v.entries.find? fun e => e.member = m).map (·.relation)

/-- The checks of R197. -/
def boardCheck (v : TSpecView) (b : BoardAt) (x : Board) : Check :=
  let nlo := fun i => 8 * nspecByte b i
  let ringBit := fun i => 8 * ringByte b i + 44
  let twinOf := fun (i : Nat) (n : NSpec) =>
    ((List.range x.nspecs.length).find? fun j => j ≠ i && (x.nspecs.getD j {}).boundary = n.boundary).map nlo
  let badLeaf := x.seats.findIdx? fun e => ((v.tier = 1 || v.tier = 2) && e.leaf = v.member) || [some 0, some 2].contains (relOf v e.leaf)
  let crown := (v.entries.filter fun e => e.relation = 2).map (·.member)
  let ringOk := x.ring.all (fun m => m = v.member || crown.contains m) && (v.member :: crown).all x.ring.contains
  let badRing := x.ring.findIdx? fun m => m = v.member || relOf v m = some 1
  firstFail
    ([(firstTwin 0 (x.seats.map (·.seat))).bind fun i => badBuf (8 * seatByte b i + 44),
      (firstTwin 0 x.ring).bind fun i => badBuf (ringBit i)] ++
     (List.range x.nspecs.length).map (fun i => nspecCheck (nlo i) (x.nspecs.getD i {}) (twinOf i (x.nspecs.getD i {}))) ++
     [failIf (x.ring.length * 32000000000 < x.params) (badBuf (8 * b.at_ + 41)),
      failIf (v.moveFmt < 2 && b.nspec ≠ 0) (badBuf (8 * b.at_ + 39)),
      failIf ((v.moveFmt < 3 || !v.keeperEn) && x.params ≠ 0) (badBuf (8 * b.at_ + 64)),
      badLeaf.bind fun i => badBuf (8 * seatByte b i + 3),
      if 2 ≤ v.tier then failIf (!ringOk) (badBuf (ringBit 0)) else badRing.bind fun i => badBuf (ringBit i)])

/-- An FP32 code in [0, 1), or in (0, 1]. -/
def unitOpen (x : Nat) : Bool :=
  let v := decodeF fp32 x
  v.isFinite && ltV v (.num 0 0) = some false && ltV v (.num 1 0) = some true
def unitTop (x : Nat) : Bool :=
  let v := decodeF fp32 x
  v.isFinite && ltV (.num 0 0) v = some true && ltV (.num 1 0) v = some false

/-- The first KeeperSpec field that breaks R265, by its bit; the partner and QUOTA checks against the table apart. -/
def kspecBad (k : KSpec) : Option Nat :=
  ([(k.rule = 3, 62), (k.weight < 1 || 8 < k.weight, 57), (!unitOpen k.beta1, 96), (k.rule ≠ 0 && !unitOpen k.beta2, 64),
    (k.rule = 1 && !(isFiniteBits fp32 k.eps && ltV (.num 0 0) (decodeF fp32 k.eps) = some true), 160),
    (k.rule = 0 && k.beta2 ≠ 0, 64), (k.rule ≠ 1 && k.eps ≠ 0, 160), (k.rule ≠ 1 && k.b2pow0 ≠ 0, 224),
    (!unitTop k.b1pow0, 128), (k.rule = 1 && !unitTop k.b2pow0, 224)] : List (Bool × Nat)).find? (·.1) |>.map (·.2)

/-- Fields that a member outside the crown receives as 0 (R264). -/
def kspecZero (k : KSpec) : Option Nat :=
  ([(k.quota, 0), (k.partner, 21), (k.beta2, 64), (k.beta1, 96), (k.b1pow0, 128), (k.eps, 160), (k.b2pow0, 224), (k.step0, 272)] :
    List (Nat × Nat)).find? (fun f => f.1 ≠ 0) |>.map (·.2)

/-- QUOTA × 10^6 against the slice of a board (R265, R266). -/
def quotaShort (k : KSpec) (b : Board) : Bool := k.quota * 1000000 < ceilDiv b.params (max 1 b.ring.length)

/-! ### TABLE_OPEN (R650) -/

def tableOpenSpec : CmdSpec := { code := 0x20, len := fun _ => 16 }

/-- A TABLE_ID is open here, or its TABLE_OPEN waits (R193, R492). -/
def idTaken (s : State) (t : Nat) : Bool := (findTable s t).isSome || s.opening.any fun o => o.table.id = t

/-- Levels below MOVE_FMT that R569 finds. -/
def lowLevels (s : State) (fmt : Nat) (es : List MemberEntry) : List Nat :=
  (if rulesetMax s < fmt then [rulesetMax s] else []) ++
  (s.links.filterMap (·.peer)).filterMap fun p => if p.level < fmt && es.any (fun e => e.eid = p.eid) then some p.level else none

/-- QUOTA of open Keeper tables held in the crown role (R263). -/
def quotaSum (s : State) : Nat :=
  ((s.tables ++ s.opening.map (·.table)).map fun t => match t.keeper with
    | some k => if isCrown t then k.spec.quota else 0
    | none => 0).sum

/-- The table that a buffer describes. -/
def readTable (s : State) (bs : List Byte) : Table :=
  let f := fun lo n => bitsFld bs lo n
  let ec := f 192 10
  let b := readBoard bs (boardAt bs (32 + 8 * ec))
  let en := f 40 1 = 1
  let k := readKSpec (bs.drop (boardEnd (boardAt bs (32 + 8 * ec))))
  let phase := f 45 3
  { id := f 0 10, moveFmt := f 56 8, muWeight := f 48 4, phase := phase, tier := f 43 2, level := f 41 2, keeperEn := en, member := f 20 20
    deadline := f 112 16, absence := f 96 16, formats := f 128 64, entries := (List.range ec).map (readEntry bs), openedAt := now s, board := b
    lvl := { ownMax := rulesetMax s, digest := b.digest, ring := b.ring }
    keeper := if en then some { spec := k, step := k.step0, b1pow := k.b1pow0, b2pow := k.b2pow0, restored := phase ≠ 3 } else none }

def viewOf (tb : Table) : TSpecView :=
  { moveFmt := tb.moveFmt, keeperEn := tb.keeperEn, tier := tb.tier, member := tb.member, entries := tb.entries }

/-- Item 2 of R650. -/
def openCounts (bs : List Byte) : Check :=
  let ec := bitsFld bs 192 10
  let b := boardAt bs (32 + 8 * ec)
  let en := bitsFld bs 40 1 = 1
  let fin := boardEnd b + if en then 40 else 0
  firstFail
    [failIf (ec < 1 || bs.length < 32 + 8 * ec) (badBuf 192), boardCounts bs b,
     failIf (bs.length < fin) (badBuf 40), failIf (fin < bs.length) (badMsg 128)]

/-- Item 3 of R650. -/
def openResv (bs : List Byte) : Check :=
  let ec := bitsFld bs 192 10
  let b := boardAt bs (32 + 8 * ec)
  resvBuf bs (tspecResv ec ++ boardResv b ++ if bitsFld bs 40 1 = 1 then shiftF (8 * boardEnd b) kspecResv else [])

/-- Item 4 of R650: R193, R197 and R265. -/
def openValues (s : State) (major : Nat) (bs : List Byte) : Check :=
  let tb := readTable s bs
  let rel := fun r => (tb.entries.filter fun e => e.relation = r).length
  let b := boardAt bs (32 + 8 * tb.entries.length)
  let kbit := 8 * boardEnd b
  firstFail
    [valsBuf bs [(20, 20, 0, 0xFFFFE), (45, 3, 0, 3), (48, 4, 1, 8), (56, 8, 1, 3), (96, 16, 1, 65535), (112, 16, 1, 65535)],
     failIf (tb.formats &&& 0xF3F ≠ tb.formats) (badBuf 128),
     failIf (tb.absence * 1000 < tb.deadline) (badBuf 96),
     failIf (tb.keeperEn && tb.moveFmt < 3) (badBuf 40),
     failIf (rel 3 ≠ 1 || 1 < rel 0) (badBuf 277),
     failIf ((rel 0 = 1) ≠ (tb.tier ≤ 1)) (badBuf 43),
     failIf (major < tb.moveFmt) (badBuf 56),
     failIf (idTaken s tb.id) (badBuf 0),
     boardCheck (viewOf tb) b tb.board,
     match tb.keeper with
     | none => none
     | some k => if isCrown tb then firstFail
           [(kspecBad k.spec).bind fun i => badBuf (kbit + i), failIf (k.spec.partner = s.ident.eid) (badBuf (kbit + 21)),
            failIf (32000 < k.spec.quota) (badBuf kbit), failIf (quotaShort k.spec tb.board) (badBuf (8 * b.at_ + 64))]
         else firstFail [failIf (k.spec.rule = 3) (badBuf (kbit + 62)), (kspecZero k.spec).bind fun i => badBuf (kbit + i)]]

/-- Items 5 to 7 of R650, after the device key that a crown member needs (R581). -/
def openLate (s : State) (tb : Table) : Check :=
  let low := lowLevels s tb.moveFmt tb.entries
  let s' := { s with opening := s.opening ++ [{ mailbox := 64, table := tb, since := 0 }] }
  firstFail
    [failIf (tb.keeperEn && isCrown tb && s.ident.key.isNone) (some { status := gAuth }),
     failIf (!s.time.lockedOnce) (some { status := 0x10, detail := s.time.state }),
     failIf (!low.isEmpty) (some { status := gLevel, detail := (leastOf low).getD 0 }),
     failIf (32000 < quotaSum s' || 664000000000 < hbmReserved s') (some { status := gResource })]

/-- TABLE_OPEN (R192, R297, R650). -/
def tableOpenBody (m : Nat) (r : Request) (major : Nat) (s : State) : Reply :=
  match bulkRef m 16 r.msg s with
  | .error a => (some a, s)
  | .ok bs =>
    match (openCounts bs).or ((openResv bs).or ((openValues s major bs).or (openLate s (readTable s bs)))) with
    | some a => (some a, s)
    | none =>
      let tb := readTable s bs
      match tb.keeper with
      | some k =>
        if isCrown tb then
          let s := { s with opening := s.opening ++ [{ mailbox := m, table := tb, since := now s }] }
          waits (sendCtl k.spec.partner { ctl := 0, table := tb.id, prim := s.ident.eid, a := k.spec.crc } s)
        else okWith (leBytes 8 tb.board.digest) (openNow tb s)
      | none => okWith (leBytes 8 tb.board.digest) (openNow tb s)

def execTableOpen (mailbox : Nat) (s : State) : Host.Outcome State Fault Refusal :=
  .next (runCmd mailbox tableOpenSpec anyMsg (tableOpenBody mailbox) s)

/-! ### TABLE_CLOSE (R220) -/

def tableIdResv : List (Nat × Nat) := [(138, 54)]
def tableCloseSpec : CmdSpec := { code := 0x21, len := fun _ => 8, resv := fun _ => tableIdResv }

/-- TABLE_ID in W0[9:0]. -/
def argTable (r : Request) : Nat := fld (argW r.msg 0) 9 0

def tableCloseBody (r : Request) (_ : Nat) (s : State) : Reply :=
  if (findTable s (argTable r)).isNone then reject gNoObject 0 s else okay (closeTable (argTable r) s)

def execTableClose (mailbox : Nat) (s : State) : Host.Outcome State Fault Refusal :=
  .next (runCmd mailbox tableCloseSpec anyMsg tableCloseBody s)

/-! ### BOARD_LOAD (R198, R266) -/

def boardLoadSpec : CmdSpec := { code := 0x23, len := fun _ => 24, resv := fun _ => tableIdResv }

def boardLoadCheck (tb : Table) (bs : List Byte) : Check :=
  let b := boardAt bs 0
  let x := readBoard bs b
  firstFail
    [boardCounts bs b, failIf (boardEnd b < bs.length) (badMsg 192), resvBuf bs (boardResv b), boardCheck (viewOf tb) b x,
     failIf (draining tb) (some { status := gBusy }),
     failIf (isCrown tb && tb.keeper.any fun k => quotaShort k.spec x) (some { status := gResource })]

def boardLoadBody (m : Nat) (r : Request) (_ : Nat) (s : State) : Reply :=
  match findTable s (argTable r) with
  | none => reject gNoObject 0 s
  | some tb => match bulkRef m 24 r.msg s with
    | .error a => (some a, s)
    | .ok bs => match boardLoadCheck tb bs with
      | some a => (some a, s)
      | none => okay (modTable tb.id (fun tb => { tb with other := some (readBoard bs (boardAt bs 0), tb.boardNum + 1, false) }) s)

def execBoardLoad (mailbox : Nat) (s : State) : Host.Outcome State Fault Refusal :=
  .next (runCmd mailbox boardLoadSpec anyMsg (boardLoadBody mailbox) s)

/-! ### MOVES_APPEND (R201, R204, R205) -/

/-- The lowest format that holds an opcode (Table 7-5); none: not listed. -/
def opcodeFmt (op : Nat) : Option Nat :=
  if [1, 2, 3, 4, 0x10, 0x30, 0x3F].contains op then some 1 else if op = 0x11 then some 2
  else if op = 0x20 || op = 0x21 then some 3 else none

/-- Reserved fields of a move, and fields outside the table's format, lowest bit first (Tables 7-6, 7-7). -/
def moveResv (fmt : Nat) (m : List W64) : List (Nat × Nat) :=
  let op := opcode m
  let tail : List (Nat × Nat) := [(64, 64), (128, 64), (192, 64)]
  if !(opcodeFmt op).any (fun f => f ≤ fmt) then []
  else if op = 1 then [(16, 40), (112, 16), (128, 64), (192, 64)]
  else if op = 2 || op = 0x30 then (16, 40) :: tail
  else if op = 3 || op = 0x3F then (0, 56) :: tail
  else if op = 4 then (3, 53) :: tail
  else if op = 0x11 then (3, 33) :: (44, 12) :: tail
  else if op = 0x20 then [(0, 56), (128, 32), (192, 64)]
  else if op = 0x21 then (4, 52) :: tail
  else
    let kind := fld (wd m 0) 55 53
    (if kind = 0 || kind = 4 then [] else [(0, 20)]) ++
    (if fmt < 2 || !bitAt (wd m 0) 48 then [(36, 8)] else []) ++ [(44, 3)] ++
    (if fmt < 3 then [(47, 1)] else []) ++ (if fmt < 2 then [(48, 1)] else []) ++
    (if fmt < 3 || !bitAt (wd m 0) 47 then [(64, 32)] else []) ++ [(163, 29), (192, 16)] ++
    (if fmt < 2 then [(208, 24), (232, 24)] else [])

/-- Fields of a move that must hold a listed value: lowest bit, width, least, greatest. -/
def moveVals (m : List W64) : List (Nat × Nat × Nat × Nat) :=
  let op := opcode m
  if op = 1 || op = 2 then [(0, 16, 1, 65535)]
  else if op = 4 then [(0, 3, 0, 2)]
  else if op = 0x11 then [(0, 3, 1, 7)]
  else if op = 0x10 then [(50, 3, 0, 6), (53, 3, 0, 4), (128, 35, 1, 32000000000)]
  else []

/-- Format codes of Table 2-1. -/
def isFormat (c : Nat) : Bool := c ≤ 5 || (8 ≤ c && c ≤ 0xB) || (0x10 ≤ c && c ≤ 0x14) || (0x18 ≤ c && c ≤ 0x1A) || c = 0x20

/-- Pairs of Table 2-3. -/
def pairAllowed (i r : Nat) : Bool :=
  if i ≤ 4 then r ≤ 4 else if i = 5 then r = 5 || r = 0 else 8 ≤ i && i ≤ 0xB && r = i

/-- OP is allowed for a format by Table 6-2. -/
def opAllowed (op i : Nat) : Bool := if 8 ≤ i then op ≠ 1 && op ≤ 6 else op ≤ 3

/-- The state of the append checks of a table. -/
structure Hist where
  round : Option Nat
  turn  : Option Nat
  kt    : Bool
  ck    : Bool
  op    : Nat
  deriving DecidableEq, Repr, Inhabited

def histOf (tb : Table) : Hist := { round := tb.lastRound, turn := tb.lastTurn, kt := tb.seenKt, ck := tb.seenCk, op := tb.lastOp }

/-- The fields at fault of a ROUND_OPEN, by lowest bit (R39, R40, R98, R150, R205). -/
def roundBad (tb : Table) (h : Hist) (c : RoundSpec) : List (Bool × Nat) :=
  [(!isFormat c.inFmt, 20), (!isFormat c.resFmt, 28), (!tb.formats.testBit c.inFmt, 20), (!tb.formats.testBit c.resFmt, 28),
   (!pairAllowed c.inFmt c.resFmt, 20), (c.inFmt = 5 && c.bank, 20), (3 ≤ c.kind && c.resFmt ≠ c.inFmt, 20),
   (!opAllowed c.op c.inFmt, 20), (3 ≤ c.kind && c.op ≠ 0, 50), (h.round.any fun r => c.round ≤ r, 96),
   (c.narrow && !(c.kind ≤ 2 && c.op ≤ 1 && c.inFmt ≤ 4), 20), (!c.narrow && c.foldRows ≠ 0, 48), ((c.foldRows = 0) ≠ (c.foldCols = 0), 208),
   (c.keeper && !(tb.keeperEn && c.kind = 1 && c.op ≤ 1 && c.bank), 47), (c.keeper && 4 < c.inFmt, 20), (c.keeper && !h.kt, 47)]

/-- The append check of one record: the lowest bit of the field at fault, and the state after it. -/
def appendCheck (tb : Table) (h : Hist) (m : List W64) : Option Nat × Hist :=
  let op := opcode m
  let turned := h.turn.isSome
  let c := roundSpecOf m
  let first : List (Bool × Nat) :=
    [(h.op = 0x3F || !(opcodeFmt op).any (fun f => f ≤ tb.moveFmt), 56)]
  let vals := (firstBad (bytesOf m) (moveVals m)).map fun i => (true, i)
  let rest : List (Bool × Nat) :=
    [(tb.keeperEn && h.op = 0x30 && op ≠ 1, 56), ([0x10, 0x11, 0x20, 0x21].contains op && !turned, 56),
     (op = 1 && h.turn.any (fun t => fld (wd m 1) 47 0 ≠ t + 1), 64), (op = 0x20 && (!tb.keeperEn || h.kt), 56),
     (op = 0x21 && (!tb.keeperEn || h.ck), 56)]
  let bad := (first ++ vals.toList ++ rest ++ if op = 0x10 then roundBad tb h c else []).find? (·.1)
  (bad.map (·.2),
   if op = 1 then { h with turn := some (fld (wd m 1) 47 0), kt := false, ck := false, op := op }
   else if op = 0x10 then { h with round := some c.round, op := op }
   else { h with kt := h.kt || op = 0x20, ck := h.ck || op = 0x21, op := op })

/-- Check records in order: the bit of the first field at fault, counted from the segment's start. -/
def appendChecks (tb : Table) : Nat → Hist → List (List W64) → Except Nat Hist
  | _, h, [] => .ok h
  | i, h, m :: ms => match appendCheck tb h m with
    | (some b, _) => .error (256 * i + b)
    | (none, h) => appendChecks tb (i + 1) h ms

/-- Move records in bytes. -/
def recordsOf (bs : List Byte) : List (List W64) := (List.range (bs.length / 32)).map fun i => wordsOf 4 (slice bs (32 * i) 32)

/-- Reserved fields of the records of a segment from a bit on. -/
def recordsResv (fmt lo : Nat) (bs : List Byte) : List (Nat × Nat) :=
  let ms := recordsOf bs
  (List.range ms.length).flatMap fun i => shiftF (lo + 256 * i) (moveResv fmt (ms.getD i []))

def inlineOf (msg : List Byte) : Nat := fld (argW msg 0) 18 16

def movesAppendSpec (s : State) : CmdSpec :=
  { code := 0x22
    len := fun msg => if msg.length < 32 then 16 else if inlineOf msg = 0 then 32 else 16 + 32 * inlineOf msg
    resv := fun msg =>
      let fmt := ((findTable s (fld (argW msg 0) 9 0)).map (·.moveFmt)).getD 3
      [(138, 6), (147, 45)] ++ if inlineOf msg = 0 then [] else recordsResv fmt 256 (msg.drop 32) }

/-- Append records whose DETAIL counts from `base`. -/
def appendMoves (tb : Table) (first base : Nat) (bs : List Byte) (s : State) : Reply :=
  let ms := recordsOf bs
  if first ≠ tb.appended then reject gSequence tb.appended s
  else match appendChecks tb 0 (histOf tb) ms with
    | .error b => reject gValue (base + b) s
    | .ok h =>
      if 1048576 < tb.moves.length + ms.length then reject gResource 0 s
      else okWith (leBytes 8 (tb.appended + ms.length)) (wroteWord 1 12 (modTable tb.id (fun tb => { tb with
        moves := tb.moves ++ ms, appended := tb.appended + ms.length, lastRound := h.round, lastTurn := h.turn, seenKt := h.kt
        seenCk := h.ck, lastOp := h.op }) s))

def movesAppendBody (m : Nat) (r : Request) (_ : Nat) (s : State) : Reply :=
  match findTable s (argTable r) with
  | none => reject gNoObject 0 s
  | some tb =>
    let first := (argW r.msg 1).toNat
    if inlineOf r.msg ≠ 0 then appendMoves tb first 256 (r.msg.drop 32) s
    else match bulkRef m 32 r.msg s with
      | .error a => (some a, s)
      | .ok bs =>
        if bs.length % 32 ≠ 0 then reject gValue 256 s
        else match resvBuf bs (recordsResv tb.moveFmt 0 bs) with
          | some a => (some a, s)
          | none => appendMoves tb first (2 ^ 63) bs s

def execMovesAppend (mailbox : Nat) (s : State) : Host.Outcome State Fault Refusal :=
  .next (runCmd mailbox (movesAppendSpec s) anyMsg (movesAppendBody mailbox) s)

/-! ### Doubles (R295, R296, R298, R655) -/

def argPrim (r : Request) : Nat := fld (argW r.msg 0) 63 43

/-- LPDDR5X bytes of a double: two slots and a gradient log (R296). -/
def doubleBytes (quota rule : Nat) : Nat := quota * 1000000 * (2 * bpp rule + 2)

/-- Bytes of the double region in use (R296, R513). -/
def doubleRegion (s : State) : Nat := (s.doubles.map fun d => doubleBytes d.room d.spec.rule).sum

def doubleOpenSpec : CmdSpec :=
  { code := 0x30, since := 3, len := fun _ => 48, resv := fun _ => [(138, 11), (170, 1)] ++ shiftF 192 kspecResv }

/-- A new double: its slots (R299). -/
def newDouble (prim table : Nat) (k : KSpec) : Double :=
  let x : DSlot := { opening := true, valid := true, step := k.step0, b1pow := k.b1pow0, b2pow := k.b2pow0 }
  { primary := prim, table := table, spec := k, room := k.quota, slots := [x, {}] }

/-- A double that takes over a detached one's slots and log. -/
def takeOver (prim table : Nat) (k : KSpec) (d : Double) : Double :=
  { newDouble prim table k with room := d.room, slots := d.slots.map (fun x => { x with held := false }), reused := true, marks := d.marks }

def doubleOpenBody (r : Request) (_ : Nat) (s : State) : Reply :=
  let prim := argPrim r
  let t := argTable r
  let reuse := fld (argW r.msg 0) 41 21
  let k := readKSpec (r.msg.drop 24)
  let bad := firstFail
    [failIf (rulesetMax s < 3) (some { status := gLevel, detail := rulesetMax s }),
     failIf (!inService s) (some { status := 0x10, detail := s.time.state }),
     failIf (attachedOf s prim t).isSome (badMsg 128), failIf (k.partner ≠ s.ident.eid) (badMsg 213),
     (kspecBad k).bind fun i => badMsg (192 + i), failIf (32000 < k.quota) (badMsg 192)]
  match bad with
  | some a => (some a, s)
  | none =>
    if reuse = 0x1FFFFF then
      if 32000 < (s.doubles.map (·.spec.quota)).sum + k.quota || 960000000000 < doubleRegion s + doubleBytes k.quota k.rule then
        reject gResource 0 s
      else okay (wroteWord 2 8 { s with doubles := s.doubles ++ [newDouble prim t k] })
    else match detachedOf s reuse t with
      | none => reject gNoObject 0 s
      | some d =>
        if d.spec.rule ≠ k.rule then reject gValue 149 s
        else if d.spec.quota < k.quota then reject gResource 0 s
        else
          let s := closeDouble d s
          okay { s with doubles := s.doubles ++ [takeOver prim t k d] }

def execDoubleOpen (mailbox : Nat) (s : State) : Host.Outcome State Fault Refusal :=
  .next (runCmd mailbox doubleOpenSpec anyMsg doubleOpenBody s)

def doubleKeySpec (code : Nat) : CmdSpec := { code := code, since := 3, len := fun _ => 8, resv := fun _ => [(138, 33)] }

def doubleCloseBody (r : Request) (_ : Nat) (s : State) : Reply :=
  match doubleOf s (argPrim r) (argTable r) with
  | none => reject gNoObject 0 s
  | some d => okay (closeDouble d s)

def execDoubleClose (mailbox : Nat) (s : State) : Host.Outcome State Fault Refusal :=
  .next (runCmd mailbox (doubleKeySpec 0x31) anyMsg doubleCloseBody s)

/-- Freeze a double: it stops replaying, and its slots keep their contents. -/
def freeze (num : Nat) (d : Double) : Double :=
  { d with
    state := 4, order := num, log := none, dDbl := none, dPrim := none, tie := false, repPrim := none, repOwn := none, early := []
    lateSync := [], ckptReq := [] }

def doubleDetachBody (r : Request) (_ : Nat) (s : State) : Reply :=
  match attachedOf s (argPrim r) (argTable r) with
  | some d => okay { modThis d (freeze s.detachNum) s with detachNum := s.detachNum + 1 }
  | none => if (detachedOf s (argPrim r) (argTable r)).isSome then reject gState 0 s else reject gNoObject 0 s

def execDoubleDetach (mailbox : Nat) (s : State) : Host.Outcome State Fault Refusal :=
  .next (runCmd mailbox (doubleKeySpec 0x32) anyMsg doubleDetachBody s)

/-- DOUBLE_MOVE (R312): a partner is another GT64 (R35). -/
def doubleMoveBody (r : Request) (_ : Nat) (s : State) : Reply :=
  match findTable s (argTable r) with
  | none => reject gNoObject 0 s
  | some tb =>
    if !isCrown tb then reject gRole 0 s
    else if tb.keeper.isNone then reject gNoObject 0 s
    else if argPrim r = s.ident.eid then reject gValue 171 s
    else okay (modPrim tb.id (fun d => { d with moveTo := some (argPrim r) }) s)

def execDoubleMove (mailbox : Nat) (s : State) : Host.Outcome State Fault Refusal :=
  .next (runCmd mailbox (doubleKeySpec 0x33) anyMsg doubleMoveBody s)

end Sys2Proof.Machine
end

