-- ==== Sys2Proof/Machine/Flags.lean ====
section
/-! DEFINITION. The objects of Table 15-7 and of the later chapters' object tables: their map, and the words that a read
of each returns (R498). Counters show modulo their width (R550). -/

namespace Sys2Proof.Machine
open Sys2Proof

/-! ### The object map -/

/-- A row of an object table: number, bytes, greatest key values, whether it may be written, first major, and the
reserved fields of its layout (lowest bit, width). -/
structure ObjInfo where
  num   : Nat
  bytes : Nat
  keyA  : Option Nat
  keyB  : Option Nat
  write : Bool
  since : Nat
  resv  : List (Nat × Nat)
  deriving DecidableEq, Repr, Inhabited

/-- Objects of rounds, tables, time, the Keeper and doubles (chapters 02 to 10). -/
def objRounds : List ObjInfo :=
  [
   { num := 0x0201, bytes := 48, keyA := some 1023, keyB := some 4294967295, write := false, since := 1,
     resv := [(26, 5), (112, 16), (176, 16), (240, 16), (304, 16), (368, 16)] },  -- RoundFormatCounters
   { num := 0x0401, bytes := 72, keyA := some 1023, keyB := some 4294967295, write := false, since := 2,
     resv := [(3, 5), (28, 3), (112, 16), (176, 16), (240, 16), (304, 16), (368, 16), (432, 16), (496, 16), (560, 8)] },  -- RoundNarrowCounters
   { num := 0x0501, bytes := 32, keyA := some 1023, keyB := none, write := false, since := 2,
     resv := [(4, 12), (26, 38)] },  -- TableMuCounters
   { num := 0x0601, bytes := 72, keyA := some 1023, keyB := some 4294967295, write := false, since := 1,
     resv := [(163, 15), (227, 8)] },  -- RoundCompletion
   { num := 0x0701, bytes := 48, keyA := some 1023, keyB := none, write := false, since := 1,
     resv := [(0, 16), (26, 6), (64, 16)] },  -- TableMoves
   { num := 0x0801, bytes := 40, keyA := none, keyB := none, write := false, since := 1,
     resv := [(85, 19)] },  -- TimeStatus
   { num := 0x0802, bytes := 48, keyA := some 1023, keyB := none, write := false, since := 1,
     resv := [(26, 14), (64, 16), (320, 43)] },  -- TableBarrier
   { num := 0x0901, bytes := 88, keyA := some 1023, keyB := none, write := false, since := 3,
     resv := [(15, 1), (26, 30), (64, 16), (368, 16), (432, 16)] },  -- KeeperStatus
   { num := 0x0A01, bytes := 72, keyA := some 1023, keyB := some 2097151, write := false, since := 3,
     resv := [(0, 16), (26, 5), (52, 4), (64, 13), (128, 13), (192, 16), (512, 32)] },  -- DoubleStatus
   { num := 0x0A02, bytes := 32, keyA := none, keyB := none, write := true, since := 3,
     resv := [(196, 44)] },  -- HazardSpec
   { num := 0x0A03, bytes := 32, keyA := some 15, keyB := none, write := true, since := 3,
     resv := [(0, 44)] }  -- CheckpointTarget
  ]

/-- Objects of the Pot, routes, links, host ports and control (chapters 11 to 15). -/
def objSwitch : List ObjInfo :=
  [
   { num := 0x0B01, bytes := 8, keyA := some 511, keyB := none, write := true, since := 1,
     resv := [(9, 23), (36, 4), (48, 16)] },  -- PortClassConfig
   { num := 0x0B02, bytes := 8, keyA := none, keyB := none, write := true, since := 1,
     resv := [(18, 46)] },  -- SquarePriority
   { num := 0x0B03, bytes := 48, keyA := none, keyB := none, write := false, since := 1,
     resv := [] },  -- PotStatus
   { num := 0x0C01, bytes := 32, keyA := none, keyB := none, write := true, since := 1,
     resv := [(10, 30), (208, 48)] },  -- RouteControl
   { num := 0x0C02, bytes := 64, keyA := none, keyB := none, write := false, since := 1,
     resv := [] },  -- RouteCounters
   { num := 0x0C03, bytes := 32, keyA := some 7, keyB := none, write := true, since := 1,
     resv := [(21, 11), (106, 22)] },  -- KibitzSpec
   { num := 0x0C04, bytes := 4, keyA := some 3, keyB := some 2097151, write := false, since := 1,
     resv := [(21, 8)] },  -- EidEntry
   { num := 0x0C05, bytes := 64, keyA := some 3, keyB := some 4095, write := false, since := 1,
     resv := [] },  -- PathSet
   { num := 0x0C06, bytes := 8, keyA := some 3, keyB := some 65535, write := false, since := 1,
     resv := [(0, 34)] },  -- GroupEntry
   { num := 0x0C07, bytes := 4, keyA := some 3, keyB := some 1048575, write := false, since := 1,
     resv := [(30, 2)] },  -- Leg
   { num := 0x0D01, bytes := 8, keyA := some 63, keyB := none, write := true, since := 1,
     resv := [(24, 8), (34, 30)] },  -- PortLinkConfig
   { num := 0x0D02, bytes := 64, keyA := some 511, keyB := none, write := false, since := 1,
     resv := [(30, 5)] },  -- LinkStatus
   { num := 0x0E01, bytes := 56, keyA := some 7, keyB := none, write := false, since := 1,
     resv := [(48, 7)] },  -- HostPortStatus
   { num := 0x0F01, bytes := 24, keyA := none, keyB := none, write := false, since := 1,
     resv := [(21, 3), (128, 32)] },  -- DeviceInfo
   { num := 0x0F02, bytes := 40, keyA := none, keyB := none, write := false, since := 1,
     resv := [(0, 26)] },  -- DeviceStatus
   { num := 0x0F03, bytes := 48, keyA := none, keyB := none, write := false, since := 1,
     resv := [(0, 58), (320, 41)] },  -- PawnRecord
   { num := 0x0F04, bytes := 224, keyA := none, keyB := none, write := true, since := 1,
     resv := [(16, 25), (64, 64)] },  -- TelemetrySpec
   { num := 0x0F05, bytes := 64, keyA := some 63, keyB := none, write := false, since := 1,
     resv := [(6, 58)] }  -- PortCounters
  ]

/-- Objects of memory, accounting, levels, identity and power (chapters 16 to 20). -/
def objDevice : List ObjInfo :=
  [
   { num := 0x1001, bytes := 56, keyA := some 3, keyB := none, write := false, since := 1,
     resv := [(48, 14), (320, 32)] },  -- MemTierStatus
   { num := 0x1002, bytes := 40, keyA := some 1023, keyB := none, write := false, since := 1,
     resv := [(0, 16), (26, 38)] },  -- TableMemory
   { num := 0x1003, bytes := 32, keyA := some 255, keyB := none, write := false, since := 1,
     resv := [(128, 16), (155, 15)] },  -- MemErrorLog
   { num := 0x1004, bytes := 16, keyA := none, keyB := none, write := true, since := 1,
     resv := [(1, 31), (64, 64)] },  -- ScrubControl
   { num := 0x1005, bytes := 16, keyA := none, keyB := none, write := true, since := 1,
     resv := [(0, 48)] },  -- ErrorInject
   { num := 0x1101, bytes := 64, keyA := some 67108863, keyB := none, write := false, since := 1,
     resv := [(90, 9), (148, 12), (192, 16), (419, 29)] },  -- ScoresheetRecord
   { num := 0x1102, bytes := 40, keyA := none, keyB := none, write := false, since := 1,
     resv := [(192, 32)] },  -- ScoresheetStatus
   { num := 0x1103, bytes := 88, keyA := some 1023, keyB := none, write := false, since := 1,
     resv := [(0, 16), (26, 38)] },  -- TableIdle
   { num := 0x1104, bytes := 32, keyA := some 1024, keyB := none, write := false, since := 1,
     resv := [(11, 53)] },  -- TableStray
   { num := 0x1201, bytes := 16, keyA := some 1023, keyB := none, write := false, since := 1,
     resv := [(0, 16), (26, 30)] },  -- TableLevel
   { num := 0x1202, bytes := 16, keyA := some 511, keyB := none, write := false, since := 1,
     resv := [(21, 37), (60, 3)] },  -- PeerLevel
   { num := 0x1203, bytes := 32, keyA := none, keyB := none, write := false, since := 1,
     resv := [(0, 28)] },  -- PawnHistory
   { num := 0x1301, bytes := 48, keyA := none, keyB := none, write := false, since := 1,
     resv := [(21, 24), (128, 32), (320, 64)] },  -- DeviceConfig
   { num := 0x1302, bytes := 32, keyA := some 7, keyB := none, write := false, since := 1,
     resv := [(96, 16), (124, 4)] },  -- HostPortConfig
   { num := 0x1401, bytes := 40, keyA := none, keyB := none, write := false, since := 1,
     resv := [(256, 32)] },  -- PowerStatus
   { num := 0x1402, bytes := 24, keyA := none, keyB := none, write := false, since := 1,
     resv := [(21, 21)] },  -- StartupStatus
   { num := 0x1403, bytes := 8, keyA := none, keyB := none, write := true, since := 1,
     resv := [(0, 48)] }  -- AlertControl
  ]

def objInfos : List ObjInfo := objRounds ++ objSwitch ++ objDevice

/-- An object that a session of a major knows (R482). -/
def objInfo (major num : Nat) : Option ObjInfo := objInfos.find? fun o => o.num = num && o.since ≤ major

/-- Reserved fields of an object's bytes: those of a Scoresheet record and of an EID entry hang on its type. -/
def objResv (o : ObjInfo) (bs : List Byte) : List (Nat × Nat) :=
  if o.num = 0x1101 then
    let t := bitsFld bs 124 4
    if t = 1 then [(90, 9), (148, 12), (192, 16), (419, 29)]
    else if t = 2 then [(64, 16), (90, 29), (149, 43), (192, 16)]
    else if t = 3 then [(90, 23), (148, 44), (192, 16)] else []
  else if o.num = 0x0C04 then entryResv 0 0 (leAt bs 0 4)
  else o.resv

/-- A signed number as an n-bit field. -/
def twos (n : Nat) (v : Int) : Nat := (v % (2 : Int) ^ n).toNat

/-- A 64-bit word of one number. -/
def wNat (v : Nat) : W64 := mkW [(63, 0, v)]

/-! ### Rounds and tables (02 to 08) -/

/-- RoundFormatCounters (Table 2-7). -/
def formatWords (tb : Table) (r : Round) : List W64 :=
  [mkW [(63, 32, r.spec.round), (31, 31, b2n r.done), (25, 16, tb.id), (15, 8, r.spec.resFmt), (7, 0, r.spec.inFmt)],
   mkW [(47, 0, r.saturated)], mkW [(47, 0, r.flushed)], mkW [(47, 0, r.escalated)], mkW [(47, 0, r.nonfinite)],
   mkW [(47, 0, r.elements)]]

/-- RoundNarrowCounters (Table 4-4). -/
def narrowWords (tb : Table) (r : Round) (n : NarrowCnt) : List W64 :=
  [mkW [(63, 32, r.spec.round), (31, 31, b2n r.done), (27, 26, n.boundary), (25, 16, tb.id), (15, 8, n.format), (2, 2, b2n n.feedback),
        (1, 1, b2n n.rotate), (0, 0, b2n n.folded)],
   mkW [(47, 0, n.blocks)], mkW [(47, 0, n.zeroBlocks)], mkW [(47, 0, n.escBlocks)], mkW [(47, 0, n.nfBlocks)], mkW [(47, 0, n.epsLow)],
   mkW [(47, 0, n.epsMid)], mkW [(47, 0, n.epsHigh)], mkW [(63, 56, n.foldZero), (47, 0, n.residZero)]]

/-- TableMuCounters (Table 5-3). -/
def muWords (tb : Table) : List W64 :=
  [mkW [(25, 16, tb.id), (3, 0, tb.muWeight)], wNat tb.muTasks, wNat tb.muQuanta, wNat tb.rotBlocks]

/-- RoundCompletion (Table 6-8). -/
def completionWords (tb : Table) (r : Round) : List W64 :=
  [mkW [(63, 32, r.spec.round), (31, 28, r.status), (27, 27, b2n (r.status ≠ 0)), (26, 26, b2n (notices r)), (25, 16, tb.id),
        (15, 8, r.spec.resFmt), (7, 5, r.spec.kind), (4, 2, r.spec.op), (1, 1, b2n r.spec.bank), (0, 0, b2n r.epoch)],
   wNat r.digest, mkW [(63, 52, r.chunkLen / 32), (51, 50, tb.tier), (34, 0, r.elemLo)],
   mkW [(63, 44, r.faultSrc), (43, 43, b2n r.faultMem), (34, 0, r.elemHi)],
   mkW [(63, 32, chunkCount tb r), (31, 0, r.spilled)], wNat r.tOpen, wNat r.tDone, mkW [(63, 32, r.faultChunk), (31, 0, r.dropped)],
   wNat r.sliceDigest]

/-- STATE of TableMoves (Table 7-11). -/
def moveState (tb : Table) : Nat := if tb.closing then 4 else if tb.halt ≠ 0 then 3 else if tb.waiting then 2 else 1

/-- TableMoves (Table 7-11). -/
def movesWords (tb : Table) : List W64 :=
  let drains := tb.other.any fun o => o.2.2
  [mkW [(63, 60, moveState tb), (59, 57, tb.phase), (56, 55, tb.moveFmt), (54, 54, b2n tb.epoch),
        (53, 53, b2n (tb.other.isSome && !drains)), (52, 52, b2n drains), (51, 48, tb.halt), (47, 32, tb.board.serial), (25, 16, tb.id)],
   mkW [(63, 16, tb.turn)], wNat tb.executed, wNat tb.appended, wNat tb.board.digest, wNat tb.starved]

/-- TimeStatus (Table 8-5). -/
def timeWords (s : State) : List W64 :=
  let t := s.time
  let up := t.upLink.getD 0
  [wNat (now s),
   mkW [(63, 62, t.state), (61, 61, b2n t.isRoot), (60, 53, t.priority), (52, 49, t.hops), (48, 43, portOf up), (42, 40, up), (20, 0, t.rootEid)],
   mkW [(63, 32, t.pathBound), (31, 0, twos 32 t.theta)], wNat t.lockLosses, wNat (twos 64 t.ptpOffset)]

/-- TableBarrier (Table 8-7): the pending barrier, or the last one released. -/
def barrierStatus (tb : Table) : List W64 :=
  let b := tb.bar
  let at_ := if b.joined then (b.turn, b.seq) else b.released.getD (0, 0)
  let st := if !b.joined then 0 else if b.releaseAt.isSome then 2 else 1
  let x := b.stalled.getD {}
  [mkW [(63, 62, st), (61, 61, b2n b.stalled.isSome), (60, 60, b2n x.isMember), (59, 40, x.id), (25, 16, tb.id), (15, 0, at_.2)],
   mkW [(63, 16, at_.1)], wNat (b.releaseAt.getD b.lastAt), mkW [(63, 32, b.late), (31, 0, b.maxLate)],
   mkW [(63, 32, b.unlocked), (31, 0, b.stray)], mkW [(63, 44, b.haltSrc.getD 0), (43, 43, b2n b.haltSrc.isSome)]]

/-! ### The Keeper and doubles (09, 10) -/

/-- KeeperStatus (Table 9-10). -/
def keeperWords (tb : Table) (k : Keeper) : List W64 :=
  [mkW [(63, 62, k.spec.rule), (61, 61, b2n k.spec.nfSkip), (60, 60, b2n (k.params.any (·.damaged))), (59, 56, k.spec.weight),
        (25, 16, tb.id), (14, 0, k.spec.quota)],
   mkW [(63, 16, k.step)], mkW [(63, 32, k.b1pow), (31, 0, k.b2pow)], wNat (heldBy k.homes tb.member), wNat k.updated,
   mkW [(47, 0, k.nfSkipped)], mkW [(47, 0, k.nfStored)], mkW [(63, 32, k.lastC), (31, 0, k.comFailed)], wNat k.lastN2,
   mkW [(63, 32, k.clipGroups), (31, 0, k.clippedGroups)], wNat k.fed]

/-- DoubleStatus at the primary end (R331). -/
def primWords (tb : Table) (k : Keeper) : List W64 :=
  let d := k.dbl
  [mkW [(62, 60, d.state), (59, 56, d.lastVerdict), (51, 31, k.spec.partner), (25, 16, tb.id)], 0, 0, mkW [(63, 16, d.verified)],
   mkW [(63, 32, d.tiebreaks), (31, 0, d.repairs)], 0, mkW [(63, 32, d.committed), (31, 0, d.abandoned)], 0, mkW [(63, 32, d.hazards)]]

/-- A slot's word. -/
def doubleSlotWord (x : DSlot) : W64 :=
  mkW [(63, 16, if x.opening then 0 else x.tag), (15, 15, b2n x.valid), (14, 14, b2n x.held), (13, 13, b2n x.opening)]

/-- DoubleStatus at a partner (R331). -/
def partnerWords (d : Double) : List W64 :=
  [mkW [(63, 63, 1), (62, 60, d.state), (59, 56, d.lastVerdict), (51, 31, d.primary), (25, 16, d.table)], doubleSlotWord (slotOf d 0),
   doubleSlotWord (slotOf d 1), mkW [(63, 16, d.verified)], mkW [(63, 32, d.tiebreaks), (31, 0, d.repairs)], wNat d.copied,
   mkW [(31, 0, d.abandoned)], wNat d.dedup, mkW [(63, 32, d.hazards)]]

def targetWords (t : Target) : List W64 := [t.w0, t.w1, t.w2, t.w3]

/-! ### The switch core and routes (11, 12) -/

/-- PortClassConfig (Table 11-3). -/
def classWord (c : ClassCfg) : W64 := mkW [(47, 40, c.quantum), (35, 32, twos 4 c.alpha), (8, 0, c.qmin)]

/-- SquarePriority (Table 11-5). -/
def prioWord (p : List Nat) : W64 := mkW ((List.range 6).map fun i => (3 * i + 2, 3 * i, p.getD i 0))

/-- PotStatus (Table 11-6). -/
def potWords (s : State) : List W64 :=
  [mkW [(63, 32, sharedSize s), (31, 0, sharedFree s)], mkW [(63, 32, redCells s), (31, 0, stageShared s)],
   mkW [(63, 32, qminTotal s), (31, 0, queueShared s)], wNat s.pot.spilledChunks, wNat s.pot.admitWaits, wNat s.pot.staleGrants]

/-- RouteControl (Table 12-7). -/
def routeWords (s : State) : List W64 :=
  let r := s.route
  let ends := (r.banks.filter fun b => b.state = 2).map (·.drainEnd)
  [mkW ([(63, 48, r.drainUs), (47, 40, r.reorderUs), (9, 8, r.cur)] ++
        (List.range 4).map fun i => (2 * i + 1, 2 * i, (r.banks.getD i {}).state)),
   wNat ((leastOf ends).getD 0), wNat r.commits, mkW [(15, 0, r.fences.length)]]

/-- RouteCounters (Table 12-8). -/
def countWords (c : RouteCount) : List W64 :=
  [wNat c.noRoute, wNat c.linkDown, wNat c.staleEpoch, wNat c.hopExpired, wNat c.fenceDrops, wNat c.reorderGaps, wNat c.reorderLate,
   wNat c.noContext]

/-- KibitzSpec (Table 12-5). -/
def kibitzWords (k : Kibitz) : List W64 := [k.w0, k.w1, wNat k.copies, wNat k.skipped]

/-- A bank that holds tables (R498). -/
def bankAt (s : State) (b : Nat) : Option RouteBank := (s.route.banks[b]?).filter fun x => x.state ≠ 0

/-! ### Links and host ports (13, 14) -/

/-- PortLinkConfig (Table 13-1). -/
def portWord (p : Port) : W64 := mkW [(33, 32, p.split), (23, 16, p.enable), (15, 0, p.genAllow)]

/-- LinkStatus (Table 13-10). -/
def linkWords (l : Nat) (k : Link) : List W64 :=
  let t := k.stat
  [mkW [(63, 60, t.state), (59, 58, t.gen), (57, 54, t.lanes), (53, 51, k.loop.mode), (50, 50, b2n t.peerGt64), (49, 46, t.peerFamilyGen),
        (45, 38, t.laneFail), (37, 35, t.peerGens), (29, 21, l), (20, 0, t.peerEid)],
   mkW [(63, 32, t.corrected), (31, 0, t.uncorrectable)], mkW [(63, 32, t.crcFails), (31, 0, t.naksSent)],
   mkW [(63, 32, t.framesReplayed), (31, 0, t.naksReceived)],
   mkW [(63, 48, t.retrains), (47, 32, t.fallbacks), (31, 16, t.abandoned), (15, 0, t.protoErrors)],
   mkW [(63, 32, t.timeExchanges), (31, 0, t.timeDiscards)], wNat t.rawBitErrors, wNat t.tUp]

/-- HostPortStatus (Table 14-8). -/
def hostWords (s : State) (p : Nat) : List W64 :=
  let h := getHost s p
  [mkW [(63, 60, h.state), (59, 57, h.cfg.pmd), (56, 56, p / 4), (55, 55, b2n (s.time.ptpMaster.any fun m => m.1 = p)), (47, 0, h.cfg.mac)],
   wNat h.framesRx, wNat h.framesTx, mkW [(63, 32, h.fcsErrors), (31, 0, h.dropped)],
   mkW [(63, 32, h.fecCorrected), (31, 0, h.fecUncorrected)], mkW [(63, 32, h.pauseRx), (31, 0, h.ringFull)],
   mkW [(63, 32, h.storeResends), (31, 0, h.storeStrays)]]

/-! ### Control (15) -/

/-- DeviceInfo (Table 15-8). -/
def infoWords (s : State) : List W64 :=
  [mkW [(63, 32, 0x47543634), (31, 24, 0xA0), (20, 0, s.ident.eid)], mkW [(63, 32, romVer), (31, 0, patchVer s)],
   mkW [(63, 56, 3), (55, 48, minorOf s 3), (47, 40, rulesetMax s), (39, 32, 3)]]

/-- DeviceStatus (Table 15-9). -/
def deviceWords (s : State) : List W64 :=
  let open_ := (s.mbox.filter fun b => b.session.isSome).length
  [mkW [(63, 60, b2n (inService s)), (59, 52, open_), (51, 41, s.tables.length), (40, 26, openRounds s)], wNat s.gci.requests,
   mkW [(63, 32, s.gci.errors), (31, 0, s.gci.duplicates)], mkW [(63, 32, s.gci.bulkDrops), (31, 0, s.wd.maxGapUs)], wNat s.boot.tService]

/-- PawnRecord (Table 15-12): outside Pawn mode every field reads 0 (R507). -/
def pawnWords (s : State) : List W64 :=
  let p := s.pawn
  if p.cause = 0 then List.replicate 6 0 else
  [mkW [(63, 60, p.cause), (59, 58, p.routeEpoch)], wNat p.tEnter, wNat (now s), wNat p.pktsForwarded,
   mkW [(63, 32, p.roundsOpen), (31, 0, p.roundsFailed)], mkW [(63, 48, p.lastCmd), (47, 42, p.lastMailbox), (41, 41, b2n p.lastValid)]]

/-- PortCounters (Table 15-10). -/
def portWords (i : Nat) (p : Port) : List W64 :=
  [mkW [(5, 0, i)], wNat p.pktsIn, wNat p.pktsOut, wNat p.flitsIn, wNat p.flitsOut, mkW [(63, 32, p.pipDrops), (31, 0, p.pipOverflow)],
   mkW [(63, 32, p.discardEnds), (31, 0, p.egressDrops)], wNat p.creditWaitNs]

/-! ### Memory and accounting (16, 17) -/

/-- CAPACITY of a tier (R530): tier 3's sum is not stated. -/
def capacityOf (t : Nat) : Nat :=
  if t = 0 then 268435456 else if t = 1 then 768000000000 else if t = 2 then 1024000000000 else Config.tier3Capacity

/-- Something of a checkpoint or a restore is in flight here. -/
def ckptBusy (s : State) : Bool :=
  s.doubles.any (fun d => d.out.isSome) || s.tables.any fun t => t.keeper.any fun k => k.ckpt.isSome || k.restore.isSome

/-- Bytes of the checkpoint region in use: how much its staging takes is open. -/
def ckptRegion (s : State) : Nat := if ckptBusy s then Config.checkpointUse (now s) else 0

/-- MemTierStatus (Table 16-5). -/
def tierWords (s : State) (t : Nat) : List W64 :=
  let x := s.mem.tiers.getD t {}
  [mkW [(63, 62, t), (47, 0, capacityOf t)], wNat (if t = 1 then hbmReserved s else if t = 2 then doubleRegion s else 0),
   wNat (if t = 1 then freeUsed s else if t = 2 then ckptRegion s else 0), wNat x.corrected,
   mkW [(63, 32, x.uncorrectable), (31, 0, x.persistent)], mkW [(63, 32, x.passes)], wNat x.tLastPass]

/-- TableMemory (Table 16-6). -/
def tableMemWords (tb : Table) : List W64 :=
  [mkW [(25, 16, tb.id)], wNat (keeperBytes tb), wNat (feedBytes tb), wNat (tableResid tb), wNat (spillBytes tb)]

/-- A record of MemErrorLog (Table 16-7). -/
def logWords (r : MemLog) : List W64 :=
  [wNat r.seq, wNat r.time,
   mkW [(63, 62, r.tier), (61, 60, r.kind), (59, 56, r.region), (55, 55, b2n r.byScrub), (54, 48, r.bit), (47, 42, r.unit),
        (26, 26, b2n r.table.isSome), (25, 16, r.table.getD 0)], wNat r.address]

/-- MemErrorLog at an index (R532): no record reads as empty. -/
def logAt (s : State) (i : Nat) : List W64 :=
  match s.mem.log.find? fun r => r.seq % 256 = i with
  | some r => logWords r
  | none => List.replicate 4 0

/-- ScrubControl (Table 16-8). -/
def scrubWords (m : Mem) : List W64 := [mkW [(63, 56, m.hbmPassH), (55, 48, m.lpPassH), (47, 32, m.potPassMs), (0, 0, b2n m.scrubOn)], 0]

/-- The newest SEQ that a ring index can hold (R538, R543); 0 where none. -/
def sheetSeq (s : State) (i : Nat) : Nat := s.sheet.newestSeq - (s.sheet.newestSeq + sheetSize - i % sheetSize) % sheetSize

/-- The record at a ring index: an index with none reads as empty (R540). -/
def sheetAt (s : State) (i : Nat) : List W64 :=
  let q := sheetSeq s i
  if q = 0 then List.replicate 8 0 else s.sheet.records.getD (s.sheet.newestSeq - q) (List.replicate 8 0)

/-- ScoresheetStatus (Table 17-5). -/
def sheetWords (s : State) : List W64 :=
  let t := s.sheet
  [wNat t.newestSeq, wNat (if t.newestSeq = 0 then 0 else max 1 (t.newestSeq - 67108863)), t.chain, mkW [(63, 32, t.unreadable)], wNat t.tNewest]

/-- TableIdle (Table 17-6). The causes are kept in the order of Table 17-7 and shown in that of Table 17-6. -/
def idleWords (s : State) (tb : Table) : List W64 :=
  let c := fun i => wNat (tb.idle.ns.getD i 0)
  [mkW [(25, 16, tb.id)], wNat (now s), wNat tb.idle.openNs, c 2, c 5, c 4, c 1, c 6, c 3, c 0, c 7]

/-- TableStray (Table 17-8). -/
def strayWords (i : Nat) (x : Stray) : List W64 := [mkW [(10, 0, i)], wNat x.notOpen, wNat x.ended, wNat x.offset]

/-! ### Levels, identity and power (18 to 20) -/

/-- TableLevel (Table 18-8). -/
def levelWords (tb : Table) : List W64 :=
  [mkW [(63, 60, b2n tb.lvl.set), (59, 58, if tb.lvl.set then tb.lvl.level else 0), (57, 56, tb.lvl.ownMax), (25, 16, tb.id)], wNat tb.lvl.tSet]

/-- PeerLevel (Table 18-9), of a link with VALID. -/
def peerWords (p : PeerLevel) : List W64 :=
  [mkW [(63, 63, 1), (59, 58, p.level), (20, 0, p.eid)], mkW [(63, 32, p.rom), (31, 0, p.patch)]]

/-- PawnHistory (Table 18-10). -/
def historyWords (p : Pawn) : List W64 :=
  [mkW [(63, 32, p.exits), (31, 28, p.lastCause)], wNat p.tLastExit, wNat p.pawnNs, wNat p.selfDrops]

/-- HostPortConfig as applied (Table 19-5). -/
def hostCfgWords (c : HostCfg) : List W64 :=
  [mkW [(63, 62, c.pmd), (61, 56, c.v4Prefix), (55, 48, c.v6Prefix), (47, 0, c.mac)], mkW [(59, 48, c.vlan), (31, 0, c.ipv4)], wNat c.ipv6,
   wNat (c.ipv6 / 2 ^ 64)]

/-- PowerStatus (Table 20-6). -/
def powerWords (s : State) : List W64 :=
  let p := s.power
  [mkW [(63, 48, p.vcoreMv), (47, 40, twos 8 p.tjMax), (39, 32, twos 8 p.tjHbmMax), (31, 16, p.minRate), (15, 0, p.coreW)],
   mkW [(63, 32, p.stepsUp), (31, 0, p.stepsDown)], mkW [(63, 32, p.floorEvents), (31, 0, p.pmbusErrors)], wNat p.throttleNs,
   mkW [(63, 48, p.vcoreMinMv), (47, 32, p.vcoreMaxMv)]]

/-- STEP of StartupStatus: the steps of Table 20-3 as Table 20-7 counts them. -/
def shownStep (b : Boot) : Nat :=
  if b.step ≤ 2 then 1 else if b.step = 3 then 2 else if b.step ≤ 5 then 3 else b.step - 2

/-- StartupStatus (Table 20-7). -/
def startWords (s : State) : List W64 :=
  let b := s.boot
  [mkW [(63, 60, shownStep b), (59, 56, b.fail), (55, 48, b.failUnit), (47, 47, b2n s.ident.noKey), (46, 46, b2n s.power.throttled),
        (45, 44, s.pawn.cause), (43, 43, b2n b.tripped), (42, 42, b2n b.clockLoss), (20, 0, s.ident.eid)],
   wNat b.tMailbox, mkW [(63, 32, b.linksUp), (31, 0, b.linksFailed)]]

/-- What the I2C port answers to a read from an offset: W0 of StartupStatus and of PowerStatus, sampled in one step (R617). -/
def i2cBytes (s : State) (off : Nat) : Option (List Byte) :=
  if s.pins.i2cOn && off < 16 then some ((bytesOf [wd (startWords s) 0, wd (powerWords s) 0]).drop off) else none

/-- AlertControl (Table 20-8). -/
def alertWord (a : Alert) : W64 := mkW ([(55, 48, a.mask)] ++ (List.range 7).map fun i => (56 + i, 56 + i, b2n (a.causes.getD i false)))

/-! ### Reading (R496, R498) -/


/-- Objects of chapters 02 to 10. -/
def readRounds (s : State) (num a b : Nat) : Option (List Byte) :=
  if num = 0x0201 then (findRound s a b).map fun x => bytesOf (formatWords x.1 x.2)
  else if num = 0x0401 then (findRound s a b).bind fun x => x.2.narrowCnt.map fun n => bytesOf (narrowWords x.1 x.2 n)
  else if num = 0x0501 then (findTable s a).map fun t => bytesOf (muWords t)
  else if num = 0x0601 then (findRound s a b).bind fun x => if x.2.done then some (bytesOf (completionWords x.1 x.2)) else none
  else if num = 0x0701 then (findTable s a).map fun t => bytesOf (movesWords t)
  else if num = 0x0801 then some (bytesOf (timeWords s))
  else if num = 0x0802 then (findTable s a).map fun t => bytesOf (barrierStatus t)
  else if num = 0x0901 then (findTable s a).bind fun t => t.keeper.map fun k => bytesOf (keeperWords t k)
  else if num = 0x0A01 then
    if b = s.ident.eid then (findTable s a).bind fun t => if isCrown t then t.keeper.map fun k => bytesOf (primWords t k) else none
    else (doubleOf s b a).map fun d => bytesOf (partnerWords d)
  else if num = 0x0A02 then some (bytesOf s.hazard.spec)
  else (s.targets[a]?).map fun t => bytesOf (targetWords t)

/-- Objects of chapters 11 to 15. -/
def readSwitch (s : State) (num a b : Nat) : Option (List Byte) :=
  if num = 0x0B01 then some (bytesOf [classWord (classCfg s (a / 8) (a % 8))])
  else if num = 0x0B02 then some (bytesOf [prioWord s.sq.prio])
  else if num = 0x0B03 then some (bytesOf (potWords s))
  else if num = 0x0C01 then some (bytesOf (routeWords s))
  else if num = 0x0C02 then some (bytesOf (countWords s.route.cnt))
  else if num = 0x0C03 then some (bytesOf (kibitzWords (s.route.kibitz.getD a {})))
  else if num = 0x0C04 then (bankAt s a).map fun k => leBytes 4 (spGet k.eids b)
  else if num = 0x0C05 then (bankAt s a).map fun k => leBytes 64 (spGet k.pathSets b)
  else if num = 0x0C06 then (bankAt s a).map fun k => leBytes 8 (spGet k.groups b)
  else if num = 0x0C07 then (bankAt s a).map fun k => leBytes 4 (spGet k.legs b)
  else if num = 0x0D01 then some (bytesOf [portWord (getPort s a)])
  else if num = 0x0D02 then if isLink s a then some (bytesOf (linkWords a (getLink s a))) else none
  else if num = 0x0E01 then some (bytesOf (hostWords s a))
  else if num = 0x0F01 then some (bytesOf (infoWords s))
  else if num = 0x0F02 then some (bytesOf (deviceWords s))
  else if num = 0x0F03 then some (bytesOf (pawnWords s))
  else if num = 0x0F04 then some (bytesOf s.telem.spec)
  else some (bytesOf (portWords a (getPort s a)))

/-- Objects of chapters 16 to 20. -/
def readDevice (s : State) (num a : Nat) : Option (List Byte) :=
  if num = 0x1001 then some (bytesOf (tierWords s a))
  else if num = 0x1002 then (findTable s a).map fun t => bytesOf (tableMemWords t)
  else if num = 0x1003 then some (bytesOf (logAt s a))
  else if num = 0x1004 then some (bytesOf (scrubWords s.mem))
  else if num = 0x1005 then some (bytesOf [s.mem.inject, wNat s.mem.injected])
  else if num = 0x1101 then if s.boot.memCleared then some (bytesOf (sheetAt s a)) else none
  else if num = 0x1102 then some (bytesOf (sheetWords s))
  else if num = 0x1103 then (findTable s a).map fun t => bytesOf (idleWords s t)
  else if num = 0x1104 then
    if a = 1024 then some (bytesOf (strayWords a s.strayAll)) else (findTable s a).map fun t => bytesOf (strayWords a t.stray)
  else if num = 0x1201 then (findTable s a).map fun t => bytesOf (levelWords t)
  else if num = 0x1202 then if isLink s a then (getLink s a).peer.map fun p => bytesOf (peerWords p) else none
  else if num = 0x1203 then some (bytesOf (historyWords s.pawn))
  else if num = 0x1301 then some (bytesOf s.ident.cfg)
  else if num = 0x1302 then some (bytesOf (hostCfgWords (getHost s a).cfg))
  else if num = 0x1401 then some (bytesOf (powerWords s))
  else if num = 0x1402 then some (bytesOf (startWords s))
  else some (bytesOf [alertWord s.alert])

/-- The bytes of an object that the map holds, its keys in range; none where the instance does not exist. -/
def objRead (s : State) (num a b : Nat) : Option (List Byte) :=
  if num < 0x0B00 then readRounds s num a b else if num < 0x1000 then readSwitch s num a b else readDevice s num a

end Sys2Proof.Machine
end

