-- ==== Sys2Proof/Machine/Objects.lean ====
section
/-! DEFINITION. OBJ_READ, OBJ_WRITE and the writable objects (10 to 16, 20): what each write checks and does, as a
command or as a record of a configuration image (R589). -/

namespace Sys2Proof.Machine
open Sys2Proof

/-! ### Writes: each checks the object's words, counting DETAIL from bit `lo`, and answers the state after -/

abbrev Written := Except Answer State

def badAt (bit : Nat) : Written := .error { status := gValue, detail := bit }

/-- The first check that fails, or the write. -/
def written (cs : List Check) (s : State) : Written := match firstFail cs with
  | some a => .error a
  | none => .ok s

/-- HazardSpec (R313): a source whose entry changes counts afresh. -/
def writeHazard (lo : Nat) (ws : List W64) (s : State) : Written :=
  let entry := fun (i : Nat) => fld (wd ws (i / 2)) (32 * (i % 2) + 31) (32 * (i % 2))
  let bad := fun (i : Nat) =>
    let e := entry i
    failIf (hazOn e && (hazThreshold e = 0 || hazWindow e = 0)) (badMsg (lo + 32 * i + if hazWindow e = 0 then 0 else 16))
  let src := (List.range 6).map fun i => if entry i = hazEntry s i then s.hazard.src.getD i {} else {}
  written ((List.range 6).map bad) (modHazard (fun _ => { spec := (List.range 4).map (wd ws), src := src }) s)

/-- A checkpoint or restore in flight uses a storage target (R497). -/
def targetUsed (s : State) (t : Nat) : Bool :=
  s.doubles.any (fun d => d.out.any (fun o => o.target = t) || d.ckptReq.any fun c => c.2.1 = t) ||
  s.store.ops.any (fun o => o.target = t) ||
  s.tables.any fun tb => tb.keeper.any fun k =>
    k.ckpt.any (fun c => c.target = t) || k.ckptReq.any (fun c => c.target = t) ||
    k.restore.any fun r => (r.mailbox ≠ 64 && r.mask.testBit t) || r.load.any fun l => l.source = t

/-- CheckpointTarget (Table 10-7, R497). -/
def writeTarget (lo t : Nat) (ws : List W64) (s : State) : Written :=
  written [failIf (fld (wd ws 0) 45 44 = 3) (badMsg (lo + 44)), failIf (targetUsed s t) (some { status := gBusy })]
    { s with targets := s.targets.set t { w0 := wd ws 0, w1 := wd ws 1, w2 := wd ws 2, w3 := wd ws 3 } }

/-- PortClassConfig (R350, R351). -/
def writeClass (lo key : Nat) (w : W64) (s : State) : Written :=
  let tc := key % 8
  let old := s.pot.classes.getD key {}
  let q := fld w 8 0
  let a4 := fld w 35 32
  let alpha : Int := if a4 < 8 then a4 else (a4 : Int) - 16
  written
    [failIf (256 < q || (tc = 7 && q < 17) || (tc = 6 && q < 4)) (badMsg lo),
     failIf (262144 < qminTotal s - 8 * old.qmin + 8 * q || (old.qmin < q && sharedFree s < 8 * (q - old.qmin))) (badMsg lo),
     failIf (alpha < -4 || 3 < alpha) (badMsg (lo + 32)), failIf (fld w 47 40 = 0) (badMsg (lo + 40))]
    (modPot (fun p => { p with classes := p.classes.set key { quantum := fld w 47 40, alpha := alpha, qmin := q } }) s)

/-- SquarePriority (R360, R361): once the write is acknowledged every square has applied it; decisions formed, locked
sequences and ages stand. -/
def writePrio (w : W64) (s : State) : Written :=
  let p := (List.range 6).map fun i => fld w (3 * i + 2) (3 * i)
  .ok (modSq (fun q => { q with prio := p, squares := q.squares.map fun x => { x with prio := p } }) s)

/-- RouteControl (R403). -/
def writeRoute (lo : Nat) (w : W64) (s : State) : Written :=
  written [failIf (fld w 47 40 = 0) (badMsg (lo + 40)), failIf (fld w 63 48 = 0) (badMsg (lo + 48))]
    (modRoute (fun r => { r with drainUs := fld w 63 48, reorderUs := fld w 47 40 }) s)

/-- KibitzSpec (R398): a port is configured while it has an enabled link. -/
def writeKibitz (lo i : Nat) (ws : List W64) (s : State) : Written :=
  let w := wd ws 0
  let dest := fld w 20 0
  let next := fun (k : Kibitz) => if bitAt w 60 then { w0 := w, w1 := wd ws 1 } else { k with w0 := w, w1 := wd ws 1 }
  written
    [failIf (dest = 0x1FFFFF || dest = s.ident.eid) (badMsg lo),
     failIf (fld w 63 61 ≤ 1 && (getPort s (fld w 47 42)).enable = 0) (badMsg (lo + 42)), failIf (4 ≤ fld w 63 61) (badMsg (lo + 61))]
    (modRoute (fun r => { r with kibitz := modAt r.kibitz i next }) s)

/-- A loopback under way on a link ends unfinished. -/
def stopLoop (l : Nat) (s : State) : State :=
  let k := getLink s l
  let s := modLoop l (fun _ => {}) s
  match k.loop.mailbox with
  | some m => respond m (failedAns 0x50 s) s
  | none => s

/-- Take a link down. -/
def takeDown (l : Nat) (s : State) : State := stopLoop l (if linkRuns s l then leaveService l s else s)

/-- PortLinkConfig (R406): a new SPLIT takes every link of the port down; a cleared ENABLE bit takes its link down, a new
one trains its link; any other change waits for the link's next training. -/
def writePort (lo p : Nat) (w : W64) (s : State) : Written :=
  let split := fld w 33 32
  let en := fld w 23 16
  let ga := fld w 15 0
  let gen := fun (j : Nat) => (ga >>> (2 * j)) % 4
  let first := fun (j : Nat) => j % splitLanes split = 0
  let js := List.range 8
  let badGen := js.any fun j => if first j then en.testBit j && gen j = 0 else gen j ≠ 0
  let badEn := js.any fun j => !first j && en.testBit j
  let old := getPort s p
  let ls := (if old.split ≠ split then js else js.filter fun j => old.enable.testBit j ≠ en.testBit j).map fun j => 8 * p + j
  written [failIf badGen (badMsg lo), failIf badEn (badMsg (lo + 16))]
    (forAll ls trainFromStart (modPort p (fun x => { x with split := split, enable := en, genAllow := ga }) (forAll ls takeDown s)))

/-- TelemetrySpec (R503). -/
def writeTelemetry (major lo : Nat) (ws : List W64) (s : State) : Written :=
  let w := wd ws 0
  let n := fld w 45 41
  let entry := fun (i : Nat) =>
    let e := wd ws (4 + i)
    let at_ := lo + 64 * (4 + i)
    if i < n then firstFail [failIf (fld e 15 0 = 0) (badMsg at_),
        failIf (!(objInfo major (fld e 63 48)).any fun o => o.keyB.isNone) (badMsg (at_ + 48))]
    else failIf (e ≠ 0) (badMsg (at_ + if fld e 15 0 ≠ 0 then 0 else if fld e 47 16 ≠ 0 then 16 else 48))
  written
    ([failIf (fld w 15 0 < 10) (badMsg lo), failIf (24 < n || (bitAt w 47 && n = 0)) (badMsg (lo + 41)),
      failIf (bitAt w 47 && fld w 63 48 = 0) (badMsg (lo + 47))] ++ (List.range 24).map entry)
    (modTelem (fun t => { t with spec := (List.range 28).map (wd ws) }) s)

/-- A pass stops at once; the next one starts at the first word. -/
def stopPass (t : MemTier) : MemTier := { t with scrubAt := 0 }

/-- ScrubControl (R533). -/
def writeScrub (lo : Nat) (w : W64) (s : State) : Written :=
  let h := fun (x : Nat) => x < 1 || 168 < x
  written [failIf (fld w 47 32 < 100) (badMsg (lo + 32)), failIf (h (fld w 55 48)) (badMsg (lo + 48)),
      failIf (h (fld w 63 56)) (badMsg (lo + 56))]
    (modMem (fun m => { m with
      hbmPassH := fld w 63 56, lpPassH := fld w 55 48, potPassMs := fld w 47 32, scrubOn := bitAt w 0
      tiers := if bitAt w 0 then m.tiers else m.tiers.map stopPass }) s)

/-- A debug scope is unlocked (R594). -/
def scopeOpen (s : State) (i : Nat) : Bool := (s.ident.scopes.getD i none).any fun u => now s < u

/-- ErrorInject (R534). The answer to a write that arms it for the CP stores is itself the next word written there, as a
stored response (R464, Table 15-1; DESIGN CHOICE, log 109). -/
def writeInject (lo : Nat) (w : W64) (s : State) : Written :=
  written [failIf (!scopeOpen s 1) (some { status := gAuth }), failIf (71 < fld w 55 49) (badMsg (lo + 49)),
      failIf (fld w 61 60 = 3) (badMsg (lo + 60))]
    (wroteWord 3 14 (modMem (fun m => { m with inject := w }) s))

/-- The condition of a cause of AlertControl holds now (R621). -/
def causeHolds (s : State) (i : Nat) : Bool :=
  (i = 0 && s.power.throttled) || (i = 1 && s.pawn.cause ≠ 0) || (i = 2 && s.power.rateFloor) || (i = 4 && s.power.avsFault)

/-- AlertControl (R621): bits of CAUSES clear where 1 is written, unless their condition holds. -/
def writeAlert (lo : Nat) (w : W64) (s : State) : Written :=
  let stay := fun (a : Alert) (i : Nat) => a.causes.getD i false && (!bitAt w (56 + i) || causeHolds s i)
  written [failIf (bitAt w 63) (some { status := gReserved, detail := lo + 56 })]
    (modAlert (fun a => { mask := fld w 55 48 ||| 4, causes := (List.range 7).map (stay a) }) s)

/-- Write an object's bytes (R496): every RW field is stored, RO fields are ignored. -/
def objWrite (major num a lo : Nat) (bs : List Byte) (s : State) : Written :=
  let ws := wordsOf (bs.length / 8) bs
  let w := wd ws 0
  if num = 0x0A02 then writeHazard lo ws s
  else if num = 0x0A03 then writeTarget lo a ws s
  else if num = 0x0B01 then writeClass lo a w s
  else if num = 0x0B02 then writePrio w s
  else if num = 0x0C01 then writeRoute lo w s
  else if num = 0x0C03 then writeKibitz lo a ws s
  else if num = 0x0D01 then writePort lo a w s
  else if num = 0x0F04 then writeTelemetry major lo ws s
  else if num = 0x1004 then writeScrub lo w s
  else if num = 0x1005 then writeInject lo w s
  else if num = 0x1403 then writeAlert lo w s
  else .error { status := gReadOnly }

/-! ### The commands (R496 to R498) -/

/-- OBJECT, KEY_A and KEY_B of a request. -/
def argObj (msg : List Byte) : Nat := fld (argW msg 0) 63 48
def argKeyA (msg : List Byte) : Nat := fld (argW msg 1) 63 32
def argKeyB (msg : List Byte) : Nat := fld (argW msg 1) 31 0

/-- Major of a mailbox's session. -/
def majorOf (s : State) (m : Nat) : Nat := ((curSession s m).map (·.major)).getD 0

/-- Reserved fields of the arguments: W0[47:0], and a key that the object does not use. -/
def keyResv (major : Nat) (msg : List Byte) : List (Nat × Nat) :=
  (128, 48) :: match objInfo major (argObj msg) with
    | some o => (if o.keyB.isNone then [(192, 32)] else []) ++ if o.keyA.isNone then [(224, 32)] else []
    | none => []

/-- Keys in range (R498). -/
def keyCheck (o : ObjInfo) (a b : Nat) : Check :=
  firstFail [failIf (o.keyB.any fun m => m < b) (badMsg 192), failIf (o.keyA.any fun m => m < a) (badMsg 224)]

def objReadSpec (major : Nat) : CmdSpec := { code := 0x10, len := fun _ => 16, resv := keyResv major }

/-- Zeros up to whole words (R483). -/
def padWords (bs : List Byte) : List Byte := padTo (up8 bs.length) bs

/-- OBJ_READ. -/
def objReadBody (r : Request) (major : Nat) (s : State) : Reply :=
  let num := argObj r.msg
  let a := argKeyA r.msg
  let b := argKeyB r.msg
  match objInfo major num with
  | none => reject gValue 176 s
  | some o => match keyCheck o a b with
    | some x => (some x, s)
    | none => match objRead s num a b with
      | none => reject gNoObject 0 s
      | some bs => okWith (padWords bs) s

def execObjRead (mailbox : Nat) (s : State) : Host.Outcome State Fault Refusal :=
  .next (runCmd mailbox (objReadSpec (majorOf s mailbox)) (fun msg => argObj msg ≠ 0x1101) objReadBody s)

/-- A ScoresheetRecord read: a record with a failing word reads as REC_TYPE 15 (R543); before memory is cleared no word of it
is read (R612). -/
def sheetReadBody (word : WordRead) (r : Request) (major : Nat) (s : State) : Reply :=
  let i := argKeyA r.msg
  match word with
  | .failed =>
    if 67108863 < i || !s.boot.memCleared then objReadBody r major s
    else
      let s' := modSheet (fun t => { t with unreadable := t.unreadable + 1 }) (readWord 2 (.scoresheet i) word s)
      okWith (bytesOf [wNat (sheetSeq s i), mkW [(63, 60, 15)], 0, 0, 0, 0, 0, 0]) s'
  | _ => objReadBody r major (if i ≤ 67108863 && s.boot.memCleared then readWord 2 (.scoresheet i) word s else s)

def execScoresheetRecordRead (mailbox : Nat) (word : WordRead) (s : State) : Host.Outcome State Fault Refusal :=
  .next (runCmd mailbox (objReadSpec (majorOf s mailbox)) (fun msg => argObj msg = 0x1101) (sheetReadBody word) s)

def objWriteSpec (major : Nat) : CmdSpec :=
  { code := 0x11
    len := fun msg => match objInfo major (argObj msg) with
      | some o => 16 + up8 o.bytes
      | none => max 24 (msg.length - 16)
    resv := fun msg => keyResv major msg ++ match objInfo major (argObj msg) with
      | some o => shiftF 256 (objResv o (msg.drop 32)) ++ if o.bytes % 8 = 0 then [] else [(256 + 8 * o.bytes, 32)]
      | none => [] }

/-- OBJ_WRITE. -/
def objWriteBody (r : Request) (major : Nat) (s : State) : Reply :=
  let num := argObj r.msg
  let a := argKeyA r.msg
  match objInfo major num with
  | none => reject gValue 176 s
  | some o => match keyCheck o a (argKeyB r.msg) with
    | some x => (some x, s)
    | none => match objWrite major num a 256 (r.msg.drop 32) s with
      | .error x => (some x, s)
      | .ok s' => okay s'

/-- Objects whose write has a row of its own. -/
def namedWrites : List Nat := [0x0B02, 0x0B01, 0x0D01, 0x0C03, 0x0C01, 0x0A03, 0x1004, 0x1005, 0x0F04, 0x1403]

def writeRun (m : Nat) (p : List Byte → Bool) (s : State) : State := runCmd m (objWriteSpec (majorOf s m)) p objWriteBody s

def execObjWrite (mailbox : Nat) (s : State) : Host.Outcome State Fault Refusal :=
  .next (writeRun mailbox (fun msg => !namedWrites.contains (argObj msg)) s)
def execSquarePriorityWrite (mailbox : Nat) (s : State) : Host.Outcome State Fault Refusal :=
  .next (writeRun mailbox (fun msg => argObj msg = 0x0B02) s)
def execPortClassConfigWrite (mailbox : Nat) (s : State) : Host.Outcome State Fault Refusal :=
  .next (writeRun mailbox (fun msg => argObj msg = 0x0B01) s)
def execPortLinkConfigWrite (mailbox : Nat) (s : State) : Host.Outcome State Fault Refusal :=
  .next (writeRun mailbox (fun msg => argObj msg = 0x0D01) s)
def execKibitzSpecWrite (mailbox : Nat) (s : State) : Host.Outcome State Fault Refusal :=
  .next (writeRun mailbox (fun msg => argObj msg = 0x0C03) s)
def execRouteControlWrite (mailbox : Nat) (s : State) : Host.Outcome State Fault Refusal :=
  .next (writeRun mailbox (fun msg => argObj msg = 0x0C01) s)
def execCheckpointTargetWrite (mailbox : Nat) (s : State) : Host.Outcome State Fault Refusal :=
  .next (writeRun mailbox (fun msg => argObj msg = 0x0A03) s)
def execScrubControlWrite (mailbox : Nat) (s : State) : Host.Outcome State Fault Refusal :=
  .next (writeRun mailbox (fun msg => argObj msg = 0x1004) s)
def execErrorInjectWrite (mailbox : Nat) (s : State) : Host.Outcome State Fault Refusal :=
  .next (writeRun mailbox (fun msg => argObj msg = 0x1005) s)
def execTelemetrySpecWrite (mailbox : Nat) (s : State) : Host.Outcome State Fault Refusal :=
  .next (writeRun mailbox (fun msg => argObj msg = 0x0F04) s)
def execAlertControlWrite (mailbox : Nat) (s : State) : Host.Outcome State Fault Refusal :=
  .next (writeRun mailbox (fun msg => argObj msg = 0x1403) s)

end Sys2Proof.Machine
end

