-- ==== Sys2Proof/Machine/Security.lean ====
section
/-! DEFINITION. Identity, images and attestation (19): the images in flash and their verification, configuration
records, FW_STAGE, ATTEST_QUOTE and DEBUG_UNLOCK. -/

namespace Sys2Proof.Machine
open Sys2Proof

/-! ### Images (R585, R586) -/

/-- An image: its 192-byte header and its body. -/
structure Image where
  hdr  : List Byte
  body : List Byte
  deriving DecidableEq, Repr, Inhabited

def Image.kind (i : Image) : Nat := fld (payW i.hdr 0) 63 56
def Image.keyIndex (i : Image) : Nat := fld (payW i.hdr 0) 55 54
def Image.version (i : Image) : Nat := fld (payW i.hdr 1) 63 32
def Image.targetRom (i : Image) : Nat := fld (payW i.hdr 1) 31 0
def Image.digest (i : Image) : List Byte := slice i.hdr 32 32
def Image.sig (i : Image) : List Byte := slice i.hdr 64 64
def Image.signer (i : Image) : List Byte := slice i.hdr 128 64

/-- Greatest LENGTH of an image of a type (Table 19-3). -/
def maxBody (kind : Nat) : Nat := if kind = 1 then 64 else if kind = 2 then 262144 else 16776960

/-- The image at an offset of flash, when its LENGTH is one of its type's. -/
def imageAt (m : List Host.Cell) (off kind : Nat) : Option Image :=
  let h := flashRead m off 192
  let n := (payW h 2).toNat
  if maxBody kind < n then none else some { hdr := h, body := flashRead m (off + 192) n }

/-- The image in a buffer. -/
def imageOf (bs : List Byte) (kind : Nat) : Option Image :=
  let n := (payW bs 2).toNat
  if bs.length < 192 || maxBody kind < n || bs.length ≠ 192 + n then none else some { hdr := bs.take 192, body := bs.drop 192 }

/-- SIGNATURE and BODY_SM3 verify (R585). -/
def imageSigned (i : Image) : Bool := sm2Verify i.signer (i.hdr.take 64) i.sig && sm3 i.body = i.digest

/-- The owner's key, when the owner certificate is valid (R586 step 1). -/
def ownerKeyOf (m : List Host.Cell) : Option (List Byte) :=
  match imageAt m 0x10000 1 with
  | none => none
  | some i =>
    if i.kind = 1 && i.body.length = 64 && sm3 i.signer = Config.ownerCaAnchor i.keyIndex && imageSigned i then some i.body else none

/-- A patch is valid against a floor (R586 step 3, R592): TARGET_ROM fits but for its build field. -/
def patchOk (floor : Nat) (i : Image) : Bool :=
  i.kind = 2 && sm3 i.signer = Config.patchAnchor i.keyIndex && imageSigned i && i.targetRom / 65536 = romVer / 65536 && floor ≤ i.version

/-- Flash offset of a slot: patch or configuration, A or B (Table 19-2). -/
def slotAt (config : Bool) (b : Nat) : Nat :=
  if config then (if b = 0 then 0x400000 else 0x1400000) else if b = 0 then 0x100000 else 0x200000

/-! ### Configuration records (R589) -/

/-- A record: object, KEY_A and bytes. -/
structure CfgRec where
  num  : Nat
  key  : Nat
  data : List Byte
  deriving DecidableEq, Repr, Inhabited

/-- Cut a body into records; none when it does not end with one or its padding is not 0. -/
def cfgRecs : Nat → List Byte → Option (List CfgRec)
  | 0, bs => if bs.isEmpty then some [] else none
  | n + 1, bs =>
    if bs.isEmpty then some [] else
    let w := payW bs 0
    let len := fld w 15 0
    if bs.length < 8 + up8 len || (slice bs (8 + len) (up8 len - len)).any (· ≠ 0) then none
    else (cfgRecs n (bs.drop (8 + up8 len))).map fun rs => { num := fld w 63 48, key := fld w 47 16, data := slice bs 8 len } :: rs

/-- Apply DeviceConfig (Table 19-4). -/
def applyDevice (serial : Nat) (r : CfgRec) (s : State) : Option State :=
  let ws := wordsOf 6 r.data
  let w := fun i => wd ws i
  if r.key ≠ 0 || r.data.length ≠ 48 || fld (w 0) 44 21 ≠ 0 || fld (w 2) 31 0 ≠ 0 || (w 5).toNat ≠ 0 ||
      fld (w 0) 20 0 = 0x1FFFFF || fld (w 1) 31 0 ≠ serial then none
  else
    let s := modTime (fun t => { t with priority := fld (w 0) 61 54, ptpEn := bitAt (w 0) 53, ptpDomain := fld (w 0) 52 45 }) s
    some (modIdent (fun i => { i with
      cfg := ws, rulesetCap := fld (w 0) 63 62, eid := fld (w 0) 20 0, configSerial := serial
      patchFloor := max Config.romPatchFloor (fld (w 1) 63 32), gateway4 := fld (w 2) 63 32, gateway6 := leAt r.data 24 16 }) s)

/-- Apply HostPortConfig (Table 19-5). -/
def applyHost (r : CfgRec) (s : State) : Option State :=
  let w0 := payW r.data 0
  let w1 := payW r.data 1
  if 8 ≤ r.key || r.data.length ≠ 32 || fld w1 63 60 ≠ 0 || fld w1 47 32 ≠ 0 || 32 < fld w0 61 56 || 128 < fld w0 55 48 ||
      4094 < fld w1 59 48 then none
  else
    let c : HostCfg := { pmd := fld w0 63 62, v4Prefix := fld w0 61 56, v6Prefix := fld w0 55 48, mac := fld w0 47 0,
                         vlan := fld w1 59 48, ipv4 := fld w1 31 0, ipv6 := leAt r.data 16 16 }
    some (modHost r.key (fun h => { h with cfg := c }) s)

/-- Load consecutive entries into bank 0, under the checks of ROUTE_WRITE (R387). -/
def applyRoute (what : Nat) (r : CfgRec) (s : State) : Option State :=
  let size := entrySize what
  let es := entriesOf size (r.data.length / size) r.data
  if r.data.length % size ≠ 0 || (firstSet r.data (entriesResv what 0 es)).isSome then none
  else match routeWrite 0 what r.key 0 es s with
    | (some a, s') => if a.status = 0 then some s' else none
    | (none, _) => none

/-- Apply a record of a writable object as OBJ_WRITE does (R496). -/
def applyObj (r : CfgRec) (s : State) : Option State :=
  match objInfo 3 r.num with
  | none => none
  | some o =>
    if !o.write || r.data.length ≠ o.bytes || (keyCheck o r.key 0).isSome || (o.keyA.isNone && r.key ≠ 0) ||
        (firstSet r.data (objResv o r.data)).isSome then none
    else match objWrite 3 r.num r.key 0 r.data s with
      | .ok s' => some s'
      | .error _ => none

def applyRec (serial : Nat) (r : CfgRec) (s : State) : Option State :=
  if r.num = 0x1301 then applyDevice serial r s
  else if r.num = 0x1302 then applyHost r s
  else if r.num = 0x0C04 then applyRoute 0 r s
  else if r.num = 0x0C05 then applyRoute 1 r s
  else if r.num = 0x0C06 then applyRoute 2 r s
  else if r.num = 0x0C07 then applyRoute 3 r s
  else applyObj r s

def applyRecs (serial : Nat) : List CfgRec → State → Option State
  | [], s => some s
  | r :: rs, s => (applyRec serial r s).bind (applyRecs serial rs)

/-- This GT64's SELF entry in bank 0 (R372, R387). -/
def selfEntry (eid : Nat) : State → State := modBank 0 (fun b => { b with eids := spSet b.eids eid 0x60000000 })

/-- Apply a configuration body: exactly one DeviceConfig, at most one HostPortConfig for each port, every record in
order (R589). -/
def applyBody (serial : Nat) (body : List Byte) (s : State) : Option State :=
  match cfgRecs (body.length / 8) body with
  | none => none
  | some rs =>
    match rs.filter fun r => r.num = 0x1301 with
    | [d] =>
      if hasDup ((rs.filter fun r => r.num = 0x1302).map (·.key)) then none else
      let eid := fld (payW d.data 0) 20 0
      applyRecs serial rs (selfEntry eid (modIdent (fun i => { i with eid := eid }) s))
    | _ => none

/-- A configuration image is valid under an owner's key: the state after its records (R586 step 2). -/
def configOk (owner : Option (List Byte)) (i : Image) (s : State) : Option State :=
  if i.kind = 3 && owner = some i.signer && imageSigned i then applyBody i.version i.body s else none

/-- The slot to use of two: the valid one with the higher version, A when they are equal (R586). -/
def pickSlot (a b : Option Nat) : Option Nat :=
  match a, b with
  | some x, some y => some (if x < y then 1 else 0)
  | some _, none => some 0
  | none, some _ => some 1
  | none, none => none

/-- The version of a valid patch slot. -/
def patchSlotVer (m : List Host.Cell) (floor b : Nat) : Option Nat :=
  ((imageAt m (slotAt false b) 2).filter (patchOk floor)).map (·.version)

/-- A configuration slot's version and the state its records give. -/
def configSlotOf (m : List Host.Cell) (b : Nat) (s : State) : Option (Image × State) :=
  (imageAt m (slotAt true b) 3).bind fun i => (configOk (ownerKeyOf m) i s).map fun s' => (i, s')

/-! ### FW_STAGE (R590, R591) -/

def fwSpec : CmdSpec := { code := 0x60, len := fun _ => 24, resv := fun _ => [(128, 62)], vals := [(190, 2, 0, 1)] }

/-- A slot of a kind is valid as flash stands. -/
def slotValid (s : State) (config : Bool) (b : Nat) : Bool :=
  if config then (configSlotOf s.flash b State.reset).isSome else (patchSlotVer s.flash s.ident.patchFloor b).isSome

/-- The slot that was not chosen at this start-up; when none was, the invalid one, or B. -/
def stageSlot (s : State) (config : Bool) : Nat :=
  match if config then s.ident.configSlot else s.ident.patchSlot with
  | some b => 1 - b
  | none => if slotValid s config 1 && !slotValid s config 0 then 0 else 1

/-- Reserved fields of an image header, with those that it gives as 0 for a configuration (R16, Table 19-3). -/
def imageResv (bs : List Byte) : List (Nat × Nat) :=
  [(0, 54)] ++ (if fld (payW bs 0) 63 56 = 3 then [(54, 2), (64, 32)] else []) ++ [(192, 64)]

/-- FW_STAGE: verify, then write the slot, its header last. The read-back matches what has been written. -/
def fwStageBody (m : Nat) (r : Request) (_ : Nat) (s : State) : Reply :=
  let config := fld (argW r.msg 0) 63 62 = 1
  match bulkRef m 24 r.msg s with
  | .error a => (some a, s)
  | .ok bs =>
    match firstSet bs (imageResv bs) with
    | some i => reject gReserved (2 ^ 63 + i) s
    | none =>
    let good := match imageOf bs (if config then 3 else 2) with
      | none => false
      | some i => if config then (configOk s.ident.ownerKey i State.reset).isSome else patchOk s.ident.patchFloor i
    if !good then reject gAuth 0 s
    else okay { s with flash := flashWrite s.flash (slotAt config (stageSlot s config)) bs }

def execFwStage (mailbox : Nat) (s : State) : Host.Outcome State Fault Refusal :=
  .next (runCmd mailbox fwSpec anyMsg (fwStageBody mailbox) s)

/-! ### ATTEST_QUOTE (R593) -/

def quoteSpec : CmdSpec := { code := 0x61, len := fun _ => 40, resv := fun _ => [(385, 63)] }

/-- Any scope is unlocked. -/
def anyScope (s : State) : Bool := (List.range 3).any (scopeOpen s)

/-- Bytes 0 to 191 of the quote (Table 19-6). -/
def quoteBytes (nonce : List Byte) (s : State) : List Byte :=
  let i := s.ident
  bytesOf [mkW [(63, 56, 1), (55, 48, rulesetMax s), (47, 47, b2n (anyScope s)), (46, 46, b2n i.patchSlot.isSome),
                (45, 45, i.configSlot.getD 0), (44, 44, i.patchSlot.getD 0), (20, 0, i.eid)],
           mkW [(63, 0, now s)], mkW [(63, 32, romVer), (31, 0, patchVer s)], mkW [(63, 32, i.patchFloor), (31, 0, i.configSerial)]] ++
    nonce ++ padTo 32 Config.romSm3 ++ i.patchSm3 ++ i.configSm3 ++ i.keyId

def quoteBody (m : Nat) (r : Request) (_ : Nat) (s : State) : Reply :=
  match s.ident.key with
  | none => (some (failedAns 0x61 s), s)
  | some (d, _, _) =>
    let q := quoteBytes (slice r.msg 16 32) s
    let cert := if bitAt (argW r.msg 4) 0 then ownCert s else []
    waits (respondBulk m {} (q ++ sm2Sign d q ++ cert) s)

def execAttestQuote (mailbox : Nat) (s : State) : Host.Outcome State Fault Refusal :=
  .next (runCmd mailbox quoteSpec anyMsg (quoteBody mailbox) s)

/-! ### DEBUG_UNLOCK (R594) -/

def phaseOf (msg : List Byte) : Nat := fld (argW msg 0) 1 0

/-- DEBUG_UNLOCK: PHASE 1 carries a token from W1 (Table 19-7). -/
def debugSpec : CmdSpec :=
  { code := 0x62
    len := fun msg => if phaseOf msg = 1 then 144 else 8
    resv := fun msg => (130, 62) :: if phaseOf msg = 1 then [(224, 16), (243, 5)] else []
    vals := [(128, 2, 0, 2)] }

/-- PHASE 0: a challenge, which replaces any earlier one. Without a device key it answers AUTH (R581). -/
def challengeBody (_ : Request) (_ : Nat) (s : State) : Reply :=
  if s.ident.key.isNone then reject gAuth 0 s else
  let c := sm3 (Config.challengeInput s.ident.kPuf (now s) s.ident.challenges)
  okWith c (modIdent (fun i => { i with challenge := some (c, now s), challenges := i.challenges + 1 }) s)

/-- The token of PHASE 1 is accepted. -/
def tokenOk (tok : List Byte) (s : State) : Bool :=
  match s.ident.ownerKey, s.ident.challenge with
  | some owner, some (c, t) =>
    fld (payW tok 0) 63 56 = 1 && sm2Verify owner (tok.take 72) (slice tok 72 64) && slice tok 8 32 = s.ident.keyId &&
      slice tok 40 32 = c && now s < t + 60000000000 && 1 ≤ fld (payW tok 0) 31 0
  | _, _ => false

/-- PHASE 1: unlock the scopes of a token; the challenge is consumed whatever the outcome. -/
def tokenBody (m : Nat) (r : Request) (_ : Nat) (s : State) : Reply :=
  if s.ident.key.isNone then reject gAuth 0 s else
  let tok := slice r.msg 24 136
  let ok := tokenOk tok s
  let s' := modIdent (fun i => { i with challenge := none }) s
  if !ok then waits (respond m { status := gAuth } s')
  else
    let scope := fld (payW tok 0) 55 48
    let until_ := now s + fld (payW tok 0) 31 0 * 1000000000
    okay (modIdent (fun i => { i with
      scopes := (List.range 3).map fun k => if scope.testBit k then some until_ else i.scopes.getD k none }) s')

/-- PHASE 2: every scope relocks at once. -/
def relockBody (_ : Request) (_ : Nat) (s : State) : Reply :=
  if s.ident.key.isNone then reject gAuth 0 s else okay (modIdent (fun i => { i with scopes := [none, none, none] }) s)

def execDebugChallenge (mailbox : Nat) (s : State) : Host.Outcome State Fault Refusal :=
  .next (runCmd mailbox debugSpec (fun msg => phaseOf msg = 0) challengeBody s)
def execDebugToken (mailbox : Nat) (s : State) : Host.Outcome State Fault Refusal :=
  .next (runCmd mailbox debugSpec (fun msg => phaseOf msg = 1) (tokenBody mailbox) s)
def execDebugRelock (mailbox : Nat) (s : State) : Host.Outcome State Fault Refusal :=
  .next (runCmd mailbox debugSpec (fun msg => 2 ≤ phaseOf msg) relockBody s)

/-- DEBUG_SCOPE_EXPIRE: a scope's duration ends. -/
def scopeExpire (i : Nat) (s : State) : State :=
  if !live s then s else
  match s.ident.scopes.getD i none with
  | none => s
  | some t => modIdent (fun d => { d with scopes := d.scopes.set i none }) (advanceTo t s)

def execDebugScopeExpire (scope : Nat) (s : State) : Host.Outcome State Fault Refusal := .next (scopeExpire scope s)

/-- DEBUG_CHALLENGE_LAPSE: 60 s after it was issued. -/
def challengeLapse (s : State) : State :=
  if !live s then s else
  match s.ident.challenge with
  | none => s
  | some (_, t) => modIdent (fun d => { d with challenge := none }) (advanceTo (t + 60000000000) s)

def execDebugChallengeLapse (s : State) : Host.Outcome State Fault Refusal := .next (challengeLapse s)

end Sys2Proof.Machine
end

