-- ==== Sys2Proof/Machine/Switch.lean ====
section
/-! DEFINITION. The commands of the switch core (11, 12, 08): header lookup, admission, Kibitz copies, starting packets
on egress links, the square arbiters, the Ladder, and destination reorder. -/

namespace Sys2Proof.Machine
open Sys2Proof

/-! ### Kibitz copies (R398 to R402) -/

/-- The bytes of a packet as a copy carries them. -/
def origBytes (tc : Nat) (p : Packet) : List Byte := if tc = 6 then p.payload else packetBytes p

/-- KIBITZ_HDR (Table 12-6) and the original, cut at TRUNC. -/
def copyPayload (i dir link epoch : Nat) (orig : List Byte) (k : Kibitz) (s : State) : List Byte :=
  let t := fld k.w0 55 50
  let kept := orig.take (if t = 0 then 4064 else min 4064 (64 * t))
  bytesOf [mkW [(63, 61, i), (60, 60, dir), (59, 54, portOf link), (53, 51, link % 8), (50, 50, b2n (kept.length < orig.length)),
                (49, 48, epoch), (47, 35, orig.length)],
           mkW [(63, 0, now s)], mkW [(63, 0, k.copies + 1)], 0] ++ kept

/-- A copy leg passes admission (R402): one that finds no link, or a fenced destination, has nothing to wait for and is
dropped like any packet. -/
def copyPasses (s : State) (epoch i : Nat) : Bool :=
  let w := (s.route.kibitz.getD i {}).w0
  match (unicastLeg epoch (fld w 20 0) (fld w 49 48) s).1 with
  | some out =>
    let cls := fld w 49 48
    admits s (sharedFree s) (queueNum s out cls (queueKey cls (mkPacket 0 cls 0 (fld w 20 0) s.ident.eid []))) false
  | none => true

/-- One copy of a packet for a session: an extra leg that the original never waits for, where its admission passed as the
original was enqueued (R401, R402). -/
def kibitzCopy (pass : Bool) (dir link epoch num : Nat) (orig : List Byte) (i : Nat) (s : State) : State :=
  let k := s.route.kibitz.getD i {}
  let dest := fld k.w0 20 0
  let cls := fld k.w0 49 48
  if fenced s dest then fenceDrop s else
  match unicastLeg epoch dest cls s with
  | (none, s') => s'
  | (some out, s') =>
    let p := mkPacket 0 cls 0 dest s.ident.eid (copyPayload i dir link epoch orig k s)
    if !pass then
      modKibitz i (fun k => { k with skipped := k.skipped + 1 }) s
    else
      let mine := s'.pot.nextNum
      modKibitz i (fun k => { k with copies := k.copies + 1 })
        (modPkt mine (fun q => { q with admitted := q.cells, missing := ((findPkt s num).map (·.missing)).getD 0 })
          (store (.copy num) none cls epoch false p [] [(out, dest)] s'))

/-- The packet as it arrived, with the hop that forwarding takes given back. -/
def incHops (p : Packet) : Packet := { p with w0 := p.w0 + (1#64 <<< 48) }

/-! ### PACKET_HEADER_LOOKUP -/

/-- Drop a packet that has arrived whole: the credits of its flits become returnable in the pool by which they came
(R356). -/
def dropIn (l pool : Nat) (p : Packet) (s : State) : State := freeCredits l pool (pFlits p) s

/-- A header that breaks Table 13-5, or a wrapped Keeper flit of no kind (R428, R429). -/
def packetBad (gt64 : Bool) (p : Packet) : Bool :=
  !headerOk gt64 p || (pPtype p = 4 && pKsub p = 2 && !(let k := fld (payW p.payload 7) 63 60; k = 1 || k = 2))

/-- A CONTRIB, RESULT or SIGNAL packet of a bulk round that is open here (R560). -/
def openRoundPkt (s : State) (p : Packet) : Bool :=
  1 ≤ pPtype p && pPtype p ≤ 3 &&
    match findRound s (pTable p) (fld (payW p.payload 0) 63 32) with
    | some (_, r) => !r.done
    | none => false

/-- A double held here loses a record that Pawn mode drops (R560, R564). -/
def loseRecord (p : Packet) (s : State) : State :=
  if pPtype p = 4 && pKsub p = 0 then
    let hit := fun (d : Double) => d.primary = pSrc p && d.table = (feedHdrOf p.payload).table && attached d
    { s with doubles := updWhere hit (fun d => { d with lost := true }) s.doubles }
  else s

/-- A packet addressed to the SELF EID is taken by this GT64 (R372, R560). A plain data packet has no further effect
here. -/
def selfIn (n l pool : Nat) (p : Packet) (kib : List Nat) (s : State) : State :=
  let s := forAll kib (fun i s => kibitzCopy (copyPasses s s.route.cur i) 0 l s.route.cur 0 (packetBytes p) i s) s
  if s.pawn.cause ≠ 0 && !openRoundPkt s p then
    freeCredits l pool n (loseRecord p (modPawn (fun k => { k with selfDrops := k.selfDrops + 1 }) s))
  else if pPtype p = 0 then freeCredits l pool n s
  else { s with inbox := s.inbox ++ [.self l pool s.route.cur p] }

/-- A multicast packet is stored for the legs of its group, less the one it came by; its replication comes with its first
cell (R389, R391). -/
def multicastIn (n l pool : Nat) (p : Packet) (kib : List Nat) (s : State) : State :=
  let all := groupLegs (curBank s) (fld p.w0 15 0)
  let legs := all.filter fun x => x.1 ≠ l
  if all.isEmpty then freeCredits l pool n (modCnt (fun c => { c with noRoute := c.noRoute + 1 }) s)
  else if legs.isEmpty then freeCredits l pool n s
  else store .forwarded (some (l, pool)) (pClass p) s.route.cur true (decHops p) kib legs (countForward s)

/-- A unicast packet: taken here, handed to reorder, or stored for its link (R372 to R377, R393). -/
def unicastIn (n l pool : Nat) (p : Packet) (kib : List Nat) (s : State) : State :=
  let e := spGet (curBank s).eids (pDest p)
  if eidKind e = 3 then selfIn n l pool p kib s
  else if (eidKind e = 1 || eidKind e = 2) && fenced s (pDest p) then freeCredits l pool n (fenceDrop s)
  else if eidKind e = 1 && pPtype p = 0 && pOrder p then
    { s with inbox := s.inbox ++ [.order l pool s.route.cur (decHops p) kib] }
  else
    match unicastLeg s.route.cur (pDest p) (pClass p) s with
    | (none, s) => freeCredits l pool n s
    | (some out, s) => store .forwarded (some (l, pool)) (pClass p) s.route.cur false (decHops p) kib [(out, pDest p)] (countForward s)

/-- The route bank word that a lookup reads first. -/
def lookupOwner (s : State) (p : Packet) : WordOwner :=
  if pMc p then .routeBank s.route.cur 2 (fld p.w0 15 0) else .routeBank s.route.cur 0 (pDest p)

/-- Look up the header of a packet of which n flits have arrived by a credit pool (R386, R399, R429). -/
def lookupHeader (n l pool : Nat) (p : Packet) (w : WordRead) (s : State) : State :=
  let s := modPort (portOf l) (fun k => { k with pktsIn := k.pktsIn + 1 }) s
  if packetBad (peerIsGt64 s l) p then freeCredits l pool n (protoError l s) else
  let (kib, s) := kibitzSelect (entersMatch l p) s
  if pHops p = 0 then freeCredits l pool n (modCnt (fun c => { c with hopExpired := c.hopExpired + 1 }) s) else
  let s := readWord 3 (lookupOwner s p) w s
  if w = .failed then freeCredits l pool n (modCnt (fun c => { c with noRoute := c.noRoute + 1 }) s)
  else if pMc p then multicastIn n l pool p kib s
  else unicastIn n l pool p kib s

/-- The whole packet of a link and assigned class that is looked up next, with its pool: the first that came (R339). -/
def firstWhole (s : State) (l tc : Nat) : Option (Nat × Packet) :=
  s.inbox.findSome? fun a => match a with
    | .pkt l' pool q => if l' = l && pClass q = tc then some (pool, q) else none
    | _ => none

/-- These flits of the packet, and no others, have arrived in a class. -/
def arrivesAs (p : Packet) (pp : PartPkt) : Bool := !pp.drop && pp.pkt.isNone && partPacket pp.words = p

/-- The class of the BULK tag in which a packet is still arriving, and its flits. -/
def inProgress (s : State) (l : Nat) (p : Packet) : Option (Nat × PartPkt) :=
  (List.range 8).findSome? fun cls => ((((getLink s l).rx.parts.getD cls none).filter (arrivesAs p)).map fun pp => (cls, pp))

/-- A packet that ends here, taken or put in order, is looked up once it has arrived whole. -/
def endsHere (s : State) (p : Packet) : Bool :=
  !pMc p && (eidKind (spGet (curBank s).eids (pDest p)) = 3 ||
    (eidKind (spGet (curBank s).eids (pDest p)) = 1 && pPtype p = 0 && pOrder p))

/-- A packet is looked up while flits are still to come: the rest follows it, or is dropped with it (R343, R347). -/
def lookupEarly (l cls : Nat) (p : Packet) (w : WordRead) (pp : PartPkt) (s : State) : State :=
  let num := s.pot.nextNum
  let s := lookupHeader (pp.words.length / 8) l (classPool cls) p w
    (setPart l cls (some { pp with words := [], drop := true }) s)
  if (findPkt s num).isSome then
    setPart l cls (some { pp with pkt := some num }) (modPkt num (fun q => { q with missing := pp.left }) s)
  else s

/-- PACKET_HEADER_LOOKUP (R382, R525): of the packets of one link and class the first that came is looked up first, and one
still arriving only when none waits whole (R339). -/
def headerLookup (l : Nat) (p : Packet) (w : WordRead) (s : State) : State :=
  if !live s then s else
  match firstWhole s l (pClass p) with
  | some (pool, q) => if q = p then lookupHeader (pFlits p) l pool p w (takeArrived (.pkt l pool p) s) else s
  | none => match inProgress s l p with
    | some (cls, pp) => if endsHere s p then s else lookupEarly l cls p w pp s
    | none => lookupHeader (pFlits p) l (classPool (pClass p)) p w s

def execPacketHeaderLookup (link : Nat) (pkt : Packet) (word : WordRead) (s : State) : Host.Outcome State Fault Refusal :=
  .next (headerLookup link pkt word s)

/-! ### CELL_ADMIT -/

/-- Two packets share a queue. -/
def shareQueue (p q : QPkt) : Bool := p.legs.any fun a => !a.done && q.legs.any fun b => !b.done && a.queue = b.queue

/-- An earlier packet of the same ingress, class and queue still has a cell to admit (R339). -/
def behind (s : State) (p : QPkt) : Bool :=
  (s.pot.pkts.takeWhile fun q => q.num ≠ p.num).any fun q =>
    !q.held && !p.held && q.admitted < q.cells && q.ingress = p.ingress && q.tc = p.tc && shareQueue p q

/-- Legs that the replication of a packet skips: those to a fenced EID (R393). -/
def skipped (s : State) (p : QPkt) (l : PLeg) : Bool := !l.done && unreplicated p && fenced s l.eid

/-- The next cell of a packet passes admission (R352 to R354): on every leg that it is enqueued on. -/
def cellPasses (s : State) (p : QPkt) : Bool :=
  let F := sharedFree s
  match p.kind with
  | .emitted _ _ _ => p.cached || stagingCells s < 65536 || stageShared s < F
  | _ => (p.legs.filter fun l => !l.done && !skipped s p l).all fun l => admits s F l.queue p.mcast

/-- Flits that the next cell of a packet holds. -/
def nextFlits (p : QPkt) : Nat := if p.admitted + 1 = p.cells then pFlits p.pkt - 4 * p.admitted else 4

/-- Every flit of the cell next to be admitted has arrived. -/
def cellHere (p : QPkt) : Bool := p.missing = 0 || 4 * (p.admitted + 1) + p.missing ≤ pFlits p.pkt

/-- A packet is replicated (R391, R393): it is not enqueued on its fenced legs, each counted; one with no other leg ends
here. -/
def replicate (p : QPkt) (s : State) : State :=
  forAll (p.legs.filter (skipped s p)) (fun l s => legDone p.num l.link (fenceDrop s)) s

/-- MATCH 1 sessions whose copy of a packet passes admission as it is enqueued on a leg (R402). -/
def passing (s : State) (epoch : Nat) (l : PLeg) : List (Nat × Nat) :=
  ((List.range 8).filter fun i => leavesMatch l.link (s.route.kibitz.getD i {}) && copyPasses s epoch i).map fun i => (i, l.link)

/-- The link whose port a KIBITZ_HDR names for a packet at its ingress (Table 12-6). -/
def ingressLink (p : QPkt) : Nat := match p.kind with
  | .pip port => 8 * port
  | _ => p.ingress.getD 0

/-- The first cell of a packet is enqueued: its copies' legs are admitted or not (R402). -/
def enqueued (num : Nat) (s : State) : State :=
  match findPkt s num with
  | none => s
  | some p =>
    let s := modPkt num (fun q => { q with pass1 := (q.legs.filter fun l => !l.done).flatMap (passing s q.epoch) }) s
    forAll p.kibitz (fun i s =>
      kibitzCopy (copyPasses s p.epoch i) 0 (ingressLink p) p.epoch num (origBytes p.tc (incHops p.pkt)) i s) s

/-- The owner of a packet's words (Table 16-3). -/
def packetOwner (p : QPkt) : WordOwner := match p.kind with
  | .emitted t r c => if p.cached then .multicastCache t r c else .staging t r c
  | _ => .packetCell (p.ingress.getD 0) p.num

/-- CELL_ADMIT: the cell is admitted, its credits become returnable and a packet under way can go on; otherwise it waits
(R352, R356, R368). -/
def cellAdmit (num : Nat) (s : State) : State :=
  match findPkt s num with
  | none => s
  | some p =>
    if !live s || p.cells ≤ p.admitted || !cellHere p || behind s p then s
    else if !cellPasses s p then
      if p.waited then s
      else modPot (fun t => { t with admitWaits := t.admitWaits + 1 }) (modPkt num (fun q => { q with waited := true }) s)
    else
      let s := whenDo (!p.cached) (wroteWord 0 (regionOf (packetOwner p))) (replicate p s)
      let s := modPkt num (fun q => { q with admitted := q.admitted + 1, waited := false }) s
      let s := match p.ingress with
        | some l => if (findPkt s num).isSome then freeCredits l p.pool (nextFlits p) s else s
        | none => s
      if p.admitted = 0 then enqueued num s else s

def execCellAdmit (packet : Nat) (s : State) : Host.Outcome State Fault Refusal := .next (cellAdmit packet s)

/-! ### EGRESS_PACKET_START -/

/-- The round that a packet belongs to, if it is open here, and the chunk it carries (R189). -/
def roundOfPkt (s : State) (p : QPkt) : Option (Nat × Nat × Nat) :=
  match p.kind with
  | .emitted t r c => some (t, r, c)
  | .copy _ => none
  | .pip _ =>
    let ws := wordsOf 8 p.pkt.payload
    let h := roundHdr (wd ws 0) (wd ws 1)
    match findRound s h.table h.round with
    | some (tb, r) => if 1 < pipType ws || r.done then none else some (h.table, h.round, if pipType ws = 0 then chunkOf tb r h.offset else 0)
    | none => none
  | _ =>
    if openRoundPkt s p.pkt then
      let h := roundHdr (payW p.pkt.payload 0) (payW p.pkt.payload 1)
      match findRound s h.table h.round with
      | some (tb, r) => some (h.table, h.round, if pPtype p.pkt ≤ 2 then chunkOf tb r h.offset else 0)
      | none => none
    else none

/-- A leg of which nothing has gone is counted for its port as it is dropped (Table 15-10). -/
def failLeg (num : Nat) (l : PLeg) (s : State) : State :=
  cutLeg num l.link (if onWire l then s else egressDrop l.link s)

/-- A word of a packet fails: the packet is dropped or ended on every leg, its copies with it, and the round it belongs
to fails (R189, R190, R345, R402). -/
def failPacket (num : Nat) (s : State) : State :=
  match findPkt s num with
  | none => s
  | some p =>
    let legs := p.legs.filter fun l => !l.done
    let of := roundOfPkt s p
    let s := forAll legs (failLeg num) (forAll (copiesOf s num) cutLegs s)
    match of with
    | none => s
    | some (t, r, c) =>
      failRound t r stWord 0 false c none (modRound t r (fun x => { x with dropped := x.dropped + legs.length }) s)

/-- The memory that a packet lies in: the Pot, or HBM for the multicast cache (R285, R332). -/
def packetTier (p : QPkt) : Nat := if p.cached then 1 else 0

/-- A packet under way on a link whose next cell's read comes to be told: the oldest that has started (R345; DESIGN CHOICE,
log 94). -/
def underWay (s : State) (link : Nat) : Option QPkt :=
  ((s.pot.egress.getD link {}).active.head?).bind fun a => findPkt s a.2

/-- Copies of a packet as it is sent, for the sessions that select it and passed admission as it was enqueued (R399,
R402). -/
def copySent (p : QPkt) (link : Nat) (s : State) : State :=
  let orig := match p.legs.find? fun l => l.link = link && !l.done with
    | some l => legPacket p l
    | none => p.pkt
  let (kib, s) := kibitzSelect (leavesMatch link) s
  forAll kib (fun i => kibitzCopy (p.pass1.contains (i, link)) 1 link p.epoch p.num (origBytes p.tc orig) i) s

/-- EGRESS_PACKET_START (R338, R343 to R345, R373, R399). Where the link starts nothing, a word that fails is one of a packet
under way. -/
def egressStart (link : Nat) (w : WordRead) (s : State) : State :=
  if !live s then s else
  let (p, e) := chooseEgress s link
  match p with
  | none =>
    let s := modPot (fun t => { t with egress := t.egress.set link e }) s
    match underWay s link with
    | none => s
    | some p =>
      let s := readWord (packetTier p) (packetOwner p) w s
      if w = .failed then failPacket p.num s else s
  | some p =>
    if !linkUp s link then rechoose link p s
    else
      let s := readWord (packetTier p) (packetOwner p) w s
      if w = .failed then failPacket p.num s else copySent p link (startLeg p.num link e s)

def execEgressPacketStart (link : Nat) (word : WordRead) (s : State) : Host.Outcome State Fault Refusal :=
  .next (egressStart link word s)

/-! ### SQUARE_ARBITRATION (R340, R358 to R361, R364) -/

/-- Rotation number of a requester class (Table 11-4). -/
def sqIndex : SqClass → Nat
  | .ingress => 0
  | .egress => 1
  | .lane => 2
  | .stage => 3
  | .mu => 4
  | .dma => 5

/-- A request is of a locked sequence that holds its unit (R363). -/
def ofHolder (locks : List (Nat × Nat)) (r : SqReq) : Bool := r.cls = .lane && locks.contains (r.unit, r.seq)

/-- A request may be granted: it touches no unit that another holds, and a lane's first request of a sequence waits while
the lane has two (R363, R365). Unit 0 is no accumulator unit. -/
def mayTouch (locks : List (Nat × Nat)) (r : SqReq) : Bool :=
  ofHolder locks r || ((r.unit = 0 || !locks.any fun k => k.1 = r.unit) && (r.cls ≠ .lane || locks.length < 2))

/-- Standing of a request in a decision, least first (R359): continuations, the older sequence's first (R364), requests 64
decisions old, then by priority; among equals by class in rotation, then the oldest. -/
def sqKey (prio : List Nat) (last : Nat) (locks : List (Nat × Nat)) (h : SqHeld) : Nat :=
  let young := 4095 - min 4095 h.age
  if ofHolder locks h.req || h.req.cont then locks.findIdx (fun k => k = (h.req.unit, h.req.seq)) * 4096 + young
  else
    let standing := if 64 ≤ h.age then 1 else 9 - min 7 (prio.getD (sqIndex h.req.cls) 0)
    (standing * 8 + (sqIndex h.req.cls + 11 - last) % 6) * 4096 + young

/-- A request that is granted locks its unit for its sequence, if it is a lane's (R363). -/
def lockFor (locks : List (Nat × Nat)) (r : SqReq) : List (Nat × Nat) :=
  if r.cls = .lane && !ofHolder locks r then locks ++ [(r.unit, r.seq)] else locks

/-- Requests that the slots left in a decision can serve. -/
def mayGrant (reads writes : Nat) (locks : List (Nat × Nat)) (h : SqHeld) : Bool :=
  (if h.req.write then 0 < writes else 0 < reads) && mayTouch locks h.req

/-- Fill what is left of two read and two write slots: the grants in order, and the class granted last. -/
def sqFill (prio : List Nat) : Nat → Nat → Nat → Nat → List (Nat × Nat) → List SqHeld → List SqHeld × Nat
  | 0, _, _, last, _, _ => ([], last)
  | n + 1, reads, writes, last, locks, held =>
    match argMin (sqKey prio last locks) (held.filter (mayGrant reads writes locks)) with
    | none => ([], last)
    | some h =>
      let (r, w) := if h.req.write then (reads, writes - 1) else (reads - 1, writes)
      let (gs, l) := sqFill prio n r w (sqIndex h.req.cls) (lockFor locks h.req) (held.erase h)
      (h :: gs, l)

/-- Locks after a decision's grants: those taken, less those of the sequences whose last request is among them (R363). -/
def locksAfter (locks : List (Nat × Nat)) (grants : List SqHeld) : List (Nat × Nat) :=
  let all := grants.foldl (fun ks h => lockFor ks h.req) locks
  all.filter fun k => !grants.any fun h => h.req.cls = .lane && h.req.last && (h.req.unit, h.req.seq) = k

/-- A class whose request may be withdrawn before its slot has passed (R358). -/
def mayWithdraw (c : SqClass) : Bool := match c with
  | .lane => true
  | .mu => true
  | .dma => true
  | _ => false

/-- A request withdrawn in the slot that runs. -/
def isWithdrawn (i : Nat) (withdrawn : List (Nat × Nat)) (h : SqHeld) : Bool :=
  mayWithdraw h.req.cls && withdrawn.contains (i, h.req.id)

/-- The square of a request posted in slot n: an INGRESS request asks for the square of its port in slot n + 2 (R340). -/
def sqPlace (n : Nat) (r : SqReq) : Nat := match r.cls with
  | .ingress => (r.port + n + 2) % 64
  | _ => r.square

/-- One square in one slot: the decision formed runs, the next one is formed from the requests held at the slot's start,
withdrawn requests go, and requests posted are held from the next slot on (R358). -/
def sqSlot (n i : Nat) (posted : List SqReq) (withdrawn : List (Nat × Nat)) (q : Square) : Square :=
  let (gs, last) := sqFill q.prio 4 2 2 q.lastCls q.locks q.held
  let stand := gs.filter fun h => !isWithdrawn i withdrawn h
  let rest := q.held.filter fun h => !gs.contains h
  let old := (rest.filter fun h => !isWithdrawn i withdrawn h).map fun h => { h with age := h.age + 1 }
  let new := (posted.filter fun r => sqPlace n r = i).map fun r => ({ req := { r with square := i }, posted := n } : SqHeld)
  { q with
    granted := q.formed, formed := stand, lastCls := last, locks := locksAfter q.locks stand
    held := old ++ new }

/-- Grants of a square that lapse: granted, but withdrawn in the same slot (R358). -/
def sqLapses (i : Nat) (withdrawn : List (Nat × Nat)) (q : Square) : Nat :=
  ((sqFill q.prio 4 2 2 q.lastCls q.locks q.held).1.filter (isWithdrawn i withdrawn)).length

/-- An INGRESS request that slot n + 1 did not grant offers itself to the next square (R340). -/
def ingressMissed (n : Nat) (h : SqHeld) : Bool := match h.req.cls with
  | .ingress => h.posted < n
  | _ => false

/-- Move the missed INGRESS requests of all squares one square on. -/
def sqRotate (n : Nat) (qs : List Square) : List Square :=
  (List.range qs.length).map fun i =>
    let q := qs.getD i {}
    let prev := qs.getD ((i + qs.length - 1) % max 1 qs.length) {}
    { q with
      held := (q.held.filter fun h => !ingressMissed n h) ++
        (prev.held.filter (ingressMissed n)).map fun h => { h with req := { h.req with square := i } } }

/-- SQUARE_ARBITRATION: one slot of every square. -/
def squareSlot (posted : List SqReq) (withdrawn : List (Nat × Nat)) (s : State) : State :=
  if !live s then s else
  let n := s.sq.slot
  let lapsed := ((List.range 64).map fun i => sqLapses i withdrawn (s.sq.squares.getD i {})).sum
  let s := modPot (fun t => { t with staleGrants := t.staleGrants + lapsed }) s
  modSq (fun q => { q with
    slot := n + 1
    squares := sqRotate n ((List.range 64).map fun i => sqSlot n i posted withdrawn (q.squares.getD i {})) }) s

def execSquareArbitration (posted : List SqReq) (withdrawn : List (Nat × Nat)) (s : State) : Host.Outcome State Fault Refusal :=
  .next (squareSlot posted withdrawn s)

/-! ### The Ladder (R232 to R235) -/

/-- A SIG packet waits behind a ROUND packet of its round for a port (R232). -/
def sigWaits (qs : List (List PipPkt)) (p : PipPkt) (port : Nat) : Bool :=
  pipType p.words = 1 && (qs.flatMap id).any fun q => pipType q.words = 0 && sameRound p q && (pipPorts q).contains port

/-- A packet requests a port. -/
def pipRequests (qs : List (List PipPkt)) (port : Nat) (p : PipPkt) : Bool := (pipPorts p).contains port && !sigWaits qs p port

/-- Queues in rotation from a pointer. -/
def fromPtr (ptr : Nat) : List Nat := (List.range 64).map fun i => (ptr + i) % 64

/-- The first queue at or after a pointer with a packet that meets a test, and its oldest such packet. -/
def firstPip (qs : List (List PipPkt)) (ptr : Nat) (t : PipPkt → Bool) : Option (Nat × PipPkt) :=
  (fromPtr ptr).findSome? fun q => ((qs.getD q []).find? t).map fun p => (q, p)

/-- The request that an egress port grants: queue and packet. -/
def pipGrant (qs : List (List PipPkt)) (ptr port : Nat) : Option (Nat × PipPkt) :=
  (firstPip qs ptr fun p => pipType p.words ≠ 0 && pipRequests qs port p).or
    (firstPip qs ptr fun p => pipType p.words = 0 && pipRequests qs port p)

/-- The packet whose grants a queue accepts: its oldest that received any. -/
def pipAccept (grants : List (Nat × Nat × PipPkt)) (q : Nat) (ps : List PipPkt) : Option PipPkt :=
  ps.find? fun p => grants.any fun g => g.2.1 = q && g.2.2.num = p.num

/-- Grants that are accepted: port, queue, packet. -/
def pipAccepted (qs : List (List PipPkt)) (ptrs : List Nat) : List (Nat × Nat × PipPkt) :=
  let grants := (List.range 64).filterMap fun port => (pipGrant qs (ptrs.getD port 0) port).map fun g => (port, g)
  grants.filter fun g => (pipAccept grants g.2.1 (qs.getD g.2.1 [])).any fun p => p.num = g.2.2.num

/-- A Pip packet crosses to a link: one PIP flit, or it is dropped where the link is down (R373, R428). -/
def pipCross (p : PipPkt) (link eid : Nat) (s : State) : State :=
  if linkUp s link then pushFlits link 7 [{ tag := 2, words := p.words, pkt := p.num, last := true, eid := eid }] s
  else dropLinkDown link s

/-- LADDER_ARBITRATION: request, grant and accept (R234). -/
def ladderStep (s : State) : State :=
  if !live s then s else
  let qs := s.ladder.queues
  let acc := pipAccepted qs s.ladder.ptrs
  let won := fun (num port : Nat) => acc.any fun g => g.1 = port && g.2.2.num = num
  let left := qs.map fun q => q.map fun p => { p with links := p.links.filter fun l => !won p.num (portOf l.1), waited := p.waited + 1 }
  let sent := (left.flatMap id).filter fun p => p.links.isEmpty
  let s := forAll acc (fun g s => forAll (g.2.2.links.filter fun l => portOf l.1 = g.1) (fun l => pipCross g.2.2 l.1 l.2) s) s
  let s := forAll sent (fun _ => countForward) s
  modLadder (fun d => { d with
    queues := left.map fun q => q.filter fun p => !p.links.isEmpty
    ptrs := (List.range 64).map fun port => match acc.find? fun g => g.1 = port with
      | some g => (g.2.1 + 1) % 64
      | none => d.ptrs.getD port 0 }) s

def execLadderArbitration (s : State) : Host.Outcome State Fault Refusal := .next (ladderStep s)

/-- A SIG packet follows a ROUND packet of its round that overflows and shares a port with it (R232). -/
def follows (p q : PipPkt) : Bool :=
  pipType p.words = 0 && pipType q.words = 1 && sameRound p q && (pipPorts q).any (pipPorts p).contains

/-- ROUND packets of a SIG packet's round that wait for a port of it: they overflow ahead of it (R232; DESIGN CHOICE,
log 83). -/
def aheadOf (s : State) (p : PipPkt) : List PipPkt := (s.ladder.queues.flatMap id).filter (follows · p)

/-- PIP_OVERFLOW: the oldest packet of a queue that has waited 32 cycles, with the ROUND packets that it may not pass and the
SIG packets that follow (R232, R235). -/
def pipOverflow (queue : Nat) (s : State) : State :=
  if !live s then s else
  match (s.ladder.queues.getD queue []).find? fun p => 32 ≤ p.waited with
  | none => s
  | some p =>
    let go := aheadOf s p ++ [p]
    let sigs := (s.ladder.queues.flatMap id).filter fun q => q.num ≠ p.num && go.any fun x => follows x q
    forAll sigs pipOver (forAll go pipOver s)

def execPipOverflow (queue : Nat) (s : State) : Host.Outcome State Fault Refusal := .next (pipOverflow queue s)

/-! ### Destination reorder (R377 to R380) -/

def isCtx (src dst tc : Nat) (c : Reorder) : Bool := c.src = src && c.dst = dst && c.tc = tc
def findCtx (s : State) (src dst tc : Nat) : Option Reorder := s.route.contexts.find? (isCtx src dst tc)

/-- Write a context back. -/
def putCtx (c : Reorder) : State → State :=
  modRoute (fun r => { r with contexts := c :: r.contexts.filter fun x => !isCtx c.src c.dst c.tc x })

/-- A held packet is sent: it is enqueued now, behind what is enqueued already. -/
def unhold (num : Nat) : State → State :=
  modPot (fun t => { t with pkts := (t.pkts.filter fun p => p.num ≠ num) ++
    (t.pkts.filter fun p => p.num = num).map fun p => { p with held := false } })

/-- Send every held packet whose SEQ equals NEXT, one by one. -/
def flushHeld : Nat → Reorder → State → Reorder × State
  | 0, c, s => (c, s)
  | n + 1, c, s => match c.held.find? fun h => c.next = some h.seq with
    | none => (c, s)
    | some h =>
      flushHeld n { c with next := some ((h.seq + 1) % 65536), held := c.held.filter fun x => x.pkt ≠ h.pkt } (unhold h.pkt s)

/-- SEQ of a held packet relative to NEXT, or as it stands while NEXT is unknown. -/
def seqAhead (c : Reorder) (seq : Nat) : Nat := (seq + 65536 - c.next.getD 0) % 65536

/-- NEXT skips to the lowest held SEQ, and what follows it is sent. -/
def skipTo (c : Reorder) (s : State) : Reorder × State :=
  match argMin (fun h : HeldPkt => seqAhead c h.seq) c.held with
  | none => (c, s)
  | some h => flushHeld c.held.length { c with next := some h.seq } (modCnt (fun k => { k with reorderGaps := k.reorderGaps + 1 }) s)

/-- Release every held packet in ascending SEQ from the lowest held. -/
def releaseAll : Nat → Reorder → State → Reorder × State
  | 0, c, s => (c, s)
  | n + 1, c, s => match argMin (fun h : HeldPkt => seqAhead c h.seq) c.held with
    | none => (c, s)
    | some h => releaseAll n { c with held := c.held.filter fun x => x.pkt ≠ h.pkt } (unhold h.pkt s)

/-- Enqueue an ORDER packet, held or not, and answer its number. -/
def storeOrder (l pool : Nat) (p : Packet) (epoch : Nat) (kib : List Nat) (held : Bool) (s : State) : Option Nat × State :=
  match unicastLeg epoch (pDest p) (pClass p) s with
  | (none, s) => (none, dropIn l pool p s)
  | (some out, s) =>
    let num := s.pot.nextNum
    (some num, modPkt num (fun q => { q with held := held })
      (store .forwarded (some (l, pool)) (pClass p) epoch false p kib [(out, pDest p)] (countForward s)))

/-- Handle an ORDER packet in its context (Table 12-2), FIRST seen to. -/
def orderStep (l pool : Nat) (p : Packet) (epoch : Nat) (kib : List Nat) (c : Reorder) (s : State) : Reorder × State :=
  let c := { c with lastUse := now s }
  if c.next = some (pSeq p) then
    let (_, s) := storeOrder l pool p epoch kib false s
    flushHeld c.held.length { c with next := some ((pSeq p + 1) % 65536) } s
  else if c.next.isSome && 32768 ≤ seqAhead c (pSeq p) then
    (c, dropIn l pool p (modCnt (fun k => { k with reorderLate := k.reorderLate + 1 }) s))
  else
    match storeOrder l pool p epoch kib true s with
    | (none, s) => (c, s)
    | (some num, s) =>
      let c := { c with held := c.held ++ [{ pkt := num, seq := pSeq p, due := now s + s.route.reorderUs * 1000 }] }
      if 64 < c.held.length then skipTo c s else (c, s)

/-- The pool, epoch stamp and Kibitz sessions of an ORDER packet that waits. -/
def orderTag (s : State) (l : Nat) (p : Packet) : Nat × Nat × List Nat :=
  (s.inbox.findSome? fun a => match a with
    | .order l' pool e p' k => if l' = l && p' = p then some (pool, e, k) else none
    | _ => none).getD (classPool (pClass p), s.route.cur, [])

/-- ORDER_PACKET (R377 to R380). -/
def orderIn (l : Nat) (p : Packet) (s : State) : State :=
  if !live s then s else
  let (pool, epoch, kib) := orderTag s l p
  let s := takeArrived (.order l pool epoch p kib) s
  if fenced s (pDest p) then dropIn l pool p (fenceDrop s) else
  let tc := pClass p
  match findCtx s (pSrc p) (pDest p) tc with
  | some c =>
    let (c, s) := if pFirst p then
        let (c, s) := releaseAll c.held.length c s
        ({ c with next := some (pSeq p) }, s)
      else (c, s)
    let (c, s) := orderStep l pool p epoch kib c s
    putCtx c s
  | none =>
    if 65536 ≤ s.route.contexts.length then
      (storeOrder l pool p epoch kib false (modCnt (fun k => { k with noContext := k.noContext + 1 }) s)).2
    else
      let (c, s) := orderStep l pool p epoch kib
        { src := pSrc p, dst := pDest p, tc := tc, next := if pFirst p then some (pSeq p) else none, lastUse := now s } s
      putCtx c s

def execOrderPacket (link : Nat) (pkt : Packet) (s : State) : Host.Outcome State Fault Refusal := .next (orderIn link pkt s)

/-- REORDER_TIMEOUT: the oldest held packet has waited its limit (R379). -/
def reorderTimeout (src dst tc : Nat) (s : State) : State :=
  if !live s then s else
  match findCtx s src dst tc with
  | none => s
  | some c => match c.held with
    | [] => s
    | h :: _ =>
      let s := advanceTo h.due s
      let (c, s) := skipTo c s
      putCtx { c with lastUse := now s } s

def execReorderTimeout (src dst tc : Nat) (s : State) : Host.Outcome State Fault Refusal := .next (reorderTimeout src dst tc s)

/-- REORDER_CONTEXT_FREE: a context that has held and taken nothing for 1 ms is freed (R380). -/
def reorderFree (src dst tc : Nat) (s : State) : State :=
  if !live s then s else
  match findCtx s src dst tc with
  | none => s
  | some c =>
    if !c.held.isEmpty then s
    else modRoute (fun r => { r with contexts := r.contexts.filter fun x => !isCtx src dst tc x }) (advanceTo (c.lastUse + 1000000) s)

def execReorderContextFree (src dst tc : Nat) (s : State) : Host.Outcome State Fault Refusal := .next (reorderFree src dst tc s)

end Sys2Proof.Machine
end

