-- ==== Sys2Proof/Machine/Upkeep.lean ====
section
/-! DEFINITION. Idle accounting (17) and scrub reads (16). -/

namespace Sys2Proof.Machine
open Sys2Proof

/-! ### The conditions of Table 17-7 -/

/-- EIDs that a table sends to: its tree here and the seats attached here. -/
def tableEids (tb : Table) : List Nat := treeEids tb tb.board ++ (seatsHere tb tb.board).map (·.eid)

/-- A committed round waits for a range of a chunk of its slice to come home (R218, R268, R269). -/
def awaitsMove (tb : Table) (k : Keeper) : Bool :=
  k.work.any fun w => (getRound tb w.round).any fun r =>
    (ownChunks tb r).any fun i => !w.done.contains i && !chunkHome tb k r i

/-- Fence or recovery (R218, R268, R269, R310, R396): updates wait for ranges on the move, or a fence on a destination of
the table is not acknowledged yet. -/
def idleFence (s : State) (tb : Table) : Bool :=
  tb.keeper.any (awaitsMove tb) ||
    s.route.fences.any fun f => !f.acked && (tableEids tb).contains f.eid

/-- The table of a packet in the Pot. -/
def pktTable (p : QPkt) : Option Nat := match p.kind with
  | .copy _ => none
  | .pip _ => some (fld (payW p.pkt.payload 0) 31 22)
  | _ => if 1 ≤ pPtype p.pkt && pPtype p.pkt ≤ 4 then some (pTable p.pkt) else none

/-- The table of a Pip or Keeper flit that waits on a link. -/
def flitTable (f : Flit) : Option Nat := if f.tag = 2 || f.tag = 3 then some (fld (wd f.words 0) 31 22) else none

/-- A packet of a table that is enqueued on a link waits there with flits still to go. -/
def waitsOn (s : State) (t l : Nat) : Bool :=
  s.pot.pkts.any fun p => pktTable p = some t && 0 < p.admitted && p.legs.any fun g => g.link = l && !g.done

/-- The EID of a source of a round. -/
def srcEid (tb : Table) (r : Round) (x : Src) : Nat :=
  if x.isMember then eidOf tb x.id else ((r.board.seats.find? fun e => e.seat = x.id).map (·.eid)).getD 0x1FFFFF

/-- An ingress link from a source has its receiver in REPLAY_WAIT. -/
def srcReplays (s : State) (tb : Table) (r : Round) (x : Src) : Bool :=
  (localLink s (srcEid tb r x)).any fun l => (getLink s l).rx.replayWait.isSome

/-- Link replay (R546). -/
def idleReplay (s : State) (tb : Table) : Bool :=
  ((List.range s.links.length).any fun l =>
    let tx := (getLink s l).tx
    !tx.resend.isEmpty && (waitsOn s tb.id l || tx.queues.any fun q => q.any fun f => flitTable f = some tb.id)) ||
    tb.rounds.any fun r => !r.done && r.chunks.any fun c => c.state ≤ 1 &&
      c.owed.any fun o => o.got < o.due && srcReplays s tb r o.src

/-- A chunk is owed elements still. -/
def owedStill (c : Chunk) : Bool := c.state ≤ 1 && c.owed.any fun o => o.taken < o.due

/-- Seat late (R182, R273). -/
def idleLate (tb : Table) : Bool :=
  tb.rounds.any fun r => !r.done && ((r.chunks.any fun c => c.late && owedStill c) || (r.readyAt.isSome && !allReady r))

/-- The chunk of a part that waits has not been opened: the table and round it is of. -/
def partUnopened (s : State) (p : Part) : Option (Table × Round) :=
  match findRound s p.table p.round with
  | none => none
  | some (tb, r) => if r.chunks.any fun c => c.index = p.chunk && c.state ≠ 0 then none else some (tb, r)

/-- A lane's FIFO is full, with parts for accumulators in HBM (R357). -/
def laneSpills (s : State) (lane : Nat) : Bool :=
  let ps := s.feed.lanes.getD lane []
  64 ≤ ps.length && ps.any fun p => (partChunk s p).any fun x => x.2.2.hbm

/-- A part waits behind accumulators in HBM, or for a place in HBM (R357, R515). -/
def partSpills (s : State) (p : Part) : Bool :=
  match partUnopened s p with
  | some (tb, r) => openChunks tb r < 64
  | none => (laneOf s p).any (laneSpills s)

/-- Spill wait (R93, R116, R139, R357, R515). -/
def idleSpill (s : State) (tb : Table) : Bool :=
  (s.feed.waiting.any fun p => p.table = tb.id && partSpills s p) || (tb.jobs.any fun j => !j.panels.isEmpty) ||
    tb.rounds.any fun r => !r.done && r.chunks.any fun c => c.state = 2 && slotBlocked tb r c.lo c.hi

/-- Pool exhaustion (R161, R165, R207, R357). -/
def idlePool (s : State) (tb : Table) : Bool :=
  tb.poolWait ||
    (s.feed.waiting.any fun p => p.table = tb.id && (partUnopened s p).any fun x => 64 ≤ openChunks x.1 x.2) ||
    s.pot.pkts.any fun p => p.waited && pktTable p = some tb.id

/-- The bulk packet whose flits a class of a link sends next: the one under way, or the head of its queues. -/
def headPkt (s : State) (l tc : Nat) : Option QPkt := match inClass s l tc with
  | some (p, g) => if (legFlits p g).isEmpty then none else some p
  | none => classHead s l tc

/-- Credit starvation (R357, R441): a bulk packet of the table heads its queue without a credit, or waits on a link in
fast retrain. A Pip packet in TC6 goes by the credits of PIP flits and counts under no cause. -/
def idleCredit (s : State) (tb : Table) : Bool :=
  (List.range s.links.length).any fun l =>
    ((getLink s l).stat.state = 3 && waitsOn s tb.id l) ||
      [0, 1, 2, 3, 4, 5, 7].any fun tc =>
        !hasCredit ((getLink s l).tx.pools.getD (classPool tc) {}) && (headPkt s l tc).any fun p => pktTable p = some tb.id

/-- Time-slice yield (R145, R290, R619): ready matrix work while other tables' quanta hold every unit, or while the units
are throttled, and committed work that can run while no Keeper unit serves it. -/
def idleYield (s : State) (tb : Table) : Bool :=
  (0 < readyTasks tb && unitsOn s.mu tb.id = 0 && (s.power.throttled || s.mu.units.all (·.isSome))) ||
    (tb.keeper.any (fun k => (nextChunk tb k).isSome) && unitsOn s.kunits tb.id = 0)

/-- Barrier wait (R207, R260, R304, R329). -/
def idleBarrier (tb : Table) : Bool := tb.waiting && !starving tb && !tb.poolWait

/-- The first cause of Table 17-7 that holds, from 0. -/
def idleCause (s : State) (tb : Table) : Option Nat :=
  [idleFence s tb, idleReplay s tb, idleLate tb, idleSpill s tb, idlePool s tb, idleCredit s tb, idleYield s tb,
   idleBarrier tb].findIdx? id

/-- Charge one interval of 16 ticks to the cause found at its start. -/
def charge (cause : Option Nat) (x : Idle) : Idle :=
  { openNs := x.openNs + 16, ns := match cause with
      | some i => modAt x.ns i (· + 16)
      | none => x.ns }

/-- IDLE_INTERVAL: the interval that starts at the next multiple of 16 ticks, charged for every table open by then (R545,
R548). -/
def idleStep (s : State) : State :=
  if !live s || s.pawn.cause ≠ 0 then s else
  let start := ceilDiv (now s) 16 * 16
  let s := advanceTo start s
  let s' := advanceTo (start + 16) s
  { s' with tables := s'.tables.map fun tb =>
    if tb.openedAt ≤ start then { tb with idle := charge (idleCause s tb) tb.idle } else tb }

def execIdleInterval (s : State) : Host.Outcome State Fault Refusal := .next (idleStep s)

/-! ### SCRUB_READ (R518 to R528) -/

/-- The staged copies that would carry a failing word go, and the round fails (R189): they lie in the Pot, or in the
multicast cache. -/
def failStaged (cached : Bool) (t r c : Nat) (s : State) : State :=
  match s.pot.pkts.find? fun q => q.kind = .emitted t r c && q.cached = cached with
  | some q => failPacket q.num s
  | none => failRound t r stWord 0 false c none s

/-- Every residual of a slot at a boundary goes to +0 and its Q_prev is reset (Table 16-3). -/
def zeroResid (t bd slot : Nat) : State → State :=
  modTable t (fun tb => { tb with resid := updWhere (fun x => x.boundary = bd && x.rslot = slot) (fun x => { x with vals := [], q := none }) tb.resid })

/-- A word of a partner's gradient log fails: the turn cannot be replayed (R527). -/
def failLog (d : Double) : Double :=
  { d with
    state := if d.state = 0 then 1 else d.state, log := none
    slots := match sourceSlot d with
      | some i => modAt d.slots (1 - i) (fun x => { x with valid := false })
      | none => d.slots }

/-- The checkpoint or restore of a table at this GT64 that a failing word of the checkpoint region ends. -/
def failCkpt (t : Nat) (s : State) : State :=
  let outs := s.doubles.filter fun d => d.table = t && d.out.any fun o => o.stage < 6
  let s := forAll outs (fun d s => match d.out with
    | some o => shardFail d o s
    | none => s) s
  let s := match ((findTable s t).bind (·.keeper)).bind (·.ckpt) with
    | some c => endCkpt t c.turn 1 s
    | none => s
  loadEnds nextCand t 1 s

/-- A failing word in live state, by region (Table 16-3). -/
def failWord (tier addr : Nat) (o : WordOwner) (s : State) : State :=
  match o with
  | .free => wroteWord tier 0 (forgetWord tier addr s)
  | .packetCell _ n => failPacket n s
  | .accumulator t r c => failRound t r stWord 0 false c none s
  | .staging t r c => failStaged false t r c s
  | .multicastCache t r c => failStaged true t r c s
  | .keeper t p => modKeeper t (fun k => { k with
      params := updWhere (fun x => x.param = p) (fun x => { x with damaged := true }) k.params }) s
  | .feedQueue t => modPrim t (fun d => { d with state := if d.state = 0 then 1 else d.state, rebuildDue := true, feed := [] }) s
  | .residual t bd slot => zeroResid t bd slot s
  | .doubleSlot prim t _ p => { s with doubles := updWhere (fun d => d.primary = prim && d.table = t) (fun d => { d with marks := insertN p d.marks }) s.doubles }
  | .gradientLog prim t => modDouble prim t failLog s
  | .checkpoint t => failCkpt t s
  | .moveWindow t => closeTable t s
  | .cpStore => modWd (fun w => { w with cpStopped := true }) s
  | .scoresheet _ => s
  | .routeBank _ _ _ => s
  | .other => s

/-- The pass of a tier goes on past a word, and starts again after its last (R520, Table 16-5). -/
def scrubOn (tier : Nat) (s : State) : State :=
  modTier tier (fun t =>
    if capacityOf tier ≤ t.scrubAt + 8 then { t with scrubAt := 0, passes := t.passes + 1, tLastPass := now s }
    else { t with scrubAt := t.scrubAt + 8 }) s

/-- Scrubbing runs (R520, R557, R619): memory is cleared, and neither Pawn mode nor throttling holds it. -/
def scrubs (s : State) : Bool := live s && s.boot.memCleared && s.mem.scrubOn && s.pawn.cause = 0 && !s.power.throttled

/-- SCRUB_READ of the next word of a tier. -/
def scrubRead (tier addr : Nat) (o : WordOwner) (w : WordRead) (rewritten : Bool) (s : State) : State :=
  if !scrubs s || 4 ≤ tier || addr ≠ (s.mem.tiers.getD tier {}).scrubAt then s
  else
    scrubOn tier (match w with
      | .ok => s
      | .corrected bit => wordCorrected tier addr bit o true rewritten s
      | .failed => failWord tier addr o (wordFailed tier addr o true s))

def execScrubRead (tier address : Nat) (owner : WordOwner) (word : WordRead) (rewritten : Bool) (s : State) :
    Host.Outcome State Fault Refusal := .next (scrubRead tier address owner word rewritten s)

end Sys2Proof.Machine
end

