-- ==== Sys2Proof/Machine/PawnMode.lean ====
section
/-! DEFINITION. Pawn mode (15, 18): entering it for any cause (R505, R556 to R559), PAWN_EXIT (R563, R564),
PAWN_ROUND_TIMEOUT (R558) and the minimal responder's PAWN_REQUEST (R506). -/

namespace Sys2Proof.Machine
open Sys2Proof

/-! ### Entry -/

/-- The mailbox of a command that executes and that command: the lowest mailbox that has one. -/
def executing (s : State) : Option (Nat × Nat) :=
  ((List.range 64).find? fun m => (getMbox s m).exec.isSome).map fun m =>
    (m, cmdOf (((getMbox s m).exec.map (·.msg)).getD []))

/-- The mailboxes at Pawn entry: every session ends, every request goes without a response, every bulk buffer is freed
(R505); nothing waits to answer any more. -/
def hushMailboxes (s : State) : State :=
  let s := freeStaging { s with mbox := s.mbox.map fun _ => {}, opening := [] }
  let s := modRoute (fun r => { r with fences := r.fences.map fun f => { f with mailbox := none } }) s
  { s with links := s.links.map fun k => { k with loop := { k.loop with mailbox := none } } }

/-- Checkpoints and restores in flight are abandoned here, and storage operations stop (Table 18-3). -/
def abandonCheckpoints (s : State) : State :=
  let stop := fun (k : Keeper) =>
    let n := k.ckptReq.length + b2n k.ckpt.isSome
    { k with ckptReq := [], ckpt := none, restore := none, dbl := { k.dbl with abandoned := k.dbl.abandoned + n } }
  let drop := fun (d : Double) =>
    let n := d.ckptReq.length + b2n (d.out.any fun o => o.stage < 6)
    { d with
      ckptReq := [], out := d.out.map fun o => if o.stage < 6 then { o with stage := 7 } else o
      abandoned := d.abandoned + n }
  { s with
    store := { s.store with ops := [] }
    tables := s.tables.map fun tb => { tb with keeper := tb.keeper.map stop }
    doubles := s.doubles.map drop }

/-- Every KEEPER round that has not committed fails with ABORTED (R559). -/
def failKeeperRounds (s : State) : State :=
  forAll s.tables (fun tb s =>
    forAll (tb.rounds.filter fun r => r.spec.keeper && !r.done && !r.committed)
      (fun r => failRound tb.id r.spec.round stAborted tb.member true 0 none) s) s

/-- The GT64 enters Pawn mode (R556); in Pawn mode already, only the watchdog changes CAUSE. -/
def enterPawn (cause : Nat) (s : State) : State :=
  if !live s then s
  else if s.pawn.cause ≠ 0 then
    if cause = 1 then modPawn (fun p => { p with cause := 1 }) s else s
  else
    let last := executing s
    let s := modPawn (fun p => { p with
      cause := cause, routeEpoch := s.route.cur, tEnter := now s, pktsForwarded := 0, roundsOpen := openRounds s
      roundsFailed := 0, lastCmd := (last.map (·.2)).getD 0, lastMailbox := (last.map (·.1)).getD 0, lastValid := last.isSome }) s
    drain (failKeeperRounds (abandonCheckpoints (hushMailboxes (setCause 1 s))))

/-! ### Exit -/

/-- The condition of a Pawn cause is absent (R563, Table 20-4, R23). -/
def pawnAbsent (cause : Nat) (tj : Int) (rates : List Nat) : Bool :=
  if cause = 2 then tj < 100 else cause = 3 && rates.length = 48 && rates.all fun r => 1854 ≤ r

/-- A double that lost a record goes to REBUILDING (R564). -/
def rebuildLost (d : Double) : Double := if d.lost then { failLog d with lost := false } else d

/-- Step 9 of start-up from its beginning: the mailbox transport opens and every enabled link trains from VL1
(Table 20-3). -/
def beginLinks (s : State) : State :=
  let s := modBoot (fun b => { b with transport := true, tMailbox := now s }) s
  forAll (allLinks s) trainFromStart s

/-- The step of start-up that ran when Pawn mode was entered starts again (R616): of those, step 9 has effects of its own. -/
def stepAgain (s : State) : State :=
  if s.boot.step = 9 && !s.boot.stopped then beginLinks (forAll (allLinks s) takeDown s) else s

/-- What leaving Pawn mode does at the moment it is left (R559, R616): the record kept, the rates back, the doubles rebuilt,
the turns that waited looked at again. -/
def pawnLeave (s : State) : State :=
  let s := modPawn (fun p => { p with
    cause := 0, routeEpoch := 0, tEnter := 0, pktsForwarded := 0, roundsOpen := 0, roundsFailed := 0, lastCmd := 0
    lastMailbox := 0, lastValid := false, exits := p.exits + 1, lastCause := p.cause, tLastExit := now s }) s
  let s := modPower (fun p => { p with rateFloor := false }) { s with doubles := s.doubles.map rebuildLost }
  stepAgain (forAll s.tables (fun tb => checkTurn tb.id) s)

/-- Pawn mode with CAUSE 2 or 3 ends: its condition has been absent for 1 s (R563). -/
def pawnExit (tj : Int) (rates : List Nat) (s : State) : State :=
  if !live s || !pawnAbsent s.pawn.cause tj rates then s else pawnLeave (advanceTo (s.pawn.tEnter + 1000000000) s)

def execPawnExit (tj : Int) (rates : List Nat) (s : State) : Host.Outcome State Fault Refusal := .next (pawnExit tj rates s)

/-! ### Rounds in Pawn mode -/

/-- A round is still open at T_ENTER plus ABSENCE_LIMIT plus d × 1 ms (R558). -/
def pawnRoundEnds (t rid : Nat) (s : State) : State :=
  if !live s || s.pawn.cause = 0 then s else
  match findRound s t rid with
  | none => s
  | some (tb, r) =>
    if r.done then s else
    drain (failRound t rid stAborted tb.member true 0 none (advanceTo (s.pawn.tEnter + absenceNs tb) s))

def execPawnRoundTimeout (table round : Nat) (s : State) : Host.Outcome State Fault Refusal :=
  .next (pawnRoundEnds table round s)

/-! ### The minimal responder (R506) -/

/-- What the minimal responder answers to a message: BAD_LENGTH under step 1 of R484, the two objects it reads, PAWN. -/
def pawnAnswer (msg : List Byte) (s : State) : Answer :=
  let num := fld (argW msg 0) 63 48
  if msg.length < 16 || msg.length % 8 ≠ 0 then { status := gLength }
  else if cmdOf msg = 0x10 && msg.length = 32 && num = 0x0F03 then { data := bytesOf (pawnWords s) }
  else if cmdOf msg = 0x10 && msg.length = 32 && num = 0x0F01 then { data := bytesOf (infoWords s) }
  else { status := gPawn, detail := s.pawn.cause }

/-- A mailbox datagram arrives in Pawn mode: a request is answered, every copy of it; a bulk datagram is dropped. -/
def pawnRequest (src : Source) (d : List Byte) (s : State) : State :=
  if !live s || s.pawn.cause = 0 || !hostUp s src.port then s
  else
    let s := frameIn src.port s
    let h := mboxHdrOf d
    if !hasIp s src.port then dropFrame src.port s
    else if mboxOk 3 d then s
    else if !mboxOk 0 d then dropFrame src.port s
    else
      let msg := d.drop 16
      let r : Request := { src := src, session := h.session, seq := h.seq, msg := msg }
      sendOn src.port (.datagram src 47710 (responseBytes h.mailbox r (pawnAnswer msg s))) s

def execPawnRequest (src : Source) (datagram : List Byte) (s : State) : Host.Outcome State Fault Refusal :=
  .next (pawnRequest src datagram s)

end Sys2Proof.Machine
end

