-- ==== Sys2Proof/Machine/Startup.lean ====
section
/-! DEFINITION. Power, reset and start-up (19, 20, 21): PWR_GOOD and RESET_N, the steps of Table 20-3 from PLL_LOCK to
ENTER_SERVICE, the reference clocks, and RESTART_RESET. -/

namespace Sys2Proof.Machine
open Sys2Proof

/-! ### Reset (R601, R609, R622) -/

/-- The flash pins while the flash is not accessed: SPI_CS_N high and SPI_CLK low (R640). -/
def driveSpi : State → State := modPins (fun p => { p with spiClk := some false, spiCsN := some true, spiIo := Config.spiIdle })

/-- The flash pins are at high impedance (R640). -/
def floatSpi : State → State := modPins (fun p => { p with spiClk := none, spiCsN := none, spiIo := none })

/-- What a reset leaves: everything is at its reset value but the flash, the pins, what survives RESET_N (R607, R620),
and the last readings; the clock of a port die does not depend on the reset. -/
def afterReset (s : State) : State :=
  { State.reset with
    pending := s.pending, out := s.out, free := s.free, flash := s.flash
    pins := { s.pins with jtagHold := false, spiClk := none, spiCsN := none, spiIo := none }
    boot := {
      tripped := s.boot.tripped, clockLoss := s.boot.clockLoss, clockHold := s.boot.clockHold, fail := b2n s.boot.clockHold
      coreClockOk := s.boot.coreClockOk, srdClockOk := s.boot.srdClockOk }
    power := { tjMax := s.power.tjMax, tjHbmMax := s.power.tjHbmMax, minRate := s.power.minRate } }

/-- Start-up begins at step 1: the straps are sampled; a clock loss kept from before sets its cause (R607, R609). -/
def startUp (straps : Straps) (s : State) : State :=
  let s := driveSpi (modPins (fun p => { p with straps := straps, i2cAddr := 0x60 + straps.i2c, jtagHold := false }) s)
  let s := modBoot (fun b => { b with step := 1, fail := 0, clockHold := false, coreClockOk := true }) s
  whenDo s.boot.clockLoss (setCause 3) s

/-- A boundary instruction of R642. -/
def isBoundary (op : Nat) : Bool := op = 0 || op = 2 || op = 3 || op = 4 || op = 5

/-- PWR_GOOD is asserted: the I2C port answers at the address it samples (R617). With RESET_N released already, the
GT64 no longer acts as if it were asserted (R601). -/
def powerOn (straps : Straps) (s : State) : State :=
  if s.pins.pwrGood then s else
  let s := modPins (fun p => { p with pwrGood := true, i2cOn := true, i2cAddr := 0x60 + straps.i2c }) s
  if !s.pins.resetHigh then s
  else if isBoundary s.pins.jtagIr then modPins (fun p => { p with jtagHold := true }) s
  else startUp straps s

def execPwrGoodAssert (straps : Straps) (s : State) : Host.Outcome State Fault Refusal := .next (powerOn straps s)

/-- PWR_GOOD is deasserted: as RESET_N, and what survives RESET_N is released too (R601, R607, R617, R620). -/
def powerOff (s : State) : State :=
  if !s.pins.pwrGood then s else
  let s := modBoot (fun b => { b with tripped := false, clockLoss := false, clockHold := false }) s
  afterReset (modPins (fun p => { p with pwrGood := false, i2cOn := false, thermtrip := false }) s)

def execPwrGoodDeassert (s : State) : Host.Outcome State Fault Refusal := .next (powerOff s)

/-- RESET_N is asserted (R609, R622); after a trip nothing further happens (R620). -/
def resetOn (s : State) : State :=
  if !s.pins.resetHigh then s else
  let s := floatSpi (modPins (fun p => { p with resetHigh := false }) s)
  if s.pins.pwrGood && !s.boot.tripped then afterReset s else s

def execResetNAssert (s : State) : Host.Outcome State Fault Refusal := .next (resetOn s)

/-- RESET_N is released: start-up begins, unless a boundary instruction holds it (R609, R642). -/
def resetOff (straps : Straps) (s : State) : State :=
  if s.pins.resetHigh then s else
  let s := modPins (fun p => { p with resetHigh := true }) s
  if !s.pins.pwrGood then s
  else if s.boot.tripped then driveSpi s
  else if isBoundary s.pins.jtagIr then modPins (fun p => { p with jtagHold := true }) s
  else startUp straps s

def execResetNRelease (straps : Straps) (s : State) : Host.Outcome State Fault Refusal := .next (resetOff straps s)

/-- RESTART_RESET: 10 ms after the response the GT64 acts as if RESET_N were asserted and released (R494, R609). -/
def restartNow (straps : Straps) (s : State) : State :=
  if !live s then s else
  match s.boot.restartAt with
  | none => s
  | some t => startUp straps (afterReset (advanceTo t s))

def execRestartReset (straps : Straps) (s : State) : Host.Outcome State Fault Refusal := .next (restartNow straps s)

/-! ### Reference clocks (R607, R608) -/

/-- REFCLK_CORE stops or the PLL loses lock: the hold of R607. -/
def coreClockLost (s : State) : State :=
  if s.boot.step = 0 || s.boot.tripped then s else
  afterReset (modBoot (fun b => { b with clockLoss := true, clockHold := true, coreClockOk := false }) s)

def execRefclkCoreLoss (s : State) : Host.Outcome State Fault Refusal := .next (coreClockLost s)

/-- The links of a port die. -/
def dieLinks (s : State) (die : Nat) : List Nat := (allLinks s).filter fun l => l / 64 = die

/-- REFCLK_SRDk stops: every link of the port die leaves service (R608). -/
def srdClockLost (die : Nat) (s : State) : State :=
  if s.boot.step = 0 || s.boot.tripped || 8 ≤ die || !s.boot.srdClockOk.getD die true then s else
  let s := modBoot (fun b => { b with srdClockOk := b.srdClockOk.set die false, clockLoss := true }) s
  forAll (dieLinks s die) (fun l s => trainFromStart l (takeDown l s)) (setCause 3 s)

def execRefclkSrdLoss (die : Nat) (s : State) : Host.Outcome State Fault Refusal := .next (srdClockLost die s)

/-- REFCLK_SRDk has been within its limits for 1 ms: the links train again from VL1 (R608). -/
def srdClockBack (die : Nat) (s : State) : State :=
  if s.boot.tripped || 8 ≤ die || s.boot.srdClockOk.getD die true then s else
  let s := modBoot (fun b => { b with srdClockOk := b.srdClockOk.set die true }) s
  forAll (dieLinks s die) trainFromStart s

def execRefclkSrdRestore (die : Nat) (s : State) : Host.Outcome State Fault Refusal := .next (srdClockBack die s)

/-! ### Start-up, steps 1 to 3 -/

/-- VOUT_MODE is linear with an exponent from −16 to −8 (R604). -/
def voutExp (m : Nat) : Int := if m % 32 < 16 then (m % 32 : Nat) else (m % 32 : Nat) - 32
def voutOk (m : Nat) : Bool := m < 256 && m / 32 = 0 && -16 ≤ voutExp m && voutExp m ≤ -8

/-- The regulators that the straps name, with the VOUT_MODE each reports (R636). -/
def regsOf (st : Straps) (modes : List Nat) : List Regulator :=
  if st.vrBase = 7 then [] else
  (List.range (st.vrCount + 1)).map fun i => { addr := 0x40 + 8 * st.vrBase + i, exp := voutExp (modes.getD i 0) }

/-- The device key of R579. -/
def deviceKey (kPuf : Nat) : Option (Nat × Nat × Nat) :=
  (sm2Mul 256 (deviceScalar kPuf) (some (sm2Gx, sm2Gy))).map fun p => (deviceScalar kPuf, p.1, p.2)

/-- PLL_LOCK: device time starts at 0, the CP runs with the watchdog armed, the AVS controller reads VOUT_MODE, and
the PUF gives the device key (R578 to R581, R604, R607). -/
def pllLock (modes : List Nat) (kPuf : Nat) (good : Bool) (s : State) : State :=
  let st := s.pins.straps
  if s.boot.step ≠ 1 || st.test || s.boot.tripped || !s.boot.coreClockOk then s else
  let s := modTime (fun t => { t with running := true, t64 := 0, rateAcc := 0 }) s
  let s := modWd (fun w => { w with armed := true, ticks := 0 }) s
  let s := modPower (fun p => { p with
    avsOn := true, regs := regsOf st modes
    avsDead := st.vrBase = 7 || !((List.range (st.vrCount + 1)).all fun i => voutOk (modes.getD i 256)) }) s
  let s := modIdent (fun i =>
    let i := { i with pufZero := true }
    if good then
      let k := deviceKey kPuf
      { i with kPuf := kPuf, key := k, keyId := match k with
          | some (_, x, y) => keyId (beBytes 32 x ++ beBytes 32 y)
          | none => i.keyId }
    else { i with noKey := true }) s
  modBoot (fun b => { b with step := 4 }) s

def execPllLock (voutModes : List Nat) (kPuf : Nat) (pufGood : Bool) (s : State) : Host.Outcome State Fault Refusal :=
  .next (pllLock voutModes kPuf pufGood s)

/-! ### Start-up, steps 4 to 10 -/

/-- A step of start-up is the running one and nothing has stopped it (R610, R615, R616). -/
def atStep (n : Nat) (s : State) : Bool := s.boot.step = n && !s.boot.stopped && s.pawn.cause = 0 && !s.boot.tripped

/-- Start-up stops (R615); the mailbox transport opens when the configuration is valid. -/
def startFail (fail unit : Nat) (s : State) : State :=
  let cfg := s.ident.configSlot.isSome
  setCause 5 (modBoot (fun b => { b with stopped := true, fail := fail, failUnit := unit, transport := cfg }) s)

/-- The patch slot to load against a floor (R586 step 3). -/
def loadPatch (s : State) : State :=
  let floor := s.ident.patchFloor
  match pickSlot (patchSlotVer s.flash floor 0) (patchSlotVer s.flash floor 1) with
  | none => s
  | some b => match imageAt s.flash (slotAt false b) 2 with
    | none => s
    | some i => modIdent (fun d => { d with patchSlot := some b, patchVersion := i.version, patchSm3 := i.digest }) s

/-- The configuration to use, with the state after its records (R586 steps 1 and 2, R589). -/
def loadConfig (s : State) : Option State :=
  let a := configSlotOf s.flash 0 s
  let b := configSlotOf s.flash 1 s
  match pickSlot (a.map (·.1.version)) (b.map (·.1.version)) with
  | none => none
  | some i => (if i = 0 then a else b).map fun x =>
    modIdent (fun d => { d with configSlot := some i, configSm3 := x.1.digest }) x.2

/-- The host ports that a configuration enables begin to negotiate (Table 20-3 step 5). -/
def startHosts (s : State) : State :=
  { s with host := s.host.map fun h => { h with state := if h.cfg.pmd = 0 then 3 else 1 } }

/-- FLASH_VERIFY: the flash has been read; the images are verified and loaded, and the configuration applied. -/
def flashVerify (s : State) : State :=
  if !atStep 4 s then s else
  let s := modIdent (fun i => { i with ownerKey := ownerKeyOf s.flash, patchFloor := Config.romPatchFloor }) s
  match loadConfig s with
  | none => startFail 2 0 (loadPatch s)
  | some s =>
    let s := startHosts (loadPatch s)
    if s.power.avsDead then startFail 6 0 (modBoot (fun b => { b with step := 5 }) s)
    else modBoot (fun b => { b with step := 6 }) s

def execFlashVerify (s : State) : Host.Outcome State Fault Refusal := .next (flashVerify s)

/-- SELF_TEST_DONE (R611, R615). -/
def selfTest (failed : Option Nat) (s : State) : State :=
  if !atStep 6 s then s else
  match failed with
  | some u => startFail 3 u s
  | none => modBoot (fun b => { b with step := 7 }) s

def execSelfTestDone (failedUnit : Option Nat) (s : State) : Host.Outcome State Fault Refusal := .next (selfTest failedUnit s)

/-- A memory that failed in start-up: FAIL and FAIL_UNIT (R615). -/
def memFail (f : MemFail) (s : State) : State := match f with
  | .hbm u => startFail 4 u s
  | .lpddr u => startFail 5 u s

/-- MEM_TRAIN_DONE. -/
def memTrain (failure : Option MemFail) (s : State) : State :=
  if !atStep 7 s then s else
  match failure with
  | some f => memFail f s
  | none => modBoot (fun b => { b with step := 8 }) s

def execMemTrainDone (failure : Option MemFail) (s : State) : Host.Outcome State Fault Refusal := .next (memTrain failure s)

/-- MEM_CLEAR_DONE: the mailbox transport opens and every enabled link trains from VL1 (R612, step 9). -/
def memClear (failure : Option MemFail) (s : State) : State :=
  if !atStep 8 s then s else
  match failure with
  | some f => memFail f s
  | none =>
    beginLinks (modBoot (fun b => { b with step := 9, memCleared := true }) s)

def execMemClearDone (failure : Option MemFail) (s : State) : Host.Outcome State Fault Refusal := .next (memClear failure s)

/-- The enabled links. -/
def enabledLinks (s : State) : List Nat := (allLinks s).filter (isEnabled s)

/-- Every enabled link is up at its final generation or has failed at VL1 (R614). -/
def linksSettled (s : State) : Bool := (enabledLinks s).all fun l => linkUp s l || (getLink s l).train.failedVl1

/-- ENTER_SERVICE: at the latest 5 s after step 9 (R614); the time election starts. -/
def enterService (s : State) : State :=
  if !atStep 9 s then s else
  let s := if linksSettled s then s else advanceTo (s.boot.tMailbox + 5000000000) s
  elect (modBoot (fun b => { b with
    step := 10, tService := now s
    linksUp := ((enabledLinks s).filter (linkUp s)).length
    linksFailed := ((enabledLinks s).filter fun l => (getLink s l).train.failedVl1).length }) s)

def execEnterService (s : State) : Host.Outcome State Fault Refusal := .next (enterService s)

end Sys2Proof.Machine
end

