-- ==== Sys2Proof/Machine/Heat.lean ====
section
/-! DEFINITION. The AVS controller (R602 to R605), heat (R618 to R620), the watchdog (R504) and the check for stalled
helpers (R555). -/

namespace Sys2Proof.Machine
open Sys2Proof

/-! ### Heat -/

/-- Temperatures have been read. -/
def readTemps (tj hbm : Int) : State → State := modPower (fun p => { p with tjMax := tj, tjHbmMax := hbm })

/-- THROTTLE_ENTER (Table 20-4). -/
def throttleOn (tj hbm : Int) (s : State) : State :=
  if !live s then s else
  let s := readTemps tj hbm s
  if tj < 100 && hbm < 95 then s
  else setCause 0 (modPower (fun p => { p with throttled := true, throttledAt := if p.throttled then p.throttledAt else now s }) s)

def execThrottleEnter (tj hbm : Int) (s : State) : Host.Outcome State Fault Refusal := .next (throttleOn tj hbm s)

/-- THROTTLE_EXIT: the condition has been absent for 1 s (Table 20-4). -/
def throttleOff (tj hbm : Int) (s : State) : State :=
  if !live s then s else
  let s := readTemps tj hbm s
  if tj < 95 && hbm < 90 && s.power.throttled then
    modPower (fun p => { p with throttled := false }) (advanceTo (s.power.throttledAt + 1000000000) s)
  else s

def execThrottleExit (tj hbm : Int) (s : State) : Host.Outcome State Fault Refusal := .next (throttleOff tj hbm s)

/-- THERMAL_PAWN_ENTER (Table 20-4, R556). -/
def thermalPawn (tj : Int) (s : State) : State :=
  if !live s then s else
  let s := modPower (fun p => { p with tjMax := tj }) s
  if tj < 110 then s else enterPawn 2 s

def execThermalPawnEnter (tj : Int) (s : State) : Host.Outcome State Fault Refusal := .next (thermalPawn tj s)

/-- THERMAL_TRIP: everything stops until power-off; the last readings stay in PowerStatus (R620). -/
def thermalTrip (sensor : Int) (s : State) : State :=
  if !s.pins.pwrGood || s.boot.tripped || sensor < 125 then s else
  let p := s.power
  let s := afterReset (modPins (fun x => { x with thermtrip := true }) (modBoot (fun b => { b with tripped := true }) s))
  modPower (fun x => { x with
    vcoreMv := p.vcoreMv, vcoreMinMv := p.vcoreMinMv, vcoreMaxMv := p.vcoreMaxMv, coreW := p.coreW }) s

def execThermalTrip (sensor : Int) (s : State) : Host.Outcome State Fault Refusal := .next (thermalTrip sensor s)

/-! ### The AVS controller -/

/-- A commanded voltage after a step, clamped to 0.65 to 0.90 V (R602). -/
def stepTo (mv : Nat) (d : Int) : Nat := (max 650 (min 900 ((mv : Int) + d))).toNat

/-- A voltage in a regulator's LINEAR16 format, rounded to nearest even (R52, R604). -/
def linear16 (mv : Nat) (exp : Int) : Nat := (rneInt ((mv : Int) * 2 ^ (-exp).toNat) 1000).toNat

/-- The bytes of a VOUT_COMMAND write (R604). -/
def voutBytes (mv : Nat) (r : Regulator) : List Byte :=
  let b := BitVec.ofNat 8 (2 * r.addr) :: 0x21#8 :: leBytes 2 (linear16 mv r.exp)
  b ++ [crc8 b]

/-- A regulator acknowledges or does not. -/
def ackReg (nacks : List Nat) (r : Regulator) : Regulator :=
  { r with nacks := if nacks.contains r.addr then r.nacks + 1 else 0 }

/-- Send one step: a write to every regulator in ascending address (R602 to R605). -/
def sendStep (d : Int) (nacks : List Nat) (s : State) : State :=
  let p := s.power
  let mv := stepTo p.vcoreMv d
  if p.avsDead || mv = p.vcoreMv || (p.avsFault && d < 0) then s else
  let s := emits (p.regs.map fun r => .pmbus (voutBytes mv r)) s
  let regs := p.regs.map (ackReg nacks)
  let bad := regs.any fun r => 3 ≤ r.nacks
  let s := modPower (fun p => { p with
    vcoreMv := mv, vcoreMinMv := min p.vcoreMinMv mv, vcoreMaxMv := max p.vcoreMaxMv mv, regs := regs, inFlight := true
    avsFault := p.avsFault || bad
    pmbusErrors := p.pmbusErrors + (regs.filter fun r => nacks.contains r.addr).length
    stepsUp := p.stepsUp + b2n (0 < d), stepsDown := p.stepsDown + b2n (d < 0) }) s
  let s := whenDo bad (setCause 4) s
  whenDo (0 < d) (hazardCount 4) s

/-- A step that a reading calls for: sent at once, or pending; a step down is never pending beside a step up (R603). -/
def callStep (d : Int) (nacks : List Nat) (s : State) : State :=
  if !s.power.inFlight then sendStep d nacks s
  else modPower (fun p => { p with
    pendingStep := match p.pendingStep with
      | some e => if 0 < e && d < 0 then some e else some d
      | none => some d }) s

/-- MIN_RATE decides (R602, R23). -/
def decideAvs (m : Nat) (nacks : List Nat) (s : State) : State :=
  let floor : Bool := m < 1800 && s.power.vcoreMv = 900
  let good := if m < 1854 then 0 else min 100 (s.power.goodRun + 1)
  let s := modPower (fun p => { p with
    minRate := m, goodRun := good, rateFloor := floor, floorEvents := p.floorEvents + b2n (m < 1800) }) s
  let s := whenDo floor (fun s => enterPawn 3 (setCause 2 s)) s
  if m < 1800 then callStep 25 nacks s
  else if m < 1854 then callStep 10 nacks s
  else if good = 100 then callStep (-5) nacks s else s

/-- AVS_READING: all 48 rate monitors, every 10 µs (R602). -/
def avsReading (rates nacks : List Nat) (s : State) : State :=
  if !live s || !s.power.avsOn then s else
  match rates with
  | [] => s
  | r :: rs => decideAvs (rs.foldl min r) nacks s

def execAvsReading (rates nacks : List Nat) (s : State) : Host.Outcome State Fault Refusal := .next (avsReading rates nacks s)

/-- AVS_STEP_DONE: the pending step, if any, goes (R603, R604). -/
def avsStepDone (nacks : List Nat) (s : State) : State :=
  if !live s || !s.power.inFlight then s else
  let d := s.power.pendingStep
  let s := modPower (fun p => { p with inFlight := false, pendingStep := none }) s
  match d with
  | some d => sendStep d nacks s
  | none => s

def execAvsStepDone (nacks : List Nat) (s : State) : Host.Outcome State Fault Refusal := .next (avsStepDone nacks s)

/-- READ_IOUT as Linear11: 5-bit exponent, 11-bit mantissa, both two's complement (PRESUMED, log 30). Milliampere. -/
def linear11 (x : Nat) : Int :=
  let e : Int := if x / 2048 % 32 < 16 then (x / 2048 % 32 : Nat) else (x / 2048 % 32 : Nat) - 32
  let m : Int := if x % 2048 < 1024 then (x % 2048 : Nat) else (x % 2048 : Nat) - 2048
  if 0 ≤ e then m * 1000 * 2 ^ e.toNat else rneInt (m * 1000) (2 ^ (-e).toNat)

/-- Power of one regulator in microwatt. -/
def regPower (r : Regulator) (vout iout : Nat) : Int :=
  rneInt ((vout : Int) * 1000) (2 ^ (-r.exp).toNat) * linear11 iout

/-- CORE_W from all regulators, to the nearest watt. -/
def coreWatts (regs : List Regulator) (vout iout : List Nat) : Nat :=
  let t := (List.range regs.length).foldl (fun a i =>
    a + regPower (regs.getD i { addr := 0, exp := 0 }) (vout.getD i 0) (iout.getD i 0)) (0 : Int)
  (max 0 (min 65535 (rneInt t 1000000))).toNat

/-- AVS_POLL: every 1 ms READ_VOUT and READ_IOUT of each regulator (R605). With a regulator that does not answer, or one
whose VOUT_MODE is not the linear one, CORE_W is not stated: a free value. -/
def avsPoll (vout iout nacks : List Nat) (s : State) : State :=
  if !live s || !s.power.avsOn then s
  else if s.power.avsDead || (s.power.regs.any fun r => nacks.contains r.addr) then
    freeNext (modPower (fun p => { p with coreW := freeVal s % 65536 }) s)
  else modPower (fun p => { p with coreW := coreWatts p.regs vout iout }) s

def execAvsPoll (vout iout nacks : List Nat) (s : State) : Host.Outcome State Fault Refusal := .next (avsPoll vout iout nacks s)

/-! ### The watchdog -/

/-- The watchdog's limit in ns of PLL ticks (R504). -/
abbrev wdLimit : Nat := 20000000

/-- The ROM firmware restarts the watchdog (R504); it does in Pawn mode with CAUSE 2 or 3 (R556). -/
def wdRestart (s : State) : State :=
  if !live s || !s.wd.armed || s.wd.cpStopped || s.wd.stopRestart || s.pawn.cause = 1 then s
  else modWd (fun w => { w with maxGapUs := max w.maxGapUs (min wdLimit w.ticks / 1000), ticks := 0 }) s

def execWatchdogRestart (s : State) : Host.Outcome State Fault Refusal := .next (wdRestart s)

/-- 20 ms pass without a restart: Pawn mode with CAUSE 1 (R504). -/
def wdExpire (s : State) : State :=
  if !live s || !s.wd.armed || s.pawn.cause = 1 then s
  else enterPawn 1 (advance (wdLimit - s.wd.ticks) s)

def execWatchdogExpire (s : State) : Host.Outcome State Fault Refusal := .next (wdExpire s)

/-- A helper or Keeper unit is stalled (R555). -/
def stalledHelper (h : HelperView) : Bool := h.holdsWork && 10000000 ≤ h.silentNs && !h.waiting

/-- HELPER_STALL_CHECK: on finding a stalled helper the CP stops restarting the watchdog. -/
def stallCheck (hs : List HelperView) (s : State) : State :=
  if cpRuns s && hs.any stalledHelper then modWd (fun w => { w with stopRestart := true }) s else s

def execHelperStallCheck (helpers : List HelperView) (s : State) : Host.Outcome State Fault Refusal :=
  .next (stallCheck helpers s)

end Sys2Proof.Machine
end

