-- ==== Sys2Proof/Machine/HostPorts.lean ====
section
/-! DEFINITION. The commands of the host ports (14): ports that come up or go down, ARP, neighbour discovery and echo, 1588,
frames that are discarded, and telemetry. -/

namespace Sys2Proof.Machine
open Sys2Proof

/-! ### Ports -/

/-- Comparison of two masters heard: the lower rank, then the lower port (R459). -/
def betterMaster (a b : Nat × Nat × Nat) : Bool := a.2.2 < b.2.2 || (a.2.2 = b.2.2 && a.1 ≤ b.1)

def bestMaster : List (Nat × Nat × Nat) → Option (Nat × Nat × Nat)
  | [] => none
  | m :: ms => match bestMaster ms with
    | none => some m
    | some x => some (if betterMaster m x then m else x)

/-- Select a master again among those heard; with none, device time slews no further (R459, R472). -/
def selectMaster (s : State) : State :=
  let best := bestMaster s.time.ptpHeard
  modTime (fun t => { t with ptpMaster := best, ratePpm := if best.isNone && t.isRoot then 0 else t.ratePpm }) s

/-- HOST_PORT_DOWN (R469, R472): a selection made while the master's port is still up stands. -/
def portDown (p : Nat) (s : State) : State :=
  if !live s || !hostUp s p then s
  else
    let s := modHost p (fun h => { h with state := 1, neighbours := [], held := [] }) s
    let s := modTime (fun t => { t with ptpHeard := t.ptpHeard.filter fun m => m.1 ≠ p }) s
    replaceOps p (if s.time.ptpMaster.any (fun m => m.1 = p) then selectMaster s else s)

def execHostPortDown (port : Nat) (s : State) : Host.Outcome State Fault Refusal := .next (portDown port s)

/-- HOST_PORT_UP: a configured port has negotiated and trained (R453); it joins the storage rotation (R469). -/
def portUp (p : Nat) (s : State) : State :=
  if !live s || 8 ≤ p || (getHost s p).state ≠ 1 then s
  else pump (modHost p (fun h => { h with state := 2 }) s)

def execHostPortUp (port : Nat) (s : State) : Host.Outcome State Fault Refusal := .next (portUp port s)

/-! ### Frames that are answered (Table 14-2), in Pawn mode too (R506) -/

/-- A frame with its VLAN tag has come in on an up port: answered when it is for the port, dropped otherwise (R456). -/
def frameFor (p vlan : Nat) (mine : HostCfg → Bool) (answer : HostCfg → Emission) (s : State) : State :=
  if !live s || !hostUp s p then s
  else
    let c := (getHost s p).cfg
    let s := frameIn p s
    if vlan = c.vlan && mine c then sendOn p (answer c) s else dropFrame p s

/-- ARP_REQUEST. -/
def execArpRequest (src : Source) (vlan target : Nat) (s : State) : Host.Outcome State Fault Refusal :=
  .next (frameFor src.port vlan (fun c => c.v4Prefix ≠ 0 && target = c.ipv4) (fun c => .arpReply src c.mac c.ipv4) s)

/-- NEIGHBOUR_SOLICITATION. -/
def execNeighbourSolicitation (src : Source) (vlan target : Nat) (s : State) : Host.Outcome State Fault Refusal :=
  .next (frameFor src.port vlan (fun c => c.v6Prefix ≠ 0 && target = c.ipv6) (fun c => .neighbourAdvert src c.mac c.ipv6) s)

/-- ECHO_REQUEST: the IP packet of at most 1,500 bytes. -/
def execEchoRequest (src : Source) (vlan target : Nat) (v6 : Bool) (data : List Byte) (s : State) : Host.Outcome State Fault Refusal :=
  .next (frameFor src.port vlan
    (fun c => if v6 then c.v6Prefix ≠ 0 && target = c.ipv6 && data.length + 48 ≤ 1500
      else c.v4Prefix ≠ 0 && target = c.ipv4 && data.length + 28 ≤ 1500)
    (fun _ => .echoReply src v6 data) s)

/-! ### Frames that are discarded -/

/-- MAC_CONTROL_FRAME (R454). -/
def macControl (p : Nat) (s : State) : State :=
  if live s && hostUp s p then modHost p (fun h => { h with framesRx := h.framesRx + 1, pauseRx := h.pauseRx + 1 }) s else s

def execMacControlFrame (port : Nat) (s : State) : Host.Outcome State Fault Refusal := .next (macControl port s)

/-- FRAME_DROP (R456, R457). -/
def frameBad (p : Nat) (r : DropReason) (s : State) : State :=
  if !live s || !hostUp s p then s
  else match r with
    | .fcs => modHost p (fun h => { h with fcsErrors := h.fcsErrors + 1 }) s
    | _ => dropFrame p (frameIn p s)

def execFrameDrop (port : Nat) (reason : DropReason) (s : State) : Host.Outcome State Fault Refusal := .next (frameBad port reason s)

/-! ### 1588 (R244, R459) -/

/-- No table has opened since RESET_N: each opening left a record. -/
def noTableYet (s : State) : Bool := s.tables.isEmpty && s.opening.isEmpty && s.sheet.newestSeq = 0

/-- The slew towards 1588 time: at most 10 ppm, the rate itself the root's choice, a free value. -/
def slewRate (s : State) (offset : Int) : Int :=
  let r : Int := (freeVal s % 11 : Nat)
  if 0 < offset then r else if offset < 0 then -r else 0

/-- A Sync exchange with the selected master: device time steps once, before any table opens, and slews afterwards. -/
def ptpSync (offset : Int) (s : State) : State :=
  if !s.time.ptpStepped && noTableYet s && 0 ≤ offset then
    modTime (fun t => { t with t64 := ((t.t64 : Int) + 64 * offset).toNat, ptpOffset := offset, ptpStepped := true }) s
  else freeNext (modTime (fun t => { t with ptpOffset := offset, ratePpm := slewRate s offset }) s)

/-- PTP_MESSAGE: a GT64 that is not the root, or has no domain, drops it without counting it; before step 9 it is dropped
and counted (R610). -/
def ptpIn (p vlan : Nat) (m : PtpMessage) (s : State) : State :=
  if !live s || !hostUp s p then s
  else if s.pawn.cause = 0 && !s.boot.transport then turnAway p s
  else
    let s' := frameIn p s
    if vlan ≠ (getHost s p).cfg.vlan then dropFrame p s'
    else if !s.time.ptpEn || !s.time.isRoot || s.pawn.cause ≠ 0 then s'
    else match m with
      | .announce dom id rank =>
        if dom ≠ s.time.ptpDomain then s'
        else selectMaster (modTime (fun t => { t with
          ptpHeard := (p, id, rank) :: t.ptpHeard.filter fun x => !(x.1 = p && x.2.1 = id) }) s')
      | .sync dom id offset =>
        if dom = s.time.ptpDomain && s.time.ptpMaster.any (fun x => x.1 = p && x.2.1 = id) then ptpSync offset s' else s'

def execPtpMessage (port vlan : Nat) (message : PtpMessage) (s : State) : Host.Outcome State Fault Refusal :=
  .next (ptpIn port vlan message s)

/-! ### Next hops (R458) -/

/-- Datagrams that wait on a port for a next hop. -/
def heldFor (s : State) (p ip : Nat) : List (Nat × Source × Nat × List Byte) :=
  (getHost s p).held.filter fun d => normIp d.1 = normIp ip

/-- ARP_REPLY: what waited for the next hop is sent; the 100 ms of a storage operation run from then on. -/
def hopKnown (p ip mac : Nat) (s : State) : State :=
  if !cpRuns s || !s.boot.transport || !hostUp s p then turnAway p s
  else
    let go := heldFor s p ip
    let s := modHost p (fun h => { h with
      framesRx := h.framesRx + 1, neighbours := (ip, mac) :: h.neighbours.filter fun n => normIp n.1 ≠ normIp ip
      held := h.held.filter fun d => normIp d.1 ≠ normIp ip }) s
    let mine := s.store.ops.filter fun o => o.port = some p && nextHop s p (tgtIp (getTarget s o.target)) = some (normIp ip)
    let s := if go.isEmpty then s else forAll mine (fun o => modOp o.reqId (fun o => { o with last := now s })) s
    forAll go (fun d => sendOn p (.datagram { d.2.1 with mac := mac } d.2.2.1 d.2.2.2)) s

def execArpReply (port ip mac : Nat) (s : State) : Host.Outcome State Fault Refusal := .next (hopKnown port ip mac s)

/-! ### Telemetry (R470, R471, R503) -/

def telW (s : State) (i : Nat) : W64 := wd s.telem.spec i

/-- The records of one entry: its instances from KEY_A on, an absent one skipped. -/
def entryRecords (s : State) (e : W64) : List (List Byte) :=
  let num := fld e 63 48
  match objInfo 3 num with
  | none => []
  | some o => (List.range (fld e 15 0)).filterMap fun i =>
    let k := fld e 47 16 + i
    if (o.keyA.getD 0) < k then none
    else (objRead s num k 0).map fun bs => bytesOf [mkW [(63, 48, num), (47, 16, k), (15, 0, bs.length)]] ++ bs

/-- Records into datagrams of at most 8,192 bytes. -/
def fillDatagrams : List (List Byte) → List (List Byte) → Nat → List (List (List Byte))
  | [], cur, _ => if cur.isEmpty then [] else [cur.reverse]
  | r :: rs, cur, n =>
    if cur.isEmpty || n + r.length ≤ 8192 then fillDatagrams rs (r :: cur) (n + r.length)
    else cur.reverse :: fillDatagrams rs [r] (32 + r.length)

/-- One datagram: TELEM_HDR (Table 14-6) and its records. -/
def telemDatagram (s : State) (rs : List (List Byte)) : List Byte :=
  bytesOf [mkW [(63, 56, 1), (31, 0, rs.length)], wNat (now s), wNat s.telem.seq, mkW [(20, 0, s.ident.eid)]] ++ rs.flatMap id

/-- The start of the next period. -/
def nextPeriod (s : State) : Nat :=
  let per := max 1 (fld (telW s 0) 15 0) * 1000000
  let t := max (now s) ((s.telem.last.map (· + 1)).getD 0)
  ceilDiv t per * per

/-- The lowest-numbered up port of the collector's network. -/
def telemPort (s : State) : Option Nat :=
  ([0, 1, 2, 3].map fun i => if bitAt (telW s 0) 46 then i + 4 else i).find? (hostUp s)

/-- TELEMETRY_PERIOD: the pass is taken at one moment. -/
def telemetry (s : State) : State :=
  if !cpRuns s || !bitAt (telW s 0) 47 then s
  else
    let s := advanceTo (nextPeriod s) s
    let s := modTelem (fun t => { t with last := some (now s) }) s
    match telemPort s with
    | none => s
    | some p =>
      let rs := ((List.range (fld (telW s 0) 45 41)).map fun k => entryRecords s (telW s (4 + k))).flatMap id
      let ip := normIp ((telW s 2).toNat + 2 ^ 64 * (telW s 3).toNat)
      forAll (fillDatagrams rs [] 32) (fun d s =>
        modTelem (fun t => { t with seq := t.seq + 1 }) (sendUdp p ip (fld (telW s 0) 63 48) 47712 (telemDatagram s d) s)) s

def execTelemetryPeriod (s : State) : Host.Outcome State Fault Refusal := .next (telemetry s)

end Sys2Proof.Machine
end

