-- ==== Sys2Proof/Machine/Jtag.lean ====
section
/-! DEFINITION. The test access port (21): the instructions of Table 21-8 and Test-Logic-Reset. -/

namespace Sys2Proof.Machine
open Sys2Proof

/-- An instruction is loaded, or Test-Logic-Reset selects the bypass register: another instruction than the one that
holds the GT64 in reset ends that hold, and start-up begins with the straps of that moment (R641, R642). -/
def loadIr (op : Nat) (straps : Straps) (s : State) : State :=
  if s.boot.tripped || (s.pins.jtagHold && op = s.pins.jtagIr) then s else
  let hold := s.pins.jtagHold
  let s := modPins (fun p => { p with jtagIr := op }) s
  whenDo hold (startUp straps) s

/-- A boundary instruction takes effect only while RESET_N is asserted; loaded otherwise it acts as BYPASS, but for the
one that is in effect already. -/
def boundaryIr (op : Nat) (straps : Straps) (s : State) : State :=
  if s.pins.jtagHold && op = s.pins.jtagIr then s
  else loadIr (if s.pins.resetHigh then 0xFF else op) straps s

def execExtest (straps : Straps) (s : State) : Host.Outcome State Fault Refusal := .next (boundaryIr 0x00 straps s)
def execExtestPulse (straps : Straps) (s : State) : Host.Outcome State Fault Refusal := .next (boundaryIr 0x04 straps s)
def execExtestTrain (straps : Straps) (s : State) : Host.Outcome State Fault Refusal := .next (boundaryIr 0x05 straps s)
def execClamp (straps : Straps) (s : State) : Host.Outcome State Fault Refusal := .next (boundaryIr 0x02 straps s)
def execHighz (straps : Straps) (s : State) : Host.Outcome State Fault Refusal := .next (boundaryIr 0x03 straps s)
def execSamplePreload (straps : Straps) (s : State) : Host.Outcome State Fault Refusal := .next (loadIr 0x01 straps s)

/-- BYPASS, or an opcode that acts as it. -/
def execBypass (opcode : Nat) (straps : Straps) (s : State) : Host.Outcome State Fault Refusal :=
  .next (loadIr (if 6 ≤ opcode && opcode < 0x80 then opcode else 0xFF) straps s)

/-- A private opcode acts under debug scope bit 0, otherwise as BYPASS. -/
def execPrivateJtag (opcode : Nat) (straps : Straps) (s : State) : Host.Outcome State Fault Refusal :=
  .next (loadIr (if scopeOpen s 0 && 0x80 ≤ opcode && opcode < 0xFF then opcode else 0xFF) straps s)

def execTestLogicReset (straps : Straps) (s : State) : Host.Outcome State Fault Refusal := .next (loadIr 0xFF straps s)

end Sys2Proof.Machine
end

