-- ==== Sys2Proof/Machine/Dispatch.lean ====
section
/-! DEFINITION. The dispatch: one arm per command, each one call of its meaning. -/

namespace Sys2Proof.Machine
open Sys2Proof

def exec (i : Instr) (s : State) : Host.Outcome State Fault Refusal :=
  match i with
  | .pwrGoodAssert straps => Sys2Proof.Machine.execPwrGoodAssert straps s
  | .pwrGoodDeassert => Sys2Proof.Machine.execPwrGoodDeassert s
  | .resetNAssert => Sys2Proof.Machine.execResetNAssert s
  | .resetNRelease straps => Sys2Proof.Machine.execResetNRelease straps s
  | .pllLock voutModes kPuf pufGood => Sys2Proof.Machine.execPllLock voutModes kPuf pufGood s
  | .flashVerify => Sys2Proof.Machine.execFlashVerify s
  | .selfTestDone failedUnit => Sys2Proof.Machine.execSelfTestDone failedUnit s
  | .memTrainDone failure => Sys2Proof.Machine.execMemTrainDone failure s
  | .memClearDone failure => Sys2Proof.Machine.execMemClearDone failure s
  | .enterService => Sys2Proof.Machine.execEnterService s
  | .refclkCoreLoss => Sys2Proof.Machine.execRefclkCoreLoss s
  | .refclkSrdLoss die => Sys2Proof.Machine.execRefclkSrdLoss die s
  | .refclkSrdRestore die => Sys2Proof.Machine.execRefclkSrdRestore die s
  | .throttleEnter tj hbm => Sys2Proof.Machine.execThrottleEnter tj hbm s
  | .throttleExit tj hbm => Sys2Proof.Machine.execThrottleExit tj hbm s
  | .thermalPawnEnter tj => Sys2Proof.Machine.execThermalPawnEnter tj s
  | .thermalTrip sensor => Sys2Proof.Machine.execThermalTrip sensor s
  | .avsReading rates nacks => Sys2Proof.Machine.execAvsReading rates nacks s
  | .avsStepDone nacks => Sys2Proof.Machine.execAvsStepDone nacks s
  | .avsPoll vout iout nacks => Sys2Proof.Machine.execAvsPoll vout iout nacks s
  | .watchdogRestart => Sys2Proof.Machine.execWatchdogRestart s
  | .watchdogExpire => Sys2Proof.Machine.execWatchdogExpire s
  | .helperStallCheck helpers => Sys2Proof.Machine.execHelperStallCheck helpers s
  | .pawnExit tj rates => Sys2Proof.Machine.execPawnExit tj rates s
  | .pawnRoundTimeout table round => Sys2Proof.Machine.execPawnRoundTimeout table round s
  | .pawnRequest src datagram => Sys2Proof.Machine.execPawnRequest src datagram s
  | .extest straps => Sys2Proof.Machine.execExtest straps s
  | .extestPulse straps => Sys2Proof.Machine.execExtestPulse straps s
  | .extestTrain straps => Sys2Proof.Machine.execExtestTrain straps s
  | .clamp straps => Sys2Proof.Machine.execClamp straps s
  | .highz straps => Sys2Proof.Machine.execHighz straps s
  | .samplePreload straps => Sys2Proof.Machine.execSamplePreload straps s
  | .bypass opcode straps => Sys2Proof.Machine.execBypass opcode straps s
  | .privateJtag opcode straps => Sys2Proof.Machine.execPrivateJtag opcode straps s
  | .testLogicReset straps => Sys2Proof.Machine.execTestLogicReset straps s
  | .debugChallenge mailbox => Sys2Proof.Machine.execDebugChallenge mailbox s
  | .debugToken mailbox => Sys2Proof.Machine.execDebugToken mailbox s
  | .debugRelock mailbox => Sys2Proof.Machine.execDebugRelock mailbox s
  | .debugScopeExpire scope => Sys2Proof.Machine.execDebugScopeExpire scope s
  | .debugChallengeLapse => Sys2Proof.Machine.execDebugChallengeLapse s
  | .mboxRequest src datagram => Sys2Proof.Machine.execMboxRequest src datagram s
  | .bulkSegment src datagram => Sys2Proof.Machine.execBulkSegment src datagram s
  | .sessionIdleExpire mailbox => Sys2Proof.Machine.execSessionIdleExpire mailbox s
  | .sessionOpen mailbox => Sys2Proof.Machine.execSessionOpen mailbox s
  | .sessionClose mailbox => Sys2Proof.Machine.execSessionClose mailbox s
  | .nop mailbox => Sys2Proof.Machine.execNop mailbox s
  | .bulkFetch mailbox => Sys2Proof.Machine.execBulkFetch mailbox s
  | .objRead mailbox => Sys2Proof.Machine.execObjRead mailbox s
  | .scoresheetRecordRead mailbox word => Sys2Proof.Machine.execScoresheetRecordRead mailbox word s
  | .objWrite mailbox => Sys2Proof.Machine.execObjWrite mailbox s
  | .squarePriorityWrite mailbox => Sys2Proof.Machine.execSquarePriorityWrite mailbox s
  | .portClassConfigWrite mailbox => Sys2Proof.Machine.execPortClassConfigWrite mailbox s
  | .portLinkConfigWrite mailbox => Sys2Proof.Machine.execPortLinkConfigWrite mailbox s
  | .kibitzSpecWrite mailbox => Sys2Proof.Machine.execKibitzSpecWrite mailbox s
  | .routeControlWrite mailbox => Sys2Proof.Machine.execRouteControlWrite mailbox s
  | .checkpointTargetWrite mailbox => Sys2Proof.Machine.execCheckpointTargetWrite mailbox s
  | .scrubControlWrite mailbox => Sys2Proof.Machine.execScrubControlWrite mailbox s
  | .errorInjectWrite mailbox => Sys2Proof.Machine.execErrorInjectWrite mailbox s
  | .telemetrySpecWrite mailbox => Sys2Proof.Machine.execTelemetrySpecWrite mailbox s
  | .alertControlWrite mailbox => Sys2Proof.Machine.execAlertControlWrite mailbox s
  | .tableOpen mailbox => Sys2Proof.Machine.execTableOpen mailbox s
  | .tableClose mailbox => Sys2Proof.Machine.execTableClose mailbox s
  | .movesAppend mailbox => Sys2Proof.Machine.execMovesAppend mailbox s
  | .boardLoad mailbox => Sys2Proof.Machine.execBoardLoad mailbox s
  | .doubleOpen mailbox => Sys2Proof.Machine.execDoubleOpen mailbox s
  | .doubleClose mailbox => Sys2Proof.Machine.execDoubleClose mailbox s
  | .doubleDetach mailbox => Sys2Proof.Machine.execDoubleDetach mailbox s
  | .doubleMove mailbox => Sys2Proof.Machine.execDoubleMove mailbox s
  | .restore mailbox => Sys2Proof.Machine.execRestore mailbox s
  | .routeBegin copy => Sys2Proof.Machine.execRouteBegin copy s
  | .routeWrite mailbox => Sys2Proof.Machine.execRouteWrite mailbox s
  | .routeAbort mailbox => Sys2Proof.Machine.execRouteAbort mailbox s
  | .routeCommit mailbox => Sys2Proof.Machine.execRouteCommit mailbox s
  | .fence mailbox => Sys2Proof.Machine.execFence mailbox s
  | .unfence mailbox => Sys2Proof.Machine.execUnfence mailbox s
  | .linkLoopback mailbox => Sys2Proof.Machine.execLinkLoopback mailbox s
  | .fwStage mailbox => Sys2Proof.Machine.execFwStage mailbox s
  | .attestQuote mailbox => Sys2Proof.Machine.execAttestQuote mailbox s
  | .restart mailbox => Sys2Proof.Machine.execRestart mailbox s
  | .restartReset straps => Sys2Proof.Machine.execRestartReset straps s
  | .arpRequest src vlan target => Sys2Proof.Machine.execArpRequest src vlan target s
  | .neighbourSolicitation src vlan target => Sys2Proof.Machine.execNeighbourSolicitation src vlan target s
  | .echoRequest src vlan target v6 data => Sys2Proof.Machine.execEchoRequest src vlan target v6 data s
  | .ptpMessage port vlan message => Sys2Proof.Machine.execPtpMessage port vlan message s
  | .macControlFrame port => Sys2Proof.Machine.execMacControlFrame port s
  | .frameDrop port reason => Sys2Proof.Machine.execFrameDrop port reason s
  | .storageReply src datagram => Sys2Proof.Machine.execStorageReply src datagram s
  | .storageRetry reqId => Sys2Proof.Machine.execStorageRetry reqId s
  | .storageTimeout reqId => Sys2Proof.Machine.execStorageTimeout reqId s
  | .hostPortDown port => Sys2Proof.Machine.execHostPortDown port s
  | .telemetryPeriod => Sys2Proof.Machine.execTelemetryPeriod s
  | .linkFrameReceive link lanes => Sys2Proof.Machine.execLinkFrameReceive link lanes s
  | .replayWaitTimeout link => Sys2Proof.Machine.execReplayWaitTimeout link s
  | .ack link flit => Sys2Proof.Machine.execAck link flit s
  | .ackTimer link => Sys2Proof.Machine.execAckTimer link s
  | .nak link flit => Sys2Proof.Machine.execNak link flit s
  | .init link flit => Sys2Proof.Machine.execInit link flit s
  | .timeReq link flit t2 => Sys2Proof.Machine.execTimeReq link flit t2 s
  | .timeResp link flit t4 => Sys2Proof.Machine.execTimeResp link flit t4 s
  | .timeExchangeTimer link => Sys2Proof.Machine.execTimeExchangeTimer link s
  | .timeExchangeTimeout link => Sys2Proof.Machine.execTimeExchangeTimeout link s
  | .genStep link flit => Sys2Proof.Machine.execGenStep link flit s
  | .stepUpStart link => Sys2Proof.Machine.execStepUpStart link s
  | .retrain link flit => Sys2Proof.Machine.execRetrain link flit s
  | .tsReceive link lanes => Sys2Proof.Machine.execTsReceive link lanes s
  | .trainingAttemptTimeout link => Sys2Proof.Machine.execTrainingAttemptTimeout link s
  | .fallbackIdleEnd link => Sys2Proof.Machine.execFallbackIdleEnd link s
  | .fastRetrainTimeout link => Sys2Proof.Machine.execFastRetrainTimeout link s
  | .linkLeaveService link => Sys2Proof.Machine.execLinkLeaveService link s
  | .loopbackEnd link => Sys2Proof.Machine.execLoopbackEnd link s
  | .farEndLoopbackExit link => Sys2Proof.Machine.execFarEndLoopbackExit link s
  | .discard link flit => Sys2Proof.Machine.execDiscard link flit s
  | .packetHeaderLookup link pkt word => Sys2Proof.Machine.execPacketHeaderLookup link pkt word s
  | .cellAdmit packet => Sys2Proof.Machine.execCellAdmit packet s
  | .egressPacketStart link word => Sys2Proof.Machine.execEgressPacketStart link word s
  | .squareArbitration posted withdrawn => Sys2Proof.Machine.execSquareArbitration posted withdrawn s
  | .lockedSequence lane word => Sys2Proof.Machine.execLockedSequence lane word s
  | .ladderArbitration => Sys2Proof.Machine.execLadderArbitration s
  | .pipOverflow queue => Sys2Proof.Machine.execPipOverflow queue s
  | .orderPacket link pkt => Sys2Proof.Machine.execOrderPacket link pkt s
  | .reorderTimeout src dst tc => Sys2Proof.Machine.execReorderTimeout src dst tc s
  | .reorderContextFree src dst tc => Sys2Proof.Machine.execReorderContextFree src dst tc s
  | .drainTimerExpire bank => Sys2Proof.Machine.execDrainTimerExpire bank s
  | .fenceAck eid => Sys2Proof.Machine.execFenceAck eid s
  | .fenceTimeout eid => Sys2Proof.Machine.execFenceTimeout eid s
  | .contribReceive link payload => Sys2Proof.Machine.execContribReceive link payload s
  | .resultReceive link payload => Sys2Proof.Machine.execResultReceive link payload s
  | .chunkSent table round chunk => Sys2Proof.Machine.execChunkSent table round chunk s
  | .signalReceive link payload => Sys2Proof.Machine.execSignalReceive link payload s
  | .chunkDeadline table round chunk => Sys2Proof.Machine.execChunkDeadline table round chunk s
  | .absenceLimit table round chunk => Sys2Proof.Machine.execAbsenceLimit table round chunk s
  | .roundInactivity table round => Sys2Proof.Machine.execRoundInactivity table round s
  | .pipRoundPacket link flit => Sys2Proof.Machine.execPipRoundPacket link flit s
  | .pipSig link flit => Sys2Proof.Machine.execPipSig link flit s
  | .join link flit => Sys2Proof.Machine.execJoin link flit s
  | .release link flit => Sys2Proof.Machine.execRelease link flit s
  | .halt link flit => Sys2Proof.Machine.execHalt link flit s
  | .barrierRelease table => Sys2Proof.Machine.execBarrierRelease table s
  | .barrierStall table => Sys2Proof.Machine.execBarrierStall table s
  | .joinHoldExpire => Sys2Proof.Machine.execJoinHoldExpire s
  | .turnBegin table => Sys2Proof.Machine.execTurnBegin table s
  | .barrier table => Sys2Proof.Machine.execBarrier table s
  | .waitRounds table => Sys2Proof.Machine.execWaitRounds table s
  | .phaseSet table => Sys2Proof.Machine.execPhaseSet table s
  | .roundOpen table => Sys2Proof.Machine.execRoundOpen table s
  | .residClear table => Sys2Proof.Machine.execResidClear table s
  | .keeperTurn table => Sys2Proof.Machine.execKeeperTurn table s
  | .checkpoint table => Sys2Proof.Machine.execCheckpoint table s
  | .boardSwitch table => Sys2Proof.Machine.execBoardSwitch table s
  | .endMove table => Sys2Proof.Machine.execEndMove table s
  | .muQuantumGrant unit => Sys2Proof.Machine.execMuQuantumGrant unit s
  | .muTaskComplete unit word => Sys2Proof.Machine.execMuTaskComplete unit word s
  | .ready link flit => Sys2Proof.Machine.execReady link flit s
  | .readyTimeout table round => Sys2Proof.Machine.execReadyTimeout table round s
  | .keeperQuantum unit word => Sys2Proof.Machine.execKeeperQuantum unit word s
  | .shardMoveDone table first count read => Sys2Proof.Machine.execShardMoveDone table first count read s
  | .grad link payload => Sys2Proof.Machine.execGrad link payload s
  | .commit link payload => Sys2Proof.Machine.execCommit link payload s
  | .turnRecord link payload => Sys2Proof.Machine.execTurnRecord link payload s
  | .load link payload => Sys2Proof.Machine.execLoad link payload s
  | .turnReplayDone primary table => Sys2Proof.Machine.execTurnReplayDone primary table s
  | .digest link flit => Sys2Proof.Machine.execDigest link flit s
  | .verdict link flit => Sys2Proof.Machine.execVerdict link flit s
  | .verdictWaitTimeout table => Sys2Proof.Machine.execVerdictWaitTimeout table s
  | .tiebreak link flit => Sys2Proof.Machine.execTiebreak link flit s
  | .tiebreakReplayDone primary table word => Sys2Proof.Machine.execTiebreakReplayDone primary table word s
  | .hello link flit => Sys2Proof.Machine.execHello link flit s
  | .accept link flit => Sys2Proof.Machine.execAccept link flit s
  | .helloTimeout table => Sys2Proof.Machine.execHelloTimeout table s
  | .close link flit => Sys2Proof.Machine.execClose link flit s
  | .phase link flit => Sys2Proof.Machine.execPhase link flit s
  | .hazardFire source => Sys2Proof.Machine.execHazardFire source s
  | .hazardWindow source => Sys2Proof.Machine.execHazardWindow source s
  | .hazard link flit => Sys2Proof.Machine.execHazard link flit s
  | .shardWriteDone primary table => Sys2Proof.Machine.execShardWriteDone primary table s
  | .shardDone link flit => Sys2Proof.Machine.execShardDone link flit s
  | .manifestDurable table => Sys2Proof.Machine.execManifestDurable table s
  | .commitDurable table => Sys2Proof.Machine.execCommitDurable table s
  | .slotRelease link flit => Sys2Proof.Machine.execSlotRelease link flit s
  | .checkpointAbandonTimeout table => Sys2Proof.Machine.execCheckpointAbandonTimeout table s
  | .slotSelfRelease primary table => Sys2Proof.Machine.execSlotSelfRelease primary table s
  | .rebuild link payload => Sys2Proof.Machine.execRebuild link payload s
  | .repair link payload => Sys2Proof.Machine.execRepair link payload s
  | .doublesyncTiebreak link payload => Sys2Proof.Machine.execDoublesyncTiebreak link payload s
  | .doublesyncRestore link payload => Sys2Proof.Machine.execDoublesyncRestore link payload s
  | .doubleQuery link flit => Sys2Proof.Machine.execDoubleQuery link flit s
  | .doubleHeld link flit => Sys2Proof.Machine.execDoubleHeld link flit s
  | .candidateFormTimeout table => Sys2Proof.Machine.execCandidateFormTimeout table s
  | .candidate link flit => Sys2Proof.Machine.execCandidate link flit s
  | .loadReq link flit => Sys2Proof.Machine.execLoadReq link flit s
  | .loadTimeout table => Sys2Proof.Machine.execLoadTimeout table s
  | .loaded link flit => Sys2Proof.Machine.execLoaded link flit s
  | .loadedTimeout table => Sys2Proof.Machine.execLoadedTimeout table s
  | .restoreGo link flit => Sys2Proof.Machine.execRestoreGo link flit s
  | .scrubRead tier address owner word rewritten => Sys2Proof.Machine.execScrubRead tier address owner word rewritten s
  | .levelAdv link payload => Sys2Proof.Machine.execLevelAdv link payload s
  | .levelUp link payload => Sys2Proof.Machine.execLevelUp link payload s
  | .levelSet link payload => Sys2Proof.Machine.execLevelSet link payload s
  | .levelHoldExpire => Sys2Proof.Machine.execLevelHoldExpire s
  | .idleInterval => Sys2Proof.Machine.execIdleInterval s
  | .hostPortUp port => Sys2Proof.Machine.execHostPortUp port s
  | .electricalIdleDetected link => Sys2Proof.Machine.execElectricalIdleDetected link s
  | .laneFramePeriod link => Sys2Proof.Machine.execLaneFramePeriod link s
  | .normPipeDone read => Sys2Proof.Machine.execNormPipeDone read s
  | .dmaTransferDone channel word => Sys2Proof.Machine.execDmaTransferDone channel word s
  | .arpReply port ip mac => Sys2Proof.Machine.execArpReply port ip mac s

end Sys2Proof.Machine
end

