-- ==== Sys2Proof/Safety.lean ====
section
/-! DEFINITION. What a safe run is, in the terms that claims use: a step that ends in a next state, and the invariant
that every step keeps. -/

namespace Sys2Proof.Safety
open Sys2Proof Sys2Proof.Machine

/-- The outcome is a next state. -/
def Completes (o : Host.Outcome Machine.State Machine.Fault Machine.Refusal) : Prop := ∃ t, o = .next t

/-- The step of start-up is one of Table 20-3 (0: held in reset), and there are eight port-die clocks (R608). -/
def bootOk (b : Boot) : Prop := b.step ≤ 10 ∧ b.srdClockOk.length = 8

/-- The commanded voltage lies within 0.65 and 0.90 V (R21, R602), and within the extremes that PowerStatus reports. -/
def powerOk (p : Power) : Prop := 650 ≤ p.vcoreMv ∧ p.vcoreMv ≤ 900 ∧ p.vcoreMinMv ≤ p.vcoreMv ∧ p.vcoreMv ≤ p.vcoreMaxMv

/-- AlertControl has seven causes (Table 20-8). -/
def alertOk (a : Alert) : Prop := a.causes.length = 7

/-- Six words of device configuration and three debug scopes (Table 19-4, R594). -/
def identOk (i : Ident) : Prop := i.cfg.length = 6 ∧ i.scopes.length = 3

/-- TelemetrySpec is 28 words (R503). -/
def telemOk (t : Telemetry) : Prop := t.spec.length = 28

/-- CAUSE of Pawn mode is one of Table 15-12. -/
def pawnOk (p : Pawn) : Prop := p.cause ≤ 3

/-- Four route banks of which exactly the current one is in state CURRENT (R381), and eight Kibitz sessions. -/
def routeOk (r : Route) : Prop :=
  r.banks.length = 4 ∧ r.kibitz.length = 8 ∧ r.cur < 4 ∧ ∀ i, (r.banks.getD i {}).state = 1 ↔ i = r.cur

/-- Class settings of 64 ports by 8 classes, and egress scheduling of 512 links (Table 11-3, R370). -/
def potOk (p : Pot) : Prop := p.classes.length = 512 ∧ p.egress.length = 512

/-- 64 square arbiters with six class priorities (Table 11-5). -/
def sqOk (q : Squares) : Prop := q.prio.length = 6 ∧ q.squares.length = 64

/-- 64 Ladder queues (R233). -/
def ladderOk (l : Ladder) : Prop := l.queues.length = 64 ∧ l.ptrs.length = 64

/-- Four memory tiers (Table 16-1). -/
def memOk (m : Mem) : Prop := m.tiers.length = 4

/-- HazardSpec is four words with six sources (R314). -/
def hazardOk (h : Hazard) : Prop := h.spec.length = 4 ∧ h.src.length = 6

/-- 64 lane FIFOs, each with the port that it took last (R365). -/
def planeOk (f : Feed) : Prop := f.lanes.length = 64 ∧ f.lastPort.length = 64

/-- The parts of the state besides the queue, each named as its field. -/
inductive StatePart where
  | out | free | pins | boot | power | alert | wd | time | ident | flash | mbox | gci | host | telem | ports | links
  | route | pot | sq | ladder | inbox | pawn | mem | sheet | hazard | tables | opening | feed | mu | mats | norm | pipes
  | dma | kunits | doubles | detachNum | targets | store | held | strayAll
  deriving DecidableEq, Repr

/-- A part is the same in two states. -/
def StatePart.same : StatePart → State → State → Prop
  | .out, s, t => t.out = s.out
  | .free, s, t => t.free = s.free
  | .pins, s, t => t.pins = s.pins
  | .boot, s, t => t.boot = s.boot
  | .power, s, t => t.power = s.power
  | .alert, s, t => t.alert = s.alert
  | .wd, s, t => t.wd = s.wd
  | .time, s, t => t.time = s.time
  | .ident, s, t => t.ident = s.ident
  | .flash, s, t => t.flash = s.flash
  | .mbox, s, t => t.mbox = s.mbox
  | .gci, s, t => t.gci = s.gci
  | .host, s, t => t.host = s.host
  | .telem, s, t => t.telem = s.telem
  | .ports, s, t => t.ports = s.ports
  | .links, s, t => t.links = s.links
  | .route, s, t => t.route = s.route
  | .pot, s, t => t.pot = s.pot
  | .sq, s, t => t.sq = s.sq
  | .ladder, s, t => t.ladder = s.ladder
  | .inbox, s, t => t.inbox = s.inbox
  | .pawn, s, t => t.pawn = s.pawn
  | .mem, s, t => t.mem = s.mem
  | .sheet, s, t => t.sheet = s.sheet
  | .hazard, s, t => t.hazard = s.hazard
  | .tables, s, t => t.tables = s.tables
  | .opening, s, t => t.opening = s.opening
  | .feed, s, t => t.feed = s.feed
  | .mu, s, t => t.mu = s.mu
  | .mats, s, t => t.mats = s.mats
  | .norm, s, t => t.norm = s.norm
  | .pipes, s, t => t.pipes = s.pipes
  | .dma, s, t => t.dma = s.dma
  | .kunits, s, t => t.kunits = s.kunits
  | .doubles, s, t => t.doubles = s.doubles
  | .detachNum, s, t => t.detachNum = s.detachNum
  | .targets, s, t => t.targets = s.targets
  | .store, s, t => t.store = s.store
  | .held, s, t => t.held = s.held
  | .strayAll, s, t => t.strayAll = s.strayAll

/-- What every step keeps: each group of registers has as many members as the spec gives it, flash is in its canonical
form, exactly one route bank is CURRENT, the commanded voltage lies within its limits, and start-up and Pawn mode are at
a step and a cause of their tables. -/
structure Inv (s : State) : Prop where
  flash   : Memory.wf s.flash = true
  mbox    : s.mbox.length = 64
  host    : s.host.length = 8
  ports   : s.ports.length = 64
  links   : s.links.length = 512
  targets : s.targets.length = 16
  mu      : s.mu.units.length = 2
  kunits  : s.kunits.units.length = 8
  boot    : bootOk s.boot
  power   : powerOk s.power
  alert   : alertOk s.alert
  ident   : identOk s.ident
  telem   : telemOk s.telem
  pawn    : pawnOk s.pawn
  route   : routeOk s.route
  pot     : potOk s.pot
  sq      : sqOk s.sq
  ladder  : ladderOk s.ladder
  mem     : memOk s.mem
  hazard  : hazardOk s.hazard
  feed    : planeOk s.feed

end Sys2Proof.Safety
end

