-- ==== Sys2Proof/Certificates/Slice0/Obligations.lean ====
section
/-! DEFINITION. What the provers are asked to prove: the statements about the block's commands, and the words that they
share. A command's statement says which next state it answers with, as an equation, so that it says its frame too; the
first statement names the parts that each command may change. -/

namespace Sys2Proof
open Sys2Proof.Machine Sys2Proof.Safety

/-- A row's request begins and passes the checks of R484: the request r of mailbox m, oldest and named by the row, leaves the
state u in which it executes, at the GCI major of its session. -/
structure Statement.Asked (m : Nat) (sp : CmdSpec) (extra : List Byte → Bool) (r : Request) (major : Nat) (s u : State) : Prop where
  begins : beginReq m (fun msg => 16 ≤ msg.length && cmdOf msg = sp.code && extra msg) s = some (r, u)
  passes : checkReq sp m r u = .ok major

/-- A write of object num is asked for, in a row's words: its request begins, the checks pass, its keys are in range, and w are
the words of the object's data. -/
structure Statement.AskedWrite (m num : Nat) (extra : List Byte → Bool) (r : Request) (major : Nat) (w : List W64) (s u : State) : Prop where
  asked : Statement.Asked m (objWriteSpec (majorOf s m)) extra r major s u
  obj   : argObj r.msg = num
  keys  : ∃ o, objInfo major num = some o ∧ keyCheck o (argKeyA r.msg) (argKeyB r.msg) = none
  words : w = wordsOf ((r.msg.drop 32).length / 8) (r.msg.drop 32)

/-- A CTRL flit of a type reaches a link that runs, its reserved bits 0; u is the state with the flit taken. -/
structure Statement.CtrlArrives (l type : Nat) (f : List W64) (s u : State) : Prop where
  live  : live s = true
  link  : isLink s l = true
  runs  : (getLink s l).stat.state ≠ 0 ∧ (getLink s l).stat.state ≠ 5
  good  : ctrlOk f = true
  type_ : fld (wd f 0) 63 56 = type
  taken : u = takeArrived (.flit l 1 f) s

/-- A DOUBLE_CTL flit c with a CTL, laid out as Table 10-2 says, arrives outside Pawn mode; u is the state with it taken. -/
structure Statement.CtlArrives (l type : Nat) (f : List W64) (c : Ctl) (s u : State) : Prop where
  taken  : u = takeKFlit l f s
  live   : live u = true
  noPawn : u.pawn.cause = 0
  good   : ctlFlitOk f = true
  isCtl  : c = ctlOf f
  type_  : c.ctl = type

/-- A DoubleSync packet of a KIND, with header h, arrives outside Pawn mode; u is the state with it taken. -/
structure Statement.SyncArrives (l kind : Nat) (bytes : List Byte) (h : SyncHdr) (s u : State) : Prop where
  taken  : u = (takeSelfFree l bytes s).2
  live   : live u = true
  noPawn : u.pawn.cause = 0
  header : h = syncHdrOf bytes
  kind_  : h.kind = kind

/-- A Pip packet of a type, no field of it bad, reaches the Pip engine; u is the state with it taken. -/
structure Statement.PipArrives (l type : Nat) (f : List W64) (s u : State) : Prop where
  taken : u = takeFlit l 2 f s
  live  : live u = true
  type_ : pipType f = type
  known : type ≤ 4
  good  : pipOk f = true

/-- A move of an opcode comes up for execution in a table that runs: it is the oldest of the table's list. -/
structure Statement.ComesUp (t op : Nat) (s : State) (tb : Table) (m : List W64) : Prop where
  runs   : cpRuns s = true
  table  : findTable s t = some tb
  noHalt : tb.halt = 0
  oldest : tb.moves.head? = some m
  op_    : opcode m = op

/-- The parts that time passing changes: the counts of time, of waits and of what depends on them. -/
def Statement.timePasses : List StatePart := [.power, .wd, .time, .ports, .pawn, .tables]

/-- The parts that a mailbox's answer changes. -/
def Statement.answers : List StatePart := [.gci, .host, .mbox, .out]

/-- The parts that what arrives on a link changes. -/
def Statement.arrives : List StatePart := [.inbox, .links]

/-- The parts that a write of an object changes. -/
def Statement.objects : List StatePart :=
  Statement.answers ++ [.alert, .time, .telem, .ports, .links, .route, .pot, .sq, .mem, .hazard, .targets]

/-- The parts that a reset changes: all but the flash, what has been sent and the free values taken. -/
def Statement.resets : List StatePart :=
  [.pins, .boot, .power, .alert, .wd, .time, .ident, .mbox, .gci, .host, .telem, .ports, .links, .route,
   .pot, .sq, .ladder, .inbox, .pawn, .mem, .sheet, .hazard, .tables, .opening, .feed, .mu, .mats, .norm,
   .pipes, .dma, .kunits, .doubles, .detachNum, .targets, .store, .held, .strayAll]

/-- The parts that each command may change. -/
def Statement.touched : Instr → List StatePart
  | .pwrGoodAssert _ | .resetNRelease _ | .extest _ | .extestPulse _ | .extestTrain _ | .clamp _ | .highz _
  | .samplePreload _ | .bypass _ _ | .privateJtag _ _ | .testLogicReset _ => [.pins, .boot, .alert]
  | .pwrGoodDeassert | .resetNAssert | .refclkCoreLoss | .thermalTrip _ | .restartReset _ => Statement.resets
  | .pllLock _ _ _ => [.boot, .power, .wd, .time, .ident]
  | .flashVerify =>
    Statement.answers ++ [.boot, .alert, .time, .ident, .telem, .ports, .links, .route, .pot, .sq, .mem, .hazard,
      .targets]
  | .selfTestDone _ | .memTrainDone _ => [.boot, .alert]
  | .memClearDone _ => [.boot, .alert, .links]
  | .enterService => Statement.timePasses ++ [.boot]
  | .refclkSrdLoss _ => Statement.answers ++ [.boot, .alert, .time, .ports, .links, .route, .pot]
  | .refclkSrdRestore _ => [.boot, .links]
  | .throttleEnter _ _ => [.power, .alert]
  | .throttleExit _ _ => Statement.timePasses
  | .thermalPawnEnter _ =>
    [.free, .power, .alert, .mbox, .ports, .links, .route, .pot, .ladder, .pawn, .mem, .sheet, .hazard, .tables,
      .opening, .feed, .mu, .norm, .pipes, .dma, .doubles, .store]
  | .avsReading _ _ =>
    [.out, .free, .power, .alert, .mbox, .ports, .links, .route, .pot, .ladder, .pawn, .mem, .sheet, .hazard,
      .tables, .opening, .feed, .mu, .norm, .pipes, .dma, .doubles, .store]
  | .avsStepDone _ => [.out, .power, .alert, .hazard]
  | .avsPoll _ _ _ => [.free, .power]
  | .watchdogRestart | .helperStallCheck _ => [.wd]
  | .watchdogExpire =>
    Statement.timePasses ++ [.free, .alert, .mbox, .links, .route, .pot, .ladder, .mem, .sheet, .hazard, .opening,
      .feed, .mu, .norm, .pipes, .dma, .doubles, .store]
  | .pawnExit _ _ => Statement.timePasses ++ Statement.answers ++ [.boot, .links, .route, .pot, .mem, .doubles]
  | .pawnRoundTimeout _ _ | .absenceLimit _ _ _ | .roundInactivity _ _ | .readyTimeout _ _ =>
    Statement.timePasses ++ [.free, .links, .route, .pot, .ladder, .mem, .sheet, .hazard, .feed, .mu, .norm, .pipes,
      .dma]
  | .pawnRequest _ _ | .arpRequest _ _ _ | .neighbourSolicitation _ _ _ | .echoRequest _ _ _ _ _ => [.out, .host]
  | .debugChallenge _ | .debugToken _ | .debugRelock _ => Statement.answers ++ [.ident]
  | .debugScopeExpire _ | .debugChallengeLapse => Statement.timePasses ++ [.ident]
  | .mboxRequest _ _ | .bulkSegment _ _ | .nop _ | .objRead _ => Statement.answers
  | .sessionIdleExpire _ => Statement.timePasses ++ [.mbox, .route]
  | .sessionOpen _ | .sessionClose _ | .routeAbort _ | .routeCommit _ | .fence _ | .unfence _ | .fenceAck _ =>
    Statement.answers ++ [.route]
  | .routeBegin _ => Statement.answers ++ [.free, .alert, .route, .mem, .hazard]
  | .bulkFetch _ | .attestQuote _ => Statement.answers ++ [.free]
  | .scoresheetRecordRead _ _ => Statement.answers ++ [.free, .alert, .mem, .sheet, .hazard]
  | .objWrite _ | .squarePriorityWrite _ | .portClassConfigWrite _ | .portLinkConfigWrite _ | .kibitzSpecWrite _
  | .routeControlWrite _ | .checkpointTargetWrite _ | .scrubControlWrite _ | .errorInjectWrite _
  | .telemetrySpecWrite _ | .alertControlWrite _ => Statement.objects
  | .tableOpen _ =>
    Statement.answers ++ [.ports, .links, .route, .pot, .ladder, .pawn, .mem, .sheet, .tables, .opening, .held]
  | .tableClose _ | .endMove _ =>
    Statement.answers ++ [.free, .alert, .ports, .links, .route, .pot, .ladder, .pawn, .mem, .sheet, .hazard,
      .tables, .feed, .mu, .norm, .pipes, .dma, .kunits, .store]
  | .movesAppend _ => Statement.answers ++ [.mem, .tables]
  | .boardLoad _ | .doubleMove _ => Statement.answers ++ [.tables]
  | .doubleOpen _ => Statement.answers ++ [.mem, .doubles, .store]
  | .doubleClose _ => Statement.answers ++ [.doubles, .store]
  | .doubleDetach _ => Statement.answers ++ [.doubles, .detachNum]
  | .restore _ => Statement.answers ++ [.free, .links, .route, .pot, .mem, .sheet, .tables, .store]
  | .routeWrite _ => Statement.answers ++ [.route, .mem]
  | .linkLoopback _ => Statement.answers ++ [.time, .ports, .links, .route, .pot]
  | .fwStage _ => Statement.answers ++ [.flash]
  | .restart _ => Statement.answers ++ [.boot]
  | .ptpMessage _ _ _ => [.free, .time, .host]
  | .macControlFrame _ | .frameDrop _ _ => [.host]
  | .storageReply _ _ => Statement.answers ++ [.free, .links, .route, .pot, .mem, .sheet, .tables, .doubles, .store]
  | .storageRetry _ => Statement.timePasses ++ [.out, .host, .store]
  | .storageTimeout _ =>
    Statement.timePasses ++ Statement.answers ++ [.free, .links, .route, .pot, .mem, .sheet, .doubles, .store]
  | .hostPortDown _ => [.out, .time, .host, .store]
  | .telemetryPeriod => Statement.timePasses ++ [.out, .host, .telem]
  | .linkFrameReceive _ _ => Statement.arrives ++ [.out, .ports, .route, .pot]
  | .replayWaitTimeout _ | .timeExchangeTimeout _ | .stepUpStart _ | .trainingAttemptTimeout _ | .fallbackIdleEnd _ =>
    Statement.timePasses ++ [.links]
  | .ack _ _ | .timeReq _ _ _ | .genStep _ _ | .retrain _ _ => Statement.arrives
  | .ackTimer _ | .timeExchangeTimer _ | .farEndLoopbackExit _ => [.links]
  | .nak _ _ => Statement.arrives ++ [.hazard]
  | .init _ _ => Statement.arrives ++ [.route, .pot]
  | .timeResp _ _ _ => Statement.arrives ++ [.free, .time]
  | .tsReceive _ _ => [.out, .free, .links]
  | .fastRetrainTimeout _ | .barrierRelease _ => Statement.timePasses ++ [.links, .route, .pot]
  | .linkLeaveService _ | .electricalIdleDetected _ => [.time, .ports, .links, .route, .pot]
  | .loopbackEnd _ => Statement.timePasses ++ Statement.answers ++ [.links]
  | .discard _ _ => Statement.arrives ++ [.ports, .pot]
  | .packetHeaderLookup _ _ _ =>
    Statement.arrives ++ [.free, .alert, .ports, .route, .pot, .pawn, .mem, .hazard, .doubles]
  | .cellAdmit _ => [.links, .route, .pot, .mem]
  | .egressPacketStart _ _ | .lockedSequence _ _ | .shardMoveDone _ _ _ _ | .normPipeDone _
  | .dmaTransferDone _ _ =>
    [.free, .alert, .ports, .links, .route, .pot, .ladder, .pawn, .mem, .sheet, .hazard, .tables, .feed, .mu, .norm,
      .pipes, .dma]
  | .squareArbitration _ _ => [.pot, .sq]
  | .ladderArbitration => [.ports, .links, .route, .ladder, .pawn]
  | .pipOverflow _ => [.ports, .route, .pot, .ladder, .pawn]
  | .orderPacket _ _ | .hello _ _ | .doubleQuery _ _ => Statement.arrives ++ [.route, .pot, .pawn]
  | .reorderTimeout _ _ _ => Statement.timePasses ++ [.route, .pot]
  | .reorderContextFree _ _ _ => Statement.timePasses ++ [.route]
  | .drainTimerExpire _ => Statement.timePasses ++ Statement.arrives ++ [.route, .pot]
  | .fenceTimeout _ => Statement.timePasses ++ Statement.answers ++ [.links, .route, .pot, .ladder]
  | .contribReceive _ _ | .resultReceive _ _ | .pipRoundPacket _ _ =>
    Statement.arrives ++ [.free, .ports, .route, .pot, .ladder, .pawn, .mem, .sheet, .hazard, .tables, .feed, .mu,
      .norm, .pipes, .dma, .strayAll]
  | .chunkSent _ _ _ | .roundOpen _ | .residClear _ =>
    [.free, .ports, .links, .route, .pot, .ladder, .pawn, .mem, .sheet, .hazard, .tables, .feed, .mu, .norm, .pipes,
      .dma]
  | .signalReceive _ _ | .pipSig _ _ =>
    Statement.arrives ++ [.free, .ports, .route, .pot, .ladder, .pawn, .mem, .sheet, .hazard, .tables, .feed, .mu,
      .norm, .pipes, .dma]
  | .chunkDeadline _ _ _ | .barrierStall _ | .idleInterval => Statement.timePasses
  | .join _ _ | .levelUp _ _ | .levelSet _ _ =>
    Statement.arrives ++ [.ports, .route, .pot, .ladder, .pawn, .mem, .sheet, .tables, .held]
  | .release _ _ => Statement.arrives ++ [.ports, .route, .pot, .ladder, .pawn, .tables]
  | .halt _ _ => Statement.arrives ++ [.ports, .route, .pot, .ladder, .pawn, .mem, .sheet, .tables]
  | .joinHoldExpire => Statement.timePasses ++ [.held]
  | .turnBegin _ => [.ports, .links, .route, .pot, .ladder, .pawn, .mem, .sheet, .tables]
  | .barrier _ | .boardSwitch _ => [.ports, .route, .pot, .ladder, .pawn, .mem, .sheet, .tables]
  | .waitRounds _ | .phaseSet _ | .checkpoint _ => [.tables]
  | .keeperTurn _ => [.links, .route, .pot, .mem, .tables]
  | .muQuantumGrant _ => [.tables, .mu, .mats]
  | .muTaskComplete _ _ =>
    [.free, .alert, .ports, .links, .route, .pot, .ladder, .pawn, .mem, .sheet, .hazard, .tables, .feed, .mu, .mats,
      .norm, .pipes, .dma]
  | .ready _ _ => Statement.arrives ++ [.route, .pot, .pawn, .mem, .tables]
  | .keeperQuantum _ _ =>
    [.free, .alert, .ports, .links, .route, .pot, .ladder, .pawn, .mem, .sheet, .hazard, .tables, .feed, .mu, .norm,
      .pipes, .dma, .kunits]
  | .grad _ _ | .commit _ _ | .turnRecord _ _ | .load _ _ =>
    Statement.arrives ++ [.route, .pot, .pawn, .mem, .tables, .doubles]
  | .turnReplayDone _ _ => [.out, .free, .host, .links, .route, .pot, .mem, .sheet, .doubles, .store]
  | .digest _ _ => Statement.arrives ++ [.out, .free, .host, .route, .pot, .pawn, .mem, .sheet, .doubles, .store]
  | .verdict _ _ =>
    Statement.arrives ++ [.out, .free, .host, .ports, .route, .pot, .ladder, .pawn, .mem, .sheet, .hazard, .tables,
      .feed, .mu, .norm, .pipes, .dma, .store]
  | .verdictWaitTimeout _ => Statement.timePasses ++ [.links, .route, .pot, .ladder, .mem, .sheet]
  | .tiebreak _ _ | .phase _ _ | .hazard _ _ | .doublesyncTiebreak _ _ | .loadReq _ _ =>
    Statement.arrives ++ [.route, .pot, .pawn, .tables]
  | .tiebreakReplayDone _ _ _ =>
    [.out, .free, .alert, .host, .links, .route, .pot, .mem, .sheet, .hazard, .doubles, .store]
  | .accept _ _ =>
    Statement.answers ++ Statement.arrives ++ [.ports, .route, .pot, .ladder, .pawn, .mem, .sheet, .tables, .opening,
      .held]
  | .helloTimeout _ => Statement.timePasses ++ Statement.answers ++ [.opening]
  | .close _ _ => Statement.arrives ++ [.pawn, .doubles, .store]
  | .hazardFire _ => [.free, .links, .route, .pot, .hazard, .tables]
  | .hazardWindow _ => Statement.timePasses ++ [.hazard]
  | .shardWriteDone _ _ => [.out, .free, .host, .doubles, .store]
  | .shardDone _ _ => Statement.arrives ++ [.out, .free, .host, .route, .pot, .pawn, .tables, .store]
  | .manifestDurable _ => [.out, .free, .host, .tables, .store]
  | .commitDurable _ => [.out, .free, .host, .links, .route, .pot, .tables, .store]
  | .slotRelease _ _ =>
    Statement.arrives ++ [.out, .free, .host, .route, .pot, .pawn, .mem, .tables, .doubles, .store]
  | .checkpointAbandonTimeout _ => Statement.timePasses ++ [.out, .free, .host, .links, .route, .pot, .store]
  | .slotSelfRelease _ _ =>
    Statement.timePasses ++ [.out, .free, .host, .links, .route, .pot, .mem, .doubles, .store]
  | .rebuild _ _ => Statement.arrives ++ [.pawn, .doubles]
  | .repair _ _ => Statement.arrives ++ [.pawn, .mem, .tables]
  | .doublesyncRestore _ _ | .doubleHeld _ _ | .candidate _ _ | .loaded _ _ =>
    Statement.answers ++ Statement.arrives ++ [.free, .route, .pot, .pawn, .mem, .sheet, .tables, .store]
  | .candidateFormTimeout _ | .loadTimeout _ | .loadedTimeout _ =>
    Statement.timePasses ++ Statement.answers ++ [.free, .links, .route, .pot, .mem, .sheet, .store]
  | .restoreGo _ _ =>
    Statement.answers ++ Statement.arrives ++ [.route, .pot, .pawn, .mem, .sheet, .tables, .doubles, .store]
  | .scrubRead _ _ _ _ _ =>
    Statement.answers ++ [.free, .alert, .wd, .ports, .links, .route, .pot, .ladder, .pawn, .mem, .sheet, .hazard,
      .tables, .feed, .mu, .norm, .pipes, .dma, .kunits, .doubles, .store]
  | .levelAdv _ _ => Statement.arrives ++ [.pawn]
  | .levelHoldExpire => Statement.timePasses ++ [.links, .held]
  | .hostPortUp _ | .arpReply _ _ _ => [.out, .host, .store]
  | .laneFramePeriod _ => [.out, .free, .ports, .links, .route, .pot]

end Sys2Proof

open Sys2Proof Sys2Proof.Machine Sys2Proof.Safety

/-- Every command completes, and every part of the state but those named for it is as before. The parts named are those
that any form of the command may change; what it does to them the other statements say. -/
def Obligations.EveryCommandCompletesInItsFrame : Prop :=
  ∀ (c : Instr) (s : State), ∃ t, exec c s = .next t ∧ ∀ p, p ∉ Statement.touched c → p.same s t

/-- A step takes the command at the front of the queue and runs it with the queue's rest. On an empty queue one tick of
device time passes, which is the model's choice (LOG 5). -/
def Obligations.StepRunsTheFrontCommand : Prop :=
  (∀ (c : Instr) (rest : List Instr) (s : State), s.pending = c :: rest → step s = exec c { s with pending := rest }) ∧
  (∀ s : State, s.pending = [] → step s = .next (advance 1 s))

/-- The invariant holds at reset. -/
def Obligations.ResetMeetsTheInvariant : Prop := Safety.Inv State.reset

/-- Every step keeps the invariant: the flash in its canonical form, the numbers of ports, links, mailboxes and units,
one route bank CURRENT, the commanded voltage within its limits, start-up and Pawn mode at a step and a cause of their
tables. -/
def Obligations.EveryStepKeepsTheInvariant : Prop :=
  ∀ s t : State, Safety.Inv s → step s = .next t → Safety.Inv t

/-- No command changes the queue, takes back what has been sent, or takes back a free value. -/
def Obligations.CommandsLeaveTheQueueAndOnlySend : Prop :=
  ∀ (c : Instr) (s t : State), exec c s = .next t →
    t.pending = s.pending ∧ (∃ o, t.out = s.out ++ o) ∧ s.free ≤ t.free

/-- R584, R590: no command changes a byte of flash outside the four slots of Table 19-2 that FW_STAGE writes, so neither
the identity block nor the owner certificate, and no command but FW_STAGE changes flash at all. -/
def Obligations.FlashOutsideTheSlotsNeverChanges : Prop :=
  ∀ (c : Instr) (s t : State), exec c s = .next t →
    (∀ a, a < 0x100000 ∨ (0x300000 ≤ a ∧ a < 0x400000) ∨ 0x2400000 ≤ a → flashGet t.flash a = flashGet s.flash a) ∧
    ((∀ m, c ≠ .fwStage m) → t.flash = s.flash)

/-- R81, R82: a record of START st and limbs ls rebuilds the bank word whose limbs are the ones sent, 0 below them and
the sign of the last above them, and any record that is well formed is read so. A bank word is sent with START at its
lowest limb that is not 0, or 0 for the word 0, and the smallest COUNT that rebuilds it, and reads back as itself. -/
def Obligations.BankWordsTravelInTheirShortestForm : Prop :=
  (∀ (st : Nat) (ls : List Nat), ls ≠ [] → st + ls.length ≤ 5 → (∀ x ∈ ls, x < 2 ^ 64) →
    (∀ k, k < 5 → limb (fromLimbs st ls) k = if k < st then 0 else if k < st + ls.length then ls.getD (k - st) 0
      else if 2 ^ 63 ≤ ls.getD (ls.length - 1) 0 then 2 ^ 64 - 1 else 0) ∧
    ∀ rest, readRecord (BitVec.ofNat 8 (8 * ls.length + st) :: (ls.flatMap (leBytes 8) ++ rest)) = some (fromLimbs st ls, rest)) ∧
  (∀ b, b < 2 ^ 320 →
    ∃ st ls, shortest b = (st, ls) ∧ bankRecord b = BitVec.ofNat 8 (8 * ls.length + st) :: ls.flatMap (leBytes 8) ∧
      (∀ k, k < st → limb b k = 0) ∧ (limb b st ≠ 0 ∨ b = 0 ∧ st = 0) ∧ ls ≠ [] ∧ st + ls.length ≤ 5 ∧ fromLimbs st ls = b ∧
      (∀ n, 0 < n → st + n ≤ 5 → fromLimbs st ((List.range n).map fun i => limb b (st + i)) = b → ls.length ≤ n) ∧
      ∀ rest, readRecord (bankRecord b ++ rest) = some (b, rest))

/-- R46, R48: a code c of a Z block decodes to (c + 1/2) · d = (2c + 1) · (16 + SCALE_M) · 2^(SCALE_E − 132), c read as
two's complement of w bits, or of 8 when ESC is 1. A zero block has ZERO = 1 and every other header bit 0, decodes to 32
elements +0, and is sent whenever all values to be encoded are 0. -/
def Obligations.ZBlocksDecodeToTheirSteps : Prop :=
  ∀ (w : Nat) (rest : List Byte), (w = 4 ∨ w = 3 ∨ w = 2) →
    (∀ (esc : Bool) (E M : Nat) (cs : List Nat), 1 ≤ E → E ≤ 254 → M < 16 → cs.length = 32 →
      let cw := if esc then 8 else w
      (∀ c ∈ cs, c < 2 ^ cw) →
      readZ w (leBytes 2 ((if esc then 0x8000 else 0) + 16 * E + M) ++ (packBits cw cs ++ rest)) =
        some (cs.map (fun (c : Nat) => FVal.num ((2 * (if c < 2 ^ (cw - 1) then (c : Int) else (c : Int) - 2 ^ cw) + 1) * (16 + M)) ((E : Int) - 132)), false, rest)) ∧
    readZ w (0x00#8 :: 0x40#8 :: rest) = some (List.replicate 32 (.num 0 0), false, rest) ∧
    (∀ h, h < 2 ^ 16 → h.testBit 14 = true → h ≠ 0x4000 → readZ w (leBytes 2 h ++ rest) = none) ∧
    (∀ (ns : NSpec) (key : W64) (round k n : Nat) (v : List Nat), (∀ a ∈ v, a = 0 ∨ a = 0x80000000) →
      (encodeZ ns w key round k n v).bytes = [0x00#8, 0x40#8])

/-- The state u as start-up begins in it at step 1: the straps are sampled, the flash pins are driven, and a clock loss kept from
before sets its cause (R607, R609, R617, R640; the idle levels of SPI_IO are free, log 95). -/
def Statement.begun (st : Straps) (u : State) : State := { u with
  pins := { u.pins with
    straps := st, i2cAddr := 0x60 + st.i2c, jtagHold := false, spiClk := some false, spiCsN := some true, spiIo := Config.spiIdle }
  boot := { u.boot with step := 1, fail := 0, clockHold := false, coreClockOk := true }
  alert := if u.boot.clockLoss then { u.alert with causes := u.alert.causes.set 3 true } else u.alert }

/-- The state u with everything at its reset value but the flash, the pins, what survives RESET_N, and the last readings (R607,
R609, R620, R622); the flash pins are at high impedance (R640). -/
def Statement.backAtReset (u : State) : State := { State.reset with
  pending := u.pending, out := u.out, free := u.free, flash := u.flash
  pins := { u.pins with jtagHold := false, spiClk := none, spiCsN := none, spiIo := none }
  boot := { State.reset.boot with
    tripped := u.boot.tripped, clockLoss := u.boot.clockLoss, clockHold := u.boot.clockHold, fail := b2n u.boot.clockHold
    coreClockOk := u.boot.coreClockOk, srdClockOk := u.boot.srdClockOk }
  power := { State.reset.power with tjMax := u.power.tjMax, tjHbmMax := u.power.tjHbmMax, minRate := u.power.minRate } }

/-- R601, R607, R609, R617, R640, R642: PWR_GOOD asserted, RESET_N released and the reset of RESTART complete so: with PWR_GOOD the
I2C port answers at the address it samples, and start-up begins at step 1 where RESET_N is released already; when RESET_N is
released start-up begins at step 1 with the straps sampled, or the device has tripped, when only the flash pins are driven, or
PWR_GOOD is deasserted, when nothing else happens; a boundary instruction in the instruction register holds start-up in both;
RESTART_RESET begins start-up after everything is at its reset value. -/
def Obligations.PowerGoodAndResetBeginStartup : Prop :=
  (∀ (st : Straps) (s : State), s.pins.pwrGood = false →
     let u := { s with pins := { s.pins with pwrGood := true, i2cOn := true, i2cAddr := 0x60 + st.i2c } }
     (s.pins.resetHigh = false → exec (.pwrGoodAssert st) s = .next u) ∧
     (s.pins.resetHigh = true → isBoundary s.pins.jtagIr = false →
       exec (.pwrGoodAssert st) s = .next (Statement.begun st u)) ∧
     (s.pins.resetHigh = true → isBoundary s.pins.jtagIr = true →
       exec (.pwrGoodAssert st) s = .next { u with pins := { u.pins with jtagHold := true } })) ∧
  (∀ (st : Straps) (s : State), s.pins.pwrGood = true → exec (.pwrGoodAssert st) s = .next s) ∧
  (∀ (st : Straps) (s : State), s.pins.resetHigh = false →
     let u := { s with pins := { s.pins with resetHigh := true } }
     (s.pins.pwrGood = true → s.boot.tripped = false → isBoundary s.pins.jtagIr = false →
       exec (.resetNRelease st) s = .next (Statement.begun st u)) ∧
     (s.pins.pwrGood = true → s.boot.tripped = false → isBoundary s.pins.jtagIr = true →
       exec (.resetNRelease st) s = .next { u with pins := { u.pins with jtagHold := true } }) ∧
     (s.pins.pwrGood = true → s.boot.tripped = true → exec (.resetNRelease st) s =
       .next { u with pins := { u.pins with spiClk := some false, spiCsN := some true, spiIo := Config.spiIdle } }) ∧
     (s.pins.pwrGood = false → exec (.resetNRelease st) s = .next u)) ∧
  (∀ (st : Straps) (s : State) (a : Nat), live s = true → s.boot.restartAt = some a →
     exec (.restartReset st) s = .next (Statement.begun st (Statement.backAtReset (advanceTo a s))))

/-- R601, R609, R620, R622, R640: RESET_N asserted and PWR_GOOD deasserted complete so: everything but the flash, the pins and
what survives RESET_N goes to its reset value and the flash pins to high impedance. With PWR_GOOD deasserted, what survives
RESET_N is released too, with the I2C port and THERMTRIP_N. RESET_N asserted without PWR_GOOD, or after a trip, moves the pins
only. -/
def Obligations.ResetPutsEverythingBack : Prop :=
  (∀ (s : State), s.pins.resetHigh = true →
    (s.pins.pwrGood = true → s.boot.tripped = false → exec .resetNAssert s =
      .next (Statement.backAtReset { s with pins := { s.pins with resetHigh := false } })) ∧
    (s.pins.pwrGood = false ∨ s.boot.tripped = true → exec .resetNAssert s =
      .next { s with pins := { s.pins with resetHigh := false, spiClk := none, spiCsN := none, spiIo := none } })) ∧
  (∀ (s : State), s.pins.pwrGood = true → exec .pwrGoodDeassert s = .next (Statement.backAtReset { s with
    pins := { s.pins with pwrGood := false, i2cOn := false, thermtrip := false }
    boot := { s.boot with tripped := false, clockLoss := false, clockHold := false } })) ∧
  (∀ (s : State), (s.pins.resetHigh = false → exec .resetNAssert s = .next s) ∧
    (s.pins.pwrGood = false → exec .pwrGoodDeassert s = .next s)) ∧
  (∀ u : State, { Statement.backAtReset u with pending := [], out := [], free := 0, flash := [], pins := {}, boot := {}, power := {} } =
    { State.reset with pins := {} })

/-- R607, R608: when REFCLK_CORE is lost the block goes into the hold of R607, with FAIL 1; when the clock of a port die
is lost, its flag and the loss are kept, cause 3 of AlertControl sets, and every link of that die is taken out of
service and begins its training again, which waits for the clock; when the clock is back, the links of the die train
from VL1. -/
def Obligations.LostClocksTakeTheirParts : Prop :=
  ∀ (s : State), s.boot.tripped = false →
    (s.boot.step ≠ 0 →
      ∃ t, exec .refclkCoreLoss s = .next t ∧ t.boot.step = 0 ∧ t.boot.clockHold = true ∧ t.boot.clockLoss = true ∧
        t.boot.fail = 1 ∧ t.boot.coreClockOk = false ∧ alertAsserted t = true ∧ t.flash = s.flash ∧ t.tables = []) ∧
    (∀ k, k < 8 → s.boot.step ≠ 0 → s.boot.srdClockOk.getD k true = true →
      let u := { s with boot := { s.boot with srdClockOk := s.boot.srdClockOk.set k false, clockLoss := true } }
      exec (.refclkSrdLoss k) s = .next (forAll ((allLinks s).filter fun l => l / 64 = k)
        (fun l v => trainFromStart l (takeDown l v)) (setCause 3 u)) ∧
      ∀ l v, l < v.links.length → v.boot.srdClockOk.getD (l / 64) true = false →
        (getLink (trainFromStart l v) l).stat.state = (if isEnabled v l then 0 else 5)) ∧
    (∀ k, k < 8 → s.boot.srdClockOk.getD k true = false →
      exec (.refclkSrdRestore k) s = .next (forAll ((allLinks s).filter fun l => l / 64 = k) trainFromStart
        { s with boot := { s.boot with srdClockOk := s.boot.srdClockOk.set k true } }) ∧
      ∀ l v, l < v.links.length → mayTrain v l = true →
        (getLink (trainFromStart l v) l).stat.state = 1 ∧ (getLink (trainFromStart l v) l).train.gen = 1)

/-- Table 20-3: each step of start-up, when it is the running one and nothing has stopped start-up, does its part and
makes the next step the running one. PLL_LOCK starts device time at 0, arms the watchdog, starts the AVS controller with
the regulators that the straps name, and derives the device key when the PUF gives its value and clears it (R578, R579,
R604, R607);
FLASH_VERIFY reads the owner key, loads a patch and the configuration and starts the host ports (R586, R589);
MEM_CLEAR_DONE opens the mailbox transport and trains the links (R612); ENTER_SERVICE counts the links and elects (R241,
R614). -/
def Obligations.StartupRunsItsSteps : Prop :=
  ∀ (s : State), s.boot.tripped = false → s.boot.stopped = false → s.pawn.cause = 0 →
    (s.boot.step = 1 → s.pins.straps.test = false → s.boot.coreClockOk = true → ∀ modes puf good,
      ∃ t, exec (.pllLock modes puf good) s = .next t ∧ t.boot = { s.boot with step := 4 } ∧
        t.time = { s.time with running := true, t64 := 0, rateAcc := 0 } ∧
        t.wd = { s.wd with armed := true, ticks := 0 } ∧ t.power.avsOn = true ∧
        t.power.regs = regsOf s.pins.straps modes ∧
        (t.power.avsDead = true ↔ s.pins.straps.vrBase = 7 ∨ ∃ i, i < s.pins.straps.vrCount + 1 ∧ voutOk (modes.getD i 256) = false) ∧
        (good = true → t.ident.kPuf = puf ∧ t.ident.key = deviceKey puf) ∧
        (good = false → t.ident = { s.ident with pufZero := true, noKey := true }) ∧
        { t with boot := s.boot, time := s.time, wd := s.wd, power := s.power, ident := s.ident } = s) ∧
    (s.boot.step = 4 → ∀ u,
      loadConfig (modIdent (fun i => { i with ownerKey := ownerKeyOf s.flash, patchFloor := Config.romPatchFloor }) s) = some u →
      (startHosts (loadPatch u)).power.avsDead = false →
      exec .flashVerify s = .next (modBoot (fun b => { b with step := 6 }) (startHosts (loadPatch u)))) ∧
    (s.boot.step = 6 → exec (.selfTestDone none) s = .next { s with boot := { s.boot with step := 7 } }) ∧
    (s.boot.step = 7 → exec (.memTrainDone none) s = .next { s with boot := { s.boot with step := 8 } }) ∧
    (s.boot.step = 8 →
      let u := { s with boot := { s.boot with step := 9, memCleared := true, transport := true, tMailbox := now s } }
      exec (.memClearDone none) s = .next (forAll (allLinks u) trainFromStart u)) ∧
    (s.boot.step = 9 →
      let u := if linksSettled s then s else advanceTo (s.boot.tMailbox + 5000000000) s
      exec .enterService s = .next (elect { u with boot := { u.boot with
        step := 10, tService := now u
        linksUp := ((enabledLinks u).filter (linkUp u)).length
        linksFailed := ((enabledLinks u).filter fun l => (getLink u l).train.failedVl1).length } }))

/-- R615, R637: a failure of a start-up step stops start-up, with FAIL and FAIL_UNIT naming it and cause 5 of
AlertControl set; without a valid configuration FLASH_VERIFY stops with FAIL 2, and without a usable regulator with FAIL
6; the mailbox transport opens if the configuration is valid. -/
def Obligations.StartupStopsOnFailure : Prop :=
  ∀ (s : State), s.boot.tripped = false → s.boot.stopped = false → s.pawn.cause = 0 →
    let ends := fun (u : State) (fail unit : Nat) => setCause 5 { u with boot := { u.boot with
      stopped := true, fail := fail, failUnit := unit, transport := u.ident.configSlot.isSome } }
    let u := modIdent (fun i => { i with ownerKey := ownerKeyOf s.flash, patchFloor := Config.romPatchFloor }) s
    (s.boot.step = 4 → loadConfig u = none → exec .flashVerify s = .next (ends (loadPatch u) 2 0)) ∧
    (s.boot.step = 4 → ∀ v, loadConfig u = some v → (startHosts (loadPatch v)).power.avsDead = true →
      exec .flashVerify s = .next (ends (modBoot (fun b => { b with step := 5 }) (startHosts (loadPatch v))) 6 0)) ∧
    (s.boot.step = 6 → ∀ n, exec (.selfTestDone (some n)) s = .next (ends s 3 n)) ∧
    (s.boot.step = 7 → ∀ n, exec (.memTrainDone (some (.hbm n))) s = .next (ends s 4 n) ∧
      exec (.memTrainDone (some (.lpddr n))) s = .next (ends s 5 n)) ∧
    (s.boot.step = 8 → ∀ n, exec (.memClearDone (some (.hbm n))) s = .next (ends s 4 n) ∧
      exec (.memClearDone (some (.lpddr n))) s = .next (ends s 5 n))

/-- Table 20-4, R556, R620: a reading at or past its threshold throttles the device, a reading below both exits throttling, 1
s after it was entered at the earliest (LOG 111), one of at least 110 degrees enters Pawn mode with CAUSE 2, and one of at
least 125 degrees trips it: THERMTRIP_N is asserted and everything stops, the last readings staying in PowerStatus. -/
def Obligations.HeatFollowsItsThresholds : Prop :=
  ∀ (s : State) (tj hbm : Int), 2 ≤ s.boot.step → s.boot.tripped = false →
    let u := { s with power := { s.power with tjMax := tj, tjHbmMax := hbm } }
    (100 ≤ tj ∨ 95 ≤ hbm → exec (.throttleEnter tj hbm) s =
      .next { u with
        power := { u.power with throttled := true, throttledAt := if u.power.throttled then u.power.throttledAt else now u }
        alert := { s.alert with causes := s.alert.causes.set 0 true } }) ∧
    (tj < 100 → hbm < 95 → exec (.throttleEnter tj hbm) s = .next u) ∧
    (tj < 95 → hbm < 90 → u.power.throttled = true → exec (.throttleExit tj hbm) s =
      .next (modPower (fun p => { p with throttled := false }) (advanceTo (u.power.throttledAt + 1000000000) u))) ∧
    (95 ≤ tj ∨ 90 ≤ hbm ∨ u.power.throttled = false → exec (.throttleExit tj hbm) s = .next u) ∧
    (110 ≤ tj → exec (.thermalPawnEnter tj) s = .next (enterPawn 2 { s with power := { s.power with tjMax := tj } })) ∧
    (tj < 110 → exec (.thermalPawnEnter tj) s = .next { s with power := { s.power with tjMax := tj } }) ∧
    (125 ≤ tj → s.pins.pwrGood = true →
      ∃ t, exec (.thermalTrip tj) s = .next t ∧ t.pins.thermtrip = true ∧ t.boot.tripped = true ∧ t.boot.step = 0 ∧
        t.tables = [] ∧ t.doubles = [] ∧ t.time.running = false ∧ t.flash = s.flash ∧ t.out = s.out ∧
        t.power.tjMax = s.power.tjMax ∧ t.power.vcoreMv = s.power.vcoreMv ∧ t.power.coreW = s.power.coreW)

/-- R602, R603: an AVS reading and the end of a step complete so: MIN_RATE, the lowest of the monitors read, decides. Below
1,800 the step is +25 mV, and at 900 mV already cause 2 sets and Pawn mode is entered with CAUSE 3; below 1,854 it is +10 mV;
after 100 good readings in a row it is -5 mV; else there is none. A step calls while another is in flight waits for
AVS_STEP_DONE, and a step down never takes the place of a step up that waits. -/
def Obligations.RateReadingDecidesTheVoltageStep : Prop :=
  ∀ (s : State) (r : Nat) (rs nacks : List Nat), live s = true → s.power.avsOn = true →
    let m := rs.foldl min r
    let u := fun (good : Nat) => modPower (fun p => { p with
      minRate := m, goodRun := good, rateFloor := (m < 1800 && p.vcoreMv = 900 : Bool)
      floorEvents := p.floorEvents + b2n (m < 1800) }) s
    (exec (.avsReading [] nacks) s = .next s) ∧
    (m < 1800 → exec (.avsReading (r :: rs) nacks) s =
      .next (callStep 25 nacks (if s.power.vcoreMv = 900 then enterPawn 3 (setCause 2 (u 0)) else u 0))) ∧
    (1800 ≤ m → m < 1854 → exec (.avsReading (r :: rs) nacks) s = .next (callStep 10 nacks (u 0))) ∧
    (1854 ≤ m → 99 ≤ s.power.goodRun → exec (.avsReading (r :: rs) nacks) s = .next (callStep (-5) nacks (u 100))) ∧
    (1854 ≤ m → s.power.goodRun < 99 → exec (.avsReading (r :: rs) nacks) s = .next (u (s.power.goodRun + 1))) ∧
    (s.power.inFlight = true → s.power.pendingStep = none → exec (.avsStepDone nacks) s =
      .next { s with power := { s.power with inFlight := false } }) ∧
    (s.power.inFlight = true → ∀ d, s.power.pendingStep = some d → exec (.avsStepDone nacks) s =
      .next (sendStep d nacks { s with power := { s.power with inFlight := false, pendingStep := none } })) ∧
    (s.power.inFlight = true → ∀ d e : Int, d < 0 → 0 < e → s.power.pendingStep = some e → callStep d nacks s = s)

/-- R602, R604, R605: a step writes VOUT_COMMAND to every regulator, in ascending address, with the commanded voltage
moved by the step and kept within 650 and 900 mV, and is counted; a controller without usable regulators, one that has
given up steps down, and a step that changes nothing send nothing. READ_VOUT and READ_IOUT give CORE_W. -/
def Obligations.VoltageStepsStayWithinTheirLimits : Prop :=
  ∀ (s : State) (d : Int) (nacks : List Nat),
    650 ≤ stepTo s.power.vcoreMv d ∧ stepTo s.power.vcoreMv d ≤ 900 ∧
    (s.power.avsDead = true ∨ stepTo s.power.vcoreMv d = s.power.vcoreMv ∨ (s.power.avsFault = true ∧ d < 0) →
      sendStep d nacks s = s) ∧
    (s.power.avsDead = false → stepTo s.power.vcoreMv d ≠ s.power.vcoreMv → (s.power.avsFault = false ∨ 0 < d) →
      let t := sendStep d nacks s
      t.power.vcoreMv = stepTo s.power.vcoreMv d ∧ t.power.inFlight = true ∧
      t.out = s.out ++ s.power.regs.map (fun r => .pmbus (voutBytes (stepTo s.power.vcoreMv d) r)) ∧
      t.power.stepsUp = s.power.stepsUp + b2n (0 < d) ∧ t.power.stepsDown = s.power.stepsDown + b2n (d < 0) ∧
      t.power.regs = s.power.regs.map (ackReg nacks) ∧ t.tables = s.tables ∧ t.links = s.links) ∧
    (∀ vout iout, live s = true → s.power.avsOn = true → s.power.avsDead = false →
      (∀ r ∈ s.power.regs, r.addr ∉ nacks) →
      exec (.avsPoll vout iout nacks) s =
        .next { s with power := { s.power with coreW := coreWatts s.power.regs vout iout } })

/-- R504, R555: a restart of the watchdog keeps the longest gap and starts it again; 20 ms without one enter Pawn mode
with CAUSE 1; a stalled helper that holds work makes the CP stop restarting it. -/
def Obligations.WatchdogGuardsTheCommandProcessor : Prop :=
  ∀ (s : State), live s = true →
    (s.wd.armed = true → s.wd.cpStopped = false → s.wd.stopRestart = false → s.pawn.cause ≠ 1 →
      exec .watchdogRestart s =
        .next { s with wd := { s.wd with maxGapUs := max s.wd.maxGapUs (min 20000000 s.wd.ticks / 1000), ticks := 0 } }) ∧
    (s.wd.armed = true → s.pawn.cause ≠ 1 →
      exec .watchdogExpire s = .next (enterPawn 1 (advance (20000000 - s.wd.ticks) s))) ∧
    (∀ hs h, s.pawn.cause = 0 → s.wd.cpStopped = false → h ∈ hs → h.holdsWork = true → 10000000 ≤ h.silentNs →
      h.waiting = false →
      exec (.helperStallCheck hs) s = .next { s with wd := { s.wd with stopRestart := true } })

/-- R556, R558, R559, R563, R506: Pawn mode with CAUSE 2 or 3 ends when its condition has been absent, 1 s after it was
entered at the earliest: CAUSE and the record go to what they are outside Pawn mode, EXITS counts, doubles that lost a record
are rebuilt, and step 9 of start-up, where it ran, starts again (R616). A round still open when the absence limit has passed
fails with ABORTED. The minimal responder answers every request with the status of its answer and no change to a session. -/
def Obligations.PawnModeEndsAndAnswers : Prop :=
  ∀ (s : State), live s = true →
    (∀ tj rates, pawnAbsent s.pawn.cause tj rates = true →
      exec (.pawnExit tj rates) s = .next (pawnLeave (advanceTo (s.pawn.tEnter + 1000000000) s))) ∧
    (∀ w : State,
      let u := { w with
        pawn := { w.pawn with
          cause := 0, routeEpoch := 0, tEnter := 0, pktsForwarded := 0, roundsOpen := 0, roundsFailed := 0, lastCmd := 0
          lastMailbox := 0, lastValid := false, exits := w.pawn.exits + 1, lastCause := w.pawn.cause, tLastExit := now w }
        power := { w.power with rateFloor := false }
        doubles := w.doubles.map rebuildLost }
      let v := forAll u.tables (fun tb => checkTurn tb.id) u
      (v.boot.step ≠ 9 ∨ v.boot.stopped = true → pawnLeave w = v) ∧
      (v.boot.step = 9 → v.boot.stopped = false →
        let x := forAll (allLinks v) takeDown v
        let y := { x with boot := { x.boot with transport := true, tMailbox := now x } }
        pawnLeave w = forAll (allLinks y) trainFromStart y)) ∧
    (∀ t r tb x, s.pawn.cause ≠ 0 → findRound s t r = some (tb, x) → x.done = false →
      exec (.pawnRoundTimeout t r) s =
        .next (drain (failRound t r stAborted tb.member true 0 none (advanceTo (s.pawn.tEnter + absenceNs tb) s)))) ∧
    (∀ src d, s.pawn.cause ≠ 0 → hostUp s src.port = true → hasIp s src.port = true → mboxOk 3 d = false → mboxOk 0 d = true →
      s.host.length = 8 →
      ∃ t, exec (.pawnRequest src d) s = .next t ∧ t.mbox = s.mbox ∧
        t.out = s.out ++ [.datagram src 47710 (responseBytes (mboxHdrOf d).mailbox
          { src := src, session := (mboxHdrOf d).session, seq := (mboxHdrOf d).seq, msg := d.drop 16 } (pawnAnswer (d.drop 16) s))] ∧
        (getHost t src.port).framesRx = (getHost s src.port).framesRx + 1 ∧
        (getHost t src.port).framesTx = (getHost s src.port).framesTx + 1 ∧
        { t with out := s.out, host := s.host } = s)

/-- R505, Table 18-3: at Pawn entry every session ends, no request waits or executes, every bulk buffer is freed, no
fence or loopback waits to answer; checkpoints and restores in flight are abandoned here and storage operations stop. -/
def Obligations.PawnEntryEndsSessionsAndStorage : Prop :=
  ∀ (s : State),
    let t := hushMailboxes s
    let u := abandonCheckpoints s
    (∀ m, getMbox t m = {}) ∧ t.opening = [] ∧ (∀ f ∈ t.route.fences, f.mailbox = none) ∧
    (∀ k ∈ t.links, k.loop.mailbox = none) ∧ (∀ b, (getBank t b).state ≠ 3) ∧
    u.store.ops = [] ∧ (∀ tb ∈ u.tables, ∀ k, tb.keeper = some k → k.ckptReq = [] ∧ k.ckpt = none ∧ k.restore = none) ∧
    (∀ d ∈ u.doubles, d.ckptReq = [])

/-- R641, R642: a boundary instruction takes effect only while RESET_N is asserted and acts as BYPASS otherwise; the
bypass and private opcodes select what they may; another instruction than the one that holds start-up ends the hold and
start-up begins. Nothing but the pins changes when no hold ends. -/
def Obligations.JtagInstructionsSelectAndHold : Prop :=
  ∀ (s : State) (st : Straps), s.boot.tripped = false →
    let load := fun (op : Nat) =>
      let u := { s with pins := { s.pins with jtagIr := op } }
      if s.pins.jtagHold then startUp st u else u
    (s.pins.jtagHold = false →
      let b := fun (op : Nat) => load (if s.pins.resetHigh then 0xFF else op)
      exec (.extest st) s = .next (b 0) ∧ exec (.extestPulse st) s = .next (b 4) ∧ exec (.extestTrain st) s = .next (b 5) ∧
      exec (.clamp st) s = .next (b 2) ∧ exec (.highz st) s = .next (b 3)) ∧
    (s.pins.jtagHold = true → s.pins.resetHigh = true → isBoundary s.pins.jtagIr = true →
      exec (.samplePreload st) s = .next (load 1) ∧ exec (.testLogicReset st) s = .next (load 0xFF) ∧ exec (.bypass 0xFF st) s = .next (load 0xFF) ∧
      (s.pins.jtagIr = 0 → exec (.extest st) s = .next s) ∧ (s.pins.jtagIr ≠ 0 → exec (.extest st) s = .next (load 0xFF))) ∧
    (s.pins.jtagHold = false →
      exec (.samplePreload st) s = .next (load 1) ∧ exec (.testLogicReset st) s = .next (load 0xFF) ∧
      (∀ op, 6 ≤ op → op < 128 → exec (.bypass op st) s = .next (load op)) ∧
      (∀ op, op < 6 ∨ 128 ≤ op → exec (.bypass op st) s = .next (load 0xFF)) ∧
      (∀ op, scopeOpen s 0 = true → 128 ≤ op → op < 255 → exec (.privateJtag op st) s = .next (load op)) ∧
      (∀ op, scopeOpen s 0 = false → exec (.privateJtag op st) s = .next (load 0xFF)))

/-- R460 to R464: a mailbox request that arrives on a port that is up, with the transport open, waits at the end of its
mailbox's ring; one that waits or executes already is counted and goes no further; one answered already gets its stored
response again; with 256 waiting it is answered as not taken. -/
def Obligations.MailboxKeepsRequestsOnce : Prop :=
  ∀ (src : Source) (d : List Byte) (s : State), cpRuns s = true → s.boot.transport = true → hostUp s src.port = true →
    hasIp s src.port = true → mboxOk 0 d = true → s.host.length = 8 →
    let h := mboxHdrOf d
    let u := frameIn src.port s
    let b := getMbox s h.mailbox
    let r : Request := { src := src, session := h.session, seq := h.seq, msg := d.drop 16 }
    let same := fun (x : Request) => x.session = h.session ∧ x.seq = h.seq
    ((∃ x ∈ b.ring, same x) ∨ (∃ x, b.exec = some x ∧ same x) →
      exec (.mboxRequest src d) s = .next { u with gci := { s.gci with duplicates := s.gci.duplicates + 1 } }) ∧
    ((∀ x ∈ b.ring, ¬ same x) → (∀ x, b.exec = some x → ¬ same x) →
      (∀ x, b.stored.find? (fun y => y.session = h.session && y.seq = h.seq) = some x →
        exec (.mboxRequest src d) s = .next (sendOn src.port (.datagram src 47710 x.bytes)
          { u with gci := { s.gci with duplicates := s.gci.duplicates + 1 } })) ∧
      (b.stored.find? (fun y => y.session = h.session && y.seq = h.seq) = none →
        (b.ring.length < 256 →
          exec (.mboxRequest src d) s = .next { u with mbox := modAt s.mbox h.mailbox (fun b => { b with ring := b.ring ++ [r] }) }) ∧
        (256 ≤ b.ring.length →
          exec (.mboxRequest src d) s = .next (sendOn src.port (.datagram src 47710 (mboxHdr 2 h.mailbox h.session h.seq 0))
            (modHost src.port (fun p => { p with ringFull := p.ringFull + 1 }) u)))))

/-- R487, R489: a BULK segment of the session's inbound buffer is stored at its offset, in a new buffer when its BULK_ID
is not the held one's; while a command that names the buffer executes, or when the segment does not fit, it is dropped
and counted. R490: BULK_FETCH answers and sends the bytes it asks for of the buffer that its BULK_ID names; another
BULK_ID and a range past the buffer are bad values. -/
def Obligations.BulkDataIsTakenAndFetched : Prop :=
  (∀ (src : Source) (d : List Byte) (s : State), cpRuns s = true → s.boot.transport = true → hostUp s src.port = true →
     hasIp s src.port = true → mboxOk 0 d = false → mboxOk 3 d = true → s.host.length = 8 →
     let h := mboxHdrOf d
     let body := d.drop 16
     let u := frameIn src.port s
     let id := leAt body 4 4
     let total := leAt body 0 4
     let off := leAt body 12 4
     let b := getMbox s h.mailbox
     (16 ≤ body.length → (∃ x, b.session = some x ∧ x.id = h.session) → (∀ r, b.exec = some r → namesBulk r.msg = false) →
       id ≠ 0 → total ≤ 16777216 → leAt body 8 4 = 0 → off < total → off + (body.length - 16) ≤ total →
       (∀ x, b.inb = some x → x.id = id → x.data.length = total) →
       let old := match b.inb with
         | some x => if x.id = id then x.data else List.replicate total none
         | none => List.replicate total none
       exec (.bulkSegment src d) s = .next { u with
         mbox := modAt s.mbox h.mailbox (fun b => { b with inb := some { id := id, data := overlay old off (body.drop 16) } }) }) ∧
     (body.length < 16 ∨ b.session = none ∨ (∃ r, b.exec = some r ∧ namesBulk r.msg = true) ∨ id = 0 ∨ 16777216 < total ∨
         leAt body 8 4 ≠ 0 ∨ total ≤ off →
       exec (.bulkSegment src d) s = .next { u with gci := { s.gci with bulkDrops := s.gci.bulkDrops + 1 } })) ∧
  (∀ (m : Nat) (s u : State) (r : Request) (major : Nat), Statement.Asked m bulkFetchSpec anyMsg r major s u →
     let id := fld (argW r.msg 0) 63 32
     let off := fld (argW r.msg 1) 63 32
     let len := fld (argW r.msg 1) 31 0
     (∀ o, (getMbox u m).outb = some o → o.id = id → off + len ≤ o.data.length →
       exec (.bulkFetch m) s = .next (sendSegments m r.session r.src o off len (respond m {} u))) ∧
     (∀ o, (getMbox u m).outb = some o → o.id = id → o.data.length < off + len →
       exec (.bulkFetch m) s = .next (respond m { status := gValue, detail := 192 } u)) ∧
     ((getMbox u m).outb = none ∨ (∃ o, (getMbox u m).outb = some o ∧ o.id ≠ id) →
       exec (.bulkFetch m) s = .next (respond m { status := gValue, detail := 160 } u)))

/-- R462 to R464, R480, R486: the oldest waiting request of a mailbox begins when none executes there, and its session's
idle time begins again; a request that the row does not name stays. The command that executes answers with one datagram
to the request's source; its response is stored when its session is the mailbox's, the newest 256 staying; requests and
errors are counted. -/
def Obligations.RequestsBeginOldestFirstAndAreAnswered : Prop :=
  (∀ (m : Nat) (names : List Byte → Bool) (s : State),
    (cpRuns s = true → m < 64 → (getMbox s m).exec = none → ∀ r rest, (getMbox s m).ring = r :: rest → names r.msg = true →
      beginReq m names s = some (r, { s with mbox := modAt s.mbox m (fun b => { b with
        ring := rest, exec := some r
        session := b.session.map fun x => if x.id = r.session then { x with lastBegin := now s } else x }) })) ∧
    (cpRuns s = false ∨ 64 ≤ m ∨ (getMbox s m).exec ≠ none ∨ (getMbox s m).ring = [] ∨
      (∃ r rest, (getMbox s m).ring = r :: rest ∧ names r.msg = false) → beginReq m names s = none)) ∧
  (∀ (m : Nat) (a : Answer) (s : State),
    ((getMbox s m).exec = none → respond m a s = s) ∧
    (∀ r, (getMbox s m).exec = some r →
      let d := responseBytes m r a
      respond m a s = sendOn r.src.port (.datagram r.src 47710 d) { s with
        mbox := modAt s.mbox m (fun b => { b with
          exec := none
          stored := if isCurrent s m r then ({ session := r.session, seq := r.seq, bytes := d } :: b.stored).take 256 else b.stored })
        gci := { s.gci with requests := s.gci.requests + 1, errors := s.gci.errors + b2n (a.status ≠ 0) } }) ∧
    (∀ p e, hostUp s p = true → sendOn p e s = { s with
      out := s.out ++ [e], host := modAt s.host p (fun h => { h with framesTx := h.framesTx + 1 }) }) ∧
    (∀ p e, hostUp s p = false → sendOn p e s = s))

/-- R479 to R482, R486: SESSION_OPEN opens the session that the request names, at the highest major it offers, and
answers with the versions; SESSION 0 is a bad value, and a session of another number is taken over only when the request
says so. SESSION_CLOSE and the idle limit end the session, with its stored responses, its bulk buffers and its route
staging. NOP answers with the data it carries. -/
def Obligations.SessionsOpenAndEnd : Prop :=
  ∀ (m : Nat) (s u : State) (r : Request) (major : Nat),
    (Statement.Asked m sessionOpenSpec anyMsg r major s u →
      let a := argW r.msg 0
      fld a 63 56 ≤ fld a 55 48 → r.session ≠ 0 → (∀ x, curSession u m = some x → x.id = r.session ∨ bitAt a 47 = true) →
      let v := endSession m u
      let x : Session := { id := r.session, major := fld a 55 48, minor := minorOf v (fld a 55 48), idleS := fld a 15 0, lastBegin := now v }
      exec (.sessionOpen m) s = .next (respond m
        { data := bytesOf [mkW [(63, 56, x.major), (55, 48, x.minor), (47, 40, rulesetMax v)], mkW [(63, 32, romVer), (31, 0, patchVer v)]] }
        { v with mbox := modAt v.mbox m (fun b => { b with session := some x }) })) ∧
    (Statement.Asked m sessionOpenSpec anyMsg r major s u →
      fld (argW r.msg 0) 63 56 ≤ fld (argW r.msg 0) 55 48 → r.session ≠ 0 → bitAt (argW r.msg 0) 47 = false →
      ∀ x, curSession u m = some x → x.id ≠ r.session →
      exec (.sessionOpen m) s = .next (respond m { status := gSessionBusy, detail := x.id } u)) ∧
    (Statement.Asked m sessionOpenSpec anyMsg r major s u →
      fld (argW r.msg 0) 63 56 ≤ fld (argW r.msg 0) 55 48 → r.session = 0 →
      exec (.sessionOpen m) s = .next (respond m { status := gValue, detail := 0 } u)) ∧
    (Statement.Asked m { code := 2 } anyMsg r major s u →
      exec (.sessionClose m) s = .next (respond m {} (endSession m u))) ∧
    (cpRuns s = true → ∀ x, curSession s m = some x →
      exec (.sessionIdleExpire m) s = .next (endSession m (advanceTo (x.lastBegin + x.idleS * 1000000000) s))) ∧
    (∀ x, curSession s m = some x →
      let t := modMbox m (fun b => { b with session := none, stored := [], inb := none, outb := none }) s
      endSession m s = if s.route.owner = some (m, x.id) then freeStaging t else t) ∧
    (beginReq m nopNames s = some (r, u) → 16 ≤ r.msg.length → cmdOf r.msg = 3 → checkReq nopSpec m r u = .ok major →
      exec (.nop m) s = .next (respond m { data := r.msg.drop 16 } u))

/-- R594, R581: PHASE 0 of DEBUG_UNLOCK answers with a new challenge, which takes the place of any earlier one; PHASE 1
unlocks the scopes of a token that verifies against the owner key, this device and the held challenge, and consumes the
challenge whatever the outcome; PHASE 2 relocks every scope. Without a device key each answers AUTH. A scope relocks
when its duration ends, and a challenge lapses 60 s after it was issued. -/
def Obligations.DebugScopesFollowTheirTokens : Prop :=
  ∀ (m : Nat) (s u : State) (r : Request) (major : Nat),
    (Statement.Asked m debugSpec (fun msg => phaseOf msg = 0) r major s u →
      let c := sm3 (Config.challengeInput u.ident.kPuf (now u) u.ident.challenges)
      (u.ident.key ≠ none → exec (.debugChallenge m) s = .next (respond m { data := c }
        { u with ident := { u.ident with challenge := some (c, now u), challenges := u.ident.challenges + 1 } })) ∧
      (u.ident.key = none → exec (.debugChallenge m) s = .next (respond m { status := gAuth } u))) ∧
    (Statement.Asked m debugSpec (fun msg => phaseOf msg = 1) r major s u →
      let tok := slice r.msg 24 136
      (u.ident.key ≠ none → tokenOk tok u = true → exec (.debugToken m) s = .next (respond m {} { u with ident := { u.ident with
        challenge := none
        scopes := (List.range 3).map fun k => if (fld (payW tok 0) 55 48).testBit k
          then some (now u + fld (payW tok 0) 31 0 * 1000000000) else u.ident.scopes.getD k none } })) ∧
      (u.ident.key ≠ none → tokenOk tok u = false → exec (.debugToken m) s =
        .next (respond m { status := gAuth } { u with ident := { u.ident with challenge := none } })) ∧
      (u.ident.key = none → exec (.debugToken m) s = .next (respond m { status := gAuth } u))) ∧
    (Statement.Asked m debugSpec (fun msg => 2 ≤ phaseOf msg) r major s u →
      (u.ident.key ≠ none → exec (.debugRelock m) s =
        .next (respond m {} { u with ident := { u.ident with scopes := [none, none, none] } })) ∧
      (u.ident.key = none → exec (.debugRelock m) s = .next (respond m { status := gAuth } u))) ∧
    (live s = true → ∀ i t, s.ident.scopes.getD i none = some t →
      exec (.debugScopeExpire i) s = .next (modIdent (fun d => { d with scopes := d.scopes.set i none }) (advanceTo t s))) ∧
    (live s = true → ∀ c t, s.ident.challenge = some (c, t) →
      exec .debugChallengeLapse s = .next (modIdent (fun d => { d with challenge := none }) (advanceTo (t + 60000000000) s)))

/-- R16, R590, R591, R593: FW_STAGE writes an image that verifies into the slot that this start-up did not use, from its
first byte on, and changes nothing else of flash; one whose header has a reserved field that is not 0 answers BAD_RESERVED, with
the bit of that field and the mark of bulk data, and one that does not verify answers AUTH. ATTEST_QUOTE answers with the
quote, its signature under the device key, and the certificate when the request asks for it. -/
def Obligations.ImagesAreStagedAndQuotesSigned : Prop :=
  ∀ (m : Nat) (s u : State) (r : Request) (major : Nat),
    (Statement.Asked m fwSpec anyMsg r major s u → ∀ bs, bulkRef m 24 r.msg u = .ok bs →
      let config := fld (argW r.msg 0) 63 62 = 1
      let good : Bool := match imageOf bs (if config then 3 else 2) with
        | none => false
        | some i => if config then (configOk u.ident.ownerKey i State.reset).isSome else patchOk u.ident.patchFloor i
      (∀ i, firstSet bs (imageResv bs) = some i →
        exec (.fwStage m) s = .next (respond m { status := gReserved, detail := 2 ^ 63 + i } u)) ∧
      (firstSet bs (imageResv bs) = none → good = true → exec (.fwStage m) s = .next (respond m {}
        { u with flash := flashWrite u.flash (slotAt config (stageSlot u config)) bs })) ∧
      (firstSet bs (imageResv bs) = none → good = false → exec (.fwStage m) s = .next (respond m { status := gAuth } u))) ∧
    (Statement.Asked m fwSpec anyMsg r major s u → ∀ a, bulkRef m 24 r.msg u = .error a → a.status ≠ 0 →
      exec (.fwStage m) s = .next (respond m a u)) ∧
    (Statement.Asked m quoteSpec anyMsg r major s u → ∀ d x y, u.ident.key = some (d, x, y) →
      let q := quoteBytes (slice r.msg 16 32) u
      exec (.attestQuote m) s = .next (respondBulk m {}
        (q ++ sm2Sign d q ++ if bitAt (argW r.msg 4) 0 then ownCert u else []) u)) ∧
    (Statement.Asked m quoteSpec anyMsg r major s u → u.ident.key = none →
      exec (.attestQuote m) s = .next (respond m { status := gFailed, detail := Config.failedDetail 0x61 u.free } u))

/-- R584: a byte of flash reads as the last write to it, every other byte as before, and a byte that nothing has written
as 0xFF (the model's choice, log 6); a write keeps the canonical form. The sparse tables of the route banks read alike,
with 0 where nothing is written. -/
def Obligations.FlashAndTablesReadBackWhatIsWritten : Prop :=
  (∀ (f : List Host.Cell) (a b : Nat) (bs : List Byte), b < a ∨ a + bs.length ≤ b →
    flashGet (flashWrite f a bs) b = flashGet f b) ∧
  (∀ (f : List Host.Cell) (a i : Nat) (bs : List Byte), Memory.wf f = true → i < bs.length →
    flashGet (flashWrite f a bs) (a + i) = bs.getD i 0) ∧
  (∀ (f : List Host.Cell) (a : Nat) (bs : List Byte), Memory.wf f = true → Memory.wf (flashWrite f a bs) = true) ∧
  (∀ a, flashGet [] a = 0xFF) ∧
  (∀ (t : List (Nat × Nat)) (i j v : Nat), i ≠ j → spGet (spSet t i v) j = spGet t j) ∧
  (∀ (t : List (Nat × Nat)) (i v : Nat), v ≠ 0 → spGet (spSet t i v) i = v) ∧
  (∀ (t : List (Nat × Nat)) (i : Nat), t.Pairwise (fun x y => x.1 < y.1) → spGet (spSet t i 0) i = 0)

/-- R496, R498, R543: OBJ_READ answers with the object's bytes, padded to whole words; an object that the session's GCI major
does not have is a bad value, one that is not there NO_OBJECT. A Scoresheet record with a failing word reads as REC_TYPE 15
and is counted, where memory has been cleared (R612). OBJ_WRITE of an object that has no writable field is READ_ONLY; of
HazardSpec it stores the four words, and a source whose entry changes counts afresh. -/
def Obligations.ObjectsAreReadAndWritten : Prop :=
  ∀ (m : Nat) (s u : State) (r : Request) (major : Nat),
    (Statement.Asked m (objReadSpec (majorOf s m)) (fun msg => argObj msg ≠ 0x1101) r major s u →
      ∀ o, objInfo major (argObj r.msg) = some o → keyCheck o (argKeyA r.msg) (argKeyB r.msg) = none →
      (∀ bs, objRead u (argObj r.msg) (argKeyA r.msg) (argKeyB r.msg) = some bs →
        exec (.objRead m) s = .next (respond m { data := padWords bs } u)) ∧
      (objRead u (argObj r.msg) (argKeyA r.msg) (argKeyB r.msg) = none →
        exec (.objRead m) s = .next (respond m { status := gNoObject } u))) ∧
    (Statement.Asked m (objReadSpec (majorOf s m)) (fun msg => argObj msg ≠ 0x1101) r major s u →
      objInfo major (argObj r.msg) = none → exec (.objRead m) s = .next (respond m { status := gValue, detail := 176 } u)) ∧
    (Statement.Asked m (objReadSpec (majorOf s m)) (fun msg => argObj msg = 0x1101) r major s u →
      argKeyA r.msg ≤ 67108863 → u.boot.memCleared = true →
      let i := argKeyA r.msg
      let v := readWord 2 (.scoresheet i) .failed u
      exec (.scoresheetRecordRead m .failed) s = .next (respond m
        { data := bytesOf [wNat (sheetSeq u i), mkW [(63, 60, 15)], 0, 0, 0, 0, 0, 0] }
        { v with sheet := { v.sheet with unreadable := v.sheet.unreadable + 1 } })) ∧
    (Statement.Asked m (objReadSpec (majorOf s m)) (fun msg => argObj msg = 0x1101) r major s u → argObj r.msg = 0x1101 →
      ∀ o, objInfo major 0x1101 = some o → keyCheck o (argKeyA r.msg) (argKeyB r.msg) = none → argKeyA r.msg ≤ 67108863 →
      u.boot.memCleared = true → ∀ w, w ≠ .failed →
      let v := readWord 2 (.scoresheet (argKeyA r.msg)) w u
      ∀ bs, objRead v 0x1101 (argKeyA r.msg) (argKeyB r.msg) = some bs →
        exec (.scoresheetRecordRead m w) s = .next (respond m { data := padWords bs } v)) ∧
    (∀ ws, Statement.AskedWrite m 0x0A02 (fun msg => !namedWrites.contains (argObj msg)) r major ws s u →
      let entry := fun (i : Nat) => fld (wd ws (i / 2)) (32 * (i % 2) + 31) (32 * (i % 2))
      (∀ i, i < 6 → hazOn (entry i) = true → hazThreshold (entry i) ≠ 0 ∧ hazWindow (entry i) ≠ 0) →
      exec (.objWrite m) s = .next (respond m {} { u with hazard := {
        spec := (List.range 4).map (wd ws)
        src := (List.range 6).map fun i => if entry i = hazEntry u i then u.hazard.src.getD i {} else {} } })) ∧
    (∀ num ws, Statement.AskedWrite m num (fun msg => !namedWrites.contains (argObj msg)) r major ws s u → num ≠ 0x0A02 →
      num ∉ namedWrites → exec (.objWrite m) s = .next (respond m { status := gReadOnly } u))

/-- R350, R351, R360, R361, R398, R403, R406: a write of a switch object whose values are in range stores them and
nothing else; SquarePriority reaches every square before the answer; a write of PortLinkConfig takes down the links
whose SPLIT or ENABLE changes, stores SPLIT, ENABLE and GEN_ALLOW, and trains them again. -/
def Obligations.SwitchObjectsAreWritten : Prop :=
  ∀ (m : Nat) (s u : State) (r : Request) (major : Nat) (ws : List W64),
    let a := argKeyA r.msg
    let w := wd ws 0
    (Statement.AskedWrite m 0x0B02 (fun msg => argObj msg = 0x0B02) r major ws s u →
      let p := (List.range 6).map fun i => fld w (3 * i + 2) (3 * i)
      exec (.squarePriorityWrite m) s = .next (respond m {}
        { u with sq := { u.sq with prio := p, squares := u.sq.squares.map fun x => { x with prio := p } } })) ∧
    (Statement.AskedWrite m 0x0B01 (fun msg => argObj msg = 0x0B01) r major ws s u →
      let q := fld w 8 0
      let old := u.pot.classes.getD a {}
      let alpha : Int := if fld w 35 32 < 8 then fld w 35 32 else (fld w 35 32 : Int) - 16
      q ≤ 256 → (a % 8 = 7 → 17 ≤ q) → (a % 8 = 6 → 4 ≤ q) → qminTotal u - 8 * old.qmin + 8 * q ≤ 262144 →
      (old.qmin < q → 8 * (q - old.qmin) ≤ sharedFree u) → -4 ≤ alpha → alpha ≤ 3 → fld w 47 40 ≠ 0 →
      exec (.portClassConfigWrite m) s = .next (respond m {}
        { u with pot := { u.pot with classes := u.pot.classes.set a { quantum := fld w 47 40, alpha := alpha, qmin := q } } })) ∧
    (Statement.AskedWrite m 0x0D01 (fun msg => argObj msg = 0x0D01) r major ws s u →
      let split := fld w 33 32
      let en := fld w 23 16
      let ga := fld w 15 0
      (∀ j, j < 8 → j % splitLanes split = 0 → en.testBit j = true → (ga >>> (2 * j)) % 4 ≠ 0) →
      (∀ j, j < 8 → j % splitLanes split ≠ 0 → en.testBit j = false ∧ (ga >>> (2 * j)) % 4 = 0) →
      let old := getPort u a
      let ls := (if old.split ≠ split then List.range 8
        else (List.range 8).filter fun j => old.enable.testBit j ≠ en.testBit j).map fun j => 8 * a + j
      exec (.portLinkConfigWrite m) s = .next (respond m {} (forAll ls trainFromStart
        (modPort a (fun x => { x with split := split, enable := en, genAllow := ga }) (forAll ls takeDown u))))) ∧
    (Statement.AskedWrite m 0x0C03 (fun msg => argObj msg = 0x0C03) r major ws s u →
      fld w 20 0 ≠ 0x1FFFFF → fld w 20 0 ≠ u.ident.eid → fld w 63 61 < 4 →
      (fld w 63 61 ≤ 1 → (getPort u (fld w 47 42)).enable ≠ 0) →
      exec (.kibitzSpecWrite m) s = .next (respond m {} { u with route := { u.route with
        kibitz := modAt u.route.kibitz a (fun k =>
          if bitAt w 60 then { w0 := w, w1 := wd ws 1 } else { k with w0 := w, w1 := wd ws 1 }) } })) ∧
    (Statement.AskedWrite m 0x0C01 (fun msg => argObj msg = 0x0C01) r major ws s u →
      fld w 47 40 ≠ 0 → fld w 63 48 ≠ 0 →
      exec (.routeControlWrite m) s = .next (respond m {}
        { u with route := { u.route with drainUs := fld w 63 48, reorderUs := fld w 47 40 } }))

/-- R497, R503, R533, R534, R594, R621: a write of a storage target that is not in use, of ScrubControl, of ErrorInject under
an unlocked scope 1, of TelemetrySpec, and of AlertControl stores its words; AlertControl clears the causes written 1 whose
condition no longer holds; with ON clear a scrub pass stops. The answer to ErrorInject is itself a word of the CP stores (LOG
109). ErrorInject without the scope answers AUTH, and a target in use BUSY. -/
def Obligations.ServiceObjectsAreWritten : Prop :=
  ∀ (m : Nat) (s u : State) (r : Request) (major : Nat) (ws : List W64),
    let a := argKeyA r.msg
    let w := wd ws 0
    (Statement.AskedWrite m 0x0A03 (fun msg => argObj msg = 0x0A03) r major ws s u → fld w 45 44 ≠ 3 →
      (targetUsed u a = false → exec (.checkpointTargetWrite m) s = .next (respond m {}
        { u with targets := u.targets.set a { w0 := wd ws 0, w1 := wd ws 1, w2 := wd ws 2, w3 := wd ws 3 } })) ∧
      (targetUsed u a = true → exec (.checkpointTargetWrite m) s = .next (respond m { status := gBusy } u))) ∧
    (Statement.AskedWrite m 0x1004 (fun msg => argObj msg = 0x1004) r major ws s u →
      100 ≤ fld w 47 32 → 1 ≤ fld w 55 48 → fld w 55 48 ≤ 168 → 1 ≤ fld w 63 56 → fld w 63 56 ≤ 168 →
      exec (.scrubControlWrite m) s = .next (respond m {} { u with mem := { u.mem with
        hbmPassH := fld w 63 56, lpPassH := fld w 55 48, potPassMs := fld w 47 32, scrubOn := bitAt w 0
        tiers := if bitAt w 0 then u.mem.tiers else u.mem.tiers.map fun t => { t with scrubAt := 0 } } })) ∧
    (Statement.AskedWrite m 0x1005 (fun msg => argObj msg = 0x1005) r major ws s u → fld w 55 49 ≤ 71 → fld w 61 60 ≠ 3 →
      (scopeOpen u 1 = true → exec (.errorInjectWrite m) s =
        .next (respond m {} (wroteWord 3 14 { u with mem := { u.mem with inject := w } }))) ∧
      (scopeOpen u 1 = false → exec (.errorInjectWrite m) s = .next (respond m { status := gAuth } u))) ∧
    (Statement.AskedWrite m 0x0F04 (fun msg => argObj msg = 0x0F04) r major ws s u →
      10 ≤ fld w 15 0 → fld w 45 41 ≤ 24 → (bitAt w 47 = true → fld w 45 41 ≠ 0 ∧ fld w 63 48 ≠ 0) →
      (∀ i, i < fld w 45 41 → fld (wd ws (4 + i)) 15 0 ≠ 0 ∧
        ∃ o, objInfo major (fld (wd ws (4 + i)) 63 48) = some o ∧ o.keyB = none) →
      (∀ i, fld w 45 41 ≤ i → i < 24 → wd ws (4 + i) = 0) →
      exec (.telemetrySpecWrite m) s = .next (respond m {} { u with telem := { u.telem with spec := (List.range 28).map (wd ws) } })) ∧
    (Statement.AskedWrite m 0x1403 (fun msg => argObj msg = 0x1403) r major ws s u → bitAt w 63 = false →
      exec (.alertControlWrite m) s = .next (respond m {} { u with alert := { u.alert with
        mask := fld w 55 48 ||| 4
        causes := (List.range 7).map fun i => u.alert.causes.getD i false && (!bitAt w (56 + i) || causeHolds u i) } }))

/-- R192, R198, R220, R297, R650: TABLE_OPEN with a buffer whose counts, reserved fields, values and late checks pass
opens the table that the buffer describes and answers with its board's digest; a table whose Keeper needs a partner
waits for the partner's ACCEPT, to which a HELLO is sent. TABLE_CLOSE closes an open table. BOARD_LOAD stores the other
board of a table, with its number one higher. -/
def Obligations.TablesOpenLoadAndClose : Prop :=
  ∀ (m : Nat) (s u : State) (r : Request) (major : Nat),
    (Statement.Asked m tableOpenSpec anyMsg r major s u → ∀ bs, bulkRef m 16 r.msg u = .ok bs →
      let tb := readTable u bs
      openCounts bs = none → openResv bs = none → openValues u major bs = none → openLate u tb = none →
      (tb.keeper = none ∨ isCrown tb = false →
        exec (.tableOpen m) s = .next (respond m { data := leBytes 8 tb.board.digest } (openNow tb u))) ∧
      (∀ k, tb.keeper = some k → isCrown tb = true →
        exec (.tableOpen m) s = .next (sendCtl k.spec.partner { ctl := 0, table := tb.id, prim := u.ident.eid, a := k.spec.crc }
          { u with opening := u.opening ++ [{ mailbox := m, table := tb, since := now u }] }))) ∧
    (Statement.Asked m tableOpenSpec anyMsg r major s u → ∀ bs, bulkRef m 16 r.msg u = .ok bs → ∀ a, a.status ≠ 0 →
      openCounts bs = some a ∨ (openCounts bs = none ∧ openResv bs = some a) ∨
        (openCounts bs = none ∧ openResv bs = none ∧ openValues u major bs = some a) →
      exec (.tableOpen m) s = .next (respond m a u)) ∧
    (Statement.Asked m tableCloseSpec anyMsg r major s u →
      ((findTable u (argTable r)).isSome = true → exec (.tableClose m) s = .next (respond m {} (closeTable (argTable r) u))) ∧
      (findTable u (argTable r) = none → exec (.tableClose m) s = .next (respond m { status := gNoObject } u))) ∧
    (Statement.Asked m boardLoadSpec anyMsg r major s u → ∀ tb bs, findTable u (argTable r) = some tb →
      bulkRef m 24 r.msg u = .ok bs →
      (boardLoadCheck tb bs = none → exec (.boardLoad m) s = .next (respond m {}
        (modTable tb.id (fun x => { x with other := some (readBoard bs (boardAt bs 0), x.boardNum + 1, false) }) u))) ∧
      (∀ a, boardLoadCheck tb bs = some a → a.status ≠ 0 → exec (.boardLoad m) s = .next (respond m a u)))

/-- R201, R204, R205: MOVES_APPEND at the number of moves appended so far adds its records, inline or from the inbound
buffer, in order, and answers with the new number; another first number is a wrong sequence, a record that the append
checks refuse a bad value that names its field, and more than 1,048,576 waiting moves are too many. A refused command
appends nothing. -/
def Obligations.MovesAppendInSequence : Prop :=
  ∀ (m : Nat) (s u : State) (r : Request) (major : Nat) (tb : Table), Statement.Asked m (movesAppendSpec s) anyMsg r major s u →
    findTable u (argTable r) = some tb →
    let first := (argW r.msg 1).toNat
    ∀ base bs, (inlineOf r.msg ≠ 0 ∧ base = 256 ∧ bs = r.msg.drop 32) ∨
        (inlineOf r.msg = 0 ∧ base = 2 ^ 63 ∧ bulkRef m 32 r.msg u = .ok bs ∧ bs.length % 32 = 0 ∧
          resvBuf bs (recordsResv tb.moveFmt 0 bs) = none) →
      let ms := recordsOf bs
      (∀ h, first = tb.appended → appendChecks tb 0 (histOf tb) ms = .ok h → tb.moves.length + ms.length ≤ 1048576 →
        exec (.movesAppend m) s = .next (respond m { data := leBytes 8 (tb.appended + ms.length) }
          (wroteWord 1 12 (modTable tb.id (fun x => { x with
            moves := x.moves ++ ms, appended := x.appended + ms.length, lastRound := h.round, lastTurn := h.turn, seenKt := h.kt
            seenCk := h.ck, lastOp := h.op }) u)))) ∧
      (first ≠ tb.appended → exec (.movesAppend m) s = .next (respond m { status := gSequence, detail := tb.appended } u)) ∧
      (∀ b, first = tb.appended → appendChecks tb 0 (histOf tb) ms = .error b →
        exec (.movesAppend m) s = .next (respond m { status := gValue, detail := base + b } u)) ∧
      (∀ h, first = tb.appended → appendChecks tb 0 (histOf tb) ms = .ok h → 1048576 < tb.moves.length + ms.length →
        exec (.movesAppend m) s = .next (respond m { status := gResource } u))

/-- R295, R296, R298, R299, R312, R655: DOUBLE_OPEN adds a double with slot 0 open at the values of the KeeperSpec, in a room
of its quota, where the quotas and the memory leave it, or takes over the slots of a detached one; DOUBLE_CLOSE removes one;
DOUBLE_DETACH freezes an attached one under the next detach number; DOUBLE_MOVE notes the partner to move to. -/
def Obligations.DoublesOpenDetachAndMove : Prop :=
  ∀ (m : Nat) (s u : State) (r : Request) (major : Nat),
    let prim := argPrim r
    let t := argTable r
    (Statement.Asked m doubleOpenSpec anyMsg r major s u →
      let k := readKSpec (r.msg.drop 24)
      let reuse := fld (argW r.msg 0) 41 21
      3 ≤ rulesetMax u → inService u = true → attachedOf u prim t = none → k.partner = u.ident.eid → kspecBad k = none →
      k.quota ≤ 32000 →
      (reuse = 0x1FFFFF → (u.doubles.map (·.spec.quota)).sum + k.quota ≤ 32000 →
        doubleRegion u + doubleBytes k.quota k.rule ≤ 960000000000 →
        exec (.doubleOpen m) s = .next (respond m {} (wroteWord 2 8 { u with doubles := u.doubles ++ [newDouble prim t k] }))) ∧
      (reuse = 0x1FFFFF → 32000 < (u.doubles.map (·.spec.quota)).sum + k.quota ∨ 960000000000 < doubleRegion u + doubleBytes k.quota k.rule →
        exec (.doubleOpen m) s = .next (respond m { status := gResource } u)) ∧
      (reuse ≠ 0x1FFFFF → ∀ d, detachedOf u reuse t = some d → d.spec.rule = k.rule → k.quota ≤ d.spec.quota →
        exec (.doubleOpen m) s = .next (respond m {}
          { closeDouble d u with doubles := (closeDouble d u).doubles ++ [takeOver prim t k d] })) ∧
      (reuse ≠ 0x1FFFFF → detachedOf u reuse t = none → exec (.doubleOpen m) s = .next (respond m { status := gNoObject } u))) ∧
    (Statement.Asked m (doubleKeySpec 0x31) anyMsg r major s u →
      (∀ d, doubleOf u prim t = some d → exec (.doubleClose m) s = .next (respond m {} (closeDouble d u))) ∧
      (doubleOf u prim t = none → exec (.doubleClose m) s = .next (respond m { status := gNoObject } u))) ∧
    (Statement.Asked m (doubleKeySpec 0x32) anyMsg r major s u →
      (∀ d, attachedOf u prim t = some d → exec (.doubleDetach m) s =
        .next (respond m {} { modThis d (freeze u.detachNum) u with detachNum := u.detachNum + 1 })) ∧
      (attachedOf u prim t = none → (detachedOf u prim t).isSome = true →
        exec (.doubleDetach m) s = .next (respond m { status := gState } u))) ∧
    (Statement.Asked m (doubleKeySpec 0x33) anyMsg r major s u → ∀ tb, findTable u t = some tb →
      (isCrown tb = true → tb.keeper ≠ none → prim ≠ u.ident.eid →
        exec (.doubleMove m) s = .next (respond m {} (modPrim tb.id (fun d => { d with moveTo := some prim }) u))) ∧
      (isCrown tb = false → exec (.doubleMove m) s = .next (respond m { status := gRole } u)))

/-- R381 to R385, R654: ROUTE_BEGIN stages a copy of the current bank in the next one, owned by the session, without the
entries whose words fail as they are read (LOG 110); ROUTE_WRITE
writes all of its entries into the STAGING bank or none; ROUTE_ABORT frees it; ROUTE_COMMIT makes it the current bank
and the old one DRAINING for the drain time; when that ends, packets that still need a lookup there are dropped and the
bank is free. -/
def Obligations.RouteBanksAreStagedAndCommitted : Prop :=
  ∀ (m : Nat) (failed : List (Nat × Nat)) (s u : State) (r : Request) (major : Nat),
    (Statement.Asked m { code := 0x40 } anyMsg r major s u →
      let n := (u.route.cur + 1) % 4
      let v := failed.foldl (fun a e => readWord 3 (.routeBank u.route.cur e.1 e.2) .failed a) u
      let bank := failed.foldl loseEntry { curBank u with state := 3, chosen := [], drainEnd := 0 }
      let w := wroteWord 3 13 { v with route := { v.route with banks := modAt v.route.banks n (fun _ => bank) } }
      (stagingBank u = none → (getBank u n).state = 0 → exec (.routeBegin ⟨m, failed⟩) s = .next (respond m { data := leBytes 8 n }
        { w with route := { w.route with owner := some (m, r.session) } })) ∧
      ((stagingBank u).isSome = true ∨ (getBank u n).state ≠ 0 →
        exec (.routeBegin ⟨m, failed⟩) s = .next (respond m { status := gBusy } u))) ∧
    (Statement.Asked m routeWriteSpec anyMsg r major s u → ∀ bank, ownStaging m r u = .ok bank → writeInline r.msg = true →
      let what := writeWhat r.msg
      let first := fld (argW r.msg 0) 20 0
      let es := entriesOf (entrySize what) (writeCount r.msg) (r.msg.drop 32)
      let after := writeEntries what first es (getBank u bank)
      let bad := ((List.range es.length).findSome? fun i =>
        entryBad u what (first + i) (256 + 8 * entrySize what * i) (es.getD i 0)).or (legsBad u what first 256 es.length after)
      first + es.length ≤ entryLimit what →
      (bad = none → exec (.routeWrite m) s = .next (respond m {} (wroteWord 3 13
        { u with route := { u.route with banks := modAt u.route.banks bank (fun _ => after) } }))) ∧
      (∀ b, bad = some b → exec (.routeWrite m) s = .next (respond m { status := gValue, detail := b } u))) ∧
    (Statement.Asked m routeWriteSpec anyMsg r major s u → ∀ bank bs, ownStaging m r u = .ok bank → writeInline r.msg = false →
      bulkRef m 32 r.msg u = .ok bs →
      let what := writeWhat r.msg
      let first := fld (argW r.msg 0) 20 0
      let es := entriesOf (entrySize what) (writeCount r.msg) bs
      first + writeCount r.msg ≤ entryLimit what → bs.length = writeCount r.msg * entrySize what →
      firstSet bs (entriesResv what 0 es) = none →
      exec (.routeWrite m) s = .next (match routeWrite bank what first (2 ^ 63) es u with
        | (some a, t) => respond m a (if a.status = 0 then t else u)
        | (none, t) => t)) ∧
    (Statement.Asked m { code := 0x42 } anyMsg r major s u → ∀ bank, ownStaging m r u = .ok bank →
      exec (.routeAbort m) s = .next (respond m {} (freeStaging u))) ∧
    (Statement.Asked m { code := 0x43 } anyMsg r major s u → ∀ bank, ownStaging m r u = .ok bank →
      let drained := modAt u.route.banks u.route.cur (fun b => { b with state := 2, drainEnd := now u + u.route.drainUs * 1000 })
      exec (.routeCommit m) s = .next (respond m { data := bytesOf [mkW [(1, 0, bank)], mkW [(63, 0, now u)]] }
        { u with route := { u.route with
          banks := modAt drained bank (fun b => { b with state := 1 }), cur := bank, owner := none, commits := u.route.commits + 1 } })) ∧
    (live s = true → ∀ b, (getBank s b).state = 2 →
      ∃ t, exec (.drainTimerExpire b) s = .next t ∧ (b < 4 → t.route.banks.length = 4 → (getBank t b) = {}))

/-- R392 to R397, R449, R494: FENCE takes the fence and waits for the packets on a leg to its EID, answering at once
when the EID is fenced already; the fence is acknowledged when they are finished, or by force at its time limit, their
legs ended; UNFENCE takes an acknowledged fence away. LINK_LOOPBACK takes a link into its test until the stated time has
passed. RESTART answers, and the restart is due 10 ms later. -/
def Obligations.FencesLoopbacksAndRestartWaitForTheirTime : Prop :=
  ∀ (m : Nat) (s u : State) (r : Request) (major : Nat),
    (Statement.Asked m fenceSpec anyMsg r major s u → argEid r ≠ u.ident.eid →
      (∀ f, fenceOf u (argEid r) = some f → exec (.fence m) s = .next (respond m (fenceReply f 0 false) u)) ∧
      (fenceOf u (argEid r) = none → u.route.fences.length < 256 →
        let f : Fence := { eid := argEid r, time := now u, accepted := now u, timeoutUs := fld (argW r.msg 0) 15 0, mailbox := some m
                           waitFor := packetsFor u (argEid r), waited := (packetsFor u (argEid r)).length }
        exec (.fence m) s = .next { u with route := { u.route with fences := u.route.fences ++ [f] } }) ∧
      (fenceOf u (argEid r) = none → 256 ≤ u.route.fences.length → exec (.fence m) s = .next (respond m { status := gBusy } u))) ∧
    (Statement.Asked m { code := 0x45, len := fun _ => 8, resv := fun _ => [(128, 43)] } anyMsg r major s u →
      (∀ f, fenceOf u (argEid r) = some f → f.acked = true → exec (.unfence m) s = .next (respond m {}
        { u with route := { u.route with fences := u.route.fences.filter fun x => x.eid ≠ f.eid } })) ∧
      (∀ f, fenceOf u (argEid r) = some f → f.acked = false → exec (.unfence m) s = .next (respond m { status := gBusy } u)) ∧
      (fenceOf u (argEid r) = none → exec (.unfence m) s = .next (respond m { status := gState } u))) ∧
    (live s = true → ∀ e f, fenceOf s e = some f → f.acked = false →
      ((∀ p ∈ f.waitFor, unfinished s f p = false) → exec (.fenceAck e) s = .next (ackFence f false s)) ∧
      exec (.fenceTimeout e) s = .next (ackFence f true (endFenced f (advanceTo (f.accepted + f.timeoutUs * 1000) s)))) ∧
    (∀ f forced, ackFence f forced s =
      let t := modFence f.eid (fun x => { x with acked := true, mailbox := none, waitFor := [] }) s
      match f.mailbox with
      | some m => respond m (fenceReply f f.waited forced) t
      | none => t) ∧
    (Statement.Asked m loopbackSpec anyMsg r major s u →
      let w := argW r.msg 0
      let l := fld w 8 0
      mayTrain u l = true → (getLink u l).loop.mode = 0 →
      let loop : Loopback := { mode := fld w 11 10, gen := fld w 13 12, endAt := now u + fld (argW r.msg 1) 31 0 * 1000000, mailbox := some m }
      let v := if linkRuns u l then leaveService l u else u
      exec (.linkLoopback m) s = .next (if fld w 11 10 = 3 then modLoop l (fun _ => loop) (trainFromStart l v)
        else modLink l (fun k => { k with
          stat := { k.stat with state := 4, gen := fld w 13 12, lanes := offered v l }, train := {}, rx := {}, loop := loop
          tx := { scr := (List.range 8).map scrambleInit } }) v)) ∧
    (live s = true → ∀ l, (getLink s l).loop.mode ≠ 0 → (getLink s l).loop.mode ≠ 4 →
      let k := (getLink s l)
      ∀ t, t = advanceTo k.loop.endAt s →
      let a : Answer := if k.stat.state ≠ 4 then failedAns 0x50 t
        else { data := bytesOf [mkW [(63, 0, k.loop.raw)], mkW [(63, 32, k.loop.corr), (31, 0, k.loop.uncorr)]] }
      exec (.loopbackEnd l) s = .next (match k.loop.mailbox with
        | some m => respond m a (endLoop l t)
        | none => endLoop l t)) ∧
    (Statement.Asked m restartSpec anyMsg r major s u →
      exec (.restart m) s = .next (respond m {} { u with boot := { u.boot with restartAt := some (now u + 10000000) } }))

/-- R454, R456, R457, R506, Table 14-2: a frame with the port's VLAN tag that asks for the port's address is counted and
answered with that address, and one that is not for the port is counted and dropped; an echo is answered with its data
while the IP packet has at most 1,500 bytes. MAC control frames, and frames that R456 or R457 discards, are counted and
have no other effect. -/
def Obligations.HostFramesAreAnsweredOrDropped : Prop :=
  ∀ (s : State) (src : Source) (vlan target : Nat), live s = true → hostUp s src.port = true →
    let p := src.port
    let c := (getHost s p).cfg
    (vlan = c.vlan → c.v4Prefix ≠ 0 → target = c.ipv4 →
      exec (.arpRequest src vlan target) s = .next (sendOn p (.arpReply src c.mac c.ipv4) (frameIn p s))) ∧
    (vlan = c.vlan → c.v6Prefix ≠ 0 → target = c.ipv6 →
      exec (.neighbourSolicitation src vlan target) s = .next (sendOn p (.neighbourAdvert src c.mac c.ipv6) (frameIn p s))) ∧
    (∀ data, vlan = c.vlan → c.v4Prefix ≠ 0 → target = c.ipv4 → data.length ≤ 1472 →
      exec (.echoRequest src vlan target false data) s = .next (sendOn p (.echoReply src false data) (frameIn p s))) ∧
    (∀ data, vlan = c.vlan → c.v6Prefix ≠ 0 → target = c.ipv6 → data.length ≤ 1452 →
      exec (.echoRequest src vlan target true data) s = .next (sendOn p (.echoReply src true data) (frameIn p s))) ∧
    (vlan ≠ c.vlan → ∀ v6 data, exec (.arpRequest src vlan target) s = .next (dropFrame p (frameIn p s)) ∧
      exec (.neighbourSolicitation src vlan target) s = .next (dropFrame p (frameIn p s)) ∧
      exec (.echoRequest src vlan target v6 data) s = .next (dropFrame p (frameIn p s))) ∧
    exec (.macControlFrame p) s = .next { s with
      host := modAt s.host p (fun h => { h with framesRx := h.framesRx + 1, pauseRx := h.pauseRx + 1 }) } ∧
    exec (.frameDrop p .fcs) s = .next { s with host := modAt s.host p (fun h => { h with fcsErrors := h.fcsErrors + 1 }) } ∧
    (∀ why, why ≠ .fcs → exec (.frameDrop p why) s = .next { s with
      host := modAt (modAt s.host p (fun h => { h with framesRx := h.framesRx + 1 })) p (fun h => { h with dropped := h.dropped + 1 }) })

/-- R244, R453, R458, R459, R469, R472: an Announce of the own domain is heard and the master chosen again; a Sync from
the chosen master steps device time once, before any table has opened, and slews it afterwards. A host port that comes
up joins the storage rotation; one that goes down loses its neighbours and masters, and its storage operations move. An
ARP reply is kept as a neighbour and the datagrams that waited for it are sent; a storage request among them is sent at that
moment (LOG 108). -/
def Obligations.HostPortsComeUpGoDownAndKeepTime : Prop :=
  ∀ (s : State) (p : Nat), live s = true →
    (hostUp s p = true → s.boot.transport = true → ∀ dom id rank, s.time.ptpEn = true → s.time.isRoot = true → s.pawn.cause = 0 → dom = s.time.ptpDomain →
      exec (.ptpMessage p (getHost s p).cfg.vlan (.announce dom id rank)) s =
        .next (selectMaster (modTime (fun t => { t with
          ptpHeard := (p, id, rank) :: t.ptpHeard.filter fun x => !(x.1 = p && x.2.1 = id) }) (frameIn p s)))) ∧
    (hostUp s p = true → s.boot.transport = true → ∀ dom id off rank, s.time.ptpEn = true → s.time.isRoot = true → s.pawn.cause = 0 → dom = s.time.ptpDomain →
      s.time.ptpMaster = some (p, id, rank) →
      (s.time.ptpStepped = false → noTableYet s = true → 0 ≤ off →
        exec (.ptpMessage p (getHost s p).cfg.vlan (.sync dom id off)) s = .next { frameIn p s with time := { s.time with
          t64 := ((s.time.t64 : Int) + 64 * off).toNat, ptpOffset := off, ptpStepped := true } }) ∧
      (s.time.ptpStepped = true ∨ noTableYet s = false ∨ off < 0 →
        ∃ t, exec (.ptpMessage p (getHost s p).cfg.vlan (.sync dom id off)) s = .next t ∧ t.time.ptpOffset = off ∧
          t.time.t64 = s.time.t64 ∧ -10 ≤ t.time.ratePpm ∧ t.time.ratePpm ≤ 10 ∧
          (off = 0 → t.time.ratePpm = 0) ∧ (0 < off → 0 ≤ t.time.ratePpm) ∧ (off < 0 → t.time.ratePpm ≤ 0))) ∧
    (p < 8 → (getHost s p).state = 1 →
      exec (.hostPortUp p) s = .next (pump { s with host := modAt s.host p (fun h => { h with state := 2 }) })) ∧
    (hostUp s p = true →
      let u := { s with
        host := modAt s.host p (fun h => { h with state := 1, neighbours := [], held := [] })
        time := { s.time with ptpHeard := s.time.ptpHeard.filter fun m => m.1 ≠ p } }
      exec (.hostPortDown p) s = .next (replaceOps p (if s.time.ptpMaster.any (fun m => m.1 = p) then selectMaster u else u))) ∧
    (cpRuns s = true → s.boot.transport = true → hostUp s p = true → ∀ ip mac,
      let waits := (getHost s p).held.filter fun d => normIp d.1 = normIp ip
      let u := { s with host := modAt s.host p (fun h => { h with
        framesRx := h.framesRx + 1, neighbours := (ip, mac) :: h.neighbours.filter fun n => normIp n.1 ≠ normIp ip
        held := h.held.filter fun d => normIp d.1 ≠ normIp ip }) }
      let mine := u.store.ops.filter fun o => o.port = some p && nextHop u p (tgtIp (getTarget u o.target)) = some (normIp ip)
      (waits = [] → exec (.arpReply p ip mac) s = .next u) ∧
      (waits ≠ [] → exec (.arpReply p ip mac) s =
        .next (forAll waits (fun d => sendOn p (.datagram { d.2.1 with mac := mac } d.2.2.1 d.2.2.2))
          (forAll mine (fun o v => modOp o.reqId (fun o => { o with last := now u }) v) u))))

/-- R470, R471, R503: with telemetry on, the records of every entry are read at the start of the next period and sent,
in datagrams of at most 8,192 bytes, to the collector by the lowest up port of its network, numbered one after another;
with no such port nothing is sent. -/
def Obligations.TelemetryPassesSendTheirRecords : Prop :=
  ∀ (s : State), cpRuns s = true → bitAt (telW s 0) 47 = true →
    ∀ u, u = modTelem (fun t => { t with last := some (nextPeriod s) }) (advanceTo (nextPeriod s) s) →
      s.time.running = true → now s < nextPeriod s →
      (telemPort u = none → exec .telemetryPeriod s = .next u) ∧
      (∀ p, telemPort u = some p →
        let rs := ((List.range (fld (telW u 0) 45 41)).map fun k => entryRecords u (telW u (4 + k))).flatMap id
        let ip := normIp ((telW u 2).toNat + 2 ^ 64 * (telW u 3).toNat)
        exec .telemetryPeriod s = .next (forAll (fillDatagrams rs [] 32) (fun d v =>
          modTelem (fun t => { t with seq := t.seq + 1 }) (sendUdp p ip (fld (telW v 0) 63 48) 47712 (telemDatagram v d) v)) u))

/-- R422 to R424, R430, R441: NAK(E) resends from E when the replay buffer holds E, empties the buffer when E is the
next sequence number, and breaks the protocol otherwise; it is counted, and hazard source SRC3 counts it. ACK frees the
credits it names and forgets the frames it acknowledges; after a fast retrain it is also NAK(ACK_SEQ + 1), by the same
rules. When 512 link frame periods have passed since a NAK(E) it goes again, and after the eighth the link retrains fast. An
ACK goes at its timer. -/
def Obligations.ReplayFollowsAcksAndNaks : Prop :=
  ∀ (l : Nat) (f : List W64) (s u : State),
    (Statement.CtrlArrives l 2 f s u →
      let e := fld (wd f 0) 43 32
      let v := hazardCount 3 (modStat l (fun t => { t with naksReceived := t.naksReceived + 1 }) u)
      ((∃ x ∈ (getLink v l).tx.replay, x.seq = e) → exec (.nak l f) s = .next (modTx l (fun t => { t with
        replay := t.replay.dropWhile (fun x => x.seq ≠ e), resend := t.replay.dropWhile (fun x => x.seq ≠ e) }) v)) ∧
      ((∀ x ∈ (getLink v l).tx.replay, x.seq ≠ e) → e = (getLink v l).tx.nextSeq →
        exec (.nak l f) s = .next (modTx l (fun t => { t with replay := [], resend := [] }) v)) ∧
      ((∀ x ∈ (getLink v l).tx.replay, x.seq ≠ e) → e ≠ (getLink v l).tx.nextSeq →
        exec (.nak l f) s = .next (protoError l v))) ∧
    (Statement.CtrlArrives l 1 f s u → l < u.links.length →
      let seq := fld (wd f 0) 43 32
      let x := (getLink u l).tx
      let p := { x with pools := takeFreed (poolCounts f) x.pools }
      let y := if bitAt (wd f 0) 0 then ackUpTo seq p else p
      let e := if bitAt (wd f 0) 0 then (seq + 1) % 4096 else 0
      let rest := y.replay.dropWhile fun x => x.seq ≠ e
      (x.ackAsNak = false → exec (.ack l f) s = .next (modTx l (fun _ => y) u)) ∧
      (x.ackAsNak = true →
        ((∃ x ∈ y.replay, x.seq = e) → exec (.ack l f) s =
          .next (modTx l (fun _ => { y with ackAsNak := false, replay := rest, resend := rest }) u)) ∧
        ((∀ x ∈ y.replay, x.seq ≠ e) → e = y.nextSeq → exec (.ack l f) s =
          .next (modTx l (fun _ => { y with ackAsNak := false, replay := [], resend := [] }) u)) ∧
        ((∀ x ∈ y.replay, x.seq ≠ e) → e ≠ y.nextSeq → exec (.ack l f) s =
          .next (protoError l (modTx l (fun _ => { y with ackAsNak := false }) u))))) ∧
    (linkRuns s l = true → ∀ n, (getLink s l).rx.replayWait = some n →
      let ns := if (getLink s l).stat.gen = 3 then 2622 else if (getLink s l).stat.gen = 2 then 5243 else 10486
      ∀ v, v = advanceTo ((getLink s l).rx.waitSince + ns) s →
      (n < 8 → exec (.replayWaitTimeout l) s = .next (sendNak l (n + 1) v)) ∧
      (8 ≤ n → exec (.replayWaitTimeout l) s = .next (startFast l (modRx l (fun r => { r with replayWait := none }) v)))) ∧
    (linkRuns s l = true → exec (.ackTimer l) s =
      .next (sendCtrl l (ackFlit (getLink s l).rx)
        (modTx l (fun t => { t with framesSinceAck := 0, lastAck := now s }) s)))

/-- R420, R430, R436 to R442, R448: INIT gives the peer's credits and starts the counts afresh; GEN_STEP both ways, and the
idle after it, take a link to the next generation; RETRAIN and a TS2 on a link that is up start a fast retrain, which ends in
training from VL1 when it takes longer than 200 µs; lanes in an order that is neither straight nor reversed fail the attempt;
at the limit of step 2 the link takes the width that its lanes allow, and an attempt that passes another limit, or meets
electrical idle, fails and falls back; an idle that is over, the end of a far-end loopback and any other end of service train
the link again. -/
def Obligations.LinksTrainRetrainAndStepUp : Prop :=
  ∀ (l : Nat) (f : List W64) (s u : State),
    (Statement.CtrlArrives l 3 f s u → (getLink u l).stat.state = 1 →
      exec (.init l f) s = .next (checkTrained l (modLink l (fun k => { k with
        tx := { k.tx with pools := (poolCounts f).map fun c => { credits := c }, nextSeq := 0, replay := [], resend := [] }
        train := { k.train with initRecv := true } }) u))) ∧
    (Statement.CtrlArrives l 6 f s u →
      let next := fld (wd f 0) 1 0;
      (getLink u l).stat.state = 2 → next = (getLink u l).stat.gen + 1 → (getLink u l).stat.gen < targetGen u l →
      exec (.genStep l f) s = .next (modTrain l (fun t => { t with
        genStepRecv := next, stepLeft := if t.genStepSent = next && t.stepLeft.isNone then some 8 else t.stepLeft }) u)) ∧
    (let t := (getLink s l).train;
      t.genStepRecv ≠ 0 → t.genStepRecv = t.genStepSent → (getLink s l).stat.state = 2 → ∀ a, t.idleUntil = some a →
      exec (.stepUpStart l) s = .next (startTraining l t.genStepRecv (advanceTo a s))) ∧
    (Statement.CtrlArrives l 7 f s u → (getLink u l).stat.state = 2 → exec (.retrain l f) s = .next (startFast l u)) ∧
    (live s = true → isEnabled s l = true → ∀ lanes,
      ((getLink s l).stat.state = 2 → (∃ x ∈ lanes, tsOk x.words = true ∧ fld (wd x.words 0) 63 60 = 2) →
        exec (.tsReceive l lanes) s = .next (lanesTs l lanes (startFast l s))) ∧
      ((getLink s l).stat.state = 1 ∨ (getLink s l).stat.state = 3 → ∀ v, v = lanesTs l lanes s →
        ((getLink s l).stat.state = 1 → (getLink v l).train.orderBad = true →
          exec (.tsReceive l lanes) s = .next (failAttempt l v)) ∧
        ((getLink s l).stat.state = 3 ∨ (getLink v l).train.orderBad = false →
          exec (.tsReceive l lanes) s = .next (checkSteps l (ownEq l v))))) ∧
    ((getLink s l).stat.state = 1 → 1 ≤ (getLink s l).train.step → (getLink s l).train.step < 6 →
      let t := (getLink s l).train
      let last := t.startedAt + 20000000
      (∀ a, t.step = 1 → t.peerTs = some a → 0 < widthNow l s → t.gen ≤ 1 ∨ a + 100000 ≤ last →
        exec (.trainingAttemptTimeout l) s = .next (formLink l (widthNow l s) (advanceTo (a + 100000) s))) ∧
      (∀ a, t.gen ≤ 1 → (t.step = 1 ∧ widthNow l s = 0 ∧ t.peerTs.map (· + 100000) = some a) ∨ (t.step = 3 ∧ a = t.stepAt + 2000000) →
        exec (.trainingAttemptTimeout l) s = .next (failAttempt l (advanceTo a s))) ∧
      (2 ≤ t.gen → t.step ≠ 1 ∨ widthNow l s = 0 ∨ (∀ a, t.peerTs = some a → last < a + 100000) →
        exec (.trainingAttemptTimeout l) s = .next (failAttempt l (advanceTo last s)))) ∧
    (∀ t, (getLink s l).train.idleUntil = some t → (getLink s l).train.afterIdle ≠ 0 →
      exec (.fallbackIdleEnd l) s = .next (startTraining l (getLink s l).train.afterIdle (advanceTo t s))) ∧
    (∀ t, (getLink s l).train.fastSince = some t →
      exec (.fastRetrainTimeout l) s = .next (trainFromStart l (leaveService l (advanceTo (t + 200000) s)))) ∧
    (live s = true → linkRuns s l = true → exec (.linkLeaveService l) s = .next (trainFromStart l (leaveService l s))) ∧
    (live s = true → isEnabled s l = true →
      ((getLink s l).stat.state = 1 → 1 ≤ (getLink s l).train.step →
        exec (.electricalIdleDetected l) s = .next (failAttempt l s)) ∧
      ((getLink s l).stat.state = 3 ∨ ((getLink s l).stat.state = 2 ∧ stepAgreed (getLink s l) = false) →
        exec (.electricalIdleDetected l) s = .next (trainFromStart l (leaveService l s)))) ∧
    ((getLink s l).loop.mode = 4 → exec (.farEndLoopbackExit l) s = .next (trainFromStart l (modLoop l (fun _ => {}) s)))

/-- R239 to R243, R432, R443 to R446, R613: TIME_REQ is answered with a TIME_RESP that carries its XID, the arrival time and,
once in service, the root it follows with that root's priority; the frame that carries it gives it the departure time, and the
frame that carries a TIME_REQ gives t1. TIME_RESP of the exchange under way, unless it comes later than 10 µs after t1, gives
the path delay and the peer's offer to the election; an exchange is asked for, one that a fast retrain meets is discarded, and
so is one without an answer 10 µs after t1. -/
def Obligations.TimeExchangesRunTheirCourse : Prop :=
  ∀ (l : Nat) (f : List W64) (s u : State),
    (Statement.CtrlArrives l 4 f s u → linkRuns u l = true → ∀ t2,
      let x := (7, 0, fld (wd f 0) 7 0)
      let t := u.time
      (inService u = true → exec (.timeReq l f t2) s = .next (sendCtrl l (ctrlFlit 5
        [x, (15, 8, t.rootPriority), (19, 16, t.hops), (21, 20, t.state)] (mkW [(63, 0, t2)]) 0
        (mkW [(63, 32, t.pathBound), (20, 0, if t.isRoot || t.upLink.isSome then t.rootEid else 0x1FFFFF)])) u)) ∧
      (inService u = false → exec (.timeReq l f t2) s = .next (sendCtrl l (ctrlFlit 5
        [x, (15, 8, 255), (19, 16, 8), (21, 20, 0)] (mkW [(63, 0, t2)]) 0 (mkW [(63, 32, 0), (20, 0, 0x1FFFFF)])) u))) ∧
    (∀ t c, fld (wd c 0) 63 56 = 5 → 2 < c.length → wd (stampCtrl t c) 2 = mkW [(63, 0, t)]) ∧
    (∀ c x, l < s.links.length → fld (wd c 0) 63 56 = 4 → (getLink s l).xchg = some x → x.t1 = none →
      (getLink (ctrlGone l [c] s) l).xchg = some { x with t1 := some s.time.t64 }) ∧
    (Statement.CtrlArrives l 5 f s u → ∀ t4 x t1, (getLink u l).xchg = some x → x.t1 = some t1 → x.xid = fld (wd f 0) 7 0 →
      (x.bad = true ∨ t1 + 640000 < t4 → exec (.timeResp l f t4) s = .next
        (modStat l (fun t => { t with timeDiscards := t.timeDiscards + 1 }) (modLink l (fun k => { k with xchg := none }) u))) ∧
      (x.bad = false → t4 ≤ t1 + 640000 →
        let p : TimePeer := { link := l, priority := fld (wd f 0) 15 8, rootEid := fld (wd f 3) 20 0, hops := fld (wd f 0) 19 16
                              pathBound := fld (wd f 3) 63 32 }
        let theta : Int := ((((wd f 1).toNat : Int) - t1) - ((t4 : Int) - (wd f 2).toNat)) / 2
        let delay : Int := ((((wd f 1).toNat : Int) - t1) + ((t4 : Int) - (wd f 2).toNat)) / 2
        let v := elect (modTime (fun t => { t with peers := p :: t.peers.filter (fun q => q.link ≠ l) })
          (modLink l (fun k => { k with pathDelay := delay })
            (modStat l (fun t => { t with timeExchanges := t.timeExchanges + 1 }) (modLink l (fun k => { k with xchg := none }) u))))
        exec (.timeResp l f t4) s = .next (if v.time.upLink = some l && inService v
          then upstreamExchange (getLink u l).stat.gen theta (p.hops < 8) v else v))) ∧
    (inService s = true → linkUp s l = true → peerIsGt64 s l = true →
      let x := (getLink s l).xid
      exec (.timeExchangeTimer l) s = .next (sendCtrl l (ctrlFlit 4 [(7, 0, x)] 0 0 0)
        (modLink l (fun k => { k with
          stat := { k.stat with timeDiscards := k.stat.timeDiscards + b2n k.xchg.isSome }
          xchg := some { xid := k.xid, bad := k.stat.state = 3 }, xid := (k.xid + 1) % 256 }) s))) ∧
    (∀ x t1, (getLink s l).xchg = some x → x.t1 = some t1 →
      exec (.timeExchangeTimeout l) s = .next (modLink l (fun k => { k with
        xchg := none, stat := { k.stat with timeDiscards := k.stat.timeDiscards + 1 } }) (advanceTo (t1 / 64 + 10000) s)))

/-- R413, R415 to R421, R427, R432, R436, R447, R448: a frame on a link in service is decoded and its flits handed up;
one on a link that tests is counted, one on a link that loops back returns unchanged, and one on a link in near-end loopback
is ignored. Of the peer's 64 SYNC frames the last 32 must be 0 on every lane, or step 5 fails. In each frame period a link
sends the frame of its step: training frames, SYNC frames, test frames, electrical idle or a service frame; in near-end
loopback its test frames come back to its own receiver. A DISCARD that no accepted frame held ends the packet of its class, and
one whose other bytes are not 0, or a CTRL flit whose reserved bits are not 0, only counts in PROTO_ERRORS. -/
def Obligations.FramesArriveAndGoOut : Prop :=
  ∀ (l : Nat) (s : State), live s = true →
    (isLink s l = true → ∀ lanes,
      ((getLink s l).loop.mode = 4 → (getLink s l).stat.state = 4 →
        exec (.linkFrameReceive l lanes) s = .next { s with out := s.out ++ [.returned l lanes] }) ∧
      ((getLink s l).loop.mode = 3 → (getLink s l).stat.state = 4 →
        exec (.linkFrameReceive l lanes) s = .next (testFrameIn l lanes s)) ∧
      ((getLink s l).loop.mode < 3 → (getLink s l).stat.state = 4 → exec (.linkFrameReceive l lanes) s = .next s) ∧
      ((getLink s l).stat.state = 2 → ((getLink s l).train.peerSync = none ∨ ∃ n, (getLink s l).train.peerSync = some n ∧ 64 ≤ n) →
        exec (.linkFrameReceive l lanes) s = .next (serviceFrame l lanes s)) ∧
      (∀ n, (getLink s l).stat.state ≠ 4 → (getLink s l).train.peerSync = some n →
        let bad := (getLink s l).train.syncBad || (32 ≤ n && !(isSync lanes && lanes.length = (getLink s l).stat.lanes))
        ∀ v, v = noteFrames l lanes (modTrain l (fun t => { t with peerSync := some (n + 1), syncBad := bad }) s) →
        (n < 63 → exec (.linkFrameReceive l lanes) s = .next v) ∧
        (n = 63 → bad = false → exec (.linkFrameReceive l lanes) s = .next (checkTrained l v)) ∧
        (n = 63 → bad = true → (getLink s l).stat.state = 1 → exec (.linkFrameReceive l lanes) s = .next (failAttempt l v)))) ∧
    (isEnabled s l = true → (getLink s l).train.idleUntil ≠ none →
      exec (.laneFramePeriod l) s = .next { s with out := s.out ++ [.idle l] }) ∧
    (isEnabled s l = true → (getLink s l).train.idleUntil = none → (getLink s l).stat.state = 4 →
      let back := testFrameIn l (List.replicate (getLink s l).stat.lanes { content := List.replicate 270 0 })
      ((getLink s l).loop.mode = 1 → exec (.laneFramePeriod l) s =
        .next (testFrameIn l (List.replicate (getLink (sendZero l s) l).stat.lanes { content := List.replicate 270 0 }) (sendZero l s))) ∧
      ((getLink s l).loop.mode = 2 → exec (.laneFramePeriod l) s = .next (back { s with out := s.out ++ [.idle l] })) ∧
      ((getLink s l).loop.mode = 3 → exec (.laneFramePeriod l) s = .next (sendZero l s))) ∧
    (isEnabled s l = true → (getLink s l).train.idleUntil = none → (getLink s l).stat.state ≠ 4 →
      ((getLink s l).train.step = 1 ∨ (getLink s l).train.step = 3 →
        exec (.laneFramePeriod l) s = .next (checkSteps l (sendTs l 1 0 s))) ∧
      ((getLink s l).train.step = 4 → (getLink s l).train.countdown ≠ 0 →
        exec (.laneFramePeriod l) s = .next (modTrain l (fun t => { t with countdown := t.countdown - 1 })
          (sendTs l 2 (getLink s l).train.countdown s))) ∧
      ((getLink s l).train.step = 5 → (getLink s l).train.syncSent < 63 →
        exec (.laneFramePeriod l) s = .next (modTrain l (fun t => { t with syncSent := (getLink s l).train.syncSent + 1 }) (sendZero l s))) ∧
      ((getLink s l).train.step = 6 → exec (.laneFramePeriod l) s = .next (sendService l s))) ∧
    (∀ f, Arrived.flit l 4 f ∉ s.inbox → linkRuns s l = true →
      (discardOk f = true → exec (.discard l f) s = .next (recvDiscard l (fld (wd f 0) 7 0) s)) ∧
      (discardOk f = false → exec (.discard l f) s = .next (protoError l s))) ∧
    (∀ f, isLink s l = true → (getLink s l).stat.state ≠ 0 → (getLink s l).stat.state ≠ 5 → ctrlOk f = false →
      let t := protoError l (takeArrived (.flit l 1 f) s)
      exec (.ack l f) s = .next t ∧ exec (.nak l f) s = .next t ∧ exec (.init l f) s = .next t ∧ exec (.genStep l f) s = .next t ∧
      exec (.retrain l f) s = .next t ∧ ∀ x, exec (.timeReq l f x) s = .next t ∧ exec (.timeResp l f x) s = .next t)

/-- R325, R326, R328, Table 10-2: RESTORE on a table opened with INIT_PHASE RESTORE asks the own partner for its double
sources, and at ring position 0 reads the commit records of both slots of every target named; another phase is a wrong
state and no candidate left fails it. A partner reports each double source and then the end; a member adds its RING_POS
and passes a report round to position 0, which forms the candidates when all are in or 10 s after RESTORE, newest turn
first. CANDIDATE is passed round and starts a load; a LOADED goes round to position 0, where every member's, or one
failure, or 60 s without one, decides; RESTORE_GO is passed round and takes or drops what was loaded, at the member and
at its partner. -/
def Obligations.RestoresTryTheirCandidates : Prop :=
  (∀ (m : Nat) (s u : State) (r : Request) (major : Nat) (tb : Table), Statement.Asked m restoreSpec anyMsg r major s u →
    let t := fld (argW r.msg 0) 9 0
    let mask := fld (argW r.msg 0) 32 16
    let maxTurn := fld (argW r.msg 1) 63 16
    findTable u t = some tb →
    (isCrown tb = false → exec (.restore m) s = .next (respond m { status := gRole } u)) ∧
    (∀ k, isCrown tb = true → tb.keeper = some k →
      (tb.phase ≠ 3 → exec (.restore m) s = .next (respond m { status := gState } u)) ∧
      (tb.phase = 3 → (∀ x, k.restore = some x → x.mailbox = 64) →
        let v := needRestore t (fun x => { x with mailbox := m, mask := mask, maxTurn := maxTurn, since := now u }) u
        let ask : Ctl := { ctl := 12, table := t, prim := v.ident.eid, a := if maxTurn = 2 ^ 48 - 1 then 2 ^ 64 - 1 else maxTurn }
        let w := if mask.testBit 16 then sendCtl k.spec.partner ask v else v
        let reads := ((List.range 16).filter fun i => mask.testBit i).flatMap fun i => [(i, 0), (i, 1)]
        (ownPos tb tb.board ≠ 0 → exec (.restore m) s = .next w) ∧
        (ownPos tb tb.board = 0 → exec (.restore m) s = .next (formCheck t (forAll reads
          (fun x s => issue (.candRec t x.1 x.2) x.1 4 true (namedKey (getTarget s x.1) t x.2 2 none) [] s)
          (modRestore t (fun x => { x with reads := reads.length }) w))))))) ∧
  (∀ (l : Nat) (f : List W64) (c : Ctl) (s u : State), Statement.CtlArrives l 12 f c s u →
    exec (.doubleQuery l f) s = .next (sendCtl c.prim { ctl := 13, code := 1, table := c.table, prim := c.prim, turn := c.turn }
      (forAll (u.doubles.filter fun d => d.table = c.table && isSource d) (fun d => sendCtl c.prim
        { ctl := 13, table := c.table, prim := d.primary, turn := c.turn, a := slotWord (slotOf d 0), b := slotWord (slotOf d 1) }) u))) ∧
  (∀ (l : Nat) (f : List W64) (c h : Ctl) (s u : State) (tb : Table), Statement.CtlArrives l 13 f c s u →
    findTable u c.table = some tb → isCrown tb = true → tb.keeper ≠ none →
    let passed := c.prim ≠ u.ident.eid ∧ 0 < c.pos ∧ c.pos < tb.board.ring.length ∧ eidOf tb (ringAt tb.board c.pos) = c.prim
    (passed ∧ h = c) ∨ (¬ passed ∧ h = { c with pos := ownPos tb tb.board, prim := u.ident.eid }) →
    (ownPos tb tb.board ≠ 0 → exec (.doubleHeld l f) s = .next (sendCtl (eidOf tb (succOf tb tb.board)) h u)) ∧
    (ownPos tb tb.board = 0 → h.code = 1 → exec (.doubleHeld l f) s = .next (formCheck c.table
      (needRestore c.table (fun r => { r with ends := insertN h.pos r.ends }) u))) ∧
    (ownPos tb tb.board = 0 → h.code ≠ 1 → exec (.doubleHeld l f) s = .next (formCheck c.table
      (needRestore c.table (fun r => { r with reps := r.reps ++ [{ pos := h.pos, eid := h.prim, slots := [repSlot h.a, repSlot h.b] }] }) u)))) ∧
  (∀ (t : Nat) (s : State) (tb : Table) (k : Keeper) (r : Restore), cpRuns s = true → restoreOf s t = some (tb, k, r) →
    (r.formed = false → r.mailbox ≠ 64 → exec (.candidateFormTimeout t) s = .next (formCands t (advanceTo (r.since + 10000000000) s))) ∧
    (∀ c, r.cur = some c →
      exec (.loadedTimeout t) s = .next (nextCand t (sendGo tb 1 c r.num (advanceTo (r.sentAt + 60000000000) s)))) ∧
    (r.formed = false → r.mailbox ≠ 64 → ownPos tb tb.board = 0 →
      let cs := storedCands s tb k r ++ if r.mask.testBit 16 then doubleCands r else []
      let sorted := cs.foldl (fun a c => insertCand c a) []
      formCands t s = nextCand t (modRestore t (fun r => { r with formed := true, cands := sorted }) s) ∧
      sorted.Perm cs ∧ sorted.Pairwise (fun a b => b.turn ≤ a.turn)) ∧
    (r.cands = [] → nextCand t s = respond r.mailbox (failedAns 0x34 s) (modKeeper t (fun k => { k with restore := none }) s))) ∧
  (∀ (l : Nat) (f : List W64) (c : Ctl) (s u : State) (tb : Table), findTable u c.table = some tb → isCrown tb = true →
    (Statement.CtlArrives l 14 f c s u → tb.keeper ≠ none → ownPos tb tb.board ≠ 0 →
      exec (.candidate l f) s = .next (startLoad nextCand c.table c.a c.turn (c.b % 32) (c.b / 256 % 2)
        (needRestore c.table id (sendAround tb c u)))) ∧
    (Statement.CtlArrives l 8 f c s u →
      (ownPos tb tb.board ≠ 0 → exec (.loaded l f) s = .next (sendCtl (eidOf tb (succOf tb tb.board)) c u)) ∧
      (∀ k r cd, ownPos tb tb.board = 0 → restoreOf u c.table = some (tb, k, r) → r.cur = some cd → c.a = r.num →
        let done := (c.pos, true) :: r.loaded.filter fun x => x.1 ≠ c.pos
        let v := modRestore c.table (fun r => { r with loaded := done }) u
        (c.code = 1 → exec (.loaded l f) s = .next (nextCand c.table (sendGo tb 1 cd r.num u))) ∧
        (c.code ≠ 1 → (∀ i < tb.board.ring.length, ∃ x ∈ done, x.1 = i) → exec (.loaded l f) s = .next (sendGo tb 0 cd r.num v)) ∧
        (c.code ≠ 1 → (∃ i < tb.board.ring.length, ∀ x ∈ done, x.1 ≠ i) → exec (.loaded l f) s = .next v))) ∧
    (Statement.CtlArrives l 9 f c s u →
      (∀ d, attachedOf u c.prim c.table = some d → restoreOf u c.table = none →
        (c.code = 0 → freshDouble d = true → exec (.restoreGo l f) s = .next (modThis d (adoptStaged c.turn) u)) ∧
        (c.code = 0 → freshDouble d = false → exec (.restoreGo l f) s = .next u) ∧
        (c.code ≠ 0 → exec (.restoreGo l f) s = .next (modThis d (fun d => { d with staged := [] }) u))) ∧
      (∀ k r ld, attachedOf u c.prim c.table = none → restoreOf u c.table = some (tb, k, r) → ownPos tb tb.board ≠ 0 →
        c.prim ≠ u.ident.eid → r.load = some ld → ld.num = c.a →
        (c.code = 0 → exec (.restoreGo l f) s = .next (adoptLoad c.table (sendAround tb c u))) ∧
        (c.code ≠ 0 → exec (.restoreGo l f) s = .next (dropLoad c.table c.a (sendAround tb c u))))))

/-- R327: LOAD_REQ is answered with what the double sources hold and passed on to the ring successor, unless that one
sent it, and to the own partner; a member takes the parameters of its slice that KIND 3 brings, sends them to its
partner, and has loaded when it has them all; 30 s after LOAD_REQ the load fails. -/
def Obligations.LoadsFromDoublesFollowTheRing : Prop :=
  (∀ (l : Nat) (f : List W64) (c : Ctl) (s u : State), Statement.CtlArrives l 15 f c s u → ∀ v, v = sendHeld c u →
    (findTable v c.table = none → exec (.loadReq l f) s = .next v) ∧
    (∀ tb k, findTable v c.table = some tb → tb.keeper = some k → isCrown tb = true → c.prim ≠ v.ident.eid →
      (∀ r, k.restore = some r → (c.prim, c.turn) ∉ r.reqs) →
      let w := needRestore c.table (fun r => { r with reqs := (c.prim, c.turn) :: r.reqs }) v
      let next := eidOf tb (succOf tb tb.board)
      (next = c.prim → exec (.loadReq l f) s = .next (sendCtl k.spec.partner c w)) ∧
      (next ≠ c.prim → exec (.loadReq l f) s = .next (sendCtl k.spec.partner c (sendCtl next c w))))) ∧
  (∀ (l : Nat) (bytes : List Byte) (h : SyncHdr) (s u : State) (tb : Table) (k : Keeper) (r : Restore) (ld : Load),
    Statement.SyncArrives l 3 bytes h s u → restoreOf u h.table = some (tb, k, r) → syncOk k.spec.rule bytes = true →
    r.load = some ld → ld.source = 16 → ld.turn = h.turn → ld.told = false →
    let new := (syncParams k.spec.rule bytes).filter fun p => ld.start ≤ p.param && p.param < ld.start + ld.count
    let v := sendSync k.spec.rule 0 h.table (modLoad h.table (fun l => { l with got := putPs l.got new }) u).ident.eid ld.turn
      k.spec.partner new (modLoad h.table (fun l => { l with got := putPs l.got new }) u)
    (ld.count ≤ (putPs ld.got new).length → exec (.doublesyncRestore l bytes) s = .next (loadEnds nextCand h.table 0 v)) ∧
    ((putPs ld.got new).length < ld.count → exec (.doublesyncRestore l bytes) s = .next v)) ∧
  (∀ (t : Nat) (s : State) (tb : Table) (k : Keeper) (r : Restore) (ld : Load), cpRuns s = true → restoreOf s t = some (tb, k, r) →
    r.load = some ld → 16 ≤ ld.source → ld.told = false →
    exec (.loadTimeout t) s = .next (loadEnds nextCand t 1 (advanceTo (ld.since + 30000000000) s)))

/-- R456, R466, R468, R469, Table 14-5: a datagram of a target that matches no outstanding REQ_ID is dropped and counted in
STORE_STRAYS; an answer ERROR or ABSENT, an OK for a put, and DATA that leaves no byte missing end an operation, and what it
was for goes on; other DATA is kept. A sender that is no target counts as a drop. After 100 ms without an answer an operation
is sent again and counted, once for an object and once for each of its requests else (LOG 108); 10 s after its first datagram
it has failed. -/
def Obligations.StorageOperationsEndOrAreSentAgain : Prop :=
  (∀ (src : Source) (d : List Byte) (s u : State), cpRuns s = true → s.boot.transport = true → hostUp s src.port = true →
    u = frameIn src.port s → hasIp u src.port = true →
    let id := fld (payW d 0) 31 0
    let st := fld (payW d 0) 51 48
    (fromTarget u src = false → exec (.storageReply src d) s = .next (dropFrame src.port u)) ∧
    (fromTarget u src = true → (∀ o ∈ u.store.ops, o.reqId ≠ id ∨ o.sent = false) → exec (.storageReply src d) s = .next (storeStray src.port u)) ∧
    (∀ o, fromTarget u src = true → u.store.ops.find? (fun o => o.reqId = id && o.sent) = some o →
      let get := o.oper = 2 ∨ o.oper = 4
      let g := getTarget u o.target
      replyOk d = true → tgtIp g = normIp src.ip → tgtUdp g = src.udp → slice d 32 32 = padTo 32 o.key →
      bitAt (payW d 0) 47 = o.named → (fld (payW d 0) 55 52 = 6 ↔ get) →
      (st = 2 → exec (.storageReply src d) s = .next (storeEnds (o.who, .error) (endOp id u))) ∧
      (st = 1 → exec (.storageReply src d) s = .next (storeEnds (o.who, .absent) (endOp id u))) ∧
      (st = 0 → ¬ get → exec (.storageReply src d) s = .next (storeEnds (o.who, .ok []) (endOp id u))) ∧
      (st = 0 → get → ∀ old, old = o.got.getD (List.replicate (payW d 3).toNat none) → old.length = (payW d 3).toNat →
        (payW d 1).toNat + (d.drop 64).length ≤ (payW d 3).toNat → ∀ new, new = overlay old (payW d 1).toNat (d.drop 64) →
        (new.all Option.isSome = true → exec (.storageReply src d) s =
          .next (storeEnds (o.who, .ok (new.map fun b => b.getD 0)) (endOp id u))) ∧
        (new.all Option.isSome = false → exec (.storageReply src d) s = .next (modOp id (fun o => { o with
          got := some new, last := if new = old then o.last else now u }) u))))) ∧
  (∀ (id : Nat) (s : State) (o : StoreOp), cpRuns s = true → s.store.ops.find? (fun o => o.reqId = id) = some o →
    (∀ p, o.port = some p → exec (.storageRetry id) s = .next (sendOp o
      (modHost p (fun h => { h with
        storeResends := h.storeResends + if o.oper = 1 ∨ o.oper = 3 then 1 else (opDatagrams o).length })
        (advanceTo (o.last + 100000000) s)))) ∧
    (o.sent = true ∨ tgtPorts s (getTarget s o.target) = [] → exec (.storageTimeout id) s =
      .next (storeEnds (o.who, .error) (endOp id (advanceTo (o.since + 10000000000) s)))))

/-- R339, R343, R345, R347, R352, R356, R368, R372 to R377, R382, R386, R389, R391, R393, R399, R402, R427 to R429: of the packets
of one link and class the header of the first is looked up, in the bank in force: a bad header breaks the protocol, HOPS 0 and a
word that fails drop it, a multicast packet is stored for the legs of its group but the one it came by, and a unicast one is taken
here, handed to reorder or stored for its link. A packet that is looked up while flits are still to come is stored with what it
lacks, unless it ends here, and a DISCARD that ends it ends it on every leg. A cell that has not arrived is not admitted. A cell
that passes admission makes its credits returnable in the pool by which they came, the first one on every leg but the fenced
ones, and is a word written in its region of the Pot (R534; LOG 109), and one that does not waits, counted once. An egress link
starts the packet that its queues give, drops it where the link is down, and a word that fails ends it. -/
def Obligations.PacketsAreLookedUpAdmittedAndStarted : Prop :=
  ∀ (s : State), live s = true →
    (∀ (l pool : Nat) (p q : Packet) (w : WordRead), firstWhole s l (pClass p) = some (pool, q) → q ≠ p →
      exec (.packetHeaderLookup l p w) s = .next s) ∧
    (∀ (l pool : Nat) (p : Packet) (w : WordRead) (t : State),
      (firstWhole s l (pClass p) = some (pool, p) ∧ t = takeArrived (.pkt l pool p) s) ∨
        (firstWhole s l (pClass p) = none ∧ inProgress s l p = none ∧ pool = classPool (pClass p) ∧ t = s) →
      let u := modPort (portOf l) (fun k => { k with pktsIn := k.pktsIn + 1 }) t
      let v := (kibitzSelect (entersMatch l p) u).2
      let kib := (kibitzSelect (entersMatch l p) u).1
      let x := readWord 3 (lookupOwner v p) w v
      let e := spGet (curBank x).eids (pDest p)
      (packetBad (peerIsGt64 u l) p = true → exec (.packetHeaderLookup l p w) s = .next (dropIn l pool p (protoError l u))) ∧
      (packetBad (peerIsGt64 u l) p = false → pHops p = 0 →
        exec (.packetHeaderLookup l p w) s = .next (dropIn l pool p (modCnt (fun c => { c with hopExpired := c.hopExpired + 1 }) v))) ∧
      (packetBad (peerIsGt64 u l) p = false → pHops p ≠ 0 → w = .failed →
        exec (.packetHeaderLookup l p w) s = .next (dropIn l pool p (modCnt (fun c => { c with noRoute := c.noRoute + 1 }) x))) ∧
      (packetBad (peerIsGt64 u l) p = false → pHops p ≠ 0 → w ≠ .failed →
        (pMc p = true → ∀ all, all = groupLegs (curBank x) (fld p.w0 15 0) → ∀ go, go = all.filter (fun z => z.1 ≠ l) →
          (all = [] → exec (.packetHeaderLookup l p w) s = .next (dropIn l pool p (modCnt (fun c => { c with noRoute := c.noRoute + 1 }) x))) ∧
          (all ≠ [] → go = [] → exec (.packetHeaderLookup l p w) s = .next (dropIn l pool p x)) ∧
          (go ≠ [] → exec (.packetHeaderLookup l p w) s = .next (store .forwarded (some (l, pool)) (pClass p) x.route.cur true (decHops p) kib go (countForward x)))) ∧
        (pMc p = false →
          (eidKind e = 3 → exec (.packetHeaderLookup l p w) s = .next (selfIn (pFlits p) l pool p kib x)) ∧
          (eidKind e = 1 ∨ eidKind e = 2 → fenced x (pDest p) = true → exec (.packetHeaderLookup l p w) s = .next (dropIn l pool p (fenceDrop x))) ∧
          (eidKind e = 1 → fenced x (pDest p) = false → pPtype p = 0 → pOrder p = true →
            exec (.packetHeaderLookup l p w) s = .next { x with inbox := x.inbox ++ [.order l pool x.route.cur (decHops p) kib] }) ∧
          (eidKind e = 2 → fenced x (pDest p) = false → ∀ y,
            (unicastLeg x.route.cur (pDest p) (pClass p) x = (none, y) → exec (.packetHeaderLookup l p w) s = .next (dropIn l pool p y)) ∧
            (∀ out, unicastLeg x.route.cur (pDest p) (pClass p) x = (some out, y) → exec (.packetHeaderLookup l p w) s = .next (store .forwarded (some (l, pool))
              (pClass p) y.route.cur false (decHops p) kib [(out, pDest p)] (countForward y))))))) ∧
    (∀ (l cls : Nat) (p : Packet) (w : WordRead) (pp : PartPkt), firstWhole s l (pClass p) = none → inProgress s l p = some (cls, pp) →
      (endsHere s p = true → exec (.packetHeaderLookup l p w) s = .next s) ∧
      (endsHere s p = false → ∀ u, u = lookupHeader (pp.words.length / 8) l (classPool cls) p w
          (setPart l cls (some { pp with words := [], drop := true }) s) →
        (findPkt u s.pot.nextNum = none → exec (.packetHeaderLookup l p w) s = .next u) ∧
        (∀ q, findPkt u s.pot.nextNum = some q → exec (.packetHeaderLookup l p w) s = .next (setPart l cls (some { pp with pkt := some s.pot.nextNum })
          (modPkt s.pot.nextNum (fun q => { q with missing := pp.left }) u))))) ∧
    (∀ (l num : Nat) (f : List W64) (pp : PartPkt), linkRuns s l = true → Arrived.flit l 4 f ∉ s.inbox → discardOk f = true →
      let c := fld (wd f 0) 7 0
      (getLink s l).rx.parts.getD c none = some pp → pp.pkt = some num → exec (.discard l f) s = .next (endPacket num
        (modPort (portOf l) (fun p => { p with discardEnds := p.discardEnds + 1 }) (setPart l c none s)))) ∧
    (∀ (num : Nat) (p : QPkt), findPkt s num = some p → p.admitted < p.cells → cellHere p = false → exec (.cellAdmit num) s = .next s) ∧
    (∀ (num : Nat) (p : QPkt), findPkt s num = some p → p.admitted < p.cells → cellHere p = true → behind s p = false →
      (cellPasses s p = false → p.waited = false → exec (.cellAdmit num) s =
        .next (modPot (fun t => { t with admitWaits := t.admitWaits + 1 }) (modPkt num (fun q => { q with waited := true }) s))) ∧
      (cellPasses s p = false → p.waited = true → exec (.cellAdmit num) s = .next s) ∧
      (cellPasses s p = true → ∀ x, x = forAll (p.legs.filter fun l => !l.done && unreplicated p && fenced s l.eid)
            (fun l s => legDone p.num l.link (fenceDrop s)) s →
        ∀ v, v = modPkt num (fun q => { q with admitted := q.admitted + 1, waited := false })
          (if p.cached then x else wroteWord 0 (regionOf (packetOwner p)) x) →
        ∀ w, (∃ l, p.ingress = some l ∧ findPkt v num ≠ none ∧ w = freeCredits l p.pool (nextFlits p) v) ∨
          ((p.ingress = none ∨ findPkt v num = none) ∧ w = v) →
        (p.admitted = 0 → exec (.cellAdmit num) s = .next (enqueued num w)) ∧
        (0 < p.admitted → exec (.cellAdmit num) s = .next w))) ∧
    (∀ (link : Nat) (w : WordRead),
      (∀ e, chooseEgress s link = (none, e) → ∀ v, v = modPot (fun t => { t with egress := t.egress.set link e }) s →
        (underWay v link = none → exec (.egressPacketStart link w) s = .next v) ∧
        (∀ p, underWay v link = some p → ∀ x, x = readWord (packetTier p) (packetOwner p) w v →
          (w = .failed → exec (.egressPacketStart link w) s = .next (failPacket p.num x)) ∧
          (w ≠ .failed → exec (.egressPacketStart link w) s = .next x))) ∧
      (∀ p e, chooseEgress s link = (some p, e) →
        (linkUp s link = false → exec (.egressPacketStart link w) s = .next (rechoose link p s)) ∧
        (linkUp s link = true → w = .failed →
          exec (.egressPacketStart link w) s = .next (failPacket p.num (readWord (packetTier p) (packetOwner p) w s))) ∧
        (linkUp s link = true → w ≠ .failed → ∀ v, v = startLeg p.num link e (readWord (packetTier p) (packetOwner p) w s) →
          let sent := ((p.legs.find? fun l => l.link = link && !l.done).map (legPacket p)).getD p.pkt
          exec (.egressPacketStart link w) s = .next (forAll (kibitzSelect (leavesMatch link) v).1
            (fun i => kibitzCopy (p.pass1.contains (i, link)) 1 link p.epoch p.num (origBytes p.tc sent) i)
            (kibitzSelect (leavesMatch link) v).2))))

/-- R379, R380, R393, Table 12-2: an ORDER packet with SEQ equal to NEXT is sent, with every held one that follows; one
behind NEXT is dropped and counted; one ahead of NEXT, or with NEXT unknown, is held, and a 65th skips to the lowest
held. FIRST releases what is held and sets NEXT. With no context free the packet is sent and counted. The oldest held
packet's limit skips; 1 ms unused frees an empty context. A fenced destination drops the packet. -/
def Obligations.OrderIsRestoredByContext : Prop :=
  ∀ (s : State), live s = true →
    (∀ (l : Nat) (p : Packet) (pool epoch : Nat) (kib : List Nat), orderTag s l p = (pool, epoch, kib) →
      let u := takeArrived (.order l pool epoch p kib) s
      (fenced u (pDest p) = true → exec (.orderPacket l p) s = .next (dropIn l pool p (fenceDrop u))) ∧
      (fenced u (pDest p) = false → findCtx u (pSrc p) (pDest p) (pClass p) = none → 65536 ≤ u.route.contexts.length →
        exec (.orderPacket l p) s = .next (storeOrder l pool p epoch kib false (modCnt (fun k => { k with noContext := k.noContext + 1 }) u)).2) ∧
      (fenced u (pDest p) = false → findCtx u (pSrc p) (pDest p) (pClass p) = none → u.route.contexts.length < 65536 →
        let new : Reorder := { src := pSrc p, dst := pDest p, tc := pClass p, next := none, lastUse := now u }
        (pFirst p = true → exec (.orderPacket l p) s = .next
          (putCtx { new with next := some ((pSeq p + 1) % 65536) } (storeOrder l pool p epoch kib false u).2)) ∧
        (pFirst p = false → ∀ n v, storeOrder l pool p epoch kib true u = (some n, v) → exec (.orderPacket l p) s = .next
          (putCtx { new with held := [{ pkt := n, seq := pSeq p, due := now v + v.route.reorderUs * 1000 }] } v))) ∧
      (∀ c, fenced u (pDest p) = false → findCtx u (pSrc p) (pDest p) (pClass p) = some c →
        let k := { c with lastUse := now u }
        (pFirst p = true → ∀ v, v = (releaseAll c.held.length c u).2 → ∀ d, d = (releaseAll c.held.length c u).1 →
          let x := flushHeld d.held.length { d with lastUse := now v, next := some ((pSeq p + 1) % 65536) } (storeOrder l pool p epoch kib false v).2
          exec (.orderPacket l p) s = .next (putCtx x.1 x.2)) ∧
        (pFirst p = false → c.next = some (pSeq p) →
          let x := flushHeld c.held.length { k with next := some ((pSeq p + 1) % 65536) } (storeOrder l pool p epoch kib false u).2
          exec (.orderPacket l p) s = .next (putCtx x.1 x.2)) ∧
        (∀ n, pFirst p = false → c.next = some n → n ≠ pSeq p → 32768 ≤ (pSeq p + 65536 - n) % 65536 →
          exec (.orderPacket l p) s = .next (putCtx k (dropIn l pool p (modCnt (fun k => { k with reorderLate := k.reorderLate + 1 }) u)))) ∧
        (pFirst p = false → (c.next = none ∨ ∃ n, c.next = some n ∧ n ≠ pSeq p ∧ (pSeq p + 65536 - n) % 65536 < 32768) →
          ∀ num v, storeOrder l pool p epoch kib true u = (some num, v) →
          let h := { k with held := c.held ++ [{ pkt := num, seq := pSeq p, due := now v + v.route.reorderUs * 1000 }] }
          (c.held.length < 64 → exec (.orderPacket l p) s = .next (putCtx h v)) ∧
          (64 ≤ c.held.length → exec (.orderPacket l p) s = .next (putCtx (skipTo h v).1 (skipTo h v).2))))) ∧
    (∀ (src dst tc : Nat) (c : Reorder), findCtx s src dst tc = some c →
      (∀ h rest, c.held = h :: rest → ∀ x, x = skipTo c (advanceTo h.due s) →
        exec (.reorderTimeout src dst tc) s = .next (putCtx { x.1 with lastUse := now x.2 } x.2)) ∧
      (c.held = [] → exec (.reorderContextFree src dst tc) s = .next
        (modRoute (fun r => { r with contexts := r.contexts.filter fun x => !isCtx src dst tc x }) (advanceTo (c.lastUse + 1000000) s))))

/-- R232, R234, R235, R340, R358, R359, R363: in a slot every square runs the decision it formed and forms the next from the
requests it holds, at most two reads and two writes, the one of best standing first, none of them on a unit that the locked
sequence of another lane holds; a lapsed grant is counted. In a
cycle of the Ladder each port grants one request, each queue accepts the grants of one packet, and an accepted packet no
longer needs that port. A packet that has waited 32 cycles goes through the Pot, behind the ROUND packets that it may not
pass (log 83) and followed by the SIG packets of their rounds. -/
def Obligations.ArbitersGrantInTheirOrder : Prop :=
  ∀ (s : State), live s = true →
    (∀ (posted : List SqReq) (withdrawn : List (Nat × Nat)), s.sq.squares.length = 64 →
      ∃ t, exec (.squareArbitration posted withdrawn) s = .next t ∧ t.sq.slot = s.sq.slot + 1 ∧ t.sq.squares.length = 64 ∧
        t.pot.staleGrants = s.pot.staleGrants + ((List.range 64).map fun i => sqLapses i withdrawn (s.sq.squares.getD i {})).sum ∧
        (∀ i < 64,
          let q := s.sq.squares.getD i {}
          let r := t.sq.squares.getD i {}
          let gs := (sqFill q.prio 4 2 2 q.lastCls q.locks q.held).1
          r.granted = q.formed ∧ r.prio = q.prio ∧ r.formed = gs.filter (fun h => !isWithdrawn i withdrawn h) ∧
          (gs.filter fun h => h.req.write).length ≤ 2 ∧ (gs.filter fun h => !h.req.write).length ≤ 2 ∧
          (∀ h ∈ gs, h ∈ q.held) ∧
          r.locks = locksAfter q.locks r.formed ∧
          (∀ g ∈ gs, ∀ k ∈ q.locks, g.req.unit ≠ 0 → k.1 = g.req.unit → ofHolder q.locks g.req = true) ∧
          (∀ g, gs.head? = some g → ∀ h ∈ q.held, mayTouch q.locks h.req = true →
            sqKey q.prio q.lastCls q.locks g ≤ sqKey q.prio q.lastCls q.locks h))) ∧
    (let qs := s.ladder.queues
      let acc := pipAccepted qs s.ladder.ptrs
      (acc.map (·.1)).Nodup ∧
      (∀ g ∈ acc, ∀ h ∈ acc, g.2.1 = h.2.1 → g.2.2.num = h.2.2.num) ∧
      ∃ t, exec .ladderArbitration s = .next t ∧
        t.ladder.queues = (qs.map fun q => q.map fun p => { p with
          links := p.links.filter fun l => !acc.any fun g => g.1 = portOf l.1 && g.2.2.num = p.num
          waited := p.waited + 1 }).map (fun q => q.filter fun p => !p.links.isEmpty) ∧
        (∀ port < 64, t.ladder.ptrs.getD port 0 = match acc.find? fun g => g.1 = port with
          | some g => (g.2.1 + 1) % 64
          | none => s.ladder.ptrs.getD port 0)) ∧
    (∀ (queue : Nat) (p : PipPkt), (s.ladder.queues.getD queue []).find? (fun p => 32 ≤ p.waited) = some p →
      let all := s.ladder.queues.flatMap id
      let behind := fun (x q : PipPkt) => pipType x.words = 0 && pipType q.words = 1 && sameRound x q &&
        (pipPorts q).any (pipPorts x).contains
      let go := (all.filter fun x => behind x p) ++ [p]
      exec (.pipOverflow queue) s =
        .next (forAll (all.filter fun q => q.num ≠ p.num && go.any fun x => behind x q) pipOver (forAll go pipOver s)))

/-- R16, R156 to R160, R163, R170, R176, R185, R227, R230, R341, R366: a contribution that names no open round or lies outside
it is a stray; one that comes when the failure time of its round has come fails the round; a wrong BOARD, a malformed packet or
more than its source owes fails it as well; otherwise it is counted, waits as parts at the lanes, or adds factors to a fold. A
lane applies its oldest part, a word of a cell that fails fails the round, and the last contribution to a unit writes nothing
back. Result data are taken once, under the epoch stamp of their packet; a Pip round takes contributions and results in ROUND
packets by the same rules, but in Pawn mode only those of a round open here (R560). A header with a reserved field that is not 0
is dropped. -/
def Obligations.ContributionsAndResultsAreTaken : Prop :=
  (∀ (t rid port : Nat) (pip : Bool) (h : RoundHdr) (s : State), h.table = t → h.round = rid →
    (findRound s t rid = none → contribRound pip port h s = .error (strayRound t rid s)) ∧
    (∀ tb r, findRound s t rid = some (tb, r) →
      let x := contribSrc tb h
      let last := h.offset + itemElems h.format * (h.count - 1)
      let fail := fun st => failRoundAt port tb.id rid st x.id x.isMember (packetChunk tb r x h.offset) none s
      let run := contribRound pip port h s
      (r.done = true → run = .error (strayRound t rid s)) ∧
      (∀ y, r.done = false → overdue s tb r = some y → run = .error (failRoundAt port t rid stLate y.1.id y.1.isMember y.2 none s)) ∧
      (r.done = false → overdue s tb r = none →
        ((wireFmt tb r x).2.2 ≤ last → run = .error (strayOffset t s)) ∧
        (last < (wireFmt tb r x).2.2 → h.board ≠ r.epoch → run = .error (fail stBoard)) ∧
        (last < (wireFmt tb r x).2.2 → h.board = r.epoch →
          (r.pip ≠ pip ∨ 2 ≤ h.phase ∨ h.count = 0 ∨ 4080 < h.count → run = .error (fail stMalformed)) ∧
          (r.pip = pip → h.phase < 2 → 0 < h.count → h.count ≤ 4080 → run = .ok (tb, r, x)))))) ∧
  (∀ (s : State) (tb : Table) (r : Round),
    (r.done = true → overdue s tb r = none) ∧
    (r.done = false → ∀ c x, lowestOwing c = some x →
      argMin (fun (c : Chunk) => c.index) (r.chunks.filter fun c =>
        c.state = 1 && stillOwed c && c.clock + (tb.absence + tb.level) * 1000000 ≤ now s) = some c →
      overdue s tb r = some (x, c.index))) ∧
  (∀ (l : Nat) (payload : List Byte) (s u : State) (p : Option (Nat × Nat × Packet)), takeSelf l payload s = (p, u) → live u = true →
    let h := roundHdr (payW payload 0) (payW payload 1)
    let flits := ceilDiv (16 + payload.length) 64
    let pool := (p.map (·.1)).getD 4
    let free := fun v => if p.isSome then freeCredits l pool flits v else v
    (payload.length < 16 ∨ h.resv ≠ 0 ∨ (h.phase = 3 ∧ h.source ≠ 0) → exec (.contribReceive l payload) s = .next (free u)) ∧
    (16 ≤ payload.length → h.resv = 0 → h.phase ≠ 3 ∨ h.source = 0 →
      (∀ v, contribRound false (portOf l) h u = .error v → exec (.contribReceive l payload) s = .next (free (drain v))) ∧
      (∀ tb r x, contribRound false (portOf l) h u = .ok (tb, r, x) →
        (readData tb r x h (payload.drop 16) = none → exec (.contribReceive l payload) s = .next
          (free (drain (failRound tb.id h.round stMalformed x.id x.isMember (packetChunk tb r x h.offset) none u)))) ∧
        (∀ es rot, readData tb r x h (payload.drop 16) = some (es, rot) →
          (∀ n, foldFrom tb r x = some n → exec (.contribReceive l payload) s = .next (free (drain (takeFactors tb r n x es u)))) ∧
          (foldFrom tb r x = none →
            (∀ i, overOwed tb r x es = some i → exec (.contribReceive l payload) s = .next (free (drain
              (failRound tb.id h.round stDup x.id x.isMember i none u)))) ∧
            (overOwed tb r x es = none →
              let per := (payload.length - 16) / max 1 es.length
              let items := (List.range es.length).map fun k => ((es.getD k (0, { v := 0 })).1, (es.getD k (0, { v := 0 })).2.v,
                (32 + k * per) / 256, (32 + (k + 1) * per - 1) / 256)
              let cells : List HeldCell := if p.isNone then [] else (List.range (ceilDiv (16 + payload.length) 256)).map fun c =>
                { num := u.feed.next, cell := c, link := l, pool := pool, flits := min 4 (flits - 4 * c) }
              let v := countIn tb r x es rot (countGot tb r x es u)
              exec (.contribReceive l payload) s = .next (drain (releaseCells u.feed.next { v with feed := { v.feed with
                next := u.feed.next + 1, cells := v.feed.cells ++ cells
                waiting := v.feed.waiting ++ splitParts tb r x u.feed.next (portOf l) items [] } })))))))) ∧
  (∀ (lane : Nat) (w : WordRead) (s : State) (p : Part) (rest : List Part), live s = true → s.feed.lanes.getD lane [] = p :: rest →
    let u := { s with feed := { s.feed with lanes := s.feed.lanes.set lane rest } }
    (partChunk u p = none → exec (.lockedSequence lane w) s = .next (drain u)) ∧
    (∀ tb r c, partChunk u p = some (tb, r, c) →
      let cells := (c.accs.drop (unitSize r.spec * p.unit)).take (unitSize r.spec)
      let o : WordOwner := .accumulator p.table p.round p.chunk
      let tier := if c.hbm then 1 else 0
      (((∃ x ∈ cells, x ≠ none) ∨ p.elems.length < cells.length) → w = .failed →
        exec (.lockedSequence lane w) s = .next (drain (wordFault p.table p.round p.chunk tier o w u))) ∧
      (∀ q, (((∃ x ∈ cells, x ≠ none) ∨ p.elems.length < cells.length) ∧ w ≠ .failed ∧ q = readWord tier o w u) ∨
          ((∀ x ∈ cells, x = none) ∧ cells.length ≤ p.elems.length ∧ q = u) →
        let a := p.elems.foldl (applyElem r.spec c.lo) (c.accs, 0)
        let m := modRound p.table p.round (fun q => { q with
          flushed := q.flushed + a.2
          chunks := updWhere (fun x => x.index = p.chunk) (fun x => { x with
            accs := a.1, applied := modAt x.applied p.unit (· + p.elems.length) }) q.chunks }) q
        let v := if c.applied.getD p.unit 0 + p.elems.length < unitOwed r c cells.length then wroteWord tier 2 m else m
        exec (.lockedSequence lane w) s = .next (match partChunk v p with
          | some (_, _, c) => drain (if chunkComplete v p.table p.round c then finishChunk p.port p.table p.round p.chunk v else v)
          | none => drain v)))) ∧
  (∀ (l : Nat) (payload : List Byte) (s u : State), u = (takeSelfFree l payload s).2 → live u = true →
    let h := roundHdr (payW payload 0) (payW payload 1)
    let data := payload.drop 16
    let epoch := selfEpoch l payload s
    (payload.length < 16 ∨ h.resv ≠ 0 ∨ (h.phase = 3 ∧ h.source ≠ 0) → exec (.resultReceive l payload) s = .next u) ∧
    (16 ≤ payload.length → h.resv = 0 → h.phase ≠ 3 ∨ h.source = 0 →
      (findRound u h.table h.round = none → exec (.resultReceive l payload) s = .next (drain (strayRound h.table h.round u))) ∧
      (∀ tb r, findRound u h.table h.round = some (tb, r) → r.done = false → overdue u tb r = none →
        h.offset + h.count ≤ r.spec.elems →
        let src := if h.phase = 2 then h.source else (parentOf tb).getD 0
        (h.phase < 2 ∨ h.format ≠ deliverFmt r.spec → exec (.resultReceive l payload) s = .next
          (drain (failRoundAt (portOf l) tb.id h.round stMalformed src true (chunkOf tb r h.offset) none u))) ∧
        (∀ vs, r.pip = false → 2 ≤ h.phase → 0 < h.count → h.count ≤ 4080 → h.format = deliverFmt r.spec →
          readElems (elemBytes h.format) h.count data = some vs →
          ∀ new, new = ((List.range vs.length).map fun i => (h.offset + i, canonElem h.format (vs.getD i 0))).filter
            (fun e => (getE r.results e.1).isNone) →
          (new = [] → exec (.resultReceive l payload) s = .next (drain u)) ∧ (new ≠ [] → exec (.resultReceive l payload) s = .next (drain (resultsIn (portOf l) epoch tb.id h.round new
            (modRound tb.id h.round (fun q => { q with accepted := q.accepted.map fun _ => now u }) u)))))))) ∧
  (∀ (l : Nat) (f : List W64) (s u : State), Statement.PipArrives l 0 f s u →
    let h := roundHdr (wd f 0) (wd f 1)
    let shut := u.pawn.cause ≠ 0 ∧ ∀ x, findRound u h.table h.round = some x → x.2.done = true
    (shut → exec (.pipRoundPacket l f) s = .next { u with pawn := { u.pawn with selfDrops := u.pawn.selfDrops + 1 } }) ∧
    (¬ shut → h.resv ≠ 0 ∨ (h.phase = 3 ∧ h.source ≠ 0) → exec (.pipRoundPacket l f) s = .next u) ∧
    (¬ shut → h.resv = 0 → h.phase = 2 ∨ (3 ≤ h.phase ∧ h.source = 0) →
      exec (.pipRoundPacket l f) s = .next (drain (resultData true (portOf l) u.route.cur h (pipData h f) u))) ∧
    (¬ shut → h.resv = 0 → h.phase < 2 →
      (∀ v, contribRound true (portOf l) h u = .error v → exec (.pipRoundPacket l f) s = .next (drain v)) ∧
      (∀ tb r x, contribRound true (portOf l) h u = .ok (tb, r, x) →
        (readData tb r x h (pipData h f) = none → exec (.pipRoundPacket l f) s = .next
          (drain (failRoundAt (portOf l) tb.id h.round stMalformed x.id x.isMember (packetChunk tb r x h.offset) none u))) ∧
        (∀ es rot, readData tb r x h (pipData h f) = some (es, rot) →
          exec (.pipRoundPacket l f) s = .next (drain (pipContrib (portOf l) tb r x es u))))))

/-- R176, R182 to R185, R188, R231, Table 6-5: a chunk whose last data have gone is sent, and the round goes on to its
end; an ABORT of an open round fails it with PEER and is passed on, and in Pawn mode one of no open round is dropped (R560).
CHUNK_DEADLINE marks a chunk late; ABSENCE_LIMIT
plus 1 ms for each level fails the round with LATE, blamed on the lowest source owing; a round that no contribution
reaches for that time fails as well. -/
def Obligations.RoundsEndByTheirSignalsAndLimits : Prop :=
  (∀ (t rid i : Nat) (s : State) (tb : Table) (r : Round), live s = true → findRound s t rid = some (tb, r) → r.done = false →
    i ∉ r.sent → i < chunkCount tb r → chunkReady tb r i = true → chunkGone s t rid i = true →
    exec (.chunkSent t rid i) s =
      .next (drain (checkDone t rid (chunkNotices tb r i (modRound t rid (fun x => { x with sent := insertN i x.sent }) s))))) ∧
  (∀ (l : Nat) (payload : List Byte) (s u : State) (p : Option Packet), takeSelfFree l payload s = (p, u) → live u = true →
    payload.length = 32 → roundSigOk (wordsOf 4 payload) = true → (roundSig (wordsOf 4 payload)).signal = 2 →
    let g := roundSig (wordsOf 4 payload)
    (∀ tb r, findRound u g.table g.round = some (tb, r) → ∀ e, (p.map pSrc).or (neighbourOn tb r.board l u) = e →
      exec (.signalReceive l payload) s = .next (drain (failRoundAt (portOf l) g.table g.round stPeer g.source g.isMember 0 e u))) ∧
    (findRound u g.table g.round = none → exec (.signalReceive l payload) s = .next (drain u))) ∧
  (∀ (l : Nat) (f : List W64) (s u : State), Statement.PipArrives l 1 f s u →
    let ws := [wd f 4, wd f 5, wd f 6, wd f 7]
    let h := roundHdr (wd f 0) (wd f 1)
    let shut := u.pawn.cause ≠ 0 ∧ ∀ x, findRound u h.table h.round = some x → x.2.done = true
    (shut → exec (.pipSig l f) s = .next { u with pawn := { u.pawn with selfDrops := u.pawn.selfDrops + 1 } }) ∧
    (¬ shut → hdrBad h = false → roundSigOk ws = true → (roundSig ws).signal = 2 → ∀ tb r, findRound u (roundSig ws).table (roundSig ws).round = some (tb, r) →
      exec (.pipSig l f) s = .next (drain (failRoundAt (portOf l) (roundSig ws).table (roundSig ws).round stPeer (roundSig ws).source
        (roundSig ws).isMember 0 (neighbourOn tb r.board l u) u)))) ∧
  (∀ (t rid i : Nat) (s : State) (tb : Table) (r : Round) (c : Chunk), live s = true → openChunkOf s t rid i = some (tb, r, c) →
    exec (.chunkDeadline t rid i) s = .next (modRound t rid (fun r => { r with
      chunks := updWhere (fun x => x.index = i) (fun x => { x with late := true }) r.chunks }) (advanceTo (c.clock + 1000 * tb.deadline) s)) ∧
    (∀ x, lowestOwing c = some x → exec (.absenceLimit t rid i) s = .next (drain (failRound t rid stLate x.id x.isMember i none
      (advanceTo (c.clock + (tb.absence + tb.level) * 1000000) s))))) ∧
  (∀ (t rid : Nat) (s : State) (tb : Table) (r : Round) (a : Nat), live s = true → findRound s t rid = some (tb, r) →
    r.accepted = some a → r.done = false →
    let owing := ((List.range (chunkCount tb r)).map (chunkAt tb r)).find? stillOwed
    (∀ c x, owing = some c → lowestOwing c = some x → exec (.roundInactivity t rid) s = .next (drain
      (failRound t rid stLate x.id x.isMember c.index none (advanceTo (a + (tb.absence + tb.level) * 1000000) s)))) ∧
    (owing = none → ∀ m, m = (if isCrown tb then predOf tb r.board else (parentOf tb).getD 0) →
      exec (.roundInactivity t rid) s = .next (drain
        (failRound t rid stLate m true 0 none (advanceTo (a + (tb.absence + tb.level) * 1000000) s)))))

/-- R247 to R252, R260, R649: a JOIN of an open table is a stray when its barrier has released here, its source is none
that the barrier needs, or it is held already, and is held otherwise; for a table not open it is held for 10 s. When
every JOIN is held the own JOIN goes up or round, and at ring position 0 the release is decided; a member whose digests
differ halts the table with CODE 4. HALT stops the table, is passed on everywhere but back, and closes the clip group. A
barrier that waits past the limit names the lowest source missing. -/
def Obligations.BarriersJoinReleaseAndHalt : Prop :=
  (∀ (l : Nat) (f : List W64) (s u : State), Statement.PipArrives l 2 f s u →
    let b := barrierPkt f
    (findTable u b.table = none → u.held.length < 4096 → exec (.join l f) s = .next { u with
      held := u.held ++ [{ isJoin := true, table := b.table, link := l, since := now u, bytes := [], words := f }] }) ∧
    (findTable u b.table = none → 4096 ≤ u.held.length →
      exec (.join l f) s = .next (modPort (portOf l) (fun p => { p with pipDrops := p.pipDrops + 1 }) u)) ∧
    (∀ tb, findTable u b.table = some tb →
      let ring := isCrown tb && 1 < tb.board.ring.length && b.isMember && b.source = predOf tb tb.board && !(children tb).contains b.source
      let x : Src := { isMember := b.isMember, ring := ring, id := b.source }
      (isReleased tb.bar b.turn b.seq = true ∨ x ∉ joinSources tb ∨ (∃ j ∈ tb.bar.joins, j.src = x ∧ j.turn = b.turn ∧ j.seq = b.seq) →
        exec (.join l f) s = .next (pipStray l f u)) ∧
      (isReleased tb.bar b.turn b.seq = false → x ∈ joinSources tb →
        (∀ j ∈ tb.bar.joins, j.src = x → j.turn = b.turn → j.seq ≠ b.seq) →
        exec (.join l f) s = .next (joinCheck b.table (portOf l) (modBar b.table (fun q => { q with joins := q.joins ++
          [{ src := x, turn := b.turn, seq := b.seq, digest := b.value, board := b.board }] }) u))))) ∧
  (∀ (t port : Nat) (s : State) (tb : Table), findTable s t = some tb → tb.bar.joined = true → tb.bar.sent = false → tb.halt = 0 →
    let js := pendingJoins tb
    ((∃ j ∈ js, j.src.isMember = true ∧ (j.digest ≠ tb.window.toNat ∨ j.board ≠ tb.board.digest)) →
      joinCheck t port s = haltTable t 4 port none none s) ∧
    ((∀ j ∈ js, j.src.isMember = true → j.digest = tb.window.toNat ∧ j.board = tb.board.digest) →
      (tb.lvl.set = false ∨ (∃ x ∈ joinSources tb, ∀ j ∈ js, j.src ≠ x) → joinCheck t port s = s) ∧
      (tb.lvl.set = true → (∀ x ∈ joinSources tb, ∃ j ∈ js, j.src = x) →
        (isCrown tb = true → ownPos tb tb.board = 0 →
          let at_ := now s + 1000 * tb.bar.lead
          let ring := if 1 < tb.board.ring.length then [succOf tb tb.board, predOf tb tb.board].eraseDups else []
          joinCheck t port s = pipSend port (ring.map (eidOf tb) ++ below tb)
            (barrierWords { table := t, turn := tb.bar.turn, seq := tb.bar.seq, type := 3, value := at_ })
            (modBar t (fun b => { b with sent := true, releaseAt := some at_, lastAt := at_ }) s)) ∧
        (∀ m, (isCrown tb = true ∧ ownPos tb tb.board ≠ 0 ∧ m = succOf tb tb.board) ∨ (isCrown tb = false ∧ parentOf tb = some m) →
          joinCheck t port s = pipSend port [eidOf tb m]
            (barrierWords { table := t, source := tb.member, isMember := true, turn := tb.bar.turn, seq := tb.bar.seq, type := 2
                            value := tb.window.toNat, board := tb.board.digest })
            (modBar t (fun b => { b with sent := true }) s))))) ∧
  (∀ (l : Nat) (f : List W64) (s u : State), Statement.PipArrives l 4 f s u →
    let b := barrierPkt f
    (findTable u b.table = none → exec (.halt l f) s = .next (modPort (portOf l) (fun p => { p with pipDrops := p.pipDrops + 1 }) u)) ∧
    (∀ tb, findTable u b.table = some tb →
      (b.code = 0 ∨ 4 < b.code → exec (.halt l f) s = .next (pipStray l f u)) ∧
      (1 ≤ b.code → b.code ≤ 4 → tb.halt ≠ 0 → exec (.halt l f) s = .next u) ∧
      (1 ≤ b.code → b.code ≤ 4 → tb.halt = 0 →
        let v := closeGroup b.table (modTable b.table (fun tb => { tb with
          halt := b.code, closing := false, waiting := false, poolWait := false, bar := { tb.bar with haltSrc := some b.source } }) u)
        ∀ w, w = (match findTable v b.table with
          | some tb => tableRecord 2 tb.turn tb v
          | none => v) →
        exec (.halt l f) s = .next (sendHalt tb (portOf l) b.code (neighbourOn tb tb.board l u) w)))) ∧
  (∀ (t : Nat) (s : State) (tb : Table) (x : Src), live s = true → findTable s t = some tb → tb.bar.joined = true →
    tb.bar.sent = false → tb.halt = 0 →
    argMin (fun (x : Src) => 2 * x.id + b2n x.isMember) ((joinSources tb).filter fun x => !((pendingJoins tb).any fun j => j.src = x)) = some x →
    exec (.barrierStall t) s = .next (modBar t (fun b => { b with stalled := some x })
      (advanceTo (tb.bar.joinedAt + (tb.absence + tb.level) * 1000000) s))) ∧
  (∀ (s : State) (m : HeldMsg), live s = true → s.held.find? (·.isJoin) = some m → ∀ v, v = advanceTo (m.since + 10000000000) s →
    let old := fun (h : HeldMsg) => h.isJoin && h.since + 10000000000 ≤ now v
    exec .joinHoldExpire s = .next (forAll (v.held.filter old)
      (fun h => modPort (portOf h.link) (fun p => { p with pipDrops := p.pipDrops + 1 })) { v with held := v.held.filter fun h => !old h }))

/-- R560, R567, R568, R570, R572, Table 18-6: LEVEL_ADV notes what a peer announces; a LEVEL packet for a table not open
is held for 10 s, at most 4,096 in all; one whose BOARD_DIGEST differs is dropped and counted; LEVEL_UP of a source is
noted, and LEVEL_SET sets the level once and is passed on. A MGMT packet is dropped in Pawn mode, and one with a bad
field counts in PROTO_ERRORS. -/
def Obligations.LevelsAreAnnouncedGatheredAndSet : Prop :=
  (∀ (l : Nat) (bs : List Byte) (s u : State) (p : Option Packet), takeSelfFree l bs s = (p, u) → live u = true →
    (u.pawn.cause ≠ 0 → ∀ t, t = modPawn (fun p => { p with selfDrops := p.selfDrops + 1 }) u →
      exec (.levelAdv l bs) s = .next t ∧ exec (.levelUp l bs) s = .next t ∧ exec (.levelSet l bs) s = .next t) ∧
    (u.pawn.cause = 0 → mgmtOk bs = false →
      exec (.levelAdv l bs) s = .next (protoError l u) ∧ exec (.levelUp l bs) s = .next (protoError l u) ∧
      exec (.levelSet l bs) s = .next (protoError l u)) ∧
    (u.pawn.cause = 0 → mgmtOk bs = true →
      let t := fld (payW bs 0) 31 22
      let lv := fld (payW bs 0) 59 58
      let from_ := fld (payW bs 0) 19 0
      (fld (payW bs 0) 63 60 = 1 → linkRuns u l = true → exec (.levelAdv l bs) s = .next (modLink l (fun k => { k with peer := some {
        level := lv, eid := (p.map pSrc).getD (getLink u l).stat.peerEid, rom := fld (payW bs 2) 63 32, patch := fld (payW bs 2) 31 0 } }) u)) ∧
      (∀ c type, (c = .levelUp l bs ∧ type = 2) ∨ (c = .levelSet l bs ∧ type = 3) → fld (payW bs 0) 63 60 = type →
        (findTable u t = none → u.held.length < 4096 → exec c s = .next { u with
          held := u.held ++ [{ isJoin := false, table := t, link := l, since := now u, bytes := bs, words := [] }] }) ∧
        (findTable u t = none → 4096 ≤ u.held.length → exec c s = .next (protoError l u)) ∧
        (∀ tb, findTable u t = some tb → (payW bs 1).toNat ≠ tb.lvl.digest → exec c s = .next (protoError l u))) ∧
      (∀ tb, findTable u t = some tb → (payW bs 1).toNat = tb.lvl.digest →
        (fld (payW bs 0) 63 60 = 2 → from_ ∈ levelSources tb → exec (.levelUp l bs) s =
          .next (joinCheck t (Config.ownQueue % 64) (levelCheck t (modTable t (fun tb => { tb with
            lvl := { tb.lvl with ups := (from_, lv) :: tb.lvl.ups.filter fun u => u.1 ≠ from_ } }) u)))) ∧
        (fld (payW bs 0) 63 60 = 3 → tb.lvl.set = true → exec (.levelSet l bs) s = .next u) ∧
        (fld (payW bs 0) 63 60 = 3 → tb.lvl.set = false → isCrown tb = false → exec (.levelSet l bs) s =
          .next (joinCheck t (Config.ownQueue % 64) (sendLevelSet tb lv [] (setLevel t lv u)))) ∧
        (fld (payW bs 0) 63 60 = 3 → tb.lvl.set = false → isCrown tb = true → 1 < tb.lvl.ring.length →
          let next := if from_ = firstPred tb then firstSucc tb else firstPred tb
          exec (.levelSet l bs) s = .next (joinCheck t (Config.ownQueue % 64)
            (sendLevelSet tb lv (if some next = tb.lvl.ring.head? then [] else [next]) (setLevel t lv u))))))) ∧
  (∀ (t : Nat) (s : State) (tb : Table), findTable s t = some tb → tb.lvl.sent = false →
    (∀ m ∈ levelSources tb, ∃ u ∈ tb.lvl.ups, u.1 = m) →
    let lv := (tb.lvl.ups.map (·.2)).foldl min tb.lvl.ownMax
    let v := modTable t (fun tb => { tb with lvl := { tb.lvl with sent := true } }) s
    (isCrown tb = true → firstPos tb = 0 → levelCheck t s =
      sendLevelSet tb lv (if 1 < tb.lvl.ring.length then [firstSucc tb, firstPred tb] else []) (setLevel t lv v)) ∧
    (∀ m, (isCrown tb = true ∧ firstPos tb ≠ 0 ∧ m = firstSucc tb) ∨ (isCrown tb = false ∧ parentOf tb = some m) →
      levelCheck t s = sendMgmt (eidOf tb m) (levelPayload tb 2 lv) v)) ∧
  (∀ (s : State) (m : HeldMsg), live s = true → s.held.find? (fun h => !h.isJoin) = some m → ∀ v, v = advanceTo (m.since + 10000000000) s →
    let old := fun (h : HeldMsg) => !h.isJoin && h.since + 10000000000 ≤ now v
    exec .levelHoldExpire s = .next (forAll (v.held.filter old) (fun h => protoError h.link) { v with held := v.held.filter fun h => !old h }))

/-- R114, R161, R206, R207, R211 to R215, R219, R278, R314: a move that comes up executes, retires and restarts nothing
else, waits, or halts the table. PHASE_SET sets the phase; WAIT_ROUNDS and END wait for every round, and END closes the
table; ROUND_OPEN halts with INVALID or RESOURCE where its checks fail, waits for a place, and otherwise opens its round
under the current board; RESID_CLEAR notes the clear; KEEPER_TURN forms the turn's values and feeds them; CHECKPOINT
notes the request; BOARD_SWITCH halts on another serial, waits for a board, and otherwise makes the other board current
in the other epoch. -/
def Obligations.MovesExecuteWaitOrHalt : Prop :=
  ∀ (t : Nat) (s : State) (tb : Table) (m : List W64),
    (Statement.ComesUp t 4 s tb m →
      exec (.phaseSet t) s = .next (retireMove t (modTable t (fun tb => { tb with phase := fld (wd m 0) 2 0 }) s))) ∧
    (Statement.ComesUp t 3 s tb m →
      ((∀ r ∈ tb.rounds, r.done = true) → exec (.waitRounds t) s = .next (retireMove t (closeGroup t s))) ∧
      ((∃ r ∈ tb.rounds, r.done = false) → exec (.waitRounds t) s = .next (waitMove t false (closeGroup t s)))) ∧
    (Statement.ComesUp t 0x10 s tb m →
      let c := roundSpecOf m
      let r := newRound tb c s
      (roundInvalid tb.board c = true → exec (.roundOpen t) s = .next (haltMove t 3 s)) ∧
      (roundInvalid tb.board c = false → (upSpec tb r).any (fun n => extentPasses tb n c) = true → exec (.roundOpen t) s = .next (haltMove t 2 s)) ∧
      (roundInvalid tb.board c = false → (upSpec tb r).any (fun n => extentPasses tb n c) = false → 16384 ≤ openRounds s →
        exec (.roundOpen t) s = .next (waitMove t true s)) ∧
      (roundInvalid tb.board c = false → upSpec tb r = none → openRounds s < 16384 → c.keeper = false → r.clipped = false →
        exec (.roundOpen t) s = .next (checkDone t c.round (retireMove t
          (modTable t (fun tb => { tb with rounds := tb.rounds ++ [r], lastOpened := some c.round }) (freeNext (freeNext s))))))) ∧
    (Statement.ComesUp t 0x11 s tb m →
      exec (.residClear t) s = .next (drain (applyClears t (retireMove t (modTable t (fun tb => { tb with clears := tb.clears ++
        [{ boardNum := tb.boardNum, rslot := fld (wd m 0) 43 36, mask := fld (wd m 0) 2 0, upTo := tb.lastOpened.getD 0 }] }) s))))) ∧
    (Statement.ComesUp t 0x20 s tb m →
      (tb.keeper = none → exec (.keeperTurn t) s = .next (retireMove t s)) ∧
      (∀ k, tb.keeper = some k → k.dbl.state = 3 → exec (.keeperTurn t) s = .next (retireMove t s)) ∧
      (∀ k, tb.keeper = some k → k.dbl.state ≠ 3 →
        let tv := formVals k.spec (tb.phase = 1) tb.turn (fld (wd m 1) 63 32) (fld (wd m 1) 31 0) (fld (wd m 2) 63 32) k.step k.b1pow k.b2pow
        let v := modKeeper t (fun k => { k with vals := tv, step := tv.step, b1pow := tv.b1pow, b2pow := tv.b2pow }) (retireMove t s)
        (isCrown tb = false → exec (.keeperTurn t) s = .next v) ∧
        (isCrown tb = true → exec (.keeperTurn t) s = .next (feedRecord t tb.turn
          (feedHdrBytes { table := t, type := 2, member := tb.member, turn := tb.turn } ++ turnData tv 0)
          (modKeeper t (fun k => { k with turns := k.turns ++ [{ vals := tv }] }) v))))) ∧
    (Statement.ComesUp t 0x21 s tb m →
      exec (.checkpoint t) s = .next (retireMove t (modKeeper t (fun k => { k with
        ckptReq := (k.ckptReq.filter fun c => c.turn ≠ tb.turn) ++ [{ turn := tb.turn, target := fld (wd m 0) 3 0, hazard := false }] })
        (closeGroup t s)))) ∧
    (Statement.ComesUp t 0x30 s tb m → ∀ v, v = closeGroup t s →
      (tb.other = none ∨ (∃ b n, tb.other = some (b, n, true)) → exec (.boardSwitch t) s = .next (waitMove t false v)) ∧
      (∀ b n, tb.other = some (b, n, false) →
        (b.serial ≠ fld (wd m 0) 15 0 → exec (.boardSwitch t) s = .next (haltMove t 1 v)) ∧
        (b.serial = fld (wd m 0) 15 0 → 664000000000 < hbmReserved v + residBytes tb b → exec (.boardSwitch t) s = .next (haltMove t 2 v)) ∧
        (b.serial = fld (wd m 0) 15 0 → hbmReserved v + residBytes tb b ≤ 664000000000 →
          ∀ w, w = modTable t (fun tb => drainBoard { tb with
            board := b, epoch := !tb.epoch, boardNum := n, other := some (tb.board, tb.boardNum, true), switched := true
            oldRing := if tb.switched then tb.oldRing else tb.board.ring
            oldParams := if tb.switched then tb.oldParams else tb.board.params }) (retireMove t v) →
          exec (.boardSwitch t) s = .next (match findTable w t with
            | some tb => tableRecord 1 tb.turn tb w
            | none => w)))) ∧
    (Statement.ComesUp t 0x3F s tb m → ∀ v, v = turnDue t (closeGroup t (modTable t (fun tb => { tb with closing := true }) s)) →
      ((∀ r ∈ tb.rounds, r.done = true) → exec (.endMove t) s = .next (closeTable t (retireMove t v))) ∧
      ((∃ r ∈ tb.rounds, r.done = false) → exec (.endMove t) s = .next (waitMove t false v)))

/-- What TURN_BEGIN of a turn gives, coming up as the move m in the state v, in which its table is w: it waits, or joins the turn
barrier. -/
def Statement.TurnBegun (t : Nat) (m : List W64) (w : Table) (v x : State) : Prop :=
  let turn := fld (wd m 1) 47 0
  ((draining w = true ∨ restoreDue w = true) ∧ x = waitMove t false v) ∨
  (draining w = false ∧ restoreDue w = false ∧ verdictDue w turn = true ∧
    x = waitMove t false (modPrim t (fun d => { d with waitSince := some (d.waitSince.getD (now v)) }) v)) ∨
  (draining w = false ∧ restoreDue w = false ∧ verdictDue w turn = false ∧
    x = joinCheck t (Config.ownQueue % 64) (waitMove t false (modBar t (fun b => { b with
      joined := true, joinedAt := now v, turn := turn, seq := 0, lead := fld (wd m 0) 15 0, sent := false, releaseAt := none
      stalled := none }) (modPrim t (fun d => { d with waitSince := none }) v))))

/-- R208, R210, R217, R253 to R256, R304, R329: TURN_BEGIN waits while a board drains, a restore is due or a VERDICT is
missing, and otherwise joins the turn barrier; BARRIER joins the next barrier of its turn; past the wait for a VERDICT
the double is LOST and the move goes on. A RELEASE of the barrier joined is passed on and sets RELEASE_AT; at that time,
or at once when it is past, the barrier's move retires, its record begins the next window, and a turn barrier starts its
turn. A halted table, and one that holds the release already, drops a RELEASE. -/
def Obligations.BarriersAreJoinedAndReleased : Prop :=
  (∀ (t : Nat) (s : State) (tb : Table) (m : List W64), tb.bar.joined = false →
    (Statement.ComesUp t 1 s tb m → ∀ v w x, v = turnDue t (closeGroup t s) → findTable v t = some w →
      Statement.TurnBegun t m w v x → exec (.turnBegin t) s = .next x) ∧
    (Statement.ComesUp t 2 s tb m → ∀ v, v = closeGroup t s → exec (.barrier t) s =
      .next (joinCheck t (Config.ownQueue % 64) (waitMove t false (modBar t (fun b => { b with
        joined := true, joinedAt := now v, turn := tb.turn, seq := tb.barrierSeq + 1, lead := fld (wd m 0) 15 0, sent := false
        releaseAt := none, stalled := none }) v))))) ∧
  (∀ (t a : Nat) (s : State) (tb : Table) (k : Keeper), cpRuns s = true → findTable s t = some tb → tb.keeper = some k →
    k.dbl.waitSince = some a → ∀ u, u = modPrim t (fun d => { d with state := 2, feed := [], waitSince := none })
      (advanceTo (a + (tb.absence + tb.level) * 1000000) s) →
    (∀ m tb', Statement.ComesUp t 1 u tb' m → tb'.bar.joined = false → ∀ v w x, v = turnDue t (closeGroup t u) → findTable v t = some w →
      Statement.TurnBegun t m w v x → exec (.verdictWaitTimeout t) s = .next x) ∧
    (∀ tb', findTable u t = some tb' → cpRuns u = false ∨ tb'.halt ≠ 0 ∨ tb'.moves.head?.map opcode ≠ some 1 ∨ tb'.bar.joined = true →
      exec (.verdictWaitTimeout t) s = .next u)) ∧
  (∀ (l : Nat) (f : List W64) (s u : State), Statement.PipArrives l 3 f s u →
    let b := barrierPkt f
    (findTable u b.table = none → exec (.release l f) s = .next (modPort (portOf l) (fun p => { p with pipDrops := p.pipDrops + 1 }) u)) ∧
    (∀ tb, findTable u b.table = some tb →
      (tb.halt ≠ 0 ∨ tb.bar.joined = false ∨ tb.bar.releaseAt ≠ none ∨ tb.bar.turn ≠ b.turn ∨ tb.bar.seq ≠ b.seq → exec (.release l f) s = .next u) ∧
      (tb.halt = 0 → tb.bar.joined = true → tb.bar.releaseAt = none → tb.bar.turn = b.turn → tb.bar.seq = b.seq →
        let v := modBar b.table (fun q => { q with releaseAt := some b.value, lastAt := b.value }) u
        ∀ w, w = pipSend (portOf l) ((passRing tb (neighbourOn tb tb.board l v)).map (eidOf tb) ++ below tb) f v →
        (now w < b.value → exec (.release l f) s = .next w) ∧ (b.value ≤ now w → exec (.release l f) s = .next (releaseBarrier b.table w))))) ∧
  (∀ (t a : Nat) (s : State) (tb : Table) (m : List W64), findTable s t = some tb → tb.bar.releaseAt = some a →
    (live s = true → exec (.barrierRelease t) s = .next (releaseBarrier t (advanceTo a s))) ∧
    (tb.halt ≠ 0 → releaseBarrier t s = s) ∧
    (tb.moves.head? = some m → tb.halt = 0 →
      let first := opcode m = 1
      let late := now s - a
      let b := tb.bar
      let v := modTable t (fun tb => { tb with
        bar := { b with
          joined := false, sent := false, releaseAt := none, released := some (b.turn, b.seq), stalled := none
          turned := b.turned || first
          joins := b.joins.filter fun j => !(j.turn = b.turn && j.seq = b.seq)
          late := b.late + b2n (0 < late), maxLate := max b.maxLate late
          unlocked := b.unlocked + b2n (s.time.state ≠ 2 || 64 < s.time.pathBound) }
        rounds := tb.rounds.map fun r => if r.done then r else { r with accepted := some (r.accepted.getD (now s)) }
        turn := if first then b.turn else tb.turn
        barrierSeq := if first then 0 else b.seq
        phase := if first then tb.phaseDue.getD tb.phase else tb.phase
        phaseDue := if first then none else tb.phaseDue
        switched := if first then false else tb.switched }) (modTable t (fun tb => match tb.moves with
          | [] => tb
          | m :: ms => { tb with moves := ms, executed := tb.executed + 1, window := crc64 (bytesOf m), waiting := false, poolWait := false }) s)
      (¬ first → releaseBarrier t s = v) ∧
      (first → releaseBarrier t s = keeperRelease t b.turn (if tb.switched && tb.keeper.isSome then reshard t v else v))))

/-- R121, R135, R137 to R144, R147, R148: a free unit gets a quantum of 64 tasks of the table that the round robin gives: the
one it serves while its share lasts and it is ready, then the next by number of those open when the cycle began, then a new
cycle. A unit that takes a task holds its operands. A task that completes counts; its stage ends with the last one, its word's
fault fails the round, and the unit goes on until its quantum or the ready work is spent, when the table gives up its share; what
a closed table leaves of a quantum passes to the table that comes next (log 89). A norm pipe ends the pass it holds, or fails the
round with its word; a DMA transfer brings a panel; the first stage gives P to a norm pipe. -/
def Obligations.MatrixWorkIsSharedAndDone : Prop :=
  (∀ (tables : List Nat) (sv : Serve) (ready : List (Nat × Nat)),
    (0 < sv.share → (∃ x ∈ ready, x.1 = sv.last) → rrNext tables sv ready = some (sv.last, { sv with share := sv.share - 1 })) ∧
    (sv.share = 0 ∨ (∀ x ∈ ready, x.1 ≠ sv.last) →
      (∀ t w, ready.find? (fun x => sv.last < x.1 && sv.members.contains x.1) = some (t, w) →
        rrNext tables sv ready = some (t, { sv with last := t, share := w - 1 })) ∧
      (∀ t w, (∀ x ∈ ready, sv.last < x.1 → x.1 ∉ sv.members) →
        ready.find? (fun x => sv.last < x.1) = some (t, w) ∨ ((∀ x ∈ ready, x.1 ≤ sv.last) ∧ ready.head? = some (t, w)) →
        rrNext tables sv ready = some (t, { sv with last := t, share := w - 1, members := tables })))) ∧
  (∀ (s : State) (unit : Nat), live s = true →
    let freed := fun (x : State) => { x with mu := { x.mu with units := x.mu.units.set unit none } }
    let quantum := fun (t : Nat) (sv : Serve) (x : State) =>
      modTable t (fun tb => { tb with muQuanta := tb.muQuanta + 1 }) { x with mu := sv }
    (∀ t sv, s.mu.units.getD unit (some (0, 0)) = none → rrNext (tableIds s) s.mu (muReady s) = some (t, sv) →
      let u := ((List.range unit).find? fun i => (s.mu.units.getD i none).isNone).getD unit
      exec (.muQuantumGrant unit) s = .next (runOn u t 64 (quantum t sv s))) ∧
    (∀ t left tb rid, ∀ v, v = { s with mu := { s.mu with units := s.mu.units.set unit (some (t, left)) } } →
      unit < s.mats.length → findTable v t = some tb → pickRound v unit tb = some rid →
      (runOn unit t left s).mu = v.mu ∧
      (runOn unit t left s).mats.getD unit {} = { operands := [some (t, rid), some (t, rid)], output := some (t, rid) }) ∧
    (∀ t left w, s.mu.units.getD unit none = some (t, left) →
      (findTable s t = none → ∀ v, v = freed (readWord 0 .other w s) →
        (left ≤ 1 ∨ rrNext (tableIds v) v.mu (muReady v) = none → exec (.muTaskComplete unit w) s = .next v) ∧
        (∀ t' sv, 1 < left → rrNext (tableIds v) v.mu (muReady v) = some (t', sv) →
          exec (.muTaskComplete unit w) s = .next (runOn unit t' (left - 1) (quantum t' sv v)))) ∧
      (∀ v x, findTable s t ≠ none → v = modTable t (fun tb => { tb with muTasks := tb.muTasks + 1 }) s →
        (unitJob v unit t = none ∧ x = readWord 0 .other w v) ∨ (∃ tb j, unitJob v unit t = some (tb, j) ∧
          ((w = .failed ∧ x = matrixFault t j.round w v) ∨ (w ≠ .failed ∧ ∃ y todo, todo = j.todo.erase ((jobReady tb j).headD 0) ∧
            y = modJob t j.round j.src (fun j => { j with todo := todo }) (readWord 0 (.staging t j.round 0) w v) ∧
            ((todo = [] ∧ x = stageDone t j y) ∨ (todo ≠ [] ∧ x = y))))) →
        (∀ tb', findTable x t = some tb' → unitsOn x.mu t ≤ readyTasks tb' →
          (left ≤ 1 → exec (.muTaskComplete unit w) s = .next (freed x)) ∧ (1 < left → exec (.muTaskComplete unit w) s = .next (runOn unit t (left - 1) x))) ∧
        (findTable x t = none ∨ (∃ tb', findTable x t = some tb' ∧ readyTasks tb' < unitsOn x.mu t) →
          exec (.muTaskComplete unit w) s = .next (giveUp t (freed x))))) ∧
    (∀ x tb j w, s.pipes.getD unit none = some x → findTable s x.table = some tb →
      tb.jobs.find? (fun j => j.round = x.round && j.src.isNone && j.stage = 1) = some j →
      let u := { s with pipes := s.pipes.set unit none }
      (w = .failed → exec (.normPipeDone ⟨unit, w⟩) s = .next (fillPipes (matrixFault x.table x.round w u))) ∧
      (w ≠ .failed → exec (.normPipeDone ⟨unit, w⟩) s =
        .next (fillPipes (stageDone x.table j (readWord 0 (.staging x.table x.round 0) w u))))) ∧
    (∀ ch t rid c rest w, takeFirst (fun (d : Nat × Nat × Nat × Nat) => d.1 = ch) s.dma = (some (ch, t, rid, c), rest) →
      let u := { s with dma := rest }
      (findRound s t rid = none → exec (.dmaTransferDone ch w) s = .next u) ∧
      (findRound s t rid ≠ none → w = .failed →
        exec (.dmaTransferDone ch w) s = .next (drain (wordFault t rid c 1 (.accumulator t rid c) w u))) ∧
      (findRound s t rid ≠ none → w ≠ .failed → exec (.dmaTransferDone ch w) s =
        .next (modJob t rid none (fun j => { j with panels := j.panels.erase c }) (readWord 1 (.accumulator t rid c) w u)))) ∧
    (∀ t j tb r ns, findRound s t j.round = some (tb, r) → j.src = none → upSpec tb r = some ns → j.stage = 0 →
      let v := modJob t j.round none (fun k => { k with
        stage := 1, p := matMul r.spec.foldRows r.spec.foldCols j.rank (j.mat.map toBf) (j.qprev.map toBf) }) s
      stageDone t j s = fillPipes { v with norm := v.norm ++ [{ table := t, round := j.round, ready := now s }] }))

/-- R16, R142, R218, R268, R271 to R273, R290, R293, R428, Table 9-3: a READY of a crown's KEEPER round is held, passed round
unless it has gone round, and what can commit commits; one that comes before its round opens here is passed and held for it; past
the limit the round fails with LATE, blamed on the lowest ring
position missing. A quantum runs up to 64 chunks of the table that the round robin gives, which gives up its share when it runs dry.
A range reported at its new holder ends its move: the new holder adds the parameters and becomes home, and the old one drops them
when the digest is its own; a word that fails on the way damages its parameter and fails the rounds that wait for it. -/
def Obligations.KeeperRoundsCommitRunAndMove : Prop :=
  (∀ (l : Nat) (f : List W64) (s u : State), u = takeKFlit l f s → live u = true →
    let t := fld (wd f 0) 31 22
    let rid := fld (wd f 0) 63 32
    let pos := fld (wd f 1) 13 8
    (readyOk f = false → exec (.ready l f) s = .next (protoError l u)) ∧
    (readyOk f = true → u.pawn.cause ≠ 0 → exec (.ready l f) s = .next (modPawn (fun p => { p with selfDrops := p.selfDrops + 1 }) u)) ∧
    (∀ tb, readyOk f = true → u.pawn.cause = 0 → findRound u t rid = none → findTable u t = some tb → isCrown tb = true →
      tb.keeper ≠ none → tb.lastOpened.any (fun m => rid ≤ m) = false → ∀ v,
      (ringAt tb.board pos ≠ succOf tb tb.board ∧ 1 < tb.board.ring.length ∧ v = sendKFlit (eidOf tb (succOf tb tb.board)) f u) ∨
        ((ringAt tb.board pos = succOf tb tb.board ∨ tb.board.ring.length ≤ 1) ∧ v = u) →
      exec (.ready l f) s = .next (modKeeper t (fun k => if k.early.any (fun e => e.1 = rid && e.2.pos = pos) then k
        else { k with early := k.early ++ [(rid, { pos := pos, good := bitAt (wd f 1) 0, part := (wd f 2).toNat })] }) v)) ∧
    (∀ tb r, readyOk f = true → u.pawn.cause = 0 → findRound u t rid = some (tb, r) → isCrown tb = true → r.spec.keeper = true →
      (r.clipped = false → (wd f 2).toNat ≠ 0 → exec (.ready l f) s = .next (protoError l u)) ∧
      (r.clipped = true ∨ (wd f 2).toNat = 0 →
      let v := holdReady t rid pos (bitAt (wd f 1) 0) (wd f 2).toNat u
      (ringAt r.board pos ≠ succOf tb r.board → 1 < r.board.ring.length →
        exec (.ready l f) s = .next (commitAll t (sendKFlit (eidOf tb (succOf tb r.board)) f v))) ∧
      (ringAt r.board pos = succOf tb r.board ∨ r.board.ring.length ≤ 1 → exec (.ready l f) s = .next (commitAll t v))))) ∧
  (∀ (t rid a i : Nat) (s : State) (tb : Table) (r : Round), live s = true → findRound s t rid = some (tb, r) → r.readyAt = some a →
    r.done = false → (List.range r.board.ring.length).find? (fun i => !(r.ready.any fun h => h.pos = i)) = some i →
    exec (.readyTimeout t rid) s = .next (commitAll t (drain (failRound t rid stLate (ringAt r.board i) true 0 none
      (advanceTo (a + (tb.absence + tb.level) * 1000000) s))))) ∧
  (∀ (unit : Nat) (word : Option Nat) (s v : State), live s = true → unit < 8 →
    v = forAll s.tables (fun tb s => endWork tb.id (movesCheck tb.id s)) s →
    let dry := fun (x : State) => { x with kunits := { x.kunits with share := 0 } }
    (rrNext (tableIds v) v.kunits (keeperReady v) = none → exec (.keeperQuantum unit word) s = .next (dry v)) ∧
    (∀ t sv w, rrNext (tableIds v) v.kunits (keeperReady v) = some (t, sv) → w = runQuantum t word 64 { v with kunits := sv } →
      ((∃ x ∈ keeperReady w, x.1 = t) → exec (.keeperQuantum unit word) s = .next (drain w)) ∧
      ((∀ x ∈ keeperReady w, x.1 ≠ t) → exec (.keeperQuantum unit word) s = .next (drain (dry w))))) ∧
  (∀ (t first count : Nat) (digest : List Byte) (word : Option Nat) (s v : State) (tb : Table) (k : Keeper) (m : KMove), live s = true → s.pawn.cause ≠ 1 →
    v = movesCheck t s → findTable v t = some tb → tb.keeper = some k →
    k.moves.find? (fun m => m.start = first && m.count = count) = some m →
    let fin := fun (k : Keeper) => { k with
      moves := k.moves.filter (fun x => x ≠ m), homes := setHome m.start m.count m.dst k.homes }
    let good := ∀ p, word = some p → p < first ∨ first + count ≤ p
    (m.dst = tb.member → heldBy k.homes tb.member + count ≤ k.spec.quota * 1000000 →
      ∃ ps, ps.map (·.param) = (List.range count).map (first + ·) ∧
        let w := wroteWord 1 4 (modKeeper t (fun k => { fin k with params := putPs k.params ps }) { v with free := v.free + 3 * count })
        (good → exec (.shardMoveDone t first count ⟨digest, word⟩) s = .next (if feeds k then sendSync k.spec.rule 0 t w.ident.eid (tb.turn - 1) k.spec.partner ps w else w)) ∧
        (∀ p x, word = some p → first ≤ p → p < first + count → x = moveHurt t tb k p w →
          exec (.shardMoveDone t first count ⟨digest, word⟩) s = .next (if feeds k then sendSync k.spec.rule 0 t x.ident.eid (tb.turn - 1) k.spec.partner
            (ps.filter fun q => q.param ≠ p) x else x))) ∧
    (m.dst ≠ tb.member →
      let held := (List.range count).map fun i => getP k.params (first + i)
      (∀ p, word = some p → first ≤ p → p < first + count → exec (.shardMoveDone t first count ⟨digest, word⟩) s = .next (moveHurt t tb k p v)) ∧
      (good → (∀ p ∈ held, p.damaged = false) → shardDigest (rangeImage k.spec.rule held) = digest → exec (.shardMoveDone t first count ⟨digest, word⟩) s = .next (modKeeper t (fun k =>
        { fin k with params := k.params.filter fun p => !(first ≤ p.param && p.param < first + count) }) v)) ∧
      (good → (∃ p ∈ held, p.damaged = true) ∨ shardDigest (rangeImage k.spec.rule held) ≠ digest → exec (.shardMoveDone t first count ⟨digest, word⟩) s = .next v)))

/-- What a DoubleFeed record of a type gives, from a packet p where that is known, taken in the state u: in Pawn mode it is lost; a
malformed one, or one of another type, changes nothing; at the partner it goes into the log of its double, and at its primary,
from the partner, into the tiebreak. -/
def Statement.RecordTaken (type : Nat) (bytes : List Byte) (p : Option Packet) (u x : State) : Prop :=
  let h := feedHdrOf bytes
  let good := feedOk bytes = true ∧ h.type = type
  (u.pawn.cause ≠ 0 ∧ recordOf u p h.table = none ∧ x = selfDrop u) ∨
  (u.pawn.cause ≠ 0 ∧ ∃ d, recordOf u p h.table = some d ∧ x = modThis d (fun d => { d with lost := true }) (selfDrop u)) ∨
  (u.pawn.cause = 0 ∧ ¬ good ∧ x = u) ∨
  (u.pawn.cause = 0 ∧ good ∧ findTable u h.table = none ∧ recordOf u p h.table = none ∧ x = u) ∨
  (u.pawn.cause = 0 ∧ good ∧ findTable u h.table = none ∧ ∃ d, recordOf u p h.table = some d ∧
    x = wroteWord 2 9 (modThis d (recordIn bytes) u)) ∨
  (u.pawn.cause = 0 ∧ good ∧ ∃ tb k q, findTable u h.table = some tb ∧ tb.keeper = some k ∧ isCrown tb = true ∧ h.member = tb.member ∧
    p = some q ∧ pSrc q = k.spec.partner ∧
    x = tieCheck h.table (modTie h.table h.turn (fun y => { y with log := noteApplied (logRecord k.spec bytes y.log) }) u))

/-- R286 to R288, R300 to R304, R306 to R308, R560, R564, Table 10-3: a DoubleFeed record goes into the log of its
double at the partner, and in a tiebreak to the primary; in Pawn mode it is lost. When a turn's log is complete its
replay ends: the destination slot takes the tag and the state after the turn, and D_dbl is compared with D_prim: equal
gives OK, unequal starts a tiebreak, whose replay digests decide the verdict. At the primary a verdict ends the wait of
its turn, and STOP stops the Keeper. -/
def Obligations.TurnsAreReplayedAndJudged : Prop :=
  (∀ (l type : Nat) (bytes : List Byte) (s u x : State) (p : Option Packet), takeSelfFree l bytes s = (p, u) → live u = true →
    Statement.RecordTaken type bytes p u x →
    (type = 0 → exec (.grad l bytes) s = .next x) ∧ (type = 1 → exec (.commit l bytes) s = .next x) ∧
    (type = 2 → exec (.turnRecord l bytes) s = .next x) ∧ (type = 3 → exec (.load l bytes) s = .next x)) ∧
  (∀ (prim table i : Nat) (s : State) (d : Double) (lg : GradLog), cpRuns s = true → attachedOf s prim table = some d →
    d.log = some lg → sourceSlot d = some i → lg.started = true → logComplete lg = true → d.dDbl = none → d.state ≠ 3 →
    let src := (slotOf d i).params
    let tv := lg.vals.getD {}
    let after := modSlot (1 - i) (fun x => { x with
      tag := lg.turn, opening := false, valid := d.state = 1, params := (replayTurn d.spec lg src).1, step := tv.step
      b1pow := tv.b1pow, b2pow := tv.b2pow }) d
    let d' := { after with
      reused := false, copied := after.copied + (src.filter fun (p : KParam) => !(writtenBy lg).contains p.param).length }
    (d.state = 1 → exec (.turnReplayDone prim table) s = .next (modThis d
      (fun _ => retakeEarly { d' with state := 0, log := none, dPrim := none }) (wroteWord 2 8 s))) ∧
    (d.state ≠ 1 → exec (.turnReplayDone prim table) s = .next (compareDigests prim table
      (modThis d (fun _ => { d' with dDbl := some (lg.turn, (replayTurn d.spec lg src).2) }) (wroteWord 2 8 s))))) ∧
  (∀ (prim table turn x y : Nat) (s : State) (d : Double), attachedOf s prim table = some d → d.dDbl = some (turn, x) →
    d.dPrim = some (turn, y) →
    (d.tie = false → x = y → compareDigests prim table s = giveVerdict d 0 s) ∧
    (d.tie = false → x ≠ y → compareDigests prim table s = startTie d s) ∧
    (∀ a b, d.tie = true → d.repOwn = some a → d.repPrim = some b →
      (a ≠ b → decideTie prim table s = giveVerdict d 3 s) ∧
      (a = b → a ≠ y → a = x → decideTie prim table s = giveVerdict d 2 s) ∧
      (a = b → a ≠ y → a ≠ x → decideTie prim table s = giveVerdict d 3 s) ∧
      (∀ lg i, a = b → a = y → d.log = some lg → sourceSlot d = some i →
        let z := replayTurn d.spec lg (slotOf d i).params
        let d' := { modSlot (1 - i) (fun q => { q with params := z.1 }) d with dDbl := some (turn, z.2) }
        decideTie prim table s = giveVerdict d' (if z.2 = y then 1 else 3) (modThis d (fun _ => d') s)))) ∧
  (∀ (l : Nat) (f : List W64) (c : Ctl) (s u : State) (d : Double), Statement.CtlArrives l 2 f c s u →
    attachedOf u c.prim c.table = some d →
    (d.tie = true → exec (.digest l f) s =
      .next (decideTie c.prim c.table (modThis d (fun d => { d with repPrim := some c.b }) u))) ∧
    (d.tie = false → exec (.digest l f) s =
      .next (compareDigests c.prim c.table (modThis d (fun d => { d with dPrim := some (c.turn, c.a) }) u)))) ∧
  (∀ (prim table i : Nat) (w : WordRead) (s : State) (d : Double) (lg : GradLog), cpRuns s = true → attachedOf s prim table = some d →
    d.tie = true → d.log = some lg → sourceSlot d = some i →
    (w = .failed → exec (.tiebreakReplayDone prim table w) s = .next (giveVerdict d 3 (readWord 2 (.doubleSlot prim table i 0) .failed s))) ∧
    (w ≠ .failed → exec (.tiebreakReplayDone prim table w) s = .next (decideTie prim table (modThis d
      (fun d => { d with repOwn := some (replayTurn d.spec lg (slotOf d i).params).2 }) (readWord 2 (.gradientLog prim table) w s))))) ∧
  (∀ (l : Nat) (f : List W64) (c : Ctl) (s u : State) (tb : Table) (k : Keeper), findTable u c.table = some tb → tb.keeper = some k →
    c.prim = u.ident.eid →
    (Statement.CtlArrives l 4 f c s u → exec (.tiebreak l f) s = .next (tieCheck c.table (modTie c.table c.turn
      (fun x => { x with dDbl := c.a }) (modPrim c.table (fun d => { d with tiebreaks := d.tiebreaks + 1 }) u)))) ∧
    (Statement.CtlArrives l 3 f c s u →
      let v := modPrim c.table (fun d => { d with
        lastVerdict := c.code, lastTurn := some c.turn, verified := if c.code ≤ 1 then c.turn else d.verified
        repairs := d.repairs + b2n (c.code = 1), tie := none }) (modTurn c.table c.turn (fun q => { q with verdict := true }) u)
      ∀ w x, (2 ≤ c.code ∧ w = stopKeeper c.table v) ∨ (c.code ≤ 1 ∧ w = flushFeed c.table v) →
        ((∃ tb', findTable w c.table = some tb' ∧ verdictDue tb' (tb'.turn + 1) = true) ∧ x = w) ∨
          ((∀ tb', findTable w c.table = some tb' → verdictDue tb' (tb'.turn + 1) = false) ∧
            x = modPrim c.table (fun d => { d with waitSince := none }) w) →
        exec (.verdict l f) s = .next (ckptVerdict c.table c.turn c.code x))) ∧
  (∀ (l : Nat) (bytes : List Byte) (h : SyncHdr) (s u : State) (tb : Table) (k : Keeper), Statement.SyncArrives l 2 bytes h s u →
    findTable u h.table = some tb → tb.keeper = some k → h.prim = u.ident.eid → syncOk k.spec.rule bytes = true →
    ∀ turn, turn = (k.dbl.tie.map (·.turn)).getD (h.turn + 1) →
    exec (.doublesyncTiebreak l bytes) s = .next (tieCheck h.table (modTie h.table turn
      (fun x => { x with state := putPs x.state (syncParams k.spec.rule bytes) }) u)))

/-- R297, R298, R309 to R315, Table 17-2: HELLO is answered with ACCEPT, which says whether an attached double of those
values is here; ACCEPT completes or rejects TABLE_OPEN, and 10 ms without one rejects it. CLOSE removes the double;
PHASE is noted once for the next TURN_BEGIN and passed on. REBUILD goes into the slots or waits, and REPAIR replaces
damaged parameters only. A hazard that fires in its window is taken for the next turn of every table and sent to the
primaries of the doubles held; HAZARD is taken for the turn it names; a window that ends restarts the count. -/
def Obligations.DoublesMeetAreRepairedAndHazardsFire : Prop :=
  (∀ (l : Nat) (f : List W64) (c : Ctl) (s u : State), Statement.CtlArrives l 0 f c s u →
    let reply := fun code => sendCtl c.prim { ctl := 1, code := code, table := c.table, prim := c.prim } u
    ((∃ d, attachedOf u c.prim c.table = some d ∧ d.spec.crc = c.a) → exec (.hello l f) s = .next (reply 0)) ∧
    ((∀ d, attachedOf u c.prim c.table = some d → d.spec.crc ≠ c.a) → exec (.hello l f) s = .next (reply 1))) ∧
  (∀ (l : Nat) (f : List W64) (c : Ctl) (s u : State) (o : Opening), Statement.CtlArrives l 1 f c s u →
    u.opening.find? (fun o => o.table.id = c.table) = some o → c.prim = u.ident.eid →
    let v := { u with opening := u.opening.filter fun o => o.table.id ≠ c.table }
    (c.code = 0 → exec (.accept l f) s = .next (respond o.mailbox { data := leBytes 8 o.table.board.digest } (openNow o.table v))) ∧
    (c.code ≠ 0 → exec (.accept l f) s = .next (respond o.mailbox { status := gPartner, detail := 1 } v))) ∧
  (∀ (t : Nat) (s : State) (o : Opening), live s = true → s.opening.find? (fun o => o.table.id = t) = some o →
    ∀ v, v = advanceTo (o.since + 10000000) s →
    exec (.helloTimeout t) s = .next (respond o.mailbox { status := gPartner }
      { v with opening := v.opening.filter fun o => o.table.id ≠ t })) ∧
  (∀ (l : Nat) (f : List W64) (c : Ctl) (s u : State),
    (Statement.CtlArrives l 6 f c s u →
      (∀ d, attachedOf u c.prim c.table = some d → exec (.close l f) s = .next (closeDouble d u)) ∧
      (attachedOf u c.prim c.table = none → exec (.close l f) s = .next u)) ∧
    (Statement.CtlArrives l 7 f c s u → ∀ tb, findTable u c.table = some tb →
      (tb.phaseSeen = some (c.turn, c.code) → exec (.phase l f) s = .next u) ∧
      (tb.phaseSeen ≠ some (c.turn, c.code) → exec (.phase l f) s = .next (forAll
        ((treeEids tb tb.board).filter fun e => some e ≠ neighbourOn tb tb.board l u) (fun e => sendCtl e c)
        (modTable c.table (fun tb => { tb with phaseDue := some c.code, phaseSeen := some (c.turn, c.code) }) u)))) ∧
    (Statement.CtlArrives l 5 f c s u → ∀ tb, findTable u c.table = some tb →
      (c.prim = u.ident.eid → exec (.hazard l f) s = .next (takeHazard tb (tb.turn + 1) c.code c.a u.ident.eid none u)) ∧
      (c.prim ≠ u.ident.eid → exec (.hazard l f) s =
        .next (takeHazard tb c.turn c.code c.a c.prim (neighbourOn tb tb.board l u) u)))) ∧
  (∀ (l : Nat) (bytes : List Byte) (h : SyncHdr) (s u : State),
    (Statement.SyncArrives l 0 bytes h s u → ∀ d, attachedOf u h.prim h.table = some d → syncOk d.spec.rule bytes = true →
      (∀ e, rebuildIn bytes d = some e → exec (.rebuild l bytes) s = .next (modThis d (fun _ => e) u)) ∧
      (rebuildIn bytes d = none → exec (.rebuild l bytes) s =
        .next (modThis d (fun d => { d with lateSync := d.lateSync ++ [bytes] }) u))) ∧
    (Statement.SyncArrives l 1 bytes h s u → ∀ tb k, findTable u h.table = some tb → tb.keeper = some k → h.prim = u.ident.eid →
      syncOk k.spec.rule bytes = true →
      let ps := (syncParams k.spec.rule bytes).filter fun p =>
        (getP k.params p.param).damaged && (getP k.params p.param).turn ≤ h.turn
      exec (.repair l bytes) s = .next (wroteWord 1 4 (modKeeper h.table (fun k => { k with
        params := putPs k.params (ps.map fun p => { p with turn := (getP k.params p.param).turn }) }) u)))) ∧
  (∀ (i : Nat) (s : State), i < 6 →
    (cpRuns s = true → hazOn (hazEntry s i) = true → (s.hazard.src.getD i {}).fired = false →
      (s.hazard.src.getD i {}).window = hazWindowNow s i → hazThreshold (hazEntry s i) ≤ (s.hazard.src.getD i {}).count →
      ∀ v, v = modHazard (fun h => { h with src := modAt h.src i (fun x => { x with fired := true }) }) s →
      ∀ w, w = forAll v.tables (fun tb s => takeHazard tb (tb.turn + 1) i (now s) s.ident.eid none s) v →
      exec (.hazardFire i) s = .next (forAll (w.doubles.filter attached) (fun d s => sendCtl d.primary
        { ctl := 5, code := i, table := d.table, prim := d.primary, turn := freeVal s, a := now s } (freeNext s)) w)) ∧
    (live s = true → hazWindow (hazEntry s i) ≠ 0 →
      let w := hazWindow (hazEntry s i) * 1000000
      ∀ v, v = advanceTo ((now s / w + 1) * w) s →
      exec (.hazardWindow i) s = .next (modHazard (fun h => { h with src := modAt h.src i (fun _ => { window := hazWindowNow v i }) }) v))) ∧
  (∀ (tb : Table) (k : Keeper) (turn source time prim : Nat) (except : Option Nat) (s : State), tb.keeper = some k →
    (isCrown tb = false ∨ k.hazTurn = some turn ∨ k.hazAt.any (fun a => now s < a + holdoffNs s) = true →
      takeHazard tb turn source time prim except s = s) ∧
    (isCrown tb = true → k.hazTurn ≠ some turn → k.hazAt.any (fun a => now s < a + holdoffNs s) = false → tb.board.ring.length ≤ 1 →
      takeHazard tb turn source time prim except s = modKeeper tb.id (fun k => { k with
        hazTurn := some turn
        ckptReq := if k.ckptReq.any (fun c => c.turn = turn) then k.ckptReq
          else k.ckptReq ++ [{ turn := turn, target := hazardTarget s, hazard := true }] }) s))

/-- R305, R319 to R323, Table 10-8: a durable index object puts the shard report; SHARD_DONE gets the own ring position and
goes round to position 0, which keeps it. A durable manifest puts the commit record, and a durable commit record ends the
checkpoint with COMMITTED; 600 s after the own verdict, or with a STOP verdict, it is abandoned. Its end goes round in
SLOT_RELEASE, which a member passes on once; a partner then releases the slot, as it does by itself 660 s after the verdict,
and the next checkpoint that waits starts. -/
def Obligations.CheckpointsCommitOrAreAbandoned : Prop :=
  (∀ (prim table : Nat) (s : State) (d : Double) (o : ShardOut), outDouble s prim table = some d → d.out = some o →
    (cpRuns s = true → o.stage = 4 → exec (.shardWriteDone prim table) s =
      .next (shardIssue d { o with stage := 5, report := shardReport s.ident.eid o } s)) ∧
    (live s = true → exec (.slotSelfRelease prim table) s =
      .next (releaseSlot { d with abandoned := d.abandoned + b2n (o.stage ≠ 7) } (advanceTo (o.since + 660000000000) s)))) ∧
  (∀ (l : Nat) (f : List W64) (c e : Ctl) (s u : State) (tb : Table) (k : Keeper), Statement.CtlArrives l 10 f c s u →
    findTable u c.table = some tb → isCrown tb = true → tb.keeper = some k →
    (c.prim = u.ident.eid ∧ e = { c with pos := ownPos tb tb.board }) ∨ (c.prim ≠ u.ident.eid ∧ e = c) →
    (ownPos tb tb.board = 0 → exec (.shardDone l f) s = .next (takeShard c.table e u)) ∧
    (ownPos tb tb.board ≠ 0 → exec (.shardDone l f) s = .next (sendCtl (eidOf tb (succOf tb tb.board)) e u))) ∧
  (∀ (t : Nat) (s : State) (tb : Table) (k : Keeper) (c : Ckpt), cpRuns s = true → ckptOf s t = some (tb, k, c) →
    (c.stage = 5 →
      let g := getTarget s c.target
      exec (.manifestDurable t) s = .next (issue (.putCommit t) c.target 3 true (namedKey g t c.slot 2 none) (commitOf tb c g s)
        (modCkpt t (fun c => { c with stage := 6 }) s))) ∧
    (c.stage = 7 → exec (.commitDurable t) s = .next (endCkpt t c.turn 0 s))) ∧
  (∀ (t since : Nat) (s : State) (tb : Table) (k : Keeper) (c : Ckpt), cpRuns s = true → findTable s t = some tb → tb.keeper = some k →
    isCrown tb = true → ownPos tb tb.board = 0 → (k.ckpt.toList ++ k.ckptReq).find? (fun c => c.since.isSome) = some c →
    c.since = some since →
    exec (.checkpointAbandonTimeout t) s = .next (endCkpt t c.turn 1 (advanceTo (since + 600000000000) s))) ∧
  (∀ (t turn code : Nat) (s : State) (tb : Table) (k : Keeper), findTable s t = some tb → tb.keeper = some k →
    ∀ v, v = (if k.ckpt.any (fun c => c.turn = turn) then dropStore (ckptWork t) s else s) →
    endCkpt t turn code s = startCkpt t (passRelease tb turn code v.ident.eid (modKeeper t (fun k => { k with
      ckpt := k.ckpt.filter fun c => c.turn ≠ turn, ckptReq := k.ckptReq.filter fun c => c.turn ≠ turn
      dbl := { k.dbl with committed := k.dbl.committed + b2n (code = 0), abandoned := k.dbl.abandoned + b2n (code ≠ 0) } }) v))) ∧
  (∀ (t turn code : Nat) (s : State) (tb : Table) (k : Keeper) (c : Ckpt), findTable s t = some tb → tb.keeper = some k →
    k.ckptReq.find? (fun c => c.turn = turn) = some c → 2 ≤ code →
    (isCrown tb = true → ownPos tb tb.board = 0 → ckptVerdict t turn code s = endCkpt t turn 1 s) ∧
    (isCrown tb = false ∨ ownPos tb tb.board ≠ 0 → ckptVerdict t turn code s = modKeeper t (fun k => { k with
      ckptReq := k.ckptReq.filter fun x => x.turn ≠ turn, dbl := { k.dbl with abandoned := k.dbl.abandoned + 1 } }) s)) ∧
  (∀ (l : Nat) (f : List W64) (c : Ctl) (s u : State), Statement.CtlArrives l 11 f c s u →
    (∀ d o, attachedOf u c.prim c.table = some d → d.out = some o → o.turn = c.turn → ∀ v,
      v = releaseSlot { d with abandoned := d.abandoned + b2n (c.code = 1 && o.stage ≠ 7) } u → findTable v c.table = none →
      exec (.slotRelease l f) s = .next v) ∧
    (∀ tb k, attachedOf u c.prim c.table = none → findTable u c.table = some tb → tb.keeper = some k → isCrown tb = true →
      ownPos tb tb.board ≠ 0 → c.prim ≠ u.ident.eid → tb.board.ring.head?.map (eidOf tb) = some c.prim →
      (k.relSeen = some c.turn → exec (.slotRelease l f) s = .next u) ∧
      (k.relSeen ≠ some c.turn → exec (.slotRelease l f) s = .next (passRelease tb c.turn c.code c.prim (modKeeper c.table (fun k' =>
        { k' with
          relSeen := some c.turn, ckptReq := k'.ckptReq.filter fun x => x.turn ≠ c.turn
          dbl := { k'.dbl with
            abandoned := k'.dbl.abandoned + b2n ((k.ckptReq.any fun x => x.turn = c.turn) && c.code = 1) } }) u)))))

/-- R518 to R528, R545, R548, Table 16-3, Table 17-7: the scrubber reads the words of a tier in order and starts again
after the last; a word that was corrected is counted, and one that failed is counted and acts by the region it lies in.
A read of another word, or while scrubbing stands, changes nothing. An idle interval of 16 ns opens at the next multiple
of 16 and is charged, for every table that is open by then, to the first cause of Table 17-7 that holds at its start. -/
def Obligations.WordsAreScrubbedAndIdleTimeIsCharged : Prop :=
  (∀ (tier addr : Nat) (o : WordOwner) (w : WordRead) (rewritten : Bool) (s : State),
    (scrubs s = false ∨ 4 ≤ tier ∨ addr ≠ (s.mem.tiers.getD tier {}).scrubAt → exec (.scrubRead tier addr o w rewritten) s = .next s) ∧
    (scrubs s = true → tier < 4 → addr = (s.mem.tiers.getD tier {}).scrubAt → ∀ v,
      (w = .ok ∧ v = s) ∨ (∃ bit, w = .corrected bit ∧ v = wordCorrected tier addr bit o true rewritten s) ∨
        (w = .failed ∧ v = failWord tier addr o (wordFailed tier addr o true s)) →
      exec (.scrubRead tier addr o w rewritten) s = .next (modTier tier (fun t =>
        if capacityOf tier ≤ t.scrubAt + 8 then { t with scrubAt := 0, passes := t.passes + 1, tLastPass := now v }
        else { t with scrubAt := t.scrubAt + 8 }) v))) ∧
  (∀ (tier addr t r c n prim bd slot p : Nat) (s : State),
    failWord tier addr (.packetCell bd n) s = failPacket n s ∧
    failWord tier addr (.accumulator t r c) s = failRound t r stWord 0 false c none s ∧
    failWord tier addr (.keeper t p) s = modKeeper t (fun k => { k with
      params := updWhere (fun x => x.param = p) (fun x => { x with damaged := true }) k.params }) s ∧
    failWord tier addr (.residual t bd slot) s = zeroResid t bd slot s ∧
    failWord tier addr (.doubleSlot prim t slot p) s = { s with
      doubles := updWhere (fun d => d.primary = prim && d.table = t) (fun d => { d with marks := insertN p d.marks }) s.doubles } ∧
    failWord tier addr (.gradientLog prim t) s = modDouble prim t failLog s ∧
    failWord tier addr (.moveWindow t) s = closeTable t s) ∧
  (∀ (s u v : State), live s = true → s.pawn.cause = 0 → u = advanceTo (ceilDiv (now s) 16 * 16) s →
    v = advanceTo (ceilDiv (now s) 16 * 16 + 16) u →
    exec .idleInterval s = .next { v with tables := v.tables.map fun tb => if tb.openedAt ≤ ceilDiv (now s) 16 * 16 then
      { tb with idle := { openNs := tb.idle.openNs + 16, ns := match idleCause u tb with
          | some i => modAt tb.idle.ns i (· + 16)
          | none => tb.idle.ns } } else tb })
end

