-- ==== Sys2Proof/Laws/Keeps.lean ====
section
/-! SUPPORT. What every update of the state keeps: the queue, what has been sent out, the count of free values taken,
and the invariant of Safety. -/

namespace Sys2Proof.Laws
open Sys2Proof Sys2Proof.Machine Sys2Proof.Safety
variable {T : StatePart → Bool}

/-- Flash that keeps its canonical form and every byte outside the slots of images (Table 19-2). -/
structure FlashOk (m n : List Host.Cell) : Prop where
  wf      : Memory.wf m = true → Memory.wf n = true
  outside : ∀ a, a < 0x100000 ∨ (0x300000 ≤ a ∧ a < 0x400000) ∨ 0x2400000 ≤ a → flashGet n a = flashGet m a

theorem FlashOk.refl (m : List Host.Cell) : FlashOk m m := ⟨id, fun _ _ => rfl⟩

/-- A part that may change. -/
class May (T : StatePart → Bool) (p : StatePart) : Prop where
  ok : T p = true

theorem May.no {p : StatePart} [May T p] {P : Prop} (h : T p = false) : P := by rw [May.ok (T := T)] at h; cases h

theorem may_or {p : StatePart} {P : Prop} (g : T p = true ∨ P) (h : T p = false) : P :=
  g.elim (fun e => by rw [e] at h; cases h) id

/-- From s to t the queue is the same, what has been sent out stays sent, no free value is taken back, flash outside the
slots of images and every part but those of T are the same, and the invariant is kept. -/
structure Keeps (T : StatePart → Bool) (s t : State) : Prop where
  pending : t.pending = s.pending
  out     : ∃ o, t.out = s.out ++ o
  free    : s.free ≤ t.free
  flash   : ∀ a, a < 0x100000 ∨ (0x300000 ≤ a ∧ a < 0x400000) ∨ 0x2400000 ≤ a → flashGet t.flash a = flashGet s.flash a
  same_   : ∀ p, T p = false → p.same s t
  inv     : Inv s → Inv t

theorem StatePart.same_refl (p : StatePart) (s : State) : p.same s s := by cases p <;> exact rfl

theorem StatePart.same_trans {p : StatePart} {s t u : State} (h : p.same s t) (k : p.same t u) : p.same s u := by
  cases p <;> exact Eq.trans k h

theorem Keeps.refl (s : State) : Keeps T s s :=
  ⟨rfl, ⟨[], (List.append_nil _).symm⟩, Nat.le_refl _, fun _ _ => rfl, fun p _ => StatePart.same_refl p s, id⟩

theorem Keeps.trans {s t u : State} (h : Keeps T s t) (k : Keeps T t u) : Keeps T s u := by
  obtain ⟨o, ho⟩ := h.out
  obtain ⟨p, hp⟩ := k.out
  exact ⟨k.pending.trans h.pending, ⟨o ++ p, by rw [hp, ho, List.append_assoc]⟩, Nat.le_trans h.free k.free,
    fun x hx => (k.flash x hx).trans (h.flash x hx),
    fun p q => StatePart.same_trans (h.same_ p q) (k.same_ p q), k.inv ∘ h.inv⟩

/-- An update that sends nothing and keeps every part of the invariant. -/
theorem Keeps.upd {a s t : State} (h : Keeps T a s) (e1 : t.pending = s.pending) (e2 : t.out = s.out) (e3 : s.free ≤ t.free)
    (flash : FlashOk s.flash s.flash → FlashOk s.flash t.flash) (mbox : s.mbox.length = 64 → t.mbox.length = 64)
    (host : s.host.length = 8 → t.host.length = 8) (ports : s.ports.length = 64 → t.ports.length = 64)
    (links : s.links.length = 512 → t.links.length = 512) (targets : s.targets.length = 16 → t.targets.length = 16)
    (mu : s.mu.units.length = 2 → t.mu.units.length = 2) (kunits : s.kunits.units.length = 8 → t.kunits.units.length = 8)
    (boot : bootOk s.boot → bootOk t.boot) (power : powerOk s.power → powerOk t.power)
    (alert : alertOk s.alert → alertOk t.alert) (ident : identOk s.ident → identOk t.ident)
    (telem : telemOk s.telem → telemOk t.telem) (pawn : pawnOk s.pawn → pawnOk t.pawn)
    (route : routeOk s.route → routeOk t.route) (pot : potOk s.pot → potOk t.pot) (sq : sqOk s.sq → sqOk t.sq)
    (ladder : ladderOk s.ladder → ladderOk t.ladder) (mem : memOk s.mem → memOk t.mem)
    (hazard : hazardOk s.hazard → hazardOk t.hazard) (feed : planeOk s.feed → planeOk t.feed)
    (sm : ∀ p, T p = false → p.same s t) : Keeps T a t :=
  h.trans ⟨e1, ⟨[], by rw [e2, List.append_nil]⟩, e3, (flash (FlashOk.refl _)).outside, sm, fun i =>
    ⟨(flash (FlashOk.refl _)).wf i.flash, mbox i.mbox, host i.host, ports i.ports, links i.links, targets i.targets, mu i.mu, kunits i.kunits,
      boot i.boot, power i.power, alert i.alert, ident i.ident, telem i.telem, pawn i.pawn, route i.route, pot i.pot,
      sq i.sq, ladder i.ladder, mem i.mem, hazard i.hazard, feed i.feed⟩⟩

/-- An update of fields that no part of the invariant speaks of. -/
theorem Keeps.same {a s t : State} (h : Keeps T a s) (e1 : t.pending = s.pending) (e2 : t.out = s.out) (e3 : t.free = s.free)
    (flash : t.flash = s.flash) (mbox : t.mbox = s.mbox)
    (host : t.host = s.host) (ports : t.ports = s.ports)
    (links : t.links = s.links) (targets : t.targets = s.targets)
    (mu : t.mu = s.mu) (kunits : t.kunits = s.kunits)
    (boot : t.boot = s.boot) (power : t.power = s.power)
    (alert : t.alert = s.alert) (ident : t.ident = s.ident)
    (telem : t.telem = s.telem) (pawn : t.pawn = s.pawn)
    (route : t.route = s.route) (pot : t.pot = s.pot) (sq : t.sq = s.sq)
    (ladder : t.ladder = s.ladder) (mem : t.mem = s.mem)
    (hazard : t.hazard = s.hazard) (feed : t.feed = s.feed)
    (sm : ∀ p, T p = false → p.same s t) : Keeps T a t :=
  h.upd e1 e2 (Nat.le_of_eq e3.symm) (by rw [flash]; exact id) (by rw [mbox]; exact id) (by rw [host]; exact id)
    (by rw [ports]; exact id) (by rw [links]; exact id) (by rw [targets]; exact id) (by rw [mu]; exact id)
    (by rw [kunits]; exact id) (by rw [boot]; exact id) (by rw [power]; exact id) (by rw [alert]; exact id)
    (by rw [ident]; exact id) (by rw [telem]; exact id) (by rw [pawn]; exact id) (by rw [route]; exact id)
    (by rw [pot]; exact id) (by rw [sq]; exact id) (by rw [ladder]; exact id) (by rw [mem]; exact id)
    (by rw [hazard]; exact id) (by rw [feed]; exact id) sm

@[simp] theorem modAt_length {α : Type} (l : List α) (i : Nat) (f : α → α) : (modAt l i f).length = l.length := by
  induction l generalizing i with
  | nil => rfl
  | cons x xs ih => cases i <;> simp [modAt, ih]

theorem modAt_getD {α : Type} (l : List α) (i j : Nat) (f : α → α) (d : α) :
    (modAt l i f).getD j d = if i = j ∧ j < l.length then f (l.getD j d) else l.getD j d := by
  induction l generalizing i j with
  | nil => simp [modAt]
  | cons x xs ih =>
    cases i <;> cases j <;> simp_all [modAt]

/-- An update, field by field: only the fields that the invariant speaks of need a proof. -/
theorem keeps_mk {a s : State} {free : Nat} {pins : Pins} {boot : Boot} {power : Power} {alert : Alert} {wd : Watchdog} {time : Time} {ident : Ident} {flash : List Host.Cell} {mbox : List Mailbox} {gci : Gci} {host : List HostPort} {telem : Telemetry} {ports : List Port} {links : List Link} {route : Route} {pot : Pot} {sq : Squares} {ladder : Ladder} {inbox : List Arrived} {pawn : Pawn} {mem : Mem} {sheet : Sheet} {hazard : Hazard} {tables : List Table} {opening : List Opening} {feed : Feed} {mu : Serve} {mats : List MatBufs} {norm : List NormWork} {pipes : List (Option NormWork)} {dma : List (Nat × Nat × Nat × Nat)} {kunits : Serve} {doubles : List Double} {detachNum : Nat} {targets : List Target} {store : Store} {held : List HeldMsg} {strayAll : Stray}
    (h : Keeps T a s)
    (h_free : s.free ≤ free)
    (h_flash : FlashOk s.flash s.flash → FlashOk s.flash flash)
    (h_mbox : s.mbox.length = 64 → mbox.length = 64)
    (h_host : s.host.length = 8 → host.length = 8)
    (h_ports : s.ports.length = 64 → ports.length = 64)
    (h_links : s.links.length = 512 → links.length = 512)
    (h_targets : s.targets.length = 16 → targets.length = 16)
    (h_mu : s.mu.units.length = 2 → mu.units.length = 2)
    (h_kunits : s.kunits.units.length = 8 → kunits.units.length = 8)
    (h_boot : bootOk s.boot → bootOk boot)
    (h_power : powerOk s.power → powerOk power)
    (h_alert : alertOk s.alert → alertOk alert)
    (h_ident : identOk s.ident → identOk ident)
    (h_telem : telemOk s.telem → telemOk telem)
    (h_pawn : pawnOk s.pawn → pawnOk pawn)
    (h_route : routeOk s.route → routeOk route)
    (h_pot : potOk s.pot → potOk pot)
    (h_sq : sqOk s.sq → sqOk sq)
    (h_ladder : ladderOk s.ladder → ladderOk ladder)
    (h_mem : memOk s.mem → memOk mem)
    (h_hazard : hazardOk s.hazard → hazardOk hazard)
    (h_feed : planeOk s.feed → planeOk feed)
    (g_free : T .free = true ∨ free = s.free)
    (g_pins : T .pins = true ∨ pins = s.pins)
    (g_boot : T .boot = true ∨ boot = s.boot)
    (g_power : T .power = true ∨ power = s.power)
    (g_alert : T .alert = true ∨ alert = s.alert)
    (g_wd : T .wd = true ∨ wd = s.wd)
    (g_time : T .time = true ∨ time = s.time)
    (g_ident : T .ident = true ∨ ident = s.ident)
    (g_flash : T .flash = true ∨ flash = s.flash)
    (g_mbox : T .mbox = true ∨ mbox = s.mbox)
    (g_gci : T .gci = true ∨ gci = s.gci)
    (g_host : T .host = true ∨ host = s.host)
    (g_telem : T .telem = true ∨ telem = s.telem)
    (g_ports : T .ports = true ∨ ports = s.ports)
    (g_links : T .links = true ∨ links = s.links)
    (g_route : T .route = true ∨ route = s.route)
    (g_pot : T .pot = true ∨ pot = s.pot)
    (g_sq : T .sq = true ∨ sq = s.sq)
    (g_ladder : T .ladder = true ∨ ladder = s.ladder)
    (g_inbox : T .inbox = true ∨ inbox = s.inbox)
    (g_pawn : T .pawn = true ∨ pawn = s.pawn)
    (g_mem : T .mem = true ∨ mem = s.mem)
    (g_sheet : T .sheet = true ∨ sheet = s.sheet)
    (g_hazard : T .hazard = true ∨ hazard = s.hazard)
    (g_tables : T .tables = true ∨ tables = s.tables)
    (g_opening : T .opening = true ∨ opening = s.opening)
    (g_feed : T .feed = true ∨ feed = s.feed)
    (g_mu : T .mu = true ∨ mu = s.mu)
    (g_mats : T .mats = true ∨ mats = s.mats)
    (g_norm : T .norm = true ∨ norm = s.norm)
    (g_pipes : T .pipes = true ∨ pipes = s.pipes)
    (g_dma : T .dma = true ∨ dma = s.dma)
    (g_kunits : T .kunits = true ∨ kunits = s.kunits)
    (g_doubles : T .doubles = true ∨ doubles = s.doubles)
    (g_detachNum : T .detachNum = true ∨ detachNum = s.detachNum)
    (g_targets : T .targets = true ∨ targets = s.targets)
    (g_store : T .store = true ∨ store = s.store)
    (g_held : T .held = true ∨ held = s.held)
    (g_strayAll : T .strayAll = true ∨ strayAll = s.strayAll)
    : Keeps T a (State.mk s.pending s.out free pins boot power alert wd time ident flash mbox gci host telem ports links route pot sq ladder inbox pawn mem sheet hazard tables opening feed mu mats norm pipes dma kunits doubles detachNum targets store held strayAll) :=
  h.upd rfl rfl h_free h_flash h_mbox h_host h_ports h_links h_targets h_mu h_kunits h_boot h_power h_alert h_ident h_telem h_pawn h_route h_pot h_sq h_ladder h_mem h_hazard h_feed
    (fun p q => by
      cases p <;> first | exact rfl | exact may_or g_free q | exact may_or g_pins q | exact may_or g_boot q | exact may_or g_power q | exact may_or g_alert q | exact may_or g_wd q | exact may_or g_time q | exact may_or g_ident q | exact may_or g_flash q | exact may_or g_mbox q | exact may_or g_gci q | exact may_or g_host q | exact may_or g_telem q | exact may_or g_ports q | exact may_or g_links q | exact may_or g_route q | exact may_or g_pot q | exact may_or g_sq q | exact may_or g_ladder q | exact may_or g_inbox q | exact may_or g_pawn q | exact may_or g_mem q | exact may_or g_sheet q | exact may_or g_hazard q | exact may_or g_tables q | exact may_or g_opening q | exact may_or g_feed q | exact may_or g_mu q | exact may_or g_mats q | exact may_or g_norm q | exact may_or g_pipes q | exact may_or g_dma q | exact may_or g_kunits q | exact may_or g_doubles q | exact may_or g_detachNum q | exact may_or g_targets q | exact may_or g_store q | exact may_or g_held q | exact may_or g_strayAll q)

/-- An update that may not happen keeps. -/
def KeepsO (T : StatePart → Bool) (a : State) (o : Option State) : Prop := ∀ t, o = some t → Keeps T a t

theorem keepsO_none {a : State} : KeepsO T a none := fun _ e => by cases e
theorem keepsO_some {a s : State} (h : Keeps T a s) : KeepsO T a (some s) := fun _ e => by cases e; exact h
theorem keepsO_eq {a t : State} {o : Option State} (e : o = some t) (h : KeepsO T a o) : Keeps T a t := h t e

theorem keepsO_getD {a s : State} {o : Option State} (h : KeepsO T a o) (k : Keeps T a s) : Keeps T a (o.getD s) := by
  cases o with
  | none => exact k
  | some t => exact h t rfl

/-- The same of an update that also answers something. -/
def KeepsP {α : Type} (T : StatePart → Bool) (a : State) (o : Option (α × State)) : Prop := ∀ x t, o = some (x, t) → Keeps T a t

theorem keepsP_none {α : Type} {a : State} : KeepsP (α := α) T a none := fun _ _ e => by cases e
theorem keepsP_some {α : Type} {a s : State} {x : α} (h : Keeps T a s) : KeepsP T a (some (x, s)) := fun _ _ e => by cases e; exact h

/-- The same of an update that happens on an error. -/
def KeepsE {α : Type} (T : StatePart → Bool) (a : State) (o : Except State α) : Prop := ∀ t, o = .error t → Keeps T a t

theorem keepsE_ok {α : Type} {a : State} {x : α} : KeepsE T a (.ok x) := fun _ e => by cases e
theorem keepsE_error {α : Type} {a s : State} (h : Keeps T a s) : KeepsE (α := α) T a (.error s) := fun _ e => by cases e; exact h

/-- The same of an update that an error turns away. -/
def KeepsW {ε : Type} (T : StatePart → Bool) (a : State) (o : Except ε State) : Prop := ∀ t, o = .ok t → Keeps T a t

theorem keepsW_ok {ε : Type} {a s : State} (h : Keeps T a s) : KeepsW (ε := ε) T a (.ok s) := fun _ e => by cases e; exact h
theorem keepsW_error {ε : Type} {a : State} {x : ε} : KeepsW T a (.error x) := fun _ e => by cases e

theorem keeps_snd {α : Type} {a t : State} {r : α} {p : α × State} (e : p = (r, t)) (h : Keeps T a p.2) : Keeps T a t := by
  rw [e] at h; exact h

/-- Banks changed alike keep what is said of the current one. -/
theorem routeOk_map {r r' : Route} (g : RouteBank → RouteBank) (hg : ∀ b, (g b).state = 1 ↔ b.state = 1)
    (hb : r'.banks = r.banks.map g) (hc : r'.cur = r.cur) (hk : r'.kibitz.length = r.kibitz.length) (h : routeOk r) :
    routeOk r' := by
  obtain ⟨h1, h2, h3, h4⟩ := h
  refine ⟨by simpa [hb] using h1, hk.trans h2, by rw [hc]; exact h3, fun i => ?_⟩
  rw [hc, ← h4 i, hb, List.getD_eq_getElem?_getD, List.getD_eq_getElem?_getD, List.getElem?_map]
  cases r.banks[i]? with
  | none => simp
  | some b => exact hg b

/-- What an intermediate state keeps is at hand for what follows. -/
theorem keeps_pass {P : Prop} {a x : State} (h : Keeps T a x) (k : Keeps T a x → P) : P := k h

/-- A local update is put in its place. -/
theorem keeps_fun {P : Prop} {α : Type} (_ : α → State) (h : P) : P := h

/-- An update applied for every element keeps what each application keeps. -/
theorem keeps_forAll {α : Type} {a s : State} (xs : List α) (f : α → State → State)
    (hf : ∀ x t, Keeps T a t → Keeps T a (f x t)) (h : Keeps T a s) : Keeps T a (forAll xs f s) := by
  unfold forAll
  induction xs generalizing s with
  | nil => exact h
  | cons x xs ih => exact ih (hf x s h)

theorem keeps_foldl {α : Type} {a s : State} (xs : List α) (f : State → α → State)
    (hf : ∀ x t, Keeps T a t → Keeps T a (f t x)) (h : Keeps T a s) : Keeps T a (xs.foldl f s) := by
  induction xs generalizing s with
  | nil => exact h
  | cons x xs ih => exact ih (hf x s h)

theorem keeps_whenDo {a s : State} (b : Bool) (f : State → State) (hf : Keeps T a (f s)) (h : Keeps T a s) :
    Keeps T a (whenDo b f s) := by
  unfold whenDo; split <;> assumption

theorem flashSet_head (m : List Host.Cell) (c : Host.Cell) (a : Nat) (b : Byte) (h : Memory.wf (c :: m) = true) (hc : c.1 < a) :
    Memory.wf (c :: flashSet m a b) = true := by
  induction m generalizing c with
  | nil =>
    unfold flashSet
    split
    · exact h
    · simp_all [Memory.wf]
  | cons e m ih =>
    unfold flashSet
    simp only [Memory.wf, Bool.and_eq_true, decide_eq_true_eq, ne_eq] at h
    obtain ⟨⟨h1, h2⟩, h3⟩ := h
    split
    · simp only [Memory.wf, Bool.and_eq_true, decide_eq_true_eq, ne_eq]
      rename_i he
      have := ih e h3 he
      revert this
      cases hm : flashSet m a b <;> simp_all [Memory.wf]
    · split
      · split
        · cases m with
          | nil => simp_all [Memory.wf]
          | cons f m => simp_all [Memory.wf]; omega
        · cases m with
          | nil => simp_all [Memory.wf]
          | cons f m => simp_all [Memory.wf]
      · split
        · simp_all [Memory.wf]
        · simp_all [Memory.wf]; omega

/-- Writing a byte keeps the canonical form of flash. -/
theorem wf_flashSet (m : List Host.Cell) (a : Nat) (b : Byte) (h : Memory.wf m = true) : Memory.wf (flashSet m a b) = true := by
  cases m with
  | nil => unfold flashSet; split <;> simp_all [Memory.wf]
  | cons e m =>
    unfold flashSet
    split
    · exact flashSet_head m e a b h (by assumption)
    · split
      · split
        · cases m with
          | nil => rfl
          | cons f m => simp_all [Memory.wf]
        · cases m <;> simp_all [Memory.wf]
      · split
        · exact h
        · cases m <;> simp_all [Memory.wf] <;> omega

/-- Writing bytes keeps the canonical form of flash. -/
theorem wf_flashWrite (bs : List Byte) (m : List Host.Cell) (a : Nat) (h : Memory.wf m = true) :
    Memory.wf (flashWrite m a bs) = true := by
  induction bs generalizing m a with
  | nil => exact h
  | cons b bs ih => exact ih _ _ (wf_flashSet m a b h)

/-- A byte written leaves every other byte of flash. -/
theorem flashGet_flashSet_ne (m : List Host.Cell) {a x : Nat} (b : Byte) (h : a ≠ x) : flashGet (flashSet m a b) x = flashGet m x := by
  induction m with
  | nil => unfold flashSet; split <;> simp [flashGet, h]
  | cons e m ih =>
    unfold flashSet
    split
    · simp only [flashGet, List.find?_cons] at ih ⊢; split <;> simp_all
    · split
      · rename_i h1 h2; subst h2
        split <;> simp [flashGet, List.find?_cons, h]
      · split <;> simp [flashGet, List.find?_cons, h]

/-- Bytes written leave every byte of flash before and after them. -/
theorem flashGet_flashWrite_ne (bs : List Byte) (m : List Host.Cell) {a x : Nat} (h : x < a ∨ a + bs.length ≤ x) :
    flashGet (flashWrite m a bs) x = flashGet m x := by
  induction bs generalizing m a with
  | nil => rfl
  | cons b bs ih =>
    simp only [List.length_cons] at h
    rw [flashWrite, ih _ (by omega), flashGet_flashSet_ne _ _ (by omega)]

/-- An image's bytes written to a slot of its kind stay within the slots. -/
theorem flashOk_write (m : List Host.Cell) (config : Bool) (b : Nat) (bs : List Byte)
    (h : bs.length ≤ if config then 16777216 else 1048576) : FlashOk m (flashWrite m (slotAt config b) bs) where
  wf := wf_flashWrite bs m _
  outside := fun x hx => flashGet_flashWrite_ne bs m (by
    unfold slotAt
    cases config <;> simp only [Bool.false_eq_true, if_true, if_false] at h ⊢ <;> split <;> omega)

end Sys2Proof.Laws
end

