-- ==== Sys2Proof/Laws/KeepsOps.lean ====
section
/-! SUPPORT. What the operations of Ops keep. -/

namespace Sys2Proof.Laws
open Sys2Proof Sys2Proof.Machine Sys2Proof.Safety
variable {T : StatePart → Bool}

theorem keeps_emit {a s : State} (e : Emission) (h : Keeps T a s) [May T .out] : Keeps T a (emit e s) :=
  h.trans ⟨rfl, ⟨[e], rfl⟩, Nat.le_refl _, fun _ _ => rfl,
    (by intro p q; cases p <;> first | exact May.no q | exact rfl), fun i => { i with }⟩

theorem keeps_emits {a s : State} (es : List Emission) (h : Keeps T a s) [May T .out] : Keeps T a (emits es s) :=
  h.trans ⟨rfl, ⟨es, rfl⟩, Nat.le_refl _, fun _ _ => rfl,
    (by intro p q; cases p <;> first | exact May.no q | exact rfl), fun i => { i with }⟩

theorem keeps_freeNext {a s : State} (h : Keeps T a s) [May T .free] : Keeps T a (freeNext s) :=
  h.trans ⟨rfl, ⟨[], (List.append_nil _).symm⟩, Nat.le_succ _, fun _ _ => rfl,
    (by intro p q; cases p <;> first | exact May.no q | exact rfl), fun i => { i with }⟩

theorem keeps_modLink {a s : State} (i : Nat) (f : Link → Link) (h : Keeps T a s) [May T .links] : Keeps T a (modLink i f s) :=
  h.upd rfl rfl (Nat.le_refl _) id id id id (fun e => by rw [← e]; exact modAt_length _ _ _) id id id id id id id id id id id id id id id id (by intro p q; cases p <;> first | exact May.no q | exact rfl)

theorem keeps_modPort {a s : State} (i : Nat) (f : Port → Port) (h : Keeps T a s) [May T .ports] : Keeps T a (modPort i f s) :=
  h.upd rfl rfl (Nat.le_refl _) id id id (fun e => by rw [← e]; exact modAt_length _ _ _) id id id id id id id id id id id id id id id id id (by intro p q; cases p <;> first | exact May.no q | exact rfl)

theorem keeps_modHost {a s : State} (i : Nat) (f : HostPort → HostPort) (h : Keeps T a s) [May T .host] : Keeps T a (modHost i f s) :=
  h.upd rfl rfl (Nat.le_refl _) id id (fun e => by rw [← e]; exact modAt_length _ _ _) id id id id id id id id id id id id id id id id id id (by intro p q; cases p <;> first | exact May.no q | exact rfl)

theorem keeps_modMbox {a s : State} (i : Nat) (f : Mailbox → Mailbox) (h : Keeps T a s) [May T .mbox] : Keeps T a (modMbox i f s) :=
  h.upd rfl rfl (Nat.le_refl _) id (fun e => by rw [← e]; exact modAt_length _ _ _) id id id id id id id id id id id id id id id id id id id (by intro p q; cases p <;> first | exact May.no q | exact rfl)

theorem keeps_modBoot {a s : State} (f : Boot → Boot) (hf : bootOk s.boot → bootOk (f s.boot)) (h : Keeps T a s) [May T .boot] : Keeps T a (modBoot f s) :=
  h.upd rfl rfl (Nat.le_refl _) id id id id id id id id (hf) id id id id id id id id id id id id (by intro p q; cases p <;> first | exact May.no q | exact rfl)

theorem keeps_modPower {a s : State} (f : Power → Power) (hf : powerOk s.power → powerOk (f s.power)) (h : Keeps T a s) [May T .power] : Keeps T a (modPower f s) :=
  h.upd rfl rfl (Nat.le_refl _) id id id id id id id id id (hf) id id id id id id id id id id id (by intro p q; cases p <;> first | exact May.no q | exact rfl)

theorem keeps_modAlert {a s : State} (f : Alert → Alert) (hf : alertOk s.alert → alertOk (f s.alert)) (h : Keeps T a s) [May T .alert] : Keeps T a (modAlert f s) :=
  h.upd rfl rfl (Nat.le_refl _) id id id id id id id id id id (hf) id id id id id id id id id id (by intro p q; cases p <;> first | exact May.no q | exact rfl)

theorem keeps_modIdent {a s : State} (f : Ident → Ident) (hf : identOk s.ident → identOk (f s.ident)) (h : Keeps T a s) [May T .ident] : Keeps T a (modIdent f s) :=
  h.upd rfl rfl (Nat.le_refl _) id id id id id id id id id id id (hf) id id id id id id id id id (by intro p q; cases p <;> first | exact May.no q | exact rfl)

theorem keeps_modTelem {a s : State} (f : Telemetry → Telemetry) (hf : telemOk s.telem → telemOk (f s.telem)) (h : Keeps T a s) [May T .telem] : Keeps T a (modTelem f s) :=
  h.upd rfl rfl (Nat.le_refl _) id id id id id id id id id id id id (hf) id id id id id id id id (by intro p q; cases p <;> first | exact May.no q | exact rfl)

theorem keeps_modPawn {a s : State} (f : Pawn → Pawn) (hf : pawnOk s.pawn → pawnOk (f s.pawn)) (h : Keeps T a s) [May T .pawn] : Keeps T a (modPawn f s) :=
  h.upd rfl rfl (Nat.le_refl _) id id id id id id id id id id id id id (hf) id id id id id id id (by intro p q; cases p <;> first | exact May.no q | exact rfl)

theorem keeps_modRoute {a s : State} (f : Route → Route) (hf : routeOk s.route → routeOk (f s.route)) (h : Keeps T a s) [May T .route] : Keeps T a (modRoute f s) :=
  h.upd rfl rfl (Nat.le_refl _) id id id id id id id id id id id id id id (hf) id id id id id id (by intro p q; cases p <;> first | exact May.no q | exact rfl)

theorem keeps_modPot {a s : State} (f : Pot → Pot) (hf : potOk s.pot → potOk (f s.pot)) (h : Keeps T a s) [May T .pot] : Keeps T a (modPot f s) :=
  h.upd rfl rfl (Nat.le_refl _) id id id id id id id id id id id id id id id (hf) id id id id id (by intro p q; cases p <;> first | exact May.no q | exact rfl)

theorem keeps_modSq {a s : State} (f : Squares → Squares) (hf : sqOk s.sq → sqOk (f s.sq)) (h : Keeps T a s) [May T .sq] : Keeps T a (modSq f s) :=
  h.upd rfl rfl (Nat.le_refl _) id id id id id id id id id id id id id id id id (hf) id id id id (by intro p q; cases p <;> first | exact May.no q | exact rfl)

theorem keeps_modLadder {a s : State} (f : Ladder → Ladder) (hf : ladderOk s.ladder → ladderOk (f s.ladder)) (h : Keeps T a s) [May T .ladder] : Keeps T a (modLadder f s) :=
  h.upd rfl rfl (Nat.le_refl _) id id id id id id id id id id id id id id id id id (hf) id id id (by intro p q; cases p <;> first | exact May.no q | exact rfl)

theorem keeps_modMem {a s : State} (f : Mem → Mem) (hf : memOk s.mem → memOk (f s.mem)) (h : Keeps T a s) [May T .mem] : Keeps T a (modMem f s) :=
  h.upd rfl rfl (Nat.le_refl _) id id id id id id id id id id id id id id id id id id (hf) id id (by intro p q; cases p <;> first | exact May.no q | exact rfl)

theorem keeps_modHazard {a s : State} (f : Hazard → Hazard) (hf : hazardOk s.hazard → hazardOk (f s.hazard)) (h : Keeps T a s) [May T .hazard] : Keeps T a (modHazard f s) :=
  h.upd rfl rfl (Nat.le_refl _) id id id id id id id id id id id id id id id id id id id (hf) id (by intro p q; cases p <;> first | exact May.no q | exact rfl)

theorem keeps_modWd {a s : State} (f : Watchdog → Watchdog) (h : Keeps T a s) [May T .wd] : Keeps T a (modWd f s) :=
  h.same rfl rfl rfl rfl rfl rfl rfl rfl rfl rfl rfl rfl rfl rfl rfl rfl rfl rfl rfl rfl rfl rfl rfl rfl (by intro p q; cases p <;> first | exact May.no q | exact rfl)

theorem keeps_modTime {a s : State} (f : Time → Time) (h : Keeps T a s) [May T .time] : Keeps T a (modTime f s) :=
  h.same rfl rfl rfl rfl rfl rfl rfl rfl rfl rfl rfl rfl rfl rfl rfl rfl rfl rfl rfl rfl rfl rfl rfl rfl (by intro p q; cases p <;> first | exact May.no q | exact rfl)

theorem keeps_modGci {a s : State} (f : Gci → Gci) (h : Keeps T a s) [May T .gci] : Keeps T a (modGci f s) :=
  h.same rfl rfl rfl rfl rfl rfl rfl rfl rfl rfl rfl rfl rfl rfl rfl rfl rfl rfl rfl rfl rfl rfl rfl rfl (by intro p q; cases p <;> first | exact May.no q | exact rfl)

theorem keeps_modPins {a s : State} (f : Pins → Pins) (h : Keeps T a s) [May T .pins] : Keeps T a (modPins f s) :=
  h.same rfl rfl rfl rfl rfl rfl rfl rfl rfl rfl rfl rfl rfl rfl rfl rfl rfl rfl rfl rfl rfl rfl rfl rfl (by intro p q; cases p <;> first | exact May.no q | exact rfl)

theorem keeps_modSheet {a s : State} (f : Sheet → Sheet) (h : Keeps T a s) [May T .sheet] : Keeps T a (modSheet f s) :=
  h.same rfl rfl rfl rfl rfl rfl rfl rfl rfl rfl rfl rfl rfl rfl rfl rfl rfl rfl rfl rfl rfl rfl rfl rfl (by intro p q; cases p <;> first | exact May.no q | exact rfl)

theorem keeps_modStat {a s : State} (l : Nat) (f : LinkStat → LinkStat) (h : Keeps T a s) [May T .links] : Keeps T a (modStat l f s) :=
  keeps_modLink _ _ h

theorem keeps_modTx {a s : State} (l : Nat) (f : LinkTx → LinkTx) (h : Keeps T a s) [May T .links] : Keeps T a (modTx l f s) :=
  keeps_modLink _ _ h

theorem keeps_modRx {a s : State} (l : Nat) (f : LinkRx → LinkRx) (h : Keeps T a s) [May T .links] : Keeps T a (modRx l f s) :=
  keeps_modLink _ _ h

theorem keeps_modTrain {a s : State} (l : Nat) (f : LinkTrain → LinkTrain) (h : Keeps T a s) [May T .links] : Keeps T a (modTrain l f s) :=
  keeps_modLink _ _ h

theorem keeps_modLoop {a s : State} (l : Nat) (f : Loopback → Loopback) (h : Keeps T a s) [May T .links] : Keeps T a (modLoop l f s) :=
  keeps_modLink _ _ h

theorem keeps_protoError {a s : State} (l : Nat) (h : Keeps T a s) [May T .links] : Keeps T a (protoError l s) := keeps_modStat _ _ h

theorem keeps_countWaits {a s : State} (n : Nat) (h : Keeps T a s) [May T .ports] [May T .tables] : Keeps T a (countWaits n s) :=
  h.upd rfl rfl (Nat.le_refl _) id id id (fun e => by rw [← e]; simp [countWaits]) id id id id id id id id id id id id id id id id id (by intro p q; cases p <;> first | exact May.no q | exact rfl)

theorem keeps_advance {a s : State} (n : Nat) (h : Keeps T a s) [May T .power] [May T .wd] [May T .time] [May T .ports] [May T .pawn] [May T .tables] : Keeps T a (advance n s) := by
  unfold advance
  split
  · refine Keeps.upd (keeps_countWaits n h) rfl rfl (Nat.le_refl _) id id id id id id id id id id id id id id id id id id id id id (by intro p q; cases p <;> first | exact May.no q | exact rfl)
  · exact h

theorem keeps_advanceTo {a s : State} (t : Nat) (h : Keeps T a s) [May T .power] [May T .wd] [May T .time] [May T .ports] [May T .pawn] [May T .tables] : Keeps T a (advanceTo t s) := by
  have k := keeps_advance (t - now s) h
  unfold advanceTo
  dsimp only
  repeat' first
    | assumption
    | split
    | exact k.same rfl rfl rfl rfl rfl rfl rfl rfl rfl rfl rfl rfl rfl rfl rfl rfl rfl rfl rfl rfl rfl rfl rfl rfl (by intro p q; cases p <;> first | exact May.no q | exact rfl)

theorem keeps_tick {a s : State} (h : Keeps T a s) [May T .power] [May T .wd] [May T .time] [May T .ports] [May T .pawn] [May T .tables] : Keeps T a (tick s) := keeps_advance 1 h

theorem keeps_setCause {a s : State} (i : Nat) (h : Keeps T a s) [May T .alert] : Keeps T a (setCause i s) :=
  keeps_modAlert _ (fun e => by simpa [alertOk] using e) h

theorem keeps_takeArrived {a s : State} (x : Arrived) (h : Keeps T a s) [May T .inbox] : Keeps T a (takeArrived x s) := h.same rfl rfl rfl rfl rfl rfl rfl rfl rfl rfl rfl rfl rfl rfl rfl rfl rfl rfl rfl rfl rfl rfl rfl rfl (by intro p q; cases p <;> first | exact May.no q | exact rfl)

end Sys2Proof.Laws
end

