-- ==== Sys2Proof/Laws/KeepsPot.lean ====
section
/-! SUPPORT. What the updates of Machine/Pot.lean keep. -/

namespace Sys2Proof.Laws
open Sys2Proof Sys2Proof.Machine Sys2Proof.Safety
variable {T : StatePart → Bool}

theorem keeps_putPkt {a s : State} (x0 : QPkt)  (h : Keeps T a s) [May T .pot] : Keeps T a (putPkt x0 s) := by
  unfold putPkt
  repeat' first
    | assumption
    | exact Or.inr rfl
    | exact Or.inl May.ok
    | (extract_lets +onlyGivenNames l)
    | with_reducible apply keeps_modPot
    | exact id

theorem keeps_store {a s : State} (x0 : PKind) (x1 : Option (Nat × Nat)) (x2 : Nat) (x3 : Nat) (x4 : Bool) (x5 : Packet) (x6 : List Nat) (x7 : List (Nat × Nat))  (h : Keeps T a s) [May T .pot] : Keeps T a (store x0 x1 x2 x3 x4 x5 x6 x7 s) := by
  unfold store
  repeat' first
    | assumption
    | (extract_lets +onlyGivenNames l; try clear_value l)
    | with_reducible apply keeps_putPkt
    | split

theorem keeps_pushFlits {a s : State} (x0 : Nat) (x1 : Nat) (x2 : List Flit)  (h : Keeps T a s) [May T .links] : Keeps T a (pushFlits x0 x1 x2 s) := by
  unfold pushFlits
  repeat' first
    | assumption
    | with_reducible apply keeps_modTx

theorem keeps_clearActive {a s : State} (x0 : Nat) (x1 : Nat)  (h : Keeps T a s) [May T .pot] : Keeps T a (clearActive x0 x1 s) := by
  unfold clearActive
  repeat' first
    | assumption
    | (extract_lets +onlyGivenNames l)
    | with_reducible apply keeps_modPot
    | (intro e; simp_all +zetaDelta [potOk]; done)

theorem keeps_freeCredits {a s : State} (x0 : Nat) (x1 : Nat) (x2 : Nat)  (h : Keeps T a s) [May T .links] : Keeps T a (freeCredits x0 x1 x2 s) := by
  unfold freeCredits
  repeat' first
    | assumption
    | with_reducible apply keeps_modRx

theorem keeps_freeRest {a s : State} (x0 : QPkt)  (h : Keeps T a s) [May T .links] : Keeps T a (freeRest x0 s) := by
  unfold freeRest
  repeat' first
    | assumption
    | with_reducible apply keeps_freeCredits
    | split

theorem keeps_sweepPkts {a s : State}   (h : Keeps T a s) [May T .links] [May T .pot] : Keeps T a (sweepPkts s) := by
  unfold sweepPkts
  repeat' first
    | assumption
    | exact Or.inr rfl
    | exact Or.inl May.ok
    | (intro (_ : Keeps _ _ _))
    | (extract_lets +onlyGivenNames l; refine keeps_pass (T := T) (a := a) (x := l) ?_ ?_; all_goals first | (intro k; clear_value l) | subst l)
    | (extract_lets +onlyGivenNames l)
    | with_reducible apply keeps_forAll
    | with_reducible apply keeps_freeRest
    | with_reducible apply keeps_modPot
    | exact id
    | (intro _)

theorem keeps_modPkt {a s : State} (x0 : Nat) (x1 : QPkt → QPkt)  (h : Keeps T a s) [May T .pot] : Keeps T a (modPkt x0 x1 s) := by
  unfold modPkt
  repeat' first
    | assumption
    | exact Or.inr rfl
    | exact Or.inl May.ok
    | (extract_lets +onlyGivenNames l)
    | with_reducible apply keeps_modPot
    | exact id

theorem keeps_legDone {a s : State} (x0 : Nat) (x1 : Nat)  (h : Keeps T a s) [May T .links] [May T .pot] : Keeps T a (legDone x0 x1 s) := by
  unfold legDone
  repeat' first
    | assumption
    | (extract_lets +onlyGivenNames l; try clear_value l)
    | with_reducible apply keeps_sweepPkts
    | with_reducible apply keeps_modPkt

theorem keeps_cutLeg {a s : State} (x0 : Nat) (x1 : Nat)  (h : Keeps T a s) [May T .ports] [May T .links] [May T .pot] : Keeps T a (cutLeg x0 x1 s) := by
  unfold cutLeg
  repeat' first
    | assumption
    | (extract_lets +onlyGivenNames l; refine keeps_pass (T := T) (a := a) (x := l) ?_ ?_; all_goals first | (intro k; clear_value l) | subst l)
    | (extract_lets +onlyGivenNames l; try clear_value l)
    | with_reducible apply keeps_modPort
    | with_reducible apply keeps_pushFlits
    | with_reducible apply keeps_clearActive
    | with_reducible apply keeps_legDone
    | split

theorem keeps_cutLegs {a s : State} (x0 : QPkt)  (h : Keeps T a s) [May T .ports] [May T .links] [May T .pot] : Keeps T a (cutLegs x0 s) := by
  unfold cutLegs
  repeat' first
    | assumption
    | (intro (_ : Keeps _ _ _))
    | (extract_lets +onlyGivenNames l; try clear_value l)
    | with_reducible apply keeps_forAll
    | with_reducible apply keeps_cutLeg
    | (intro _)

theorem keeps_endPacket {a s : State} (x0 : Nat)  (h : Keeps T a s) [May T .ports] [May T .links] [May T .pot] : Keeps T a (endPacket x0 s) := by
  unfold endPacket
  repeat' first
    | assumption
    | (intro (_ : Keeps _ _ _))
    | (extract_lets +onlyGivenNames l; try clear_value l)
    | with_reducible apply keeps_cutLegs
    | with_reducible apply keeps_forAll
    | split
    | (intro _)

theorem keeps_sendLeg {a s : State} (x0 : Nat) (x1 : Nat) (x2 : Nat)  (h : Keeps T a s) [May T .pot] : Keeps T a (sendLeg x0 x1 x2 s) := by
  unfold sendLeg
  repeat' first
    | assumption
    | with_reducible apply keeps_modPkt

theorem keeps_modBank {a s : State} (x0 : Nat) (x1 : RouteBank → RouteBank) (hf : ∀ b, (x1 b).state = b.state) (h : Keeps T a s) [May T .route] : Keeps T a (modBank x0 x1 s) := by
  refine keeps_modRoute _ (fun e => ?_) h
  obtain ⟨h1, h2, h3, h4⟩ := e
  refine ⟨by simpa using h1, h2, h3, fun i => ?_⟩
  rw [← h4 i, modAt_getD]
  split
  · rw [hf]
  · rfl

theorem keeps_setChosen {a s : State} (x0 : Nat) (x1 : Nat) (x2 : Nat)  (h : Keeps T a s) [May T .route] : Keeps T a (setChosen x0 x1 x2 s) := by
  unfold setChosen
  repeat' first
    | assumption
    | (extract_lets +onlyGivenNames l; try clear_value l)
    | with_reducible apply keeps_modBank
    | (intro e; simp_all +zetaDelta [routeOk]; done)

theorem keeps_modCnt {a s : State} (x0 : RouteCount → RouteCount)  (h : Keeps T a s) [May T .route] : Keeps T a (modCnt x0 s) := by
  unfold modCnt
  repeat' first
    | assumption
    | exact Or.inr rfl
    | exact Or.inl May.ok
    | (extract_lets +onlyGivenNames l)
    | with_reducible apply keeps_modRoute
    | exact id

theorem keeps_grow {a s : State} (x0 : Nat) (x1 : Nat) (x2 : List Byte)  (h : Keeps T a s) [May T .pot] : Keeps T a (grow x0 x1 x2 s) := by
  unfold grow
  repeat' first
    | assumption
    | exact Or.inr rfl
    | exact Or.inl May.ok
    | (extract_lets +onlyGivenNames l)
    | with_reducible apply keeps_modPot
    | exact id

theorem keeps_egressDrop {a s : State} (x0 : Nat)  (h : Keeps T a s) [May T .ports] : Keeps T a (egressDrop x0 s) := by
  unfold egressDrop
  repeat' first
    | assumption
    | with_reducible apply keeps_modPort

theorem keeps_dropLinkDown {a s : State} (x0 : Nat)  (h : Keeps T a s) [May T .ports] [May T .route] : Keeps T a (dropLinkDown x0 s) := by
  unfold dropLinkDown
  repeat' first
    | assumption
    | (extract_lets +onlyGivenNames l; try clear_value l)
    | with_reducible apply keeps_egressDrop
    | with_reducible apply keeps_modCnt

theorem keeps_startLeg {a s : State} (x0 : Nat) (x1 : Nat) (x2 : Egress)  (h : Keeps T a s) [May T .pot] : Keeps T a (startLeg x0 x1 x2 s) := by
  unfold startLeg
  repeat' first
    | assumption
    | (extract_lets +onlyGivenNames l)
    | with_reducible apply keeps_modPkt
    | with_reducible apply keeps_modPot
    | split
    | (intro e; simp_all +zetaDelta [potOk]; done)

theorem keeps_unicastLeg {a s : State} (x0 : Nat) (x1 : Nat) (x2 : Nat)  (h : Keeps T a s) [May T .route] : Keeps T a (unicastLeg x0 x1 x2 s).2 := by
  unfold unicastLeg
  repeat' first
    | assumption
    | (extract_lets +onlyGivenNames l; try clear_value l)
    | dsimp only
    | with_reducible apply keeps_setChosen
    | with_reducible apply keeps_modCnt
    | split

theorem keeps_unicastLeg_eq {a s t : State} {x0 : Nat} {x1 : Nat} {x2 : Nat}  {r} (e : unicastLeg x0 x1 x2 s = (r, t)) (h : Keeps T a s) [May T .route] : Keeps T a t := by
  have k := keeps_unicastLeg x0 x1 x2 h
  rw [e] at k; exact k

theorem keeps_endLeg {a s : State} (x0 : Nat) (x1 : Nat)  (h : Keeps T a s) [May T .ports] [May T .links] [May T .pot] : Keeps T a (endLeg x0 x1 s) := by
  unfold endLeg
  repeat' first
    | assumption
    | (intro (_ : Keeps _ _ _))
    | (extract_lets +onlyGivenNames l; try clear_value l)
    | with_reducible apply keeps_forAll
    | with_reducible apply keeps_cutLegs
    | with_reducible apply keeps_cutLeg
    | (intro _)

theorem keeps_sendTo {a s : State} (x0 : PKind) (x1 : Nat) (x2 : Packet)  (h : Keeps T a s) [May T .route] [May T .pot] : Keeps T a (sendTo x0 x1 x2 s) := by
  unfold sendTo
  repeat' first
    | assumption
    | (extract_lets +onlyGivenNames l; try clear_value l)
    | with_reducible apply keeps_modCnt
    | (refine keeps_unicastLeg_eq (by assumption) ?_)
    | with_reducible apply keeps_store
    | split

end Sys2Proof.Laws
end

