-- ==== Sys2Proof/Laws/KeepsLink.lean ====
section
/-! SUPPORT. What the updates of Machine/Link.lean keep. -/

namespace Sys2Proof.Laws
open Sys2Proof Sys2Proof.Machine Sys2Proof.Safety
variable {T : StatePart → Bool}

theorem keeps_setTimeState {a s : State} (x0 : Nat)  (h : Keeps T a s) [May T .time] : Keeps T a (setTimeState x0 s) := by
  unfold setTimeState
  repeat' first
    | assumption
    | with_reducible apply keeps_modTime

theorem keeps_becomeRoot {a s : State}   (h : Keeps T a s) [May T .time] : Keeps T a (becomeRoot s) := by
  unfold becomeRoot
  repeat' first
    | assumption
    | (extract_lets +onlyGivenNames l; refine keeps_pass (T := T) (a := a) (x := l) ?_ ?_; all_goals first | (intro k; clear_value l) | subst l)
    | with_reducible apply keeps_modTime
    | with_reducible apply keeps_setTimeState
    | split

theorem keeps_loseUpstream {a s : State}   (h : Keeps T a s) [May T .time] : Keeps T a (loseUpstream s) := by
  unfold loseUpstream
  repeat' first
    | assumption
    | (extract_lets +onlyGivenNames l; try clear_value l)
    | with_reducible apply keeps_setTimeState
    | with_reducible apply keeps_modTime

theorem keeps_follow {a s : State} (x0 : TimePeer)  (h : Keeps T a s) [May T .time] : Keeps T a (follow x0 s) := by
  unfold follow
  repeat' first
    | assumption
    | (extract_lets +onlyGivenNames l; refine keeps_pass (T := T) (a := a) (x := l) ?_ ?_; all_goals first | (intro k; clear_value l) | subst l)
    | (extract_lets +onlyGivenNames l; try clear_value l)
    | with_reducible apply keeps_modTime
    | with_reducible apply keeps_setTimeState
    | split

theorem keeps_elect {a s : State}   (h : Keeps T a s) [May T .time] : Keeps T a (elect s) := by
  unfold elect
  repeat' first
    | assumption
    | with_reducible apply keeps_becomeRoot
    | with_reducible apply keeps_loseUpstream
    | with_reducible apply keeps_follow
    | split

theorem keeps_formLink {a s : State} (x0 : Nat) (x1 : Nat)  (h : Keeps T a s) [May T .links] : Keeps T a (formLink x0 x1 s) := by
  unfold formLink
  repeat' first
    | assumption
    | (extract_lets +onlyGivenNames l; try clear_value l)
    | with_reducible apply keeps_modLink

theorem keeps_checkSteps {a s : State} (x0 : Nat)  (h : Keeps T a s) [May T .links] : Keeps T a (checkSteps x0 s) := by
  unfold checkSteps
  repeat' first
    | assumption
    | (extract_lets +onlyGivenNames l; try clear_value l)
    | with_reducible apply keeps_formLink
    | with_reducible apply keeps_modTrain
    | split

theorem keeps_takeClass {a s : State} (x0 : Nat) (x1 : Nat) (x2 : Nat)  (h : Keeps T a s) [May T .links] [May T .pot] : Keeps T a (takeClass x0 x1 x2 s).2 := by
  unfold takeClass
  repeat' first
    | assumption
    | (extract_lets +onlyGivenNames l; try clear_value l)
    | dsimp only
    | with_reducible apply keeps_modTx
    | with_reducible apply keeps_sendLeg
    | split

theorem keeps_takeClass_eq {a s t : State} {x0 : Nat} {x1 : Nat} {x2 : Nat}  {r} (e : takeClass x0 x1 x2 s = (r, t)) (h : Keeps T a s) [May T .links] [May T .pot] : Keeps T a t := by
  have k := keeps_takeClass x0 x1 x2 h
  rw [e] at k; exact k

theorem keeps_takeClasses {a s : State} (x0 : Nat) (x1 : List Nat) (x2 : Nat)  (h : Keeps T a s) [May T .links] [May T .pot] : Keeps T a (takeClasses x0 x1 x2 s).2 := by
  induction x1 generalizing s x2 with
  | nil => (first | exact h | (unfold takeClasses; exact h))
  | cons y ys ih =>
    unfold takeClasses
    repeat' first
      | assumption
      | with_reducible apply ih
      | (extract_lets +onlyGivenNames l; try clear_value l)
      | with_reducible apply keeps_takeClass

theorem keeps_takeClasses_eq {a s t : State} {x0 : Nat} {x1 : List Nat} {x2 : Nat}  {r} (e : takeClasses x0 x1 x2 s = (r, t)) (h : Keeps T a s) [May T .links] [May T .pot] : Keeps T a t := by
  have k := keeps_takeClasses x0 x1 x2 h
  rw [e] at k; exact k

theorem keeps_sendCtrl {a s : State} (x0 : Nat) (x1 : List W64)  (h : Keeps T a s) [May T .links] : Keeps T a (sendCtrl x0 x1 s) := by
  unfold sendCtrl
  repeat' first
    | assumption
    | with_reducible apply keeps_modTx

theorem keeps_sendNak {a s : State} (x0 : Nat) (x1 : Nat)  (h : Keeps T a s) [May T .links] : Keeps T a (sendNak x0 x1 s) := by
  unfold sendNak
  repeat' first
    | assumption
    | (extract_lets +onlyGivenNames l; try clear_value l)
    | with_reducible apply keeps_sendCtrl
    | with_reducible apply keeps_modStat
    | with_reducible apply keeps_modRx

theorem keeps_takeQueue {a s : State} (x0 : Nat) (x1 : Nat) (x2 : Nat)  (h : Keeps T a s) [May T .links] : Keeps T a (takeQueue x0 x1 x2 s).2 := by
  unfold takeQueue
  repeat' first
    | assumption
    | (extract_lets +onlyGivenNames l; try clear_value l)
    | dsimp only
    | with_reducible apply keeps_modTx

theorem keeps_takeQueue_eq {a s t : State} {x0 : Nat} {x1 : Nat} {x2 : Nat}  {r} (e : takeQueue x0 x1 x2 s = (r, t)) (h : Keeps T a s) [May T .links] : Keeps T a t := by
  have k := keeps_takeQueue x0 x1 x2 h
  rw [e] at k; exact k

theorem keeps_rechoose {a s : State} (x0 : Nat) (x1 : QPkt)  (h : Keeps T a s) [May T .ports] [May T .links] [May T .route] [May T .pot] : Keeps T a (rechoose x0 x1 s) := by
  unfold rechoose
  repeat' first
    | assumption
    | (extract_lets +onlyGivenNames l; try clear_value l)
    | with_reducible apply keeps_setChosen
    | with_reducible apply keeps_modPkt
    | with_reducible apply keeps_legDone
    | with_reducible apply keeps_dropLinkDown
    | split

theorem keeps_loseTimeLink {a s : State} (x0 : Nat)  (h : Keeps T a s) [May T .time] [May T .links] : Keeps T a (loseTimeLink x0 s) := by
  unfold loseTimeLink
  repeat' first
    | assumption
    | (extract_lets +onlyGivenNames l; refine keeps_pass (T := T) (a := a) (x := l) ?_ ?_; all_goals first | (intro k; clear_value l) | subst l)
    | (extract_lets +onlyGivenNames l; try clear_value l)
    | with_reducible apply keeps_modLink
    | with_reducible apply keeps_modTime
    | with_reducible apply keeps_becomeRoot
    | with_reducible apply keeps_follow
    | with_reducible apply keeps_loseUpstream
    | split

theorem keeps_leaveService {a s : State} (x0 : Nat)  (h : Keeps T a s) [May T .time] [May T .ports] [May T .links] [May T .route] [May T .pot] : Keeps T a (leaveService x0 s) := by
  unfold leaveService
  repeat' first
    | assumption
    | (intro (_ : Keeps _ _ _))
    | (extract_lets +onlyGivenNames l; refine keeps_pass (T := T) (a := a) (x := l) ?_ ?_; all_goals first | (intro k; clear_value l) | subst l)
    | (extract_lets +onlyGivenNames l)
    | with_reducible apply keeps_modStat
    | with_reducible apply keeps_forAll
    | with_reducible apply keeps_legDone
    | with_reducible apply keeps_endPacket
    | with_reducible apply keeps_rechoose
    | with_reducible apply keeps_modPot
    | with_reducible apply keeps_loseTimeLink
    | with_reducible apply keeps_modLink
    | (intro e; simp_all +zetaDelta [potOk]; done)
    | (intro _)

theorem keeps_takeFrame {a s : State} (x0 : Nat) (x1 : Nat)  (h : Keeps T a s) [May T .links] [May T .pot] : Keeps T a (takeFrame x0 x1 s).2 := by
  unfold takeFrame
  repeat' first
    | assumption
    | (extract_lets +onlyGivenNames l; try clear_value l)
    | dsimp only
    | with_reducible apply keeps_takeQueue
    | with_reducible apply keeps_takeClasses

theorem keeps_takeFrame_eq {a s t : State} {x0 : Nat} {x1 : Nat}  {r} (e : takeFrame x0 x1 s = (r, t)) (h : Keeps T a s) [May T .links] [May T .pot] : Keeps T a t := by
  have k := keeps_takeFrame x0 x1 h
  rw [e] at k; exact k

theorem keeps_sendAck {a s : State} (x0 : Nat)  (h : Keeps T a s) [May T .links] : Keeps T a (sendAck x0 s) := by
  unfold sendAck
  repeat' first
    | assumption
    | (extract_lets +onlyGivenNames l; try clear_value l)
    | with_reducible apply keeps_sendCtrl
    | with_reducible apply keeps_modTx

theorem keeps_startTraining {a s : State} (x0 : Nat) (x1 : Nat)  (h : Keeps T a s) [May T .links] : Keeps T a (startTraining x0 x1 s) := by
  unfold startTraining
  repeat' first
    | assumption
    | with_reducible apply keeps_modLink

theorem keeps_trainFromStart {a s : State} (x0 : Nat)  (h : Keeps T a s) [May T .links] : Keeps T a (trainFromStart x0 s) := by
  unfold trainFromStart
  repeat' first
    | assumption
    | (extract_lets +onlyGivenNames l; try clear_value l)
    | with_reducible apply keeps_startTraining
    | with_reducible apply keeps_modTrain
    | with_reducible apply keeps_modLink
    | split

theorem keeps_emitFrame {a s : State} (x0 : Nat) (x1 : Bool) (x2 : Nat) (x3 : List Flit)  (h : Keeps T a s) [May T .out] [May T .links] : Keeps T a (emitFrame x0 x1 x2 x3 s) := by
  unfold emitFrame
  repeat' first
    | assumption
    | (extract_lets +onlyGivenNames l; try clear_value l)
    | with_reducible apply keeps_emit
    | with_reducible apply keeps_modTx

theorem keeps_sendInit {a s : State} (x0 : Nat)  (h : Keeps T a s) [May T .links] : Keeps T a (sendInit x0 s) := by
  unfold sendInit
  repeat' first
    | assumption
    | (extract_lets +onlyGivenNames l; try clear_value l)
    | with_reducible apply keeps_sendCtrl
    | with_reducible apply keeps_modRx

theorem keeps_onUp {a s : State} (x0 : Nat)  (h : Keeps T a s) [May T .links] [May T .route] [May T .pot] : Keeps T a (onUp x0 s) := by
  unfold onUp
  repeat' first
    | assumption
    | (extract_lets +onlyGivenNames l; refine keeps_pass (T := T) (a := a) (x := l) ?_ ?_; all_goals first | (intro k; clear_value l) | subst l)
    | (extract_lets +onlyGivenNames l; try clear_value l)
    | with_reducible apply keeps_modStat
    | with_reducible apply keeps_modCnt
    | with_reducible apply keeps_store
    | split

theorem keeps_checkTrained {a s : State} (x0 : Nat)  (h : Keeps T a s) [May T .links] [May T .route] [May T .pot] : Keeps T a (checkTrained x0 s) := by
  unfold checkTrained
  repeat' first
    | assumption
    | (extract_lets +onlyGivenNames l; try clear_value l)
    | with_reducible apply keeps_sendAck
    | with_reducible apply keeps_modLink
    | with_reducible apply keeps_onUp
    | with_reducible apply keeps_modStat
    | split

theorem keeps_failAttempt {a s : State} (x0 : Nat)  (h : Keeps T a s) [May T .links] : Keeps T a (failAttempt x0 s) := by
  unfold failAttempt
  repeat' first
    | assumption
    | (extract_lets +onlyGivenNames l; try clear_value l)
    | with_reducible apply keeps_startTraining
    | with_reducible apply keeps_modTrain
    | with_reducible apply keeps_modLink
    | split

theorem keeps_startFast {a s : State} (x0 : Nat)  (h : Keeps T a s) [May T .links] : Keeps T a (startFast x0 s) := by
  unfold startFast
  repeat' first
    | assumption
    | with_reducible apply keeps_modLink
    | split

end Sys2Proof.Laws
end

