-- ==== Sys2Proof/Laws/KeepsMem.lean ====
section
/-! SUPPORT. What the updates of Machine/Mem.lean keep. -/

namespace Sys2Proof.Laws
open Sys2Proof Sys2Proof.Machine Sys2Proof.Safety
variable {T : StatePart → Bool}

theorem keeps_hazardCount {a s : State} (x0 : Nat)  (h : Keeps T a s) [May T .hazard] : Keeps T a (hazardCount x0 s) := by
  unfold hazardCount
  repeat' first
    | assumption
    | (extract_lets +onlyGivenNames l)
    | with_reducible apply keeps_modHazard
    | (intro e; simp_all +zetaDelta [hazardOk]; done)

theorem keeps_logEvent {a s : State} (x0 : Nat) (x1 : Nat) (x2 : Nat) (x3 : Nat) (x4 : WordOwner) (x5 : Bool)  (h : Keeps T a s) [May T .mem] : Keeps T a (logEvent x0 x1 x2 x3 x4 x5 s) := by
  unfold logEvent
  repeat' first
    | assumption
    | exact Or.inr rfl
    | exact Or.inl May.ok
    | (extract_lets +onlyGivenNames l)
    | with_reducible apply keeps_modMem
    | split
    | exact id

theorem keeps_wroteWord {a s : State} (x0 : Nat) (x1 : Nat)  (h : Keeps T a s) [May T .mem] : Keeps T a (wroteWord x0 x1 s) := by
  unfold wroteWord
  repeat' first
    | assumption
    | exact Or.inr rfl
    | exact Or.inl May.ok
    | (extract_lets +onlyGivenNames l)
    | with_reducible apply keeps_modMem
    | split
    | exact id

theorem keeps_modTier {a s : State} (x0 : Nat) (x1 : MemTier → MemTier)  (h : Keeps T a s) [May T .mem] : Keeps T a (modTier x0 x1 s) := by
  unfold modTier
  repeat' first
    | assumption
    | (extract_lets +onlyGivenNames l)
    | with_reducible apply keeps_modMem
    | (intro e; simp_all +zetaDelta [memOk]; done)

theorem keeps_setSeen {a s : State} (x0 : WordSeen)  (h : Keeps T a s) [May T .mem] : Keeps T a (setSeen x0 s) := by
  unfold setSeen
  repeat' first
    | assumption
    | exact Or.inr rfl
    | exact Or.inl May.ok
    | (extract_lets +onlyGivenNames l)
    | with_reducible apply keeps_modMem
    | exact id

theorem keeps_wordFailed {a s : State} (x0 : Nat) (x1 : Nat) (x2 : WordOwner) (x3 : Bool)  (h : Keeps T a s) [May T .alert] [May T .mem] : Keeps T a (wordFailed x0 x1 x2 x3 s) := by
  unfold wordFailed
  repeat' first
    | assumption
    | (extract_lets +onlyGivenNames l; refine keeps_pass (T := T) (a := a) (x := l) ?_ ?_; all_goals first | (intro k; clear_value l) | subst l)
    | (extract_lets +onlyGivenNames l; try clear_value l)
    | with_reducible apply keeps_modTier
    | with_reducible apply keeps_setSeen
    | with_reducible apply keeps_setCause
    | with_reducible apply keeps_logEvent
    | split

theorem keeps_forgetWord {a s : State} (x0 : Nat) (x1 : Nat)  (h : Keeps T a s) [May T .mem] : Keeps T a (forgetWord x0 x1 s) := by
  unfold forgetWord
  repeat' first
    | assumption
    | exact Or.inr rfl
    | exact Or.inl May.ok
    | (extract_lets +onlyGivenNames l)
    | with_reducible apply keeps_modMem
    | exact id

theorem keeps_wordCorrected {a s : State} (x0 : Nat) (x1 : Nat) (x2 : Nat) (x3 : WordOwner) (x4 : Bool) (x5 : Bool)  (h : Keeps T a s) [May T .mem] [May T .hazard] : Keeps T a (wordCorrected x0 x1 x2 x3 x4 x5 s) := by
  unfold wordCorrected
  repeat' first
    | assumption
    | (extract_lets +onlyGivenNames l; refine keeps_pass (T := T) (a := a) (x := l) ?_ ?_; all_goals first | (intro k; clear_value l) | subst l)
    | (extract_lets +onlyGivenNames l; try clear_value l)
    | with_reducible apply keeps_modTier
    | with_reducible apply keeps_hazardCount
    | with_reducible apply keeps_logEvent
    | with_reducible apply keeps_forgetWord
    | with_reducible apply keeps_setSeen
    | split

theorem keeps_appendSheet {a s : State} (x0 : List W64)  (h : Keeps T a s) [May T .mem] [May T .sheet] : Keeps T a (appendSheet x0 s) := by
  unfold appendSheet
  repeat' first
    | assumption
    | (extract_lets +onlyGivenNames l; try clear_value l)
    | with_reducible apply keeps_wroteWord
    | with_reducible apply keeps_modSheet

theorem keeps_readWord {a s : State} (x0 : Nat) (x1 : WordOwner) (x2 : WordRead)  (h : Keeps T a s) [May T .free] [May T .alert] [May T .mem] [May T .hazard] : Keeps T a (readWord x0 x1 x2 s) := by
  unfold readWord
  repeat' first
    | assumption
    | (extract_lets +onlyGivenNames l; try clear_value l)
    | with_reducible apply keeps_freeNext
    | with_reducible apply keeps_wordCorrected
    | with_reducible apply keeps_wordFailed
    | split

end Sys2Proof.Laws
end

