-- ==== Sys2Proof/Laws/KeepsVirop.lean ====
section
/-! SUPPORT. What the updates of Machine/Virop.lean keep. -/

namespace Sys2Proof.Laws
open Sys2Proof Sys2Proof.Machine Sys2Proof.Safety
variable {T : StatePart → Bool}

theorem keeps_takeFlit {a s : State} (x0 : Nat) (x1 : Nat) (x2 : List W64)  (h : Keeps T a s) [May T .links] [May T .inbox] : Keeps T a (takeFlit x0 x1 x2 s) := by
  unfold takeFlit
  repeat' first
    | assumption
    | (extract_lets +onlyGivenNames l; refine keeps_pass (T := T) (a := a) (x := l) ?_ ?_; all_goals first | (intro k; clear_value l) | subst l)
    | with_reducible apply keeps_takeArrived
    | with_reducible apply keeps_freeCredits
    | split

theorem keeps_ctrlIn {a s : State} (x0 : Nat) (x1 : Nat) (x2 : List W64) (x3 : State → State) (hx3 : ∀  t, Keeps T a t → Keeps T a (x3  t))  (h : Keeps T a s) [May T .links] [May T .inbox] : Keeps T a (ctrlIn x0 x1 x2 x3 s) := by
  unfold ctrlIn
  repeat' first
    | assumption
    | (extract_lets +onlyGivenNames l; refine keeps_pass (T := T) (a := a) (x := l) ?_ ?_; all_goals first | (intro k; clear_value l) | subst l)
    | with_reducible apply hx3
    | with_reducible apply keeps_takeFlit
    | with_reducible apply keeps_protoError
    | split

theorem keeps_nakTo {a s : State} (x0 : Nat) (x1 : Nat)  (h : Keeps T a s) [May T .links] : Keeps T a (nakTo x0 x1 s) := by
  unfold nakTo
  repeat' first
    | assumption
    | (extract_lets +onlyGivenNames l; try clear_value l)
    | with_reducible apply keeps_modTx
    | with_reducible apply keeps_protoError
    | split

theorem keeps_ackIn {a s : State} (x0 : Nat) (x1 : List W64)  (h : Keeps T a s) [May T .links] : Keeps T a (ackIn x0 x1 s) := by
  unfold ackIn
  repeat' first
    | assumption
    | (extract_lets +onlyGivenNames l; refine keeps_pass (T := T) (a := a) (x := l) ?_ ?_; all_goals first | (intro k; clear_value l) | subst l)
    | (extract_lets +onlyGivenNames l; try clear_value l)
    | with_reducible apply keeps_modTx
    | with_reducible apply keeps_nakTo
    | split

theorem keeps_stepUp {a s : State} (x0 : Nat)  (h : Keeps T a s) [May T .power] [May T .wd] [May T .time] [May T .ports] [May T .links] [May T .pawn] [May T .tables] : Keeps T a (stepUp x0 s) := by
  unfold stepUp
  repeat' first
    | assumption
    | (extract_lets +onlyGivenNames l; try clear_value l)
    | with_reducible apply keeps_startTraining
    | with_reducible apply keeps_advanceTo
    | split

theorem keeps_timeTimeout {a s : State} (x0 : Nat)  (h : Keeps T a s) [May T .power] [May T .wd] [May T .time] [May T .ports] [May T .links] [May T .pawn] [May T .tables] : Keeps T a (timeTimeout x0 s) := by
  unfold timeTimeout
  repeat' first
    | assumption
    | (extract_lets +onlyGivenNames l; try clear_value l)
    | with_reducible apply keeps_modLink
    | with_reducible apply keeps_advanceTo
    | split

theorem keeps_testFrameIn {a s : State} (x0 : Nat) (x1 : List LaneRx)  (h : Keeps T a s) [May T .links] : Keeps T a (testFrameIn x0 x1 s) := by
  unfold testFrameIn
  repeat' first
    | assumption
    | (extract_lets +onlyGivenNames l; try clear_value l)
    | with_reducible apply keeps_modStat
    | with_reducible apply keeps_modLoop

theorem keeps_noteFrames {a s : State} (x0 : Nat) (x1 : List LaneRx)  (h : Keeps T a s) [May T .links] : Keeps T a (noteFrames x0 x1 s) := by
  unfold noteFrames
  repeat' first
    | assumption
    | with_reducible apply keeps_modRx

theorem keeps_syncFrame {a s : State} (x0 : Nat) (x1 : Nat) (x2 : List LaneRx)  (h : Keeps T a s) [May T .links] [May T .route] [May T .pot] : Keeps T a (syncFrame x0 x1 x2 s) := by
  unfold syncFrame
  repeat' first
    | assumption
    | (extract_lets +onlyGivenNames l; refine keeps_pass (T := T) (a := a) (x := l) ?_ ?_; all_goals first | (intro k; clear_value l) | subst l)
    | (extract_lets +onlyGivenNames l; try clear_value l)
    | with_reducible apply keeps_noteFrames
    | with_reducible apply keeps_modTrain
    | with_reducible apply keeps_checkTrained
    | with_reducible apply keeps_failAttempt
    | split

theorem keeps_flitIn {a s : State} (x0 : Nat)  (h : Keeps T a s) [May T .ports] : Keeps T a (flitIn x0 s) := by
  unfold flitIn
  repeat' first
    | assumption
    | with_reducible apply keeps_modPort

theorem keeps_countPool {a s : State} (x0 : Nat) (x1 : Nat)  (h : Keeps T a s) [May T .links] : Keeps T a (countPool x0 x1 s) := by
  unfold countPool
  repeat' first
    | assumption
    | with_reducible apply keeps_modRx

theorem keeps_setPart {a s : State} (x0 : Nat) (x1 : Nat) (x2 : Option PartPkt)  (h : Keeps T a s) [May T .links] : Keeps T a (setPart x0 x1 x2 s) := by
  unfold setPart
  repeat' first
    | assumption
    | with_reducible apply keeps_modRx

theorem keeps_recvDiscard {a s : State} (x0 : Nat) (x1 : Nat)  (h : Keeps T a s) [May T .ports] [May T .links] [May T .pot] : Keeps T a (recvDiscard x0 x1 s) := by
  unfold recvDiscard
  repeat' first
    | assumption
    | (extract_lets +onlyGivenNames l; refine keeps_pass (T := T) (a := a) (x := l) ?_ ?_; all_goals first | (intro k; clear_value l) | subst l)
    | (extract_lets +onlyGivenNames l; try clear_value l)
    | with_reducible apply keeps_modPort
    | with_reducible apply keeps_setPart
    | with_reducible apply keeps_endPacket
    | with_reducible apply keeps_freeCredits
    | with_reducible apply keeps_protoError
    | split

theorem keeps_recvBulk {a s : State} (x0 : Nat) (x1 : Nat) (x2 : List W64)  (h : Keeps T a s) [May T .ports] [May T .links] [May T .pot] [May T .inbox] : Keeps T a (recvBulk x0 x1 x2 s) := by
  unfold recvBulk
  repeat' first
    | assumption
    | exact Or.inr rfl
    | exact Or.inl May.ok
    | (extract_lets +onlyGivenNames l; refine keeps_pass (T := T) (a := a) (x := l) ?_ ?_; all_goals first | (intro k; clear_value l) | subst l)
    | (extract_lets +onlyGivenNames l; try clear_value l)
    | with_reducible apply keeps_countPool
    | with_reducible apply keeps_protoError
    | with_reducible apply keeps_freeCredits
    | with_reducible apply keeps_setPart
    | with_reducible apply keeps_endPacket
    | with_reducible apply keeps_grow
    | split
    | with_reducible refine keeps_mk ?_ (Nat.le_refl _) id id id id id id id id id id id id id id id id id id id id id ?_ ?_ ?_ ?_ ?_ ?_ ?_ ?_ ?_ ?_ ?_ ?_ ?_ ?_ ?_ ?_ ?_ ?_ ?_ ?_ ?_ ?_ ?_ ?_ ?_ ?_ ?_ ?_ ?_ ?_ ?_ ?_ ?_ ?_ ?_ ?_ ?_ ?_ ?_

theorem keeps_handUp {a s : State} (x0 : Nat) (x1 : Flit)  (h : Keeps T a s) [May T .ports] [May T .links] [May T .pot] [May T .inbox] : Keeps T a (handUp x0 x1 s) := by
  unfold handUp
  repeat' first
    | assumption
    | exact Or.inr rfl
    | exact Or.inl May.ok
    | (extract_lets +onlyGivenNames l; refine keeps_pass (T := T) (a := a) (x := l) ?_ ?_; all_goals first | (intro k; clear_value l) | subst l)
    | (extract_lets +onlyGivenNames l; try clear_value l)
    | with_reducible apply keeps_protoError
    | with_reducible apply keeps_flitIn
    | with_reducible apply keeps_countPool
    | with_reducible apply keeps_recvDiscard
    | with_reducible apply keeps_recvBulk
    | split
    | with_reducible refine keeps_mk ?_ (Nat.le_refl _) id id id id id id id id id id id id id id id id id id id id id ?_ ?_ ?_ ?_ ?_ ?_ ?_ ?_ ?_ ?_ ?_ ?_ ?_ ?_ ?_ ?_ ?_ ?_ ?_ ?_ ?_ ?_ ?_ ?_ ?_ ?_ ?_ ?_ ?_ ?_ ?_ ?_ ?_ ?_ ?_ ?_ ?_ ?_ ?_

theorem keeps_serviceFrame {a s : State} (x0 : Nat) (x1 : List LaneRx)  (h : Keeps T a s) [May T .ports] [May T .links] [May T .pot] [May T .inbox] : Keeps T a (serviceFrame x0 x1 s) := by
  unfold serviceFrame
  repeat' first
    | assumption
    | (intro (_ : Keeps _ _ _))
    | (extract_lets +onlyGivenNames l; refine keeps_pass (T := T) (a := a) (x := l) ?_ ?_; all_goals first | (intro k; clear_value l) | subst l)
    | (extract_lets +onlyGivenNames l; try clear_value l)
    | with_reducible apply keeps_modStat
    | with_reducible apply keeps_noteFrames
    | with_reducible apply keeps_forAll
    | with_reducible apply keeps_handUp
    | with_reducible apply keeps_modTx
    | with_reducible apply keeps_modRx
    | with_reducible apply keeps_sendNak
    | with_reducible apply keeps_startFast
    | split
    | (intro _)

theorem keeps_linkFrameIn {a s : State} (x0 : Nat) (x1 : List LaneRx)  (h : Keeps T a s) [May T .out] [May T .ports] [May T .links] [May T .route] [May T .pot] [May T .inbox] : Keeps T a (linkFrameIn x0 x1 s) := by
  unfold linkFrameIn
  repeat' first
    | assumption
    | (extract_lets +onlyGivenNames l; try clear_value l)
    | with_reducible apply keeps_emit
    | with_reducible apply keeps_testFrameIn
    | with_reducible apply keeps_syncFrame
    | with_reducible apply keeps_serviceFrame
    | split

theorem keeps_ctrlGone {a s : State} (x0 : Nat) (x1 : List (List W64))  (h : Keeps T a s) [May T .links] : Keeps T a (ctrlGone x0 x1 s) := by
  unfold ctrlGone
  repeat' first
    | assumption
    | (extract_lets +onlyGivenNames l; refine keeps_pass (T := T) (a := a) (x := l) ?_ ?_; all_goals first | (intro k; clear_value l) | subst l)
    | (extract_lets +onlyGivenNames l; try clear_value l)
    | with_reducible apply keeps_modLink
    | with_reducible apply keeps_modTrain
    | split

theorem keeps_laneTs {a s : State} (x0 : Nat) (x1 : TsRx)  (h : Keeps T a s) [May T .links] : Keeps T a (laneTs x0 x1 s) := by
  unfold laneTs
  repeat' first
    | assumption
    | (extract_lets +onlyGivenNames l; try clear_value l)
    | with_reducible apply keeps_modTrain
    | with_reducible apply keeps_modLink
    | split

theorem keeps_lanesTs {a s : State} (x0 : Nat) (x1 : List TsRx)  (h : Keeps T a s) [May T .links] : Keeps T a (lanesTs x0 x1 s) := by
  unfold lanesTs
  repeat' first
    | assumption
    | (intro (_ : Keeps _ _ _))
    | (extract_lets +onlyGivenNames l; refine keeps_pass (T := T) (a := a) (x := l) ?_ ?_; all_goals first | (intro k; clear_value l) | subst l)
    | (extract_lets +onlyGivenNames l; try clear_value l)
    | with_reducible apply keeps_forAll
    | with_reducible apply keeps_laneTs
    | with_reducible apply keeps_modTrain
    | split
    | (intro _)

theorem keeps_ownEq {a s : State} (x0 : Nat)  (h : Keeps T a s) [May T .free] [May T .links] : Keeps T a (ownEq x0 s) := by
  unfold ownEq
  repeat' first
    | assumption
    | (extract_lets +onlyGivenNames l; try clear_value l)
    | with_reducible apply keeps_freeNext
    | with_reducible apply keeps_modTrain

theorem keeps_tsIn {a s : State} (x0 : Nat) (x1 : List TsRx)  (h : Keeps T a s) [May T .out] [May T .free] [May T .links] : Keeps T a (tsIn x0 x1 s) := by
  unfold tsIn
  repeat' first
    | assumption
    | (extract_lets +onlyGivenNames l; refine keeps_pass (T := T) (a := a) (x := l) ?_ ?_; all_goals first | (intro k; clear_value l) | subst l)
    | (extract_lets +onlyGivenNames l; try clear_value l)
    | with_reducible apply keeps_lanesTs
    | with_reducible apply keeps_startFast
    | with_reducible apply keeps_failAttempt
    | with_reducible apply keeps_checkSteps
    | with_reducible apply keeps_ownEq
    | with_reducible apply keeps_emit
    | split

theorem keeps_sendZero {a s : State} (x0 : Nat)  (h : Keeps T a s) [May T .out] [May T .links] : Keeps T a (sendZero x0 s) := by
  unfold sendZero
  repeat' first
    | assumption
    | (extract_lets +onlyGivenNames l; try clear_value l)
    | with_reducible apply keeps_emit
    | with_reducible apply keeps_modTx

theorem keeps_slew {a s : State}   (h : Keeps T a s) [May T .free] [May T .time] : Keeps T a (slew s) := by
  unfold slew
  repeat' first
    | assumption
    | (extract_lets +onlyGivenNames l; try clear_value l)
    | with_reducible apply keeps_freeNext
    | with_reducible apply keeps_modTime

theorem keeps_upstreamExchange {a s : State} (x0 : Nat) (x1 : Int) (x2 : Bool)  (h : Keeps T a s) [May T .free] [May T .time] : Keeps T a (upstreamExchange x0 x1 x2 s) := by
  unfold upstreamExchange
  repeat' first
    | assumption
    | (extract_lets +onlyGivenNames l; refine keeps_pass (T := T) (a := a) (x := l) ?_ ?_; all_goals first | (intro k; clear_value l) | subst l)
    | (extract_lets +onlyGivenNames l; try clear_value l)
    | with_reducible apply keeps_slew
    | with_reducible apply keeps_modTime
    | with_reducible apply keeps_setTimeState
    | split

theorem keeps_nakIn {a s : State} (x0 : Nat) (x1 : Nat)  (h : Keeps T a s) [May T .links] [May T .hazard] : Keeps T a (nakIn x0 x1 s) := by
  unfold nakIn
  repeat' first
    | assumption
    | (extract_lets +onlyGivenNames l; try clear_value l)
    | with_reducible apply keeps_nakTo
    | with_reducible apply keeps_hazardCount
    | with_reducible apply keeps_modStat

theorem keeps_attemptTimeout {a s : State} (x0 : Nat)  (h : Keeps T a s) [May T .power] [May T .wd] [May T .time] [May T .ports] [May T .links] [May T .pawn] [May T .tables] : Keeps T a (attemptTimeout x0 s) := by
  unfold attemptTimeout
  repeat' first
    | assumption
    | (extract_lets +onlyGivenNames l; try clear_value l)
    | with_reducible apply keeps_formLink
    | with_reducible apply keeps_advanceTo
    | with_reducible apply keeps_failAttempt
    | split

theorem keeps_fastTimeout {a s : State} (x0 : Nat)  (h : Keeps T a s) [May T .power] [May T .wd] [May T .time] [May T .ports] [May T .links] [May T .route] [May T .pot] [May T .pawn] [May T .tables] : Keeps T a (fastTimeout x0 s) := by
  unfold fastTimeout
  repeat' first
    | assumption
    | (extract_lets +onlyGivenNames l; try clear_value l)
    | with_reducible apply keeps_trainFromStart
    | with_reducible apply keeps_leaveService
    | with_reducible apply keeps_advanceTo
    | split

theorem keeps_timeReqIn {a s : State} (x0 : Nat) (x1 : List W64) (x2 : Nat)  (h : Keeps T a s) [May T .links] : Keeps T a (timeReqIn x0 x1 x2 s) := by
  unfold timeReqIn
  repeat' first
    | assumption
    | (extract_lets +onlyGivenNames l; try clear_value l)
    | with_reducible apply keeps_sendCtrl

theorem keeps_idleSeen {a s : State} (x0 : Nat)  (h : Keeps T a s) [May T .time] [May T .ports] [May T .links] [May T .route] [May T .pot] : Keeps T a (idleSeen x0 s) := by
  unfold idleSeen
  repeat' first
    | assumption
    | (extract_lets +onlyGivenNames l; try clear_value l)
    | with_reducible apply keeps_failAttempt
    | with_reducible apply keeps_trainFromStart
    | with_reducible apply keeps_leaveService
    | split

theorem keeps_loopBack {a s : State} (x0 : Nat)  (h : Keeps T a s) [May T .links] : Keeps T a (loopBack x0 s) := by
  unfold loopBack
  repeat' first
    | assumption
    | with_reducible apply keeps_testFrameIn

theorem keeps_sendTs {a s : State} (x0 : Nat) (x1 : Nat) (x2 : Nat)  (h : Keeps T a s) [May T .out] [May T .free] [May T .links] : Keeps T a (sendTs x0 x1 x2 s) := by
  unfold sendTs
  repeat' first
    | assumption
    | (extract_lets +onlyGivenNames l; refine keeps_pass (T := T) (a := a) (x := l) ?_ ?_; all_goals first | (intro k; clear_value l) | subst l)
    | (extract_lets +onlyGivenNames l; try clear_value l)
    | with_reducible apply keeps_emit
    | with_reducible apply keeps_freeNext
    | with_reducible apply keeps_modTrain

theorem keeps_flitGone {a s : State} (x0 : Nat) (x1 : Flit)  (h : Keeps T a s) [May T .ports] [May T .links] [May T .pot] : Keeps T a (flitGone x0 x1 s) := by
  unfold flitGone
  repeat' first
    | assumption
    | (extract_lets +onlyGivenNames l; refine keeps_pass (T := T) (a := a) (x := l) ?_ ?_; all_goals first | (intro k; clear_value l) | subst l)
    | (extract_lets +onlyGivenNames l; try clear_value l)
    | with_reducible apply keeps_modPort
    | with_reducible apply keeps_clearActive
    | with_reducible apply keeps_legDone
    | split

theorem keeps_sendService {a s : State} (x0 : Nat)  (h : Keeps T a s) [May T .out] [May T .ports] [May T .links] [May T .pot] : Keeps T a (sendService x0 s) := by
  unfold sendService
  repeat' first
    | assumption
    | (intro (_ : Keeps _ _ _))
    | (extract_lets +onlyGivenNames l; refine keeps_pass (T := T) (a := a) (x := l) ?_ ?_; all_goals first | (intro k; clear_value l) | subst l)
    | (extract_lets +onlyGivenNames l; try clear_value l)
    | with_reducible apply keeps_sendCtrl
    | with_reducible apply keeps_ctrlGone
    | with_reducible apply keeps_modTx
    | with_reducible apply keeps_emitFrame
    | with_reducible apply keeps_modTrain
    | with_reducible apply keeps_modStat
    | (refine keeps_takeFrame_eq (by assumption) ?_)
    | with_reducible apply keeps_forAll
    | with_reducible apply keeps_flitGone
    | split
    | (intro _)

theorem keeps_framePeriod {a s : State} (x0 : Nat)  (h : Keeps T a s) [May T .out] [May T .free] [May T .ports] [May T .links] [May T .route] [May T .pot] : Keeps T a (framePeriod x0 s) := by
  unfold framePeriod
  repeat' first
    | assumption
    | (extract_lets +onlyGivenNames l; refine keeps_pass (T := T) (a := a) (x := l) ?_ ?_; all_goals first | (intro k; clear_value l) | subst l)
    | (extract_lets +onlyGivenNames l; try clear_value l)
    | with_reducible apply keeps_emit
    | with_reducible apply keeps_loopBack
    | with_reducible apply keeps_sendZero
    | with_reducible apply keeps_checkSteps
    | with_reducible apply keeps_sendTs
    | with_reducible apply keeps_modLink
    | with_reducible apply keeps_modTrain
    | with_reducible apply keeps_modStat
    | with_reducible apply keeps_checkTrained
    | with_reducible apply keeps_sendInit
    | with_reducible apply keeps_sendService
    | split

theorem keeps_timeRequest {a s : State} (x0 : Nat)  (h : Keeps T a s) [May T .links] : Keeps T a (timeRequest x0 s) := by
  unfold timeRequest
  repeat' first
    | assumption
    | (extract_lets +onlyGivenNames l; try clear_value l)
    | with_reducible apply keeps_sendCtrl
    | with_reducible apply keeps_modLink
    | split

theorem keeps_idleEnd {a s : State} (x0 : Nat)  (h : Keeps T a s) [May T .power] [May T .wd] [May T .time] [May T .ports] [May T .links] [May T .pawn] [May T .tables] : Keeps T a (idleEnd x0 s) := by
  unfold idleEnd
  repeat' first
    | assumption
    | (extract_lets +onlyGivenNames l; try clear_value l)
    | with_reducible apply keeps_startTraining
    | with_reducible apply keeps_advanceTo
    | split

theorem keeps_farExit {a s : State} (x0 : Nat)  (h : Keeps T a s) [May T .links] : Keeps T a (farExit x0 s) := by
  unfold farExit
  repeat' first
    | assumption
    | (extract_lets +onlyGivenNames l; try clear_value l)
    | with_reducible apply keeps_trainFromStart
    | with_reducible apply keeps_modLoop
    | split

theorem keeps_discardIn {a s : State} (x0 : Nat) (x1 : List W64)  (h : Keeps T a s) [May T .ports] [May T .links] [May T .pot] [May T .inbox] : Keeps T a (discardIn x0 x1 s) := by
  unfold discardIn
  repeat' first
    | assumption
    | with_reducible apply keeps_takeArrived
    | with_reducible apply keeps_recvDiscard
    | with_reducible apply keeps_protoError
    | split

theorem keeps_genStepIn {a s : State} (x0 : Nat) (x1 : Nat)  (h : Keeps T a s) [May T .links] : Keeps T a (genStepIn x0 x1 s) := by
  unfold genStepIn
  repeat' first
    | assumption
    | (extract_lets +onlyGivenNames l; try clear_value l)
    | with_reducible apply keeps_modTrain
    | split

theorem keeps_replayTimeout {a s : State} (x0 : Nat)  (h : Keeps T a s) [May T .power] [May T .wd] [May T .time] [May T .ports] [May T .links] [May T .pawn] [May T .tables] : Keeps T a (replayTimeout x0 s) := by
  unfold replayTimeout
  repeat' first
    | assumption
    | (extract_lets +onlyGivenNames l; refine keeps_pass (T := T) (a := a) (x := l) ?_ ?_; all_goals first | (intro k; clear_value l) | subst l)
    | (extract_lets +onlyGivenNames l; try clear_value l)
    | with_reducible apply keeps_advanceTo
    | with_reducible apply keeps_sendNak
    | with_reducible apply keeps_startFast
    | with_reducible apply keeps_modRx
    | split

theorem keeps_initIn {a s : State} (x0 : Nat) (x1 : List W64)  (h : Keeps T a s) [May T .links] [May T .route] [May T .pot] : Keeps T a (initIn x0 x1 s) := by
  unfold initIn
  repeat' first
    | assumption
    | (extract_lets +onlyGivenNames l; try clear_value l)
    | with_reducible apply keeps_checkTrained
    | with_reducible apply keeps_modLink
    | split

theorem keeps_timeRespIn {a s : State} (x0 : Nat) (x1 : List W64) (x2 : Nat)  (h : Keeps T a s) [May T .free] [May T .time] [May T .links] : Keeps T a (timeRespIn x0 x1 x2 s) := by
  unfold timeRespIn
  repeat' first
    | assumption
    | (extract_lets +onlyGivenNames l; refine keeps_pass (T := T) (a := a) (x := l) ?_ ?_; all_goals first | (intro k; clear_value l) | subst l)
    | (extract_lets +onlyGivenNames l; try clear_value l)
    | with_reducible apply keeps_modLink
    | with_reducible apply keeps_modStat
    | with_reducible apply keeps_modTime
    | with_reducible apply keeps_elect
    | with_reducible apply keeps_upstreamExchange
    | split

end Sys2Proof.Laws
end

