-- ==== Sys2Proof/Laws/KeepsTableOps.lean ====
section
/-! SUPPORT. What the updates of Machine/TableOps.lean keep. -/

namespace Sys2Proof.Laws
open Sys2Proof Sys2Proof.Machine Sys2Proof.Safety
variable {T : StatePart → Bool}

theorem keeps_tableRecord {a s : State} (x0 : Nat) (x1 : Nat) (x2 : Table)  (h : Keeps T a s) [May T .mem] [May T .sheet] : Keeps T a (tableRecord x0 x1 x2 s) := by
  unfold tableRecord
  repeat' first
    | assumption
    | with_reducible apply keeps_appendSheet

theorem keeps_modTable {a s : State} (x0 : Nat) (x1 : Table → Table)  (h : Keeps T a s) [May T .tables] : Keeps T a (modTable x0 x1 s) := by
  unfold modTable
  repeat' first
    | assumption
    | exact Or.inr rfl
    | exact Or.inl May.ok
    | with_reducible refine keeps_mk ?_ (Nat.le_refl _) id id id id id id id id id id id id id id id id id id id id id ?_ ?_ ?_ ?_ ?_ ?_ ?_ ?_ ?_ ?_ ?_ ?_ ?_ ?_ ?_ ?_ ?_ ?_ ?_ ?_ ?_ ?_ ?_ ?_ ?_ ?_ ?_ ?_ ?_ ?_ ?_ ?_ ?_ ?_ ?_ ?_ ?_ ?_ ?_

theorem keeps_modKeeper {a s : State} (x0 : Nat) (x1 : Keeper → Keeper)  (h : Keeps T a s) [May T .tables] : Keeps T a (modKeeper x0 x1 s) := by
  unfold modKeeper
  repeat' first
    | assumption
    | with_reducible apply keeps_modTable

theorem keeps_modPrim {a s : State} (x0 : Nat) (x1 : PrimEnd → PrimEnd)  (h : Keeps T a s) [May T .tables] : Keeps T a (modPrim x0 x1 s) := by
  unfold modPrim
  repeat' first
    | assumption
    | with_reducible apply keeps_modKeeper

theorem keeps_roundRecord {a s : State} (x0 : Table) (x1 : Round) (x2 : Nat)  (h : Keeps T a s) [May T .mem] [May T .sheet] : Keeps T a (roundRecord x0 x1 x2 s) := by
  unfold roundRecord
  repeat' first
    | assumption
    | with_reducible apply keeps_appendSheet

theorem keeps_modRound {a s : State} (x0 : Nat) (x1 : Nat) (x2 : Round → Round)  (h : Keeps T a s) [May T .tables] : Keeps T a (modRound x0 x1 x2 s) := by
  unfold modRound
  repeat' first
    | assumption
    | with_reducible apply keeps_modTable

end Sys2Proof.Laws
end

