-- ==== Sys2Proof/Laws/KeepsKeeperOps.lean ====
section
/-! SUPPORT. What the updates of Machine/KeeperOps.lean keep. -/

namespace Sys2Proof.Laws
open Sys2Proof Sys2Proof.Machine Sys2Proof.Safety
variable {T : StatePart → Bool}

theorem keeps_dropPip {a s : State} (x0 : Nat)  (h : Keeps T a s) [May T .ladder] : Keeps T a (dropPip x0 s) := by
  unfold dropPip
  repeat' first
    | assumption
    | (extract_lets +onlyGivenNames l)
    | with_reducible apply keeps_modLadder
    | (intro e; simp_all +zetaDelta [ladderOk]; done)

theorem keeps_modKibitz {a s : State} (x0 : Nat) (x1 : Kibitz → Kibitz)  (h : Keeps T a s) [May T .route] : Keeps T a (modKibitz x0 x1 s) := by
  unfold modKibitz
  repeat' first
    | assumption
    | (extract_lets +onlyGivenNames l)
    | with_reducible apply keeps_modRoute
    | (intro e; simp_all +zetaDelta [routeOk]; done)

theorem keeps_kibitzSelect {a s : State} (x0 : Kibitz → Bool)  (h : Keeps T a s) [May T .route] : Keeps T a (kibitzSelect x0 s).2 := by
  unfold kibitzSelect
  repeat' first
    | assumption
    | (intro (_ : Keeps _ _ _))
    | (extract_lets +onlyGivenNames l; try clear_value l)
    | dsimp only
    | with_reducible apply keeps_forAll
    | with_reducible apply keeps_modKibitz
    | (intro _)

theorem keeps_kibitzSelect_eq {a s t : State} {x0 : Kibitz → Bool}  {r} (e : kibitzSelect x0 s = (r, t)) (h : Keeps T a s) [May T .route] : Keeps T a t := by
  have k := keeps_kibitzSelect x0 h
  rw [e] at k; exact k

theorem keeps_holdReady {a s : State} (x0 : Nat) (x1 : Nat) (x2 : Nat) (x3 : Bool) (x4 : Nat)  (h : Keeps T a s) [May T .tables] : Keeps T a (holdReady x0 x1 x2 x3 x4 s) := by
  unfold holdReady
  repeat' first
    | assumption
    | with_reducible apply keeps_modRound

theorem keeps_fenceDrop {a s : State}   (h : Keeps T a s) [May T .route] : Keeps T a (fenceDrop s) := by
  unfold fenceDrop
  repeat' first
    | assumption
    | with_reducible apply keeps_modCnt

theorem keeps_sendKFlit {a s : State} (x0 : Nat) (x1 : List W64)  (h : Keeps T a s) [May T .links] [May T .route] [May T .pot] : Keeps T a (sendKFlit x0 x1 s) := by
  unfold sendKFlit
  repeat' first
    | assumption
    | with_reducible apply keeps_fenceDrop
    | with_reducible apply keeps_pushFlits
    | with_reducible apply keeps_sendTo
    | split

theorem keeps_commitRound {a s : State} (x0 : Nat) (x1 : Nat) (x2 : Nat)  (h : Keeps T a s) [May T .tables] : Keeps T a (commitRound x0 x1 x2 s) := by
  unfold commitRound
  repeat' first
    | assumption
    | (extract_lets +onlyGivenNames l; try clear_value l)
    | with_reducible apply keeps_modKeeper
    | with_reducible apply keeps_modRound

theorem keeps_commitGroup {a s : State} (x0 : Nat) (x1 : ClipGroup)  (h : Keeps T a s) [May T .tables] : Keeps T a (commitGroup x0 x1 s) := by
  unfold commitGroup
  repeat' first
    | assumption
    | (intro (_ : Keeps _ _ _))
    | (extract_lets +onlyGivenNames l; refine keeps_pass (T := T) (a := a) (x := l) ?_ ?_; all_goals first | (intro k; clear_value l) | subst l)
    | (extract_lets +onlyGivenNames l; try clear_value l)
    | with_reducible apply keeps_modKeeper
    | with_reducible apply keeps_forAll
    | with_reducible apply keeps_commitRound
    | split
    | (intro _)

theorem keeps_commitCheck {a s : State} (x0 : Nat)  (h : Keeps T a s) [May T .tables] : Keeps T a (commitCheck x0 s) := by
  unfold commitCheck
  repeat' first
    | assumption
    | (intro (_ : Keeps _ _ _))
    | (extract_lets +onlyGivenNames l; refine keeps_pass (T := T) (a := a) (x := l) ?_ ?_; all_goals first | (intro k; clear_value l) | subst l)
    | (extract_lets +onlyGivenNames l; try clear_value l)
    | with_reducible apply keeps_forAll
    | with_reducible apply keeps_commitRound
    | with_reducible apply keeps_commitGroup
    | split
    | (intro _)

theorem keeps_sendReady {a s : State} (x0 : Table) (x1 : Round) (x2 : Bool) (x3 : Nat)  (h : Keeps T a s) [May T .links] [May T .route] [May T .pot] [May T .tables] : Keeps T a (sendReady x0 x1 x2 x3 s) := by
  unfold sendReady
  repeat' first
    | assumption
    | (extract_lets +onlyGivenNames l; refine keeps_pass (T := T) (a := a) (x := l) ?_ ?_; all_goals first | (intro k; clear_value l) | subst l)
    | (extract_lets +onlyGivenNames l; try clear_value l)
    | with_reducible apply keeps_holdReady
    | with_reducible apply keeps_modRound
    | with_reducible apply keeps_sendKFlit
    | with_reducible apply keeps_commitCheck
    | split

theorem keeps_countForward {a s : State}   (h : Keeps T a s) [May T .pawn] : Keeps T a (countForward s) := by
  unfold countForward
  repeat' first
    | assumption
    | exact Or.inr rfl
    | exact Or.inl May.ok
    | (extract_lets +onlyGivenNames l)
    | with_reducible apply keeps_modPawn
    | split
    | exact id

theorem keeps_pipToPot {a s : State} (x0 : Nat) (x1 : List W64) (x2 : List (Nat × Nat)) (x3 : Nat)  (h : Keeps T a s) [May T .ports] [May T .route] [May T .pot] : Keeps T a (pipToPot x0 x1 x2 x3 s) := by
  unfold pipToPot
  repeat' first
    | assumption
    | (intro (_ : Keeps _ _ _))
    | (extract_lets +onlyGivenNames l; refine keeps_pass (T := T) (a := a) (x := l) ?_ ?_; all_goals first | (intro k; clear_value l) | subst l)
    | (extract_lets +onlyGivenNames l; try clear_value l)
    | with_reducible apply keeps_forAll
    | with_reducible apply keeps_modPort
    | with_reducible apply keeps_kibitzSelect
    | with_reducible apply keeps_store
    | (intro _)

theorem keeps_pipOver {a s : State} (x0 : PipPkt)  (h : Keeps T a s) [May T .ports] [May T .route] [May T .pot] [May T .ladder] [May T .pawn] : Keeps T a (pipOver x0 s) := by
  unfold pipOver
  repeat' first
    | assumption
    | exact Or.inr rfl
    | exact Or.inl May.ok
    | (extract_lets +onlyGivenNames l; refine keeps_pass (T := T) (a := a) (x := l) ?_ ?_; all_goals first | (intro k; clear_value l) | subst l)
    | (extract_lets +onlyGivenNames l)
    | with_reducible apply keeps_modRoute
    | with_reducible apply keeps_countForward
    | with_reducible apply keeps_pipToPot
    | with_reducible apply keeps_dropPip
    | exact id

theorem keeps_roundsAhead {a s : State} (x0 : List W64) (x1 : List Nat)  (h : Keeps T a s) [May T .ports] [May T .route] [May T .pot] [May T .ladder] [May T .pawn] : Keeps T a (roundsAhead x0 x1 s) := by
  unfold roundsAhead
  repeat' first
    | assumption
    | (intro (_ : Keeps _ _ _))
    | (extract_lets +onlyGivenNames l; try clear_value l)
    | with_reducible apply keeps_forAll
    | with_reducible apply keeps_pipOver
    | split
    | (intro _)

theorem keeps_pipSend {a s : State} (x0 : Nat) (x1 : List Nat) (x2 : List W64)  (h : Keeps T a s) [May T .ports] [May T .route] [May T .pot] [May T .ladder] [May T .pawn] : Keeps T a (pipSend x0 x1 x2 s) := by
  unfold pipSend
  repeat' first
    | assumption
    | exact Or.inr rfl
    | exact Or.inl May.ok
    | (intro (_ : Keeps _ _ _))
    | (extract_lets +onlyGivenNames l; refine keeps_pass (T := T) (a := a) (x := l) ?_ ?_; all_goals first | (intro k; clear_value l) | subst l)
    | (extract_lets +onlyGivenNames l)
    | with_reducible apply keeps_forAll
    | with_reducible apply keeps_fenceDrop
    | with_reducible apply keeps_modCnt
    | with_reducible apply keeps_pipToPot
    | with_reducible apply keeps_roundsAhead
    | with_reducible apply keeps_modPot
    | with_reducible apply keeps_modLadder
    | split
    | exact id
    | (intro e; simp_all +zetaDelta [ladderOk]; done)
    | (intro _)

theorem keeps_closeGroup {a s : State} (x0 : Nat)  (h : Keeps T a s) [May T .tables] : Keeps T a (closeGroup x0 s) := by
  unfold closeGroup
  repeat' first
    | assumption
    | (extract_lets +onlyGivenNames l; try clear_value l)
    | with_reducible apply keeps_commitCheck
    | with_reducible apply keeps_modKeeper

end Sys2Proof.Laws
end

