-- ==== Sys2Proof/Laws/KeepsRoundOps.lean ====
section
/-! SUPPORT. What the updates of Machine/RoundOps.lean keep. -/

namespace Sys2Proof.Laws
open Sys2Proof Sys2Proof.Machine Sys2Proof.Safety
variable {T : StatePart → Bool}

theorem keeps_sendSig {a s : State} (x0 : Table) (x1 : Round) (x2 : Nat) (x3 : List Nat) (x4 : RoundSig)  (h : Keeps T a s) [May T .free] [May T .ports] [May T .route] [May T .pot] [May T .ladder] [May T .pawn] : Keeps T a (sendSig x0 x1 x2 x3 x4 s) := by
  unfold sendSig
  repeat' first
    | assumption
    | (intro (_ : Keeps _ _ _))
    | (extract_lets +onlyGivenNames l; try clear_value l)
    | with_reducible apply keeps_pipSend
    | with_reducible apply keeps_freeNext
    | with_reducible apply keeps_forAll
    | with_reducible apply keeps_sendTo
    | split
    | (intro _)

theorem keeps_applyClears {a s : State} (x0 : Nat)  (h : Keeps T a s) [May T .tables] : Keeps T a (applyClears x0 s) := by
  unfold applyClears
  repeat' first
    | assumption
    | with_reducible apply keeps_modTable

theorem keeps_retire {a s : State} (x0 : Nat) (x1 : Nat)  (h : Keeps T a s) [May T .tables] : Keeps T a (retire x0 x1 s) := by
  unfold retire
  repeat' first
    | assumption
    | with_reducible apply keeps_modTable

theorem keeps_completeRound {a s : State} (x0 : Nat) (x1 : Nat)  (h : Keeps T a s) [May T .free] [May T .ports] [May T .route] [May T .pot] [May T .ladder] [May T .pawn] [May T .mem] [May T .sheet] [May T .tables] : Keeps T a (completeRound x0 x1 s) := by
  unfold completeRound
  repeat' first
    | assumption
    | (extract_lets +onlyGivenNames l; refine keeps_pass (T := T) (a := a) (x := l) ?_ ?_; all_goals first | (intro k; clear_value l) | subst l)
    | (extract_lets +onlyGivenNames l; try clear_value l)
    | with_reducible apply keeps_modRound
    | with_reducible apply keeps_sendSig
    | with_reducible apply keeps_applyClears
    | with_reducible apply keeps_retire
    | with_reducible apply keeps_roundRecord
    | split

theorem keeps_checkDone {a s : State} (x0 : Nat) (x1 : Nat)  (h : Keeps T a s) [May T .free] [May T .ports] [May T .route] [May T .pot] [May T .ladder] [May T .pawn] [May T .mem] [May T .sheet] [May T .tables] : Keeps T a (checkDone x0 x1 s) := by
  unfold checkDone
  repeat' first
    | assumption
    | with_reducible apply keeps_completeRound
    | split

theorem keeps_setChunk {a s : State} (x0 : Nat) (x1 : Nat) (x2 : Nat) (x3 : Nat)  (h : Keeps T a s) [May T .tables] : Keeps T a (setChunk x0 x1 x2 x3 s) := by
  unfold setChunk
  repeat' first
    | assumption
    | with_reducible apply keeps_modRound

theorem keeps_fillPipes {a s : State}   (h : Keeps T a s) [May T .norm] [May T .pipes] : Keeps T a (fillPipes s) := by
  unfold fillPipes
  repeat' first
    | assumption
    | exact Or.inr rfl
    | exact Or.inl May.ok
    | (intro (_ : Keeps _ _ _))
    | (extract_lets +onlyGivenNames l; try clear_value l)
    | with_reducible apply keeps_forAll
    | split
    | (intro _)
    | with_reducible refine keeps_mk ?_ (Nat.le_refl _) id id id id id id id id id id id id id id id id id id id id id ?_ ?_ ?_ ?_ ?_ ?_ ?_ ?_ ?_ ?_ ?_ ?_ ?_ ?_ ?_ ?_ ?_ ?_ ?_ ?_ ?_ ?_ ?_ ?_ ?_ ?_ ?_ ?_ ?_ ?_ ?_ ?_ ?_ ?_ ?_ ?_ ?_ ?_ ?_

theorem keeps_dropWork {a s : State} (x0 : Nat) (x1 : Nat)  (h : Keeps T a s) [May T .norm] [May T .pipes] [May T .dma] : Keeps T a (dropWork x0 x1 s) := by
  unfold dropWork
  repeat' first
    | assumption
    | exact Or.inr rfl
    | exact Or.inl May.ok
    | (extract_lets +onlyGivenNames l; try clear_value l)
    | with_reducible apply keeps_fillPipes
    | with_reducible refine keeps_mk ?_ (Nat.le_refl _) id id id id id id id id id id id id id id id id id id id id id ?_ ?_ ?_ ?_ ?_ ?_ ?_ ?_ ?_ ?_ ?_ ?_ ?_ ?_ ?_ ?_ ?_ ?_ ?_ ?_ ?_ ?_ ?_ ?_ ?_ ?_ ?_ ?_ ?_ ?_ ?_ ?_ ?_ ?_ ?_ ?_ ?_ ?_ ?_

theorem keeps_dropStaged {a s : State} (x0 : Nat) (x1 : Nat)  (h : Keeps T a s) [May T .ports] [May T .links] [May T .pot] [May T .ladder] : Keeps T a (dropStaged x0 x1 s) := by
  unfold dropStaged
  repeat' first
    | assumption
    | (intro (_ : Keeps _ _ _))
    | (extract_lets +onlyGivenNames l; refine keeps_pass (T := T) (a := a) (x := l) ?_ ?_; all_goals first | (intro k; clear_value l) | subst l)
    | (extract_lets +onlyGivenNames l)
    | with_reducible apply keeps_modLadder
    | with_reducible apply keeps_forAll
    | with_reducible apply keeps_endLeg
    | (intro e; simp_all +zetaDelta [ladderOk]; done)
    | (intro _)

theorem keeps_dropParts {a s : State} (x0 : Nat) (x1 : Nat)  (h : Keeps T a s) [May T .links] [May T .feed] : Keeps T a (dropParts x0 x1 s) := by
  unfold dropParts
  repeat' first
    | assumption
    | exact Or.inr rfl
    | exact Or.inl May.ok
    | (intro (_ : Keeps _ _ _))
    | (extract_lets +onlyGivenNames l; refine keeps_pass (T := T) (a := a) (x := l) ?_ ?_; all_goals first | (intro k; clear_value l) | subst l)
    | (extract_lets +onlyGivenNames l)
    | with_reducible apply keeps_forAll
    | with_reducible apply keeps_freeCredits
    | exact id
    | exact Nat.le_refl _
    | (intro e; simp_all +zetaDelta [planeOk]; done)
    | (intro _)
    | with_reducible apply keeps_mk

theorem keeps_setResid {a s : State} (x0 : Nat) (x1 : Resid)  (h : Keeps T a s) [May T .mem] [May T .tables] : Keeps T a (setResid x0 x1 s) := by
  unfold setResid
  repeat' first
    | assumption
    | (extract_lets +onlyGivenNames l; try clear_value l)
    | with_reducible apply keeps_wroteWord
    | with_reducible apply keeps_modTable

theorem keeps_clearRange {a s : State} (x0 : Table) (x1 : Round)  (h : Keeps T a s) [May T .mem] [May T .tables] : Keeps T a (clearRange x0 x1 s) := by
  unfold clearRange
  repeat' first
    | assumption
    | (extract_lets +onlyGivenNames l; try clear_value l)
    | with_reducible apply keeps_modRound
    | with_reducible apply keeps_setResid
    | split

theorem keeps_giveUp {a s : State} (x0 : Nat)  (h : Keeps T a s) [May T .mu] : Keeps T a (giveUp x0 s) := by
  unfold giveUp
  repeat' first
    | assumption
    | exact Or.inr rfl
    | exact Or.inl May.ok
    | (extract_lets +onlyGivenNames l)
    | split
    | with_reducible refine keeps_mk ?_ (Nat.le_refl _) id id id id id id id id id id id id id id id id id id id id id ?_ ?_ ?_ ?_ ?_ ?_ ?_ ?_ ?_ ?_ ?_ ?_ ?_ ?_ ?_ ?_ ?_ ?_ ?_ ?_ ?_ ?_ ?_ ?_ ?_ ?_ ?_ ?_ ?_ ?_ ?_ ?_ ?_ ?_ ?_ ?_ ?_ ?_ ?_

theorem keeps_failRoundAt {a s : State} (x0 : Nat) (x1 : Nat) (x2 : Nat) (x3 : Nat) (x4 : Nat) (x5 : Bool) (x6 : Nat) (x7 : Option Nat)  (h : Keeps T a s) [May T .free] [May T .ports] [May T .links] [May T .route] [May T .pot] [May T .ladder] [May T .pawn] [May T .mem] [May T .sheet] [May T .hazard] [May T .tables] [May T .feed] [May T .mu] [May T .norm] [May T .pipes] [May T .dma] : Keeps T a (failRoundAt x0 x1 x2 x3 x4 x5 x6 x7 s) := by
  unfold failRoundAt
  repeat' first
    | assumption
    | exact Or.inr rfl
    | exact Or.inl May.ok
    | (extract_lets +onlyGivenNames l; refine keeps_pass (T := T) (a := a) (x := l) ?_ ?_; all_goals first | (intro k; clear_value l) | subst l)
    | (extract_lets +onlyGivenNames l)
    | with_reducible apply keeps_modRound
    | with_reducible apply keeps_dropWork
    | with_reducible apply keeps_dropStaged
    | with_reducible apply keeps_dropParts
    | with_reducible apply keeps_clearRange
    | with_reducible apply keeps_giveUp
    | with_reducible apply keeps_modTable
    | with_reducible apply keeps_sendSig
    | with_reducible apply keeps_roundRecord
    | with_reducible apply keeps_hazardCount
    | with_reducible apply keeps_modPawn
    | with_reducible apply keeps_modKeeper
    | with_reducible apply keeps_sendReady
    | with_reducible apply keeps_commitCheck
    | with_reducible apply keeps_applyClears
    | with_reducible apply keeps_retire
    | split
    | exact id

theorem keeps_downLink {a s : State} (x0 : Nat) (x1 : Nat)  (h : Keeps T a s) [May T .ports] [May T .route] : Keeps T a (downLink x0 x1 s).2 := by
  unfold downLink
  repeat' first
    | assumption
    | dsimp only
    | with_reducible apply keeps_dropLinkDown
    | split

theorem keeps_downLink_eq {a s t : State} {x0 : Nat} {x1 : Nat}  {r} (e : downLink x0 x1 s = (r, t)) (h : Keeps T a s) [May T .ports] [May T .route] : Keeps T a t := by
  have k := keeps_downLink x0 x1 h
  rw [e] at k; exact k

theorem keeps_downLegs {a s : State} (x0 : Nat) (x1 : List Nat)  (h : Keeps T a s) [May T .ports] [May T .route] : Keeps T a (downLegs x0 x1 s).2 := by
  induction x1 generalizing s  with
  | nil => (first | exact h | (unfold downLegs; exact h))
  | cons y ys ih =>
    unfold downLegs
    repeat' first
      | assumption
      | with_reducible apply ih
      | (extract_lets +onlyGivenNames l; try clear_value l)
      | with_reducible apply keeps_downLink

theorem keeps_downLegs_eq {a s t : State} {x0 : Nat} {x1 : List Nat}  {r} (e : downLegs x0 x1 s = (r, t)) (h : Keeps T a s) [May T .ports] [May T .route] : Keeps T a t := by
  have k := keeps_downLegs x0 x1 h
  rw [e] at k; exact k

theorem keeps_stageResult {a s : State} (x0 : Table) (x1 : Round) (x2 : Nat) (x3 : Nat) (x4 : Packet) (x5 : List (Nat × Nat × Option W64))  (h : Keeps T a s) [May T .free] [May T .pot] [May T .mem] : Keeps T a (stageResult x0 x1 x2 x3 x4 x5 s) := by
  unfold stageResult
  repeat' first
    | assumption
    | (extract_lets +onlyGivenNames l; refine keeps_pass (T := T) (a := a) (x := l) ?_ ?_; all_goals first | (intro k; clear_value l) | subst l)
    | (extract_lets +onlyGivenNames l; try clear_value l)
    | with_reducible apply keeps_wroteWord
    | with_reducible apply keeps_putPkt
    | with_reducible apply keeps_freeNext
    | split

theorem keeps_shipRun {a s : State} (x0 : Table) (x1 : Round) (x2 : Nat) (x3 : Nat) (x4 : List Nat) (x5 : Option Nat) (x6 : List (Nat × List Byte))  (h : Keeps T a s) [May T .free] [May T .ports] [May T .route] [May T .pot] [May T .ladder] [May T .pawn] [May T .mem] : Keeps T a (shipRun x0 x1 x2 x3 x4 x5 x6 s) := by
  unfold shipRun
  repeat' first
    | assumption
    | (intro (_ : Keeps _ _ _))
    | (extract_lets +onlyGivenNames l; refine keeps_pass (T := T) (a := a) (x := l) ?_ ?_; all_goals first | (intro k; clear_value l) | subst l)
    | (extract_lets +onlyGivenNames l; try clear_value l)
    | with_reducible apply keeps_forAll
    | with_reducible apply keeps_pipSend
    | with_reducible apply keeps_downLegs
    | with_reducible apply keeps_unicastLeg
    | with_reducible apply keeps_stageResult
    | split
    | (intro _)

theorem keeps_resultsIn {a s : State} (x0 : Nat) (x1 : Nat) (x2 : Nat) (x3 : Nat) (x4 : List (Nat × Nat))  (h : Keeps T a s) [May T .free] [May T .ports] [May T .links] [May T .route] [May T .pot] [May T .ladder] [May T .pawn] [May T .mem] [May T .sheet] [May T .hazard] [May T .tables] [May T .feed] [May T .mu] [May T .norm] [May T .pipes] [May T .dma] : Keeps T a (resultsIn x0 x1 x2 x3 x4 s) := by
  unfold resultsIn
  repeat' first
    | assumption
    | (intro (_ : Keeps _ _ _))
    | (extract_lets +onlyGivenNames l; refine keeps_pass (T := T) (a := a) (x := l) ?_ ?_; all_goals first | (intro k; clear_value l) | subst l)
    | (extract_lets +onlyGivenNames l; try clear_value l)
    | with_reducible apply keeps_failRoundAt
    | with_reducible apply keeps_fenceDrop
    | with_reducible apply keeps_modRound
    | with_reducible apply keeps_forAll
    | with_reducible apply keeps_shipRun
    | split
    | (intro _)

theorem keeps_chunkNotices {a s : State} (x0 : Table) (x1 : Round) (x2 : Nat)  (h : Keeps T a s) [May T .free] [May T .ports] [May T .route] [May T .pot] [May T .ladder] [May T .pawn] : Keeps T a (chunkNotices x0 x1 x2 s) := by
  unfold chunkNotices
  repeat' first
    | assumption
    | (intro (_ : Keeps _ _ _))
    | (extract_lets +onlyGivenNames l; try clear_value l)
    | with_reducible apply keeps_forAll
    | with_reducible apply keeps_sendSig
    | split
    | (intro _)

theorem keeps_sentChunk {a s : State} (x0 : Nat) (x1 : Nat) (x2 : Nat)  (h : Keeps T a s) [May T .free] [May T .ports] [May T .route] [May T .pot] [May T .ladder] [May T .pawn] [May T .mem] [May T .sheet] [May T .tables] : Keeps T a (sentChunk x0 x1 x2 s) := by
  unfold sentChunk
  repeat' first
    | assumption
    | (extract_lets +onlyGivenNames l; try clear_value l)
    | with_reducible apply keeps_checkDone
    | with_reducible apply keeps_chunkNotices
    | with_reducible apply keeps_modRound
    | split

theorem keeps_failRound {a s : State} (x0 : Nat) (x1 : Nat) (x2 : Nat) (x3 : Nat) (x4 : Bool) (x5 : Nat) (x6 : Option Nat)  (h : Keeps T a s) [May T .free] [May T .ports] [May T .links] [May T .route] [May T .pot] [May T .ladder] [May T .pawn] [May T .mem] [May T .sheet] [May T .hazard] [May T .tables] [May T .feed] [May T .mu] [May T .norm] [May T .pipes] [May T .dma] : Keeps T a (failRound x0 x1 x2 x3 x4 x5 x6 s) := by
  unfold failRound
  repeat' first
    | assumption
    | with_reducible apply keeps_failRoundAt

theorem keeps_ship {a s : State} (x0 : Table) (x1 : Round) (x2 : Nat) (x3 : Nat) (x4 : Nat) (x5 : Nat) (x6 : Nat) (x7 : Nat) (x8 : List (Nat × List Byte))  (h : Keeps T a s) [May T .ports] [May T .route] [May T .pot] [May T .ladder] [May T .pawn] : Keeps T a (ship x0 x1 x2 x3 x4 x5 x6 x7 x8 s) := by
  unfold ship
  repeat' first
    | assumption
    | (intro (_ : Keeps _ _ _))
    | (extract_lets +onlyGivenNames l; try clear_value l)
    | with_reducible apply keeps_forAll
    | with_reducible apply keeps_pipSend
    | with_reducible apply keeps_sendTo
    | split
    | (intro _)

theorem keeps_keeperChunk {a s : State} (x0 : Table) (x1 : Round) (x2 : Chunk)  (h : Keeps T a s) [May T .links] [May T .route] [May T .pot] [May T .tables] : Keeps T a (keeperChunk x0 x1 x2 s) := by
  unfold keeperChunk
  repeat' first
    | assumption
    | (extract_lets +onlyGivenNames l; refine keeps_pass (T := T) (a := a) (x := l) ?_ ?_; all_goals first | (intro k; clear_value l) | subst l)
    | (extract_lets +onlyGivenNames l; try clear_value l)
    | with_reducible apply keeps_modRound
    | with_reducible apply keeps_sendReady
    | split

theorem keeps_startFold {a s : State} (x0 : Table) (x1 : Round) (x2 : NSpec)  (h : Keeps T a s) [May T .free] [May T .tables] [May T .dma] : Keeps T a (startFold x0 x1 x2 s) := by
  unfold startFold
  repeat' first
    | assumption
    | exact Or.inr rfl
    | exact Or.inl May.ok
    | (intro (_ : Keeps _ _ _))
    | (extract_lets +onlyGivenNames l; refine keeps_pass (T := T) (a := a) (x := l) ?_ ?_; all_goals first | (intro k; clear_value l) | subst l)
    | (extract_lets +onlyGivenNames l; try clear_value l)
    | with_reducible apply keeps_modRound
    | with_reducible apply keeps_modTable
    | with_reducible apply keeps_forAll
    | with_reducible apply keeps_freeNext
    | (intro _)
    | with_reducible refine keeps_mk ?_ (Nat.le_refl _) id id id id id id id id id id id id id id id id id id id id id ?_ ?_ ?_ ?_ ?_ ?_ ?_ ?_ ?_ ?_ ?_ ?_ ?_ ?_ ?_ ?_ ?_ ?_ ?_ ?_ ?_ ?_ ?_ ?_ ?_ ?_ ?_ ?_ ?_ ?_ ?_ ?_ ?_ ?_ ?_ ?_ ?_ ?_ ?_

theorem keeps_failFenced {a s : State} (x0 : Nat) (x1 : Table) (x2 : Round)  (h : Keeps T a s) [May T .free] [May T .ports] [May T .links] [May T .route] [May T .pot] [May T .ladder] [May T .pawn] [May T .mem] [May T .sheet] [May T .hazard] [May T .tables] [May T .feed] [May T .mu] [May T .norm] [May T .pipes] [May T .dma] : Keeps T a (failFenced x0 x1 x2 s) := by
  unfold failFenced
  repeat' first
    | assumption
    | (extract_lets +onlyGivenNames l; try clear_value l)
    | with_reducible apply keeps_failRoundAt
    | with_reducible apply keeps_fenceDrop

theorem keeps_emitNarrow {a s : State} (x0 : Table) (x1 : Round) (x2 : NSpec) (x3 : Chunk)  (h : Keeps T a s) [May T .free] [May T .ports] [May T .links] [May T .route] [May T .pot] [May T .ladder] [May T .pawn] [May T .mem] [May T .sheet] [May T .hazard] [May T .tables] [May T .feed] [May T .mu] [May T .norm] [May T .pipes] [May T .dma] : Keeps T a (emitNarrow x0 x1 x2 x3 s) := by
  unfold emitNarrow
  repeat' first
    | assumption
    | (extract_lets +onlyGivenNames l; try clear_value l)
    | with_reducible apply keeps_failFenced
    | with_reducible apply keeps_modRound
    | with_reducible apply keeps_setResid
    | with_reducible apply keeps_modTable
    | with_reducible apply keeps_ship
    | split

theorem keeps_shipPartial {a s : State} (x0 : Table) (x1 : Round) (x2 : Nat) (x3 : Nat) (x4 : Nat) (x5 : List (Nat × Nat))  (h : Keeps T a s) [May T .free] [May T .ports] [May T .links] [May T .route] [May T .pot] [May T .ladder] [May T .pawn] [May T .mem] [May T .sheet] [May T .hazard] [May T .tables] [May T .feed] [May T .mu] [May T .norm] [May T .pipes] [May T .dma] : Keeps T a (shipPartial x0 x1 x2 x3 x4 x5 s) := by
  unfold shipPartial
  repeat' first
    | assumption
    | (extract_lets +onlyGivenNames l; try clear_value l)
    | with_reducible apply keeps_failRoundAt
    | with_reducible apply keeps_fenceDrop
    | with_reducible apply keeps_ship
    | split

theorem keeps_roundChunk {a s : State} (x0 : Nat) (x1 : Table) (x2 : Round) (x3 : Chunk)  (h : Keeps T a s) [May T .free] [May T .ports] [May T .links] [May T .route] [May T .pot] [May T .ladder] [May T .pawn] [May T .mem] [May T .sheet] [May T .hazard] [May T .tables] [May T .feed] [May T .mu] [May T .norm] [May T .pipes] [May T .dma] : Keeps T a (roundChunk x0 x1 x2 x3 s) := by
  unfold roundChunk
  repeat' first
    | assumption
    | (extract_lets +onlyGivenNames l; refine keeps_pass (T := T) (a := a) (x := l) ?_ ?_; all_goals first | (intro k; clear_value l) | subst l)
    | (extract_lets +onlyGivenNames l; try clear_value l)
    | with_reducible apply keeps_modRound
    | with_reducible apply keeps_resultsIn

theorem keeps_emitChunk {a s : State} (x0 : Nat) (x1 : Nat) (x2 : Nat) (x3 : Nat)  (h : Keeps T a s) [May T .free] [May T .ports] [May T .links] [May T .route] [May T .pot] [May T .ladder] [May T .pawn] [May T .mem] [May T .sheet] [May T .hazard] [May T .tables] [May T .feed] [May T .mu] [May T .norm] [May T .pipes] [May T .dma] : Keeps T a (emitChunk x0 x1 x2 x3 s) := by
  unfold emitChunk
  repeat' first
    | assumption
    | (extract_lets +onlyGivenNames l; refine keeps_pass (T := T) (a := a) (x := l) ?_ ?_; all_goals first | (intro k; clear_value l) | subst l)
    | with_reducible apply keeps_setChunk
    | with_reducible apply keeps_emitNarrow
    | with_reducible apply keeps_shipPartial
    | with_reducible apply keeps_resultsIn
    | with_reducible apply keeps_keeperChunk
    | with_reducible apply keeps_roundChunk
    | split

theorem keeps_retrySlots {a s : State} (x0 : Nat)  (h : Keeps T a s) [May T .free] [May T .ports] [May T .links] [May T .route] [May T .pot] [May T .ladder] [May T .pawn] [May T .mem] [May T .sheet] [May T .hazard] [May T .tables] [May T .feed] [May T .mu] [May T .norm] [May T .pipes] [May T .dma] : Keeps T a (retrySlots x0 s) := by
  unfold retrySlots
  repeat' first
    | assumption
    | (intro (_ : Keeps _ _ _))
    | (extract_lets +onlyGivenNames l; try clear_value l)
    | with_reducible apply keeps_forAll
    | with_reducible apply keeps_emitChunk
    | split
    | (intro _)

theorem keeps_finishChunk {a s : State} (x0 : Nat) (x1 : Nat) (x2 : Nat) (x3 : Nat)  (h : Keeps T a s) [May T .free] [May T .ports] [May T .links] [May T .route] [May T .pot] [May T .ladder] [May T .pawn] [May T .mem] [May T .sheet] [May T .hazard] [May T .tables] [May T .feed] [May T .mu] [May T .norm] [May T .pipes] [May T .dma] : Keeps T a (finishChunk x0 x1 x2 x3 s) := by
  unfold finishChunk
  repeat' first
    | assumption
    | (extract_lets +onlyGivenNames l; refine keeps_pass (T := T) (a := a) (x := l) ?_ ?_; all_goals first | (intro k; clear_value l) | subst l)
    | (extract_lets +onlyGivenNames l; try clear_value l)
    | with_reducible apply keeps_setChunk
    | with_reducible apply keeps_startFold
    | with_reducible apply keeps_retrySlots
    | with_reducible apply keeps_emitChunk
    | split

theorem keeps_retryWork {a s : State} (x0 : Nat)  (h : Keeps T a s) [May T .free] [May T .ports] [May T .links] [May T .route] [May T .pot] [May T .ladder] [May T .pawn] [May T .mem] [May T .sheet] [May T .hazard] [May T .tables] [May T .feed] [May T .mu] [May T .norm] [May T .pipes] [May T .dma] : Keeps T a (retryWork x0 s) := by
  unfold retryWork
  repeat' first
    | assumption
    | (intro (_ : Keeps _ _ _))
    | (extract_lets +onlyGivenNames l; refine keeps_pass (T := T) (a := a) (x := l) ?_ ?_; all_goals first | (intro k; clear_value l) | subst l)
    | (extract_lets +onlyGivenNames l; try clear_value l)
    | with_reducible apply keeps_retrySlots
    | with_reducible apply keeps_forAll
    | with_reducible apply keeps_startFold
    | split
    | (intro _)

end Sys2Proof.Laws
end

