-- ==== Sys2Proof/Laws/KeepsRounds.lean ====
section
/-! SUPPORT. What the updates of Machine/Rounds.lean keep. -/

namespace Sys2Proof.Laws
open Sys2Proof Sys2Proof.Machine Sys2Proof.Safety
variable {T : StatePart → Bool}

theorem keeps_failOverdue {a s : State} (x0 : Nat) (x1 : Nat) (x2 : Nat)  (h : Keeps T a s) [May T .free] [May T .ports] [May T .links] [May T .route] [May T .pot] [May T .ladder] [May T .pawn] [May T .mem] [May T .sheet] [May T .hazard] [May T .tables] [May T .feed] [May T .mu] [May T .norm] [May T .pipes] [May T .dma] : Keeps T a (failOverdue x0 x1 x2 s) := by
  unfold failOverdue
  repeat' first
    | assumption
    | with_reducible apply keeps_failRoundAt
    | split

theorem keeps_putChunk {a s : State} (x0 : Nat) (x1 : Nat) (x2 : Chunk)  (h : Keeps T a s) [May T .tables] : Keeps T a (putChunk x0 x1 x2 s) := by
  unfold putChunk
  repeat' first
    | assumption
    | with_reducible apply keeps_modRound

theorem keeps_openChunk {a s : State} (x0 : Nat) (x1 : Nat) (x2 : Nat)  (h : Keeps T a s) [May T .free] [May T .pot] [May T .tables] : KeepsO T a (openChunk x0 x1 x2 s) := by
  unfold openChunk
  repeat' first
    | assumption
    | exact Or.inr rfl
    | exact Or.inl May.ok
    | (extract_lets +onlyGivenNames l)
    | dsimp only
    | with_reducible apply keeps_putChunk
    | with_reducible apply keeps_freeNext
    | with_reducible apply keeps_modPot
    | with_reducible apply keeps_modRound
    | with_reducible apply keepsO_none
    | with_reducible apply keepsO_some
    | split
    | exact id

theorem keeps_openChunk_eq {a s t : State} {x0 : Nat} {x1 : Nat} {x2 : Nat}  (e : openChunk x0 x1 x2 s = some t) (h : Keeps T a s) [May T .free] [May T .pot] [May T .tables] : Keeps T a t := keeps_openChunk x0 x1 x2 h t e

theorem keeps_releaseCells {a s : State} (x0 : Nat)  (h : Keeps T a s) [May T .links] [May T .feed] : Keeps T a (releaseCells x0 s) := by
  unfold releaseCells
  repeat' first
    | assumption
    | exact Or.inr rfl
    | exact Or.inl May.ok
    | (intro (_ : Keeps _ _ _))
    | (extract_lets +onlyGivenNames l; refine keeps_pass (T := T) (a := a) (x := l) ?_ ?_; all_goals first | (intro k; clear_value l) | subst l)
    | (extract_lets +onlyGivenNames l)
    | with_reducible apply keeps_forAll
    | with_reducible apply keeps_freeCredits
    | (intro _)
    | with_reducible refine keeps_mk ?_ (Nat.le_refl _) id id id id id id id id id id id id id id id id id id id id id ?_ ?_ ?_ ?_ ?_ ?_ ?_ ?_ ?_ ?_ ?_ ?_ ?_ ?_ ?_ ?_ ?_ ?_ ?_ ?_ ?_ ?_ ?_ ?_ ?_ ?_ ?_ ?_ ?_ ?_ ?_ ?_ ?_ ?_ ?_ ?_ ?_ ?_ ?_

theorem keeps_acceptPart {a s : State} (x0 : Nat) (x1 : Part)  (h : Keeps T a s) [May T .links] [May T .tables] [May T .feed] : Keeps T a (acceptPart x0 x1 s) := by
  unfold acceptPart
  repeat' first
    | assumption
    | exact Or.inr rfl
    | exact Or.inl May.ok
    | (extract_lets +onlyGivenNames l; refine keeps_pass (T := T) (a := a) (x := l) ?_ ?_; all_goals first | (intro k; clear_value l) | subst l)
    | (extract_lets +onlyGivenNames l)
    | with_reducible apply keeps_modRound
    | with_reducible apply keeps_releaseCells
    | exact id
    | exact Nat.le_refl _
    | (intro e; simp_all +zetaDelta [planeOk]; done)
    | with_reducible apply keeps_mk

theorem keeps_fillLane {a s : State} (x0 : Nat) (x1 : Nat)  (h : Keeps T a s) [May T .links] [May T .tables] [May T .feed] : Keeps T a (fillLane x0 x1 s) := by
  induction x1 generalizing s  with
  | zero => (first | exact h | (unfold fillLane; exact h))
  | succ n ih =>
    unfold fillLane
    repeat' first
      | assumption
      | with_reducible apply ih
      | (extract_lets +onlyGivenNames l; try clear_value l)
      | with_reducible apply keeps_acceptPart
      | split

theorem keeps_drain {a s : State}   (h : Keeps T a s) [May T .free] [May T .ports] [May T .links] [May T .route] [May T .pot] [May T .ladder] [May T .pawn] [May T .mem] [May T .sheet] [May T .hazard] [May T .tables] [May T .feed] [May T .mu] [May T .norm] [May T .pipes] [May T .dma] : Keeps T a (drain s) := by
  unfold drain
  repeat' first
    | assumption
    | (intro (_ : Keeps _ _ _))
    | (extract_lets +onlyGivenNames l; refine keeps_pass (T := T) (a := a) (x := l) ?_ ?_; all_goals first | (intro k; clear_value l) | subst l)
    | (extract_lets +onlyGivenNames l; try clear_value l)
    | with_reducible apply keeps_forAll
    | with_reducible apply keeps_retryWork
    | with_reducible apply keeps_failOverdue
    | with_reducible apply keeps_openChunk
    | with_reducible apply keeps_fillLane
    | with_reducible apply keepsO_getD
    | split
    | (intro _)

theorem keeps_chunkAbsent {a s : State} (x0 : Nat) (x1 : Nat) (x2 : Nat)  (h : Keeps T a s) [May T .free] [May T .power] [May T .wd] [May T .time] [May T .ports] [May T .links] [May T .route] [May T .pot] [May T .ladder] [May T .pawn] [May T .mem] [May T .sheet] [May T .hazard] [May T .tables] [May T .feed] [May T .mu] [May T .norm] [May T .pipes] [May T .dma] : Keeps T a (chunkAbsent x0 x1 x2 s) := by
  unfold chunkAbsent
  repeat' first
    | assumption
    | (extract_lets +onlyGivenNames l; try clear_value l)
    | with_reducible apply keeps_drain
    | with_reducible apply keeps_failRound
    | with_reducible apply keeps_advanceTo
    | split

theorem keeps_strayTable {a s : State} (x0 : Nat) (x1 : Stray → Stray)  (h : Keeps T a s) [May T .tables] [May T .strayAll] : Keeps T a (strayTable x0 x1 s) := by
  unfold strayTable
  repeat' first
    | assumption
    | exact Or.inr rfl
    | exact Or.inl May.ok
    | (extract_lets +onlyGivenNames l; try clear_value l)
    | with_reducible apply keeps_modTable
    | split
    | with_reducible refine keeps_mk ?_ (Nat.le_refl _) id id id id id id id id id id id id id id id id id id id id id ?_ ?_ ?_ ?_ ?_ ?_ ?_ ?_ ?_ ?_ ?_ ?_ ?_ ?_ ?_ ?_ ?_ ?_ ?_ ?_ ?_ ?_ ?_ ?_ ?_ ?_ ?_ ?_ ?_ ?_ ?_ ?_ ?_ ?_ ?_ ?_ ?_ ?_ ?_

theorem keeps_strayOffset {a s : State} (x0 : Nat)  (h : Keeps T a s) [May T .tables] [May T .strayAll] : Keeps T a (strayOffset x0 s) := by
  unfold strayOffset
  repeat' first
    | assumption
    | with_reducible apply keeps_strayTable

theorem keeps_countIn {a s : State} (x0 : Table) (x1 : Round) (x2 : Src) (x3 : List (Nat × Val)) (x4 : Nat)  (h : Keeps T a s) [May T .tables] : Keeps T a (countIn x0 x1 x2 x3 x4 s) := by
  unfold countIn
  repeat' first
    | assumption
    | (extract_lets +onlyGivenNames l; try clear_value l)
    | with_reducible apply keeps_modTable
    | with_reducible apply keeps_modRound

theorem keeps_wordFault {a s : State} (x0 : Nat) (x1 : Nat) (x2 : Nat) (x3 : Nat) (x4 : WordOwner) (x5 : WordRead)  (h : Keeps T a s) [May T .free] [May T .alert] [May T .ports] [May T .links] [May T .route] [May T .pot] [May T .ladder] [May T .pawn] [May T .mem] [May T .sheet] [May T .hazard] [May T .tables] [May T .feed] [May T .mu] [May T .norm] [May T .pipes] [May T .dma] : Keeps T a (wordFault x0 x1 x2 x3 x4 x5 s) := by
  unfold wordFault
  repeat' first
    | assumption
    | (extract_lets +onlyGivenNames l; try clear_value l)
    | with_reducible apply keeps_failRound
    | with_reducible apply keeps_readWord

theorem keeps_lockedSeq {a s : State} (x0 : Nat) (x1 : WordRead)  (h : Keeps T a s) [May T .free] [May T .alert] [May T .ports] [May T .links] [May T .route] [May T .pot] [May T .ladder] [May T .pawn] [May T .mem] [May T .sheet] [May T .hazard] [May T .tables] [May T .feed] [May T .mu] [May T .norm] [May T .pipes] [May T .dma] : Keeps T a (lockedSeq x0 x1 s) := by
  unfold lockedSeq
  repeat' first
    | assumption
    | exact Or.inr rfl
    | exact Or.inl May.ok
    | (extract_lets +onlyGivenNames l; refine keeps_pass (T := T) (a := a) (x := l) ?_ ?_; all_goals first | (intro k; clear_value l) | subst l)
    | (extract_lets +onlyGivenNames l)
    | with_reducible apply keeps_drain
    | with_reducible apply keeps_wordFault
    | with_reducible apply keeps_readWord
    | with_reducible apply keeps_modRound
    | with_reducible apply keeps_wroteWord
    | with_reducible apply keeps_finishChunk
    | split
    | exact id
    | exact Nat.le_refl _
    | (intro e; simp_all +zetaDelta [planeOk]; done)
    | with_reducible apply keeps_mk

theorem keeps_takeSelf {a s : State} (x0 : Nat) (x1 : List Byte)  (h : Keeps T a s) [May T .inbox] : Keeps T a (takeSelf x0 x1 s).2 := by
  unfold takeSelf
  repeat' first
    | assumption
    | exact Or.inr rfl
    | exact Or.inl May.ok
    | (extract_lets +onlyGivenNames l; try clear_value l)
    | dsimp only
    | split
    | with_reducible refine keeps_mk ?_ (Nat.le_refl _) id id id id id id id id id id id id id id id id id id id id id ?_ ?_ ?_ ?_ ?_ ?_ ?_ ?_ ?_ ?_ ?_ ?_ ?_ ?_ ?_ ?_ ?_ ?_ ?_ ?_ ?_ ?_ ?_ ?_ ?_ ?_ ?_ ?_ ?_ ?_ ?_ ?_ ?_ ?_ ?_ ?_ ?_ ?_ ?_

theorem keeps_takeSelf_eq {a s t : State} {x0 : Nat} {x1 : List Byte}  {r} (e : takeSelf x0 x1 s = (r, t)) (h : Keeps T a s) [May T .inbox] : Keeps T a t := by
  have k := keeps_takeSelf x0 x1 h
  rw [e] at k; exact k

theorem keeps_takeSelfFree {a s : State} (x0 : Nat) (x1 : List Byte)  (h : Keeps T a s) [May T .links] [May T .inbox] : Keeps T a (takeSelfFree x0 x1 s).2 := by
  unfold takeSelfFree
  repeat' first
    | assumption
    | (extract_lets +onlyGivenNames l; try clear_value l)
    | dsimp only
    | (refine keeps_takeSelf_eq (by assumption) ?_)
    | with_reducible apply keeps_freeCredits
    | split

theorem keeps_takeSelfFree_eq {a s t : State} {x0 : Nat} {x1 : List Byte}  {r} (e : takeSelfFree x0 x1 s = (r, t)) (h : Keeps T a s) [May T .links] [May T .inbox] : Keeps T a t := by
  have k := keeps_takeSelfFree x0 x1 h
  rw [e] at k; exact k

theorem keeps_abortIn {a s : State} (x0 : RoundSig) (x1 : Nat) (x2 : Option Nat)  (h : Keeps T a s) [May T .free] [May T .ports] [May T .links] [May T .route] [May T .pot] [May T .ladder] [May T .pawn] [May T .mem] [May T .sheet] [May T .hazard] [May T .tables] [May T .feed] [May T .mu] [May T .norm] [May T .pipes] [May T .dma] : Keeps T a (abortIn x0 x1 x2 s) := by
  unfold abortIn
  repeat' first
    | assumption
    | (extract_lets +onlyGivenNames l; try clear_value l)
    | with_reducible apply keeps_failRoundAt
    | split

theorem keeps_signalIn {a s : State} (x0 : Nat) (x1 : List Byte)  (h : Keeps T a s) [May T .free] [May T .ports] [May T .links] [May T .route] [May T .pot] [May T .ladder] [May T .inbox] [May T .pawn] [May T .mem] [May T .sheet] [May T .hazard] [May T .tables] [May T .feed] [May T .mu] [May T .norm] [May T .pipes] [May T .dma] : Keeps T a (signalIn x0 x1 s) := by
  unfold signalIn
  repeat' first
    | assumption
    | (extract_lets +onlyGivenNames l; try clear_value l)
    | (refine keeps_takeSelfFree_eq (by assumption) ?_)
    | with_reducible apply keeps_drain
    | with_reducible apply keeps_abortIn
    | split

theorem keeps_roundInactive {a s : State} (x0 : Nat) (x1 : Nat)  (h : Keeps T a s) [May T .free] [May T .power] [May T .wd] [May T .time] [May T .ports] [May T .links] [May T .route] [May T .pot] [May T .ladder] [May T .pawn] [May T .mem] [May T .sheet] [May T .hazard] [May T .tables] [May T .feed] [May T .mu] [May T .norm] [May T .pipes] [May T .dma] : Keeps T a (roundInactive x0 x1 s) := by
  unfold roundInactive
  repeat' first
    | assumption
    | (extract_lets +onlyGivenNames l; try clear_value l)
    | with_reducible apply keeps_drain
    | with_reducible apply keeps_failRound
    | with_reducible apply keeps_advanceTo
    | split

theorem keeps_strayRound {a s : State} (x0 : Nat) (x1 : Nat)  (h : Keeps T a s) [May T .tables] [May T .strayAll] : Keeps T a (strayRound x0 x1 s) := by
  unfold strayRound
  repeat' first
    | assumption
    | (extract_lets +onlyGivenNames l; try clear_value l)
    | with_reducible apply keeps_strayTable

theorem keeps_contribRound {a s : State} (x0 : Bool) (x1 : Nat) (x2 : RoundHdr)  (h : Keeps T a s) [May T .free] [May T .ports] [May T .links] [May T .route] [May T .pot] [May T .ladder] [May T .pawn] [May T .mem] [May T .sheet] [May T .hazard] [May T .tables] [May T .feed] [May T .mu] [May T .norm] [May T .pipes] [May T .dma] [May T .strayAll] : KeepsE T a (contribRound x0 x1 x2 s) := by
  unfold contribRound
  repeat' first
    | assumption
    | (extract_lets +onlyGivenNames l; try clear_value l)
    | dsimp only
    | with_reducible apply keeps_strayRound
    | with_reducible apply keeps_failOverdue
    | with_reducible apply keeps_strayOffset
    | with_reducible apply keeps_failRoundAt
    | with_reducible apply keepsE_ok
    | with_reducible apply keepsE_error
    | split

theorem keeps_contribRound_eq {a s t : State} {x0 : Bool} {x1 : Nat} {x2 : RoundHdr}  (e : contribRound x0 x1 x2 s = .error t) (h : Keeps T a s) [May T .free] [May T .ports] [May T .links] [May T .route] [May T .pot] [May T .ladder] [May T .pawn] [May T .mem] [May T .sheet] [May T .hazard] [May T .tables] [May T .feed] [May T .mu] [May T .norm] [May T .pipes] [May T .dma] [May T .strayAll] : Keeps T a t := keeps_contribRound x0 x1 x2 h t e

theorem keeps_selfDrop {a s : State}   (h : Keeps T a s) [May T .pawn] : Keeps T a (selfDrop s) := by
  unfold selfDrop
  repeat' first
    | assumption
    | exact Or.inr rfl
    | exact Or.inl May.ok
    | (extract_lets +onlyGivenNames l)
    | with_reducible apply keeps_modPawn
    | exact id

theorem keeps_countGot {a s : State} (x0 : Table) (x1 : Round) (x2 : Src) (x3 : List (Nat × Val))  (h : Keeps T a s) [May T .tables] : Keeps T a (countGot x0 x1 x2 x3 s) := by
  unfold countGot
  repeat' first
    | assumption
    | (intro (_ : Keeps _ _ _))
    | (extract_lets +onlyGivenNames l; try clear_value l)
    | with_reducible apply keeps_forAll
    | with_reducible apply keeps_putChunk
    | split
    | (intro _)

theorem keeps_pipFinish {a s : State} (x0 : Nat) (x1 : Nat) (x2 : Nat)  (h : Keeps T a s) [May T .free] [May T .ports] [May T .links] [May T .route] [May T .pot] [May T .ladder] [May T .pawn] [May T .mem] [May T .sheet] [May T .hazard] [May T .tables] [May T .feed] [May T .mu] [May T .norm] [May T .pipes] [May T .dma] : Keeps T a (pipFinish x0 x1 x2 s) := by
  unfold pipFinish
  repeat' first
    | assumption
    | (extract_lets +onlyGivenNames l; refine keeps_pass (T := T) (a := a) (x := l) ?_ ?_; all_goals first | (intro k; clear_value l) | subst l)
    | (extract_lets +onlyGivenNames l; try clear_value l)
    | with_reducible apply keeps_modRound
    | with_reducible apply keeps_finishChunk
    | with_reducible apply keeps_putChunk
    | split

theorem keeps_pipContrib {a s : State} (x0 : Nat) (x1 : Table) (x2 : Round) (x3 : Src) (x4 : List (Nat × Val))  (h : Keeps T a s) [May T .free] [May T .ports] [May T .links] [May T .route] [May T .pot] [May T .ladder] [May T .pawn] [May T .mem] [May T .sheet] [May T .hazard] [May T .tables] [May T .feed] [May T .mu] [May T .norm] [May T .pipes] [May T .dma] : Keeps T a (pipContrib x0 x1 x2 x3 x4 s) := by
  unfold pipContrib
  repeat' first
    | assumption
    | (extract_lets +onlyGivenNames l; refine keeps_pass (T := T) (a := a) (x := l) ?_ ?_; all_goals first | (intro k; clear_value l) | subst l)
    | (extract_lets +onlyGivenNames l; try clear_value l)
    | with_reducible apply keeps_failRoundAt
    | with_reducible apply keeps_countIn
    | with_reducible apply keeps_countGot
    | with_reducible apply keeps_modRound
    | with_reducible apply keeps_pipFinish
    | split

theorem keeps_pipStray {a s : State} (x0 : Nat) (x1 : List W64)  (h : Keeps T a s) [May T .ports] [May T .tables] : Keeps T a (pipStray x0 x1 s) := by
  unfold pipStray
  repeat' first
    | assumption
    | (extract_lets +onlyGivenNames l; try clear_value l)
    | with_reducible apply keeps_modTable
    | with_reducible apply keeps_modPort
    | split

theorem keeps_pipArrive {a s : State} (x0 : Nat) (x1 : Nat) (x2 : List W64) (x3 : State → State) (hx3 : ∀  t, Keeps T a t → Keeps T a (x3  t))  (h : Keeps T a s) [May T .ports] [May T .links] [May T .inbox] [May T .tables] : Keeps T a (pipArrive x0 x1 x2 x3 s) := by
  unfold pipArrive
  repeat' first
    | assumption
    | (extract_lets +onlyGivenNames l; refine keeps_pass (T := T) (a := a) (x := l) ?_ ?_; all_goals first | (intro k; clear_value l) | subst l)
    | with_reducible apply hx3
    | with_reducible apply keeps_takeFlit
    | with_reducible apply keeps_pipStray
    | split

theorem keeps_pipSigIn {a s : State} (x0 : Nat) (x1 : List W64)  (h : Keeps T a s) [May T .free] [May T .ports] [May T .links] [May T .route] [May T .pot] [May T .ladder] [May T .pawn] [May T .mem] [May T .sheet] [May T .hazard] [May T .tables] [May T .feed] [May T .mu] [May T .norm] [May T .pipes] [May T .dma] : Keeps T a (pipSigIn x0 x1 s) := by
  unfold pipSigIn
  repeat' first
    | assumption
    | (extract_lets +onlyGivenNames l; try clear_value l)
    | with_reducible apply keeps_selfDrop
    | with_reducible apply keeps_drain
    | with_reducible apply keeps_abortIn
    | split

theorem keeps_startUnfold {a s : State} (x0 : Table) (x1 : Round) (x2 : NSpec) (x3 : Src)  (h : Keeps T a s) [May T .tables] : Keeps T a (startUnfold x0 x1 x2 x3 s) := by
  unfold startUnfold
  repeat' first
    | assumption
    | (extract_lets +onlyGivenNames l; try clear_value l)
    | with_reducible apply keeps_modTable
    | split

theorem keeps_takeFactors {a s : State} (x0 : Table) (x1 : Round) (x2 : NSpec) (x3 : Src) (x4 : List (Nat × Val))  (h : Keeps T a s) [May T .free] [May T .ports] [May T .links] [May T .route] [May T .pot] [May T .ladder] [May T .pawn] [May T .mem] [May T .sheet] [May T .hazard] [May T .tables] [May T .feed] [May T .mu] [May T .norm] [May T .pipes] [May T .dma] : Keeps T a (takeFactors x0 x1 x2 x3 x4 s) := by
  unfold takeFactors
  repeat' first
    | assumption
    | (extract_lets +onlyGivenNames l; refine keeps_pass (T := T) (a := a) (x := l) ?_ ?_; all_goals first | (intro k; clear_value l) | subst l)
    | (extract_lets +onlyGivenNames l; try clear_value l)
    | with_reducible apply keeps_failRound
    | with_reducible apply keeps_modRound
    | with_reducible apply keeps_startUnfold
    | split

theorem keeps_contribIn {a s : State} (x0 : Nat) (x1 : List Byte)  (h : Keeps T a s) [May T .free] [May T .ports] [May T .links] [May T .route] [May T .pot] [May T .ladder] [May T .inbox] [May T .pawn] [May T .mem] [May T .sheet] [May T .hazard] [May T .tables] [May T .feed] [May T .mu] [May T .norm] [May T .pipes] [May T .dma] [May T .strayAll] : Keeps T a (contribIn x0 x1 s) := by
  unfold contribIn
  repeat' first
    | assumption
    | exact Or.inr rfl
    | exact Or.inl May.ok
    | (extract_lets +onlyGivenNames l; refine keeps_pass (T := T) (a := a) (x := l) ?_ ?_; all_goals first | (intro k; clear_value l) | subst l)
    | (extract_lets +onlyGivenNames l; refine keeps_fun l ?_; subst l)
    | (extract_lets +onlyGivenNames l)
    | (refine keeps_takeSelf_eq (by assumption) ?_)
    | with_reducible apply keeps_freeCredits
    | (refine keeps_contribRound_eq (by assumption) ?_)
    | with_reducible apply keeps_drain
    | with_reducible apply keeps_failRound
    | with_reducible apply keeps_takeFactors
    | with_reducible apply keeps_countIn
    | with_reducible apply keeps_countGot
    | with_reducible apply keeps_releaseCells
    | split
    | with_reducible refine keeps_mk ?_ (Nat.le_refl _) id id id id id id id id id id id id id id id id id id id id id ?_ ?_ ?_ ?_ ?_ ?_ ?_ ?_ ?_ ?_ ?_ ?_ ?_ ?_ ?_ ?_ ?_ ?_ ?_ ?_ ?_ ?_ ?_ ?_ ?_ ?_ ?_ ?_ ?_ ?_ ?_ ?_ ?_ ?_ ?_ ?_ ?_ ?_ ?_

theorem keeps_chunkLate {a s : State} (x0 : Nat) (x1 : Nat) (x2 : Nat)  (h : Keeps T a s) [May T .power] [May T .wd] [May T .time] [May T .ports] [May T .pawn] [May T .tables] : Keeps T a (chunkLate x0 x1 x2 s) := by
  unfold chunkLate
  repeat' first
    | assumption
    | (extract_lets +onlyGivenNames l; try clear_value l)
    | with_reducible apply keeps_modRound
    | with_reducible apply keeps_advanceTo
    | split

theorem keeps_resultData {a s : State} (x0 : Bool) (x1 : Nat) (x2 : Nat) (x3 : RoundHdr) (x4 : List Byte)  (h : Keeps T a s) [May T .free] [May T .ports] [May T .links] [May T .route] [May T .pot] [May T .ladder] [May T .pawn] [May T .mem] [May T .sheet] [May T .hazard] [May T .tables] [May T .feed] [May T .mu] [May T .norm] [May T .pipes] [May T .dma] [May T .strayAll] : Keeps T a (resultData x0 x1 x2 x3 x4 s) := by
  unfold resultData
  repeat' first
    | assumption
    | (extract_lets +onlyGivenNames l; try clear_value l)
    | with_reducible apply keeps_strayRound
    | with_reducible apply keeps_failOverdue
    | with_reducible apply keeps_strayOffset
    | with_reducible apply keeps_failRoundAt
    | with_reducible apply keeps_resultsIn
    | with_reducible apply keeps_modRound
    | split

theorem keeps_resultIn {a s : State} (x0 : Nat) (x1 : List Byte)  (h : Keeps T a s) [May T .free] [May T .ports] [May T .links] [May T .route] [May T .pot] [May T .ladder] [May T .inbox] [May T .pawn] [May T .mem] [May T .sheet] [May T .hazard] [May T .tables] [May T .feed] [May T .mu] [May T .norm] [May T .pipes] [May T .dma] [May T .strayAll] : Keeps T a (resultIn x0 x1 s) := by
  unfold resultIn
  repeat' first
    | assumption
    | (extract_lets +onlyGivenNames l; try clear_value l)
    | (refine keeps_takeSelfFree_eq (by assumption) ?_)
    | with_reducible apply keeps_drain
    | with_reducible apply keeps_resultData
    | split

theorem keeps_pipRoundIn {a s : State} (x0 : Nat) (x1 : List W64)  (h : Keeps T a s) [May T .free] [May T .ports] [May T .links] [May T .route] [May T .pot] [May T .ladder] [May T .pawn] [May T .mem] [May T .sheet] [May T .hazard] [May T .tables] [May T .feed] [May T .mu] [May T .norm] [May T .pipes] [May T .dma] [May T .strayAll] : Keeps T a (pipRoundIn x0 x1 s) := by
  unfold pipRoundIn
  repeat' first
    | assumption
    | (extract_lets +onlyGivenNames l; try clear_value l)
    | with_reducible apply keeps_selfDrop
    | with_reducible apply keeps_drain
    | with_reducible apply keeps_resultData
    | (refine keeps_contribRound_eq (by assumption) ?_)
    | with_reducible apply keeps_failRoundAt
    | with_reducible apply keeps_pipContrib
    | split

end Sys2Proof.Laws
end

