-- ==== Sys2Proof/Laws/KeepsMatrixUnits.lean ====
section
/-! SUPPORT. What the updates of Machine/MatrixUnits.lean keep. -/

namespace Sys2Proof.Laws
open Sys2Proof Sys2Proof.Machine Sys2Proof.Safety
variable {T : StatePart → Bool}

/-- Who is served next does not change the number of units. -/
theorem rrNext_units {tables : List Nat} {sv : Serve} {ready : List (Nat × Nat)} {x : Nat × Serve} (e : rrNext tables sv ready = some x) :
    x.2.units = sv.units := by
  unfold rrNext at e
  split at e
  · cases e; rfl
  · split at e
    · cases e; rfl
    · simp only [Option.map_eq_some_iff] at e
      obtain ⟨_, _, e⟩ := e
      subst e; rfl


theorem keeps_freeUnit {a s : State} (x0 : Nat)  (h : Keeps T a s) [May T .mu] : Keeps T a (freeUnit x0 s) := by
  unfold freeUnit
  repeat' first
    | assumption
    | exact Or.inr rfl
    | exact Or.inl May.ok
    | (extract_lets +onlyGivenNames l; try clear_value l)
    | exact id
    | exact Nat.le_refl _
    | (intro e; simp_all +zetaDelta; done)
    | with_reducible apply keeps_mk

theorem keeps_takeTask {a s : State} (x0 : Nat) (x1 : Nat)  (h : Keeps T a s) [May T .mats] : Keeps T a (takeTask x0 x1 s) := by
  unfold takeTask
  repeat' first
    | assumption
    | exact Or.inr rfl
    | exact Or.inl May.ok
    | (extract_lets +onlyGivenNames l; try clear_value l)
    | split
    | with_reducible refine keeps_mk ?_ (Nat.le_refl _) id id id id id id id id id id id id id id id id id id id id id ?_ ?_ ?_ ?_ ?_ ?_ ?_ ?_ ?_ ?_ ?_ ?_ ?_ ?_ ?_ ?_ ?_ ?_ ?_ ?_ ?_ ?_ ?_ ?_ ?_ ?_ ?_ ?_ ?_ ?_ ?_ ?_ ?_ ?_ ?_ ?_ ?_ ?_ ?_

theorem keeps_runOn {a s : State} (x0 : Nat) (x1 : Nat) (x2 : Nat)  (h : Keeps T a s) [May T .mu] [May T .mats] : Keeps T a (runOn x0 x1 x2 s) := by
  unfold runOn
  repeat' first
    | assumption
    | exact Or.inr rfl
    | exact Or.inl May.ok
    | (extract_lets +onlyGivenNames l; try clear_value l)
    | with_reducible apply keeps_takeTask
    | exact id
    | exact Nat.le_refl _
    | (intro e; simp_all +zetaDelta; done)
    | with_reducible apply keeps_mk

theorem keeps_grantTo {a s : State} (x0 : Nat) (x1 : Nat)  (h : Keeps T a s) [May T .tables] [May T .mu] [May T .mats] : Keeps T a (grantTo x0 x1 s) := by
  unfold grantTo
  repeat' first
    | assumption
    | exact Or.inr rfl
    | exact Or.inl May.ok
    | (extract_lets +onlyGivenNames l; try clear_value l)
    | with_reducible apply keeps_runOn
    | with_reducible apply keeps_modTable
    | (intro e; rename_i q; exact (congrArg List.length (rrNext_units q)).trans e)
    | split
    | exact id
    | exact Nat.le_refl _
    | with_reducible apply keeps_mk

theorem keeps_passOn {a s : State} (x0 : Nat) (x1 : Nat)  (h : Keeps T a s) [May T .tables] [May T .mu] [May T .mats] : Keeps T a (passOn x0 x1 s) := by
  unfold passOn
  repeat' first
    | assumption
    | (extract_lets +onlyGivenNames l; refine keeps_pass (T := T) (a := a) (x := l) ?_ ?_; all_goals first | (intro k; clear_value l) | subst l)
    | with_reducible apply keeps_freeUnit
    | with_reducible apply keeps_grantTo
    | split

theorem keeps_nextTask {a s : State} (x0 : Nat) (x1 : Nat) (x2 : Nat)  (h : Keeps T a s) [May T .mu] [May T .mats] : Keeps T a (nextTask x0 x1 x2 s) := by
  unfold nextTask
  repeat' first
    | assumption
    | (extract_lets +onlyGivenNames l; try clear_value l)
    | with_reducible apply keeps_freeUnit
    | with_reducible apply keeps_runOn
    | with_reducible apply keeps_giveUp
    | split

theorem keeps_matrixFault {a s : State} (x0 : Nat) (x1 : Nat) (x2 : WordRead)  (h : Keeps T a s) [May T .free] [May T .alert] [May T .ports] [May T .links] [May T .route] [May T .pot] [May T .ladder] [May T .pawn] [May T .mem] [May T .sheet] [May T .hazard] [May T .tables] [May T .feed] [May T .mu] [May T .norm] [May T .pipes] [May T .dma] : Keeps T a (matrixFault x0 x1 x2 s) := by
  unfold matrixFault
  repeat' first
    | assumption
    | (extract_lets +onlyGivenNames l; try clear_value l)
    | with_reducible apply keeps_drain
    | with_reducible apply keeps_wordFault
    | with_reducible apply keeps_freeNext
    | split

theorem keeps_modJob {a s : State} (x0 : Nat) (x1 : Nat) (x2 : Option Src) (x3 : MuJob → MuJob)  (h : Keeps T a s) [May T .tables] : Keeps T a (modJob x0 x1 x2 x3 s) := by
  unfold modJob
  repeat' first
    | assumption
    | with_reducible apply keeps_modTable

theorem keeps_endJob {a s : State} (x0 : Nat) (x1 : Nat) (x2 : Option Src)  (h : Keeps T a s) [May T .tables] : Keeps T a (endJob x0 x1 x2 s) := by
  unfold endJob
  repeat' first
    | assumption
    | with_reducible apply keeps_modTable

theorem keeps_sendFactors {a s : State} (x0 : Table) (x1 : Round) (x2 : List Nat)  (h : Keeps T a s) [May T .ports] [May T .route] [May T .pot] [May T .ladder] [May T .pawn] : Keeps T a (sendFactors x0 x1 x2 s) := by
  unfold sendFactors
  repeat' first
    | assumption
    | with_reducible apply keeps_ship

theorem keeps_foldSent {a s : State} (x0 : Nat) (x1 : Nat)  (h : Keeps T a s) [May T .tables] : Keeps T a (foldSent x0 x1 s) := by
  unfold foldSent
  repeat' first
    | assumption
    | with_reducible apply keeps_modRound

theorem keeps_foldZeroed {a s : State} (x0 : Table) (x1 : Round) (x2 : NSpec)  (h : Keeps T a s) [May T .mem] [May T .tables] : Keeps T a (foldZeroed x0 x1 x2 s) := by
  unfold foldZeroed
  repeat' first
    | assumption
    | (extract_lets +onlyGivenNames l; refine keeps_pass (T := T) (a := a) (x := l) ?_ ?_; all_goals first | (intro k; clear_value l) | subst l)
    | (extract_lets +onlyGivenNames l; try clear_value l)
    | with_reducible apply keeps_modRound
    | with_reducible apply keeps_setResid
    | split

theorem keeps_stageDone {a s : State} (x0 : Nat) (x1 : MuJob)  (h : Keeps T a s) [May T .free] [May T .ports] [May T .links] [May T .route] [May T .pot] [May T .ladder] [May T .pawn] [May T .mem] [May T .sheet] [May T .hazard] [May T .tables] [May T .feed] [May T .mu] [May T .norm] [May T .pipes] [May T .dma] : Keeps T a (stageDone x0 x1 s) := by
  unfold stageDone
  repeat' first
    | assumption
    | exact Or.inr rfl
    | exact Or.inl May.ok
    | (extract_lets +onlyGivenNames l; refine keeps_pass (T := T) (a := a) (x := l) ?_ ?_; all_goals first | (intro k; clear_value l) | subst l)
    | (extract_lets +onlyGivenNames l)
    | with_reducible apply keeps_endJob
    | with_reducible apply keeps_failRound
    | with_reducible apply keeps_countIn
    | with_reducible apply keeps_countGot
    | with_reducible apply keeps_drain
    | with_reducible apply keeps_modJob
    | with_reducible apply keeps_fillPipes
    | with_reducible apply keeps_modRound
    | with_reducible apply keeps_failFenced
    | with_reducible apply keeps_sendFactors
    | with_reducible apply keeps_foldSent
    | with_reducible apply keeps_foldZeroed
    | with_reducible apply keeps_setResid
    | split
    | with_reducible refine keeps_mk ?_ (Nat.le_refl _) id id id id id id id id id id id id id id id id id id id id id ?_ ?_ ?_ ?_ ?_ ?_ ?_ ?_ ?_ ?_ ?_ ?_ ?_ ?_ ?_ ?_ ?_ ?_ ?_ ?_ ?_ ?_ ?_ ?_ ?_ ?_ ?_ ?_ ?_ ?_ ?_ ?_ ?_ ?_ ?_ ?_ ?_ ?_ ?_

theorem keeps_taskRan {a s : State} (x0 : Nat) (x1 : Table) (x2 : MuJob) (x3 : WordRead)  (h : Keeps T a s) [May T .free] [May T .alert] [May T .ports] [May T .links] [May T .route] [May T .pot] [May T .ladder] [May T .pawn] [May T .mem] [May T .sheet] [May T .hazard] [May T .tables] [May T .feed] [May T .mu] [May T .norm] [May T .pipes] [May T .dma] : Keeps T a (taskRan x0 x1 x2 x3 s) := by
  unfold taskRan
  repeat' first
    | assumption
    | (extract_lets +onlyGivenNames l; refine keeps_pass (T := T) (a := a) (x := l) ?_ ?_; all_goals first | (intro k; clear_value l) | subst l)
    | (extract_lets +onlyGivenNames l; try clear_value l)
    | with_reducible apply keeps_matrixFault
    | with_reducible apply keeps_modJob
    | with_reducible apply keeps_readWord
    | with_reducible apply keeps_stageDone
    | split

theorem keeps_muTask {a s : State} (x0 : Nat) (x1 : WordRead)  (h : Keeps T a s) [May T .free] [May T .alert] [May T .ports] [May T .links] [May T .route] [May T .pot] [May T .ladder] [May T .pawn] [May T .mem] [May T .sheet] [May T .hazard] [May T .tables] [May T .feed] [May T .mu] [May T .mats] [May T .norm] [May T .pipes] [May T .dma] : Keeps T a (muTask x0 x1 s) := by
  unfold muTask
  repeat' first
    | assumption
    | (extract_lets +onlyGivenNames l; refine keeps_pass (T := T) (a := a) (x := l) ?_ ?_; all_goals first | (intro k; clear_value l) | subst l)
    | (extract_lets +onlyGivenNames l; try clear_value l)
    | with_reducible apply keeps_passOn
    | with_reducible apply keeps_readWord
    | with_reducible apply keeps_modTable
    | with_reducible apply keeps_nextTask
    | with_reducible apply keeps_taskRan
    | split

theorem keeps_dmaDone {a s : State} (x0 : Nat) (x1 : WordRead)  (h : Keeps T a s) [May T .free] [May T .alert] [May T .ports] [May T .links] [May T .route] [May T .pot] [May T .ladder] [May T .pawn] [May T .mem] [May T .sheet] [May T .hazard] [May T .tables] [May T .feed] [May T .mu] [May T .norm] [May T .pipes] [May T .dma] : Keeps T a (dmaDone x0 x1 s) := by
  unfold dmaDone
  repeat' first
    | assumption
    | exact Or.inr rfl
    | exact Or.inl May.ok
    | (extract_lets +onlyGivenNames l; refine keeps_pass (T := T) (a := a) (x := l) ?_ ?_; all_goals first | (intro k; clear_value l) | subst l)
    | (extract_lets +onlyGivenNames l; try clear_value l)
    | with_reducible apply keeps_drain
    | with_reducible apply keeps_wordFault
    | with_reducible apply keeps_modJob
    | with_reducible apply keeps_readWord
    | split
    | with_reducible refine keeps_mk ?_ (Nat.le_refl _) id id id id id id id id id id id id id id id id id id id id id ?_ ?_ ?_ ?_ ?_ ?_ ?_ ?_ ?_ ?_ ?_ ?_ ?_ ?_ ?_ ?_ ?_ ?_ ?_ ?_ ?_ ?_ ?_ ?_ ?_ ?_ ?_ ?_ ?_ ?_ ?_ ?_ ?_ ?_ ?_ ?_ ?_ ?_ ?_

theorem keeps_muGrant {a s : State} (x0 : Nat)  (h : Keeps T a s) [May T .tables] [May T .mu] [May T .mats] : Keeps T a (muGrant x0 s) := by
  unfold muGrant
  repeat' first
    | assumption
    | with_reducible apply keeps_grantTo
    | split

theorem keeps_normDone {a s : State} (x0 : Nat) (x1 : WordRead)  (h : Keeps T a s) [May T .free] [May T .alert] [May T .ports] [May T .links] [May T .route] [May T .pot] [May T .ladder] [May T .pawn] [May T .mem] [May T .sheet] [May T .hazard] [May T .tables] [May T .feed] [May T .mu] [May T .norm] [May T .pipes] [May T .dma] : Keeps T a (normDone x0 x1 s) := by
  unfold normDone
  repeat' first
    | assumption
    | exact Or.inr rfl
    | exact Or.inl May.ok
    | (extract_lets +onlyGivenNames l; refine keeps_pass (T := T) (a := a) (x := l) ?_ ?_; all_goals first | (intro k; clear_value l) | subst l)
    | (extract_lets +onlyGivenNames l; try clear_value l)
    | with_reducible apply keeps_fillPipes
    | with_reducible apply keeps_readWord
    | with_reducible apply keeps_matrixFault
    | with_reducible apply keeps_stageDone
    | split
    | with_reducible refine keeps_mk ?_ (Nat.le_refl _) id id id id id id id id id id id id id id id id id id id id id ?_ ?_ ?_ ?_ ?_ ?_ ?_ ?_ ?_ ?_ ?_ ?_ ?_ ?_ ?_ ?_ ?_ ?_ ?_ ?_ ?_ ?_ ?_ ?_ ?_ ?_ ?_ ?_ ?_ ?_ ?_ ?_ ?_ ?_ ?_ ?_ ?_ ?_ ?_

end Sys2Proof.Laws
end

