-- ==== Sys2Proof/Laws/KeepsKeeperMath.lean ====
section
/-! SUPPORT. What the updates of Machine/KeeperMath.lean keep. -/

namespace Sys2Proof.Laws
open Sys2Proof Sys2Proof.Machine Sys2Proof.Safety
variable {T : StatePart → Bool}

theorem keeps_sendCtl {a s : State} (x0 : Nat) (x1 : Ctl)  (h : Keeps T a s) [May T .links] [May T .route] [May T .pot] : Keeps T a (sendCtl x0 x1 s) := by
  unfold sendCtl
  repeat' first
    | assumption
    | with_reducible apply keeps_sendKFlit

theorem keeps_sendKPkt {a s : State} (x0 : Nat) (x1 : Nat) (x2 : List Byte)  (h : Keeps T a s) [May T .route] [May T .pot] : Keeps T a (sendKPkt x0 x1 x2 s) := by
  unfold sendKPkt
  repeat' first
    | assumption
    | with_reducible apply keeps_sendTo

theorem keeps_sendSync {a s : State} (x0 : Nat) (x1 : Nat) (x2 : Nat) (x3 : Nat) (x4 : Nat) (x5 : Nat) (x6 : List KParam)  (h : Keeps T a s) [May T .route] [May T .pot] : Keeps T a (sendSync x0 x1 x2 x3 x4 x5 x6 s) := by
  unfold sendSync
  repeat' first
    | assumption
    | (intro (_ : Keeps _ _ _))
    | (extract_lets +onlyGivenNames l; try clear_value l)
    | with_reducible apply keeps_forAll
    | with_reducible apply keeps_sendKPkt
    | (intro _)

end Sys2Proof.Laws
end

