-- ==== Sys2Proof/Laws/KeepsKeeper.lean ====
section
/-! SUPPORT. What the updates of Machine/Keeper.lean keep. -/

namespace Sys2Proof.Laws
open Sys2Proof Sys2Proof.Machine Sys2Proof.Safety
variable {T : StatePart → Bool}

theorem keeps_sendRecord {a s : State} (x0 : Nat) (x1 : Keeper) (x2 : List Byte)  (h : Keeps T a s) [May T .links] [May T .route] [May T .pot] : Keeps T a (sendRecord x0 x1 x2 s) := by
  unfold sendRecord
  repeat' first
    | assumption
    | (extract_lets +onlyGivenNames l; refine keeps_pass (T := T) (a := a) (x := l) ?_ ?_; all_goals first | (intro k; clear_value l) | subst l)
    | (extract_lets +onlyGivenNames l; try clear_value l)
    | with_reducible apply keeps_sendKPkt
    | with_reducible apply keeps_sendCtl
    | split

theorem keeps_feedRecord {a s : State} (x0 : Nat) (x1 : Nat) (x2 : List Byte)  (h : Keeps T a s) [May T .links] [May T .route] [May T .pot] [May T .mem] [May T .tables] : Keeps T a (feedRecord x0 x1 x2 s) := by
  unfold feedRecord
  repeat' first
    | assumption
    | (extract_lets +onlyGivenNames l; try clear_value l)
    | with_reducible apply keeps_sendRecord
    | with_reducible apply keeps_wroteWord
    | with_reducible apply keeps_modPrim
    | split

theorem keeps_modTurn {a s : State} (x0 : Nat) (x1 : Nat) (x2 : KTurn → KTurn)  (h : Keeps T a s) [May T .tables] : Keeps T a (modTurn x0 x1 x2 s) := by
  unfold modTurn
  repeat' first
    | assumption
    | with_reducible apply keeps_modKeeper

theorem keeps_checkTurn {a s : State} (x0 : Nat)  (h : Keeps T a s) [May T .links] [May T .route] [May T .pot] [May T .mem] [May T .tables] : Keeps T a (checkTurn x0 s) := by
  unfold checkTurn
  repeat' first
    | assumption
    | (intro (_ : Keeps _ _ _))
    | (extract_lets +onlyGivenNames l; refine keeps_pass (T := T) (a := a) (x := l) ?_ ?_; all_goals first | (intro k; clear_value l) | subst l)
    | (extract_lets +onlyGivenNames l; try clear_value l)
    | with_reducible apply keeps_forAll
    | with_reducible apply keeps_modTurn
    | with_reducible apply keeps_feedRecord
    | split
    | (intro _)

theorem keeps_workDone {a s : State} (x0 : Nat) (x1 : KWork)  (h : Keeps T a s) [May T .links] [May T .route] [May T .pot] [May T .mem] [May T .tables] : Keeps T a (workDone x0 x1 s) := by
  unfold workDone
  repeat' first
    | assumption
    | (extract_lets +onlyGivenNames l; refine keeps_pass (T := T) (a := a) (x := l) ?_ ?_; all_goals first | (intro k; clear_value l) | subst l)
    | (extract_lets +onlyGivenNames l; try clear_value l)
    | with_reducible apply keeps_modKeeper
    | with_reducible apply keeps_feedRecord
    | with_reducible apply keeps_modTurn
    | with_reducible apply keeps_checkTurn
    | with_reducible apply keeps_modRound
    | split

theorem keeps_endWork {a s : State} (x0 : Nat)  (h : Keeps T a s) [May T .links] [May T .route] [May T .pot] [May T .mem] [May T .tables] : Keeps T a (endWork x0 s) := by
  unfold endWork
  repeat' first
    | assumption
    | (intro (_ : Keeps _ _ _))
    | (extract_lets +onlyGivenNames l; try clear_value l)
    | with_reducible apply keeps_forAll
    | with_reducible apply keeps_workDone
    | split
    | (intro _)

theorem keeps_countFed {a s : State} (x0 : Nat) (x1 : Nat) (x2 : Nat)  (h : Keeps T a s) [May T .tables] : Keeps T a (countFed x0 x1 x2 s) := by
  unfold countFed
  repeat' first
    | assumption
    | (extract_lets +onlyGivenNames l; try clear_value l)
    | with_reducible apply keeps_modTurn
    | with_reducible apply keeps_modKeeper

theorem keeps_feedGrads {a s : State} (x0 : Table) (x1 : Round) (x2 : List (Nat × Nat))  (h : Keeps T a s) [May T .links] [May T .route] [May T .pot] [May T .mem] [May T .tables] : Keeps T a (feedGrads x0 x1 x2 s) := by
  unfold feedGrads
  repeat' first
    | assumption
    | (intro (_ : Keeps _ _ _))
    | (extract_lets +onlyGivenNames l; refine keeps_pass (T := T) (a := a) (x := l) ?_ ?_; all_goals first | (intro k; clear_value l) | subst l)
    | (extract_lets +onlyGivenNames l; try clear_value l)
    | with_reducible apply keeps_forAll
    | with_reducible apply keeps_feedRecord
    | with_reducible apply keeps_countFed
    | split
    | (intro _)

theorem keeps_runChunk {a s : State} (x0 : Nat) (x1 : Nat) (x2 : Nat) (x3 : Nat) (x4 : Option Nat)  (h : Keeps T a s) [May T .free] [May T .alert] [May T .ports] [May T .links] [May T .route] [May T .pot] [May T .ladder] [May T .pawn] [May T .mem] [May T .sheet] [May T .hazard] [May T .tables] [May T .feed] [May T .mu] [May T .norm] [May T .pipes] [May T .dma] : Keeps T a (runChunk x0 x1 x2 x3 x4 s) := by
  unfold runChunk
  repeat' first
    | assumption
    | (extract_lets +onlyGivenNames l; refine keeps_pass (T := T) (a := a) (x := l) ?_ ?_; all_goals first | (intro k; clear_value l) | subst l)
    | (extract_lets +onlyGivenNames l; try clear_value l)
    | with_reducible apply keeps_modKeeper
    | with_reducible apply keeps_readWord
    | with_reducible apply keeps_wroteWord
    | with_reducible apply keeps_feedGrads
    | with_reducible apply keeps_modRound
    | with_reducible apply keeps_resultsIn
    | with_reducible apply keeps_failRound
    | split

theorem keeps_runQuantum {a s : State} (x0 : Nat) (x1 : Option Nat) (x2 : Nat)  (h : Keeps T a s) [May T .free] [May T .alert] [May T .ports] [May T .links] [May T .route] [May T .pot] [May T .ladder] [May T .pawn] [May T .mem] [May T .sheet] [May T .hazard] [May T .tables] [May T .feed] [May T .mu] [May T .norm] [May T .pipes] [May T .dma] : Keeps T a (runQuantum x0 x1 x2 s) := by
  induction x2 generalizing s  with
  | zero => (first | exact h | (unfold runQuantum; exact h))
  | succ n ih =>
    unfold runQuantum
    repeat' first
      | assumption
      | with_reducible apply ih
      | (extract_lets +onlyGivenNames l; try clear_value l)
      | with_reducible apply keeps_endWork
      | with_reducible apply keeps_runChunk
      | split

theorem keeps_flushWork {a s : State} (x0 : Nat)  (h : Keeps T a s) [May T .free] [May T .alert] [May T .ports] [May T .links] [May T .route] [May T .pot] [May T .ladder] [May T .pawn] [May T .mem] [May T .sheet] [May T .hazard] [May T .tables] [May T .feed] [May T .mu] [May T .norm] [May T .pipes] [May T .dma] : Keeps T a (flushWork x0 s) := by
  unfold flushWork
  repeat' first
    | assumption
    | (extract_lets +onlyGivenNames l; try clear_value l)
    | with_reducible apply keeps_runQuantum
    | with_reducible apply keeps_endWork
    | split

theorem keeps_startMoves {a s : State} (x0 : Nat) (x1 : Nat)  (h : Keeps T a s) [May T .tables] : Keeps T a (startMoves x0 x1 s) := by
  unfold startMoves
  repeat' first
    | assumption
    | (intro (_ : Keeps _ _ _))
    | (extract_lets +onlyGivenNames l; try clear_value l)
    | with_reducible apply keeps_forAll
    | with_reducible apply keeps_modKeeper
    | split
    | (intro _)

theorem keeps_movesCheck {a s : State} (x0 : Nat)  (h : Keeps T a s) [May T .tables] : Keeps T a (movesCheck x0 s) := by
  unfold movesCheck
  repeat' first
    | assumption
    | (intro (_ : Keeps _ _ _))
    | (extract_lets +onlyGivenNames l; try clear_value l)
    | with_reducible apply keeps_forAll
    | with_reducible apply keeps_modKeeper
    | with_reducible apply keeps_startMoves
    | split
    | (intro _)

theorem keeps_commitAll {a s : State} (x0 : Nat)  (h : Keeps T a s) [May T .links] [May T .route] [May T .pot] [May T .mem] [May T .tables] : Keeps T a (commitAll x0 s) := by
  unfold commitAll
  repeat' first
    | assumption
    | (extract_lets +onlyGivenNames l; try clear_value l)
    | with_reducible apply keeps_checkTurn
    | with_reducible apply keeps_endWork
    | with_reducible apply keeps_movesCheck
    | with_reducible apply keeps_commitCheck

theorem keeps_readyTimeout {a s : State} (x0 : Nat) (x1 : Nat)  (h : Keeps T a s) [May T .free] [May T .power] [May T .wd] [May T .time] [May T .ports] [May T .links] [May T .route] [May T .pot] [May T .ladder] [May T .pawn] [May T .mem] [May T .sheet] [May T .hazard] [May T .tables] [May T .feed] [May T .mu] [May T .norm] [May T .pipes] [May T .dma] : Keeps T a (readyTimeout x0 x1 s) := by
  unfold readyTimeout
  repeat' first
    | with_reducible assumption
    | with_reducible apply keeps_commitAll
    | with_reducible apply keeps_drain
    | with_reducible apply keeps_failRound
    | with_reducible apply keeps_advanceTo
    | split

theorem keeps_moveHurt {a s : State} (x0 : Nat) (x1 : Table) (x2 : Keeper) (x3 : Nat)  (h : Keeps T a s) [May T .free] [May T .alert] [May T .ports] [May T .links] [May T .route] [May T .pot] [May T .ladder] [May T .pawn] [May T .mem] [May T .sheet] [May T .hazard] [May T .tables] [May T .feed] [May T .mu] [May T .norm] [May T .pipes] [May T .dma] : Keeps T a (moveHurt x0 x1 x2 x3 s) := by
  unfold moveHurt
  repeat' first
    | assumption
    | (intro (_ : Keeps _ _ _))
    | (extract_lets +onlyGivenNames l; refine keeps_pass (T := T) (a := a) (x := l) ?_ ?_; all_goals first | (intro k; clear_value l) | subst l)
    | (extract_lets +onlyGivenNames l; try clear_value l)
    | with_reducible apply keeps_readWord
    | with_reducible apply keeps_modKeeper
    | with_reducible apply keeps_drain
    | with_reducible apply keeps_forAll
    | with_reducible apply keeps_failRound
    | (intro _)

theorem keeps_moveDone {a s : State} (x0 : Nat) (x1 : Nat) (x2 : Nat) (x3 : List Byte) (x4 : Option Nat)  (h : Keeps T a s) [May T .free] [May T .alert] [May T .ports] [May T .links] [May T .route] [May T .pot] [May T .ladder] [May T .pawn] [May T .mem] [May T .sheet] [May T .hazard] [May T .tables] [May T .feed] [May T .mu] [May T .norm] [May T .pipes] [May T .dma] : Keeps T a (moveDone x0 x1 x2 x3 x4 s) := by
  unfold moveDone
  repeat' first
    | assumption
    | exact Or.inr rfl
    | exact Or.inl May.ok
    | (extract_lets +onlyGivenNames l; refine keeps_pass (T := T) (a := a) (x := l) ?_ ?_; all_goals first | (intro k; clear_value l) | subst l)
    | (extract_lets +onlyGivenNames l; refine keeps_fun l ?_; subst l)
    | (extract_lets +onlyGivenNames l; try clear_value l)
    | with_reducible apply keeps_movesCheck
    | with_reducible apply keeps_moveHurt
    | with_reducible apply keeps_modKeeper
    | with_reducible apply keeps_wroteWord
    | with_reducible apply keeps_sendSync
    | split
    | exact id
    | exact Nat.le_add_right _ _
    | with_reducible apply keeps_mk

theorem keeps_passReady {a s : State} (x0 : Table) (x1 : Board) (x2 : List W64)  (h : Keeps T a s) [May T .links] [May T .route] [May T .pot] : Keeps T a (passReady x0 x1 x2 s) := by
  unfold passReady
  repeat' first
    | assumption
    | (extract_lets +onlyGivenNames l; try clear_value l)
    | with_reducible apply keeps_sendKFlit
    | split

theorem keeps_readyEarly {a s : State} (x0 : Nat) (x1 : Nat) (x2 : ReadyHeld) (x3 : List W64)  (h : Keeps T a s) [May T .links] [May T .route] [May T .pot] [May T .tables] : Keeps T a (readyEarly x0 x1 x2 x3 s) := by
  unfold readyEarly
  repeat' first
    | assumption
    | (extract_lets +onlyGivenNames l; refine keeps_pass (T := T) (a := a) (x := l) ?_ ?_; all_goals first | (intro k; clear_value l) | subst l)
    | with_reducible apply keeps_passReady
    | with_reducible apply keeps_modKeeper
    | split

theorem keeps_flushFeed {a s : State} (x0 : Nat)  (h : Keeps T a s) [May T .links] [May T .route] [May T .pot] [May T .tables] : Keeps T a (flushFeed x0 s) := by
  unfold flushFeed
  repeat' first
    | assumption
    | (intro (_ : Keeps _ _ _))
    | (extract_lets +onlyGivenNames l; refine keeps_pass (T := T) (a := a) (x := l) ?_ ?_; all_goals first | (intro k; clear_value l) | subst l)
    | (extract_lets +onlyGivenNames l; try clear_value l)
    | with_reducible apply keeps_modPrim
    | with_reducible apply keeps_forAll
    | with_reducible apply keeps_sendRecord
    | split
    | (intro _)

theorem keeps_keeperQuantum {a s : State} (x0 : Nat) (x1 : Option Nat)  (h : Keeps T a s) [May T .free] [May T .alert] [May T .ports] [May T .links] [May T .route] [May T .pot] [May T .ladder] [May T .pawn] [May T .mem] [May T .sheet] [May T .hazard] [May T .tables] [May T .feed] [May T .mu] [May T .norm] [May T .pipes] [May T .dma] [May T .kunits] : Keeps T a (keeperQuantum x0 x1 s) := by
  unfold keeperQuantum
  repeat' first
    | assumption
    | exact Or.inr rfl
    | exact Or.inl May.ok
    | (intro (_ : Keeps _ _ _))
    | (extract_lets +onlyGivenNames l; refine keeps_pass (T := T) (a := a) (x := l) ?_ ?_; all_goals first | (intro k; clear_value l) | subst l)
    | (extract_lets +onlyGivenNames l; refine keeps_fun l ?_; subst l)
    | (extract_lets +onlyGivenNames l; try clear_value l)
    | with_reducible apply keeps_forAll
    | with_reducible apply keeps_endWork
    | with_reducible apply keeps_movesCheck
    | with_reducible apply keeps_runQuantum
    | with_reducible apply keeps_drain
    | (intro e; rename_i q; exact (congrArg List.length (rrNext_units q)).trans e)
    | split
    | exact id
    | exact Nat.le_refl _
    | (intro _)
    | with_reducible refine keeps_mk ?_ (Nat.le_refl _) id id id id id id id id id id id id id id id id id id id id id ?_ ?_ ?_ ?_ ?_ ?_ ?_ ?_ ?_ ?_ ?_ ?_ ?_ ?_ ?_ ?_ ?_ ?_ ?_ ?_ ?_ ?_ ?_ ?_ ?_ ?_ ?_ ?_ ?_ ?_ ?_ ?_ ?_ ?_ ?_ ?_ ?_ ?_ ?_
    | with_reducible apply keeps_mk

theorem keeps_takeKFlit {a s : State} (x0 : Nat) (x1 : List W64)  (h : Keeps T a s) [May T .links] [May T .inbox] : Keeps T a (takeKFlit x0 x1 s) := by
  unfold takeKFlit
  repeat' first
    | assumption
    | with_reducible apply keeps_takeFlit
    | with_reducible apply keeps_takeSelfFree
    | split

theorem keeps_readyIn {a s : State} (x0 : Nat) (x1 : List W64)  (h : Keeps T a s) [May T .links] [May T .route] [May T .pot] [May T .inbox] [May T .pawn] [May T .mem] [May T .tables] : Keeps T a (readyIn x0 x1 s) := by
  unfold readyIn
  repeat' first
    | assumption
    | (extract_lets +onlyGivenNames l; refine keeps_pass (T := T) (a := a) (x := l) ?_ ?_; all_goals first | (intro k; clear_value l) | subst l)
    | (extract_lets +onlyGivenNames l; try clear_value l)
    | with_reducible apply keeps_takeKFlit
    | with_reducible apply keeps_protoError
    | with_reducible apply keeps_selfDrop
    | with_reducible apply keeps_readyEarly
    | with_reducible apply keeps_commitAll
    | with_reducible apply keeps_passReady
    | with_reducible apply keeps_holdReady
    | split

theorem keeps_takeEarly {a s : State} (x0 : Nat) (x1 : Nat)  (h : Keeps T a s) [May T .tables] : Keeps T a (takeEarly x0 x1 s) := by
  unfold takeEarly
  repeat' first
    | assumption
    | (intro (_ : Keeps _ _ _))
    | (extract_lets +onlyGivenNames l; refine keeps_pass (T := T) (a := a) (x := l) ?_ ?_; all_goals first | (intro k; clear_value l) | subst l)
    | (extract_lets +onlyGivenNames l; try clear_value l)
    | with_reducible apply keeps_modKeeper
    | with_reducible apply keeps_forAll
    | with_reducible apply keeps_holdReady
    | split
    | (intro _)

theorem keeps_stopKeeper {a s : State} (x0 : Nat)  (h : Keeps T a s) [May T .free] [May T .ports] [May T .links] [May T .route] [May T .pot] [May T .ladder] [May T .pawn] [May T .mem] [May T .sheet] [May T .hazard] [May T .tables] [May T .feed] [May T .mu] [May T .norm] [May T .pipes] [May T .dma] : Keeps T a (stopKeeper x0 s) := by
  unfold stopKeeper
  repeat' first
    | assumption
    | (intro (_ : Keeps _ _ _))
    | (extract_lets +onlyGivenNames l; refine keeps_pass (T := T) (a := a) (x := l) ?_ ?_; all_goals first | (intro k; clear_value l) | subst l)
    | (extract_lets +onlyGivenNames l; try clear_value l)
    | with_reducible apply keeps_modPrim
    | with_reducible apply keeps_forAll
    | with_reducible apply keeps_failRound
    | split
    | (intro _)

theorem keeps_reshard {a s : State} (x0 : Nat)  (h : Keeps T a s) [May T .tables] : Keeps T a (reshard x0 s) := by
  unfold reshard
  repeat' first
    | assumption
    | (intro (_ : Keeps _ _ _))
    | (extract_lets +onlyGivenNames l; try clear_value l)
    | with_reducible apply keeps_forAll
    | with_reducible apply keeps_modKeeper
    | split
    | (intro _)

theorem keeps_turnDue {a s : State} (x0 : Nat)  (h : Keeps T a s) [May T .links] [May T .route] [May T .pot] [May T .mem] [May T .tables] : Keeps T a (turnDue x0 s) := by
  unfold turnDue
  repeat' first
    | assumption
    | (extract_lets +onlyGivenNames l; try clear_value l)
    | with_reducible apply keeps_checkTurn
    | with_reducible apply keeps_modKeeper

end Sys2Proof.Laws
end

