-- ==== Sys2Proof/Laws/KeepsBarriers.lean ====
section
/-! SUPPORT. What the updates of Machine/Barriers.lean keep. -/

namespace Sys2Proof.Laws
open Sys2Proof Sys2Proof.Machine Sys2Proof.Safety
variable {T : StatePart → Bool}

theorem keeps_pipDrop {a s : State} (x0 : Nat)  (h : Keeps T a s) [May T .ports] : Keeps T a (pipDrop x0 s) := by
  unfold pipDrop
  repeat' first
    | assumption
    | with_reducible apply keeps_modPort

theorem keeps_sendHalt {a s : State} (x0 : Table) (x1 : Nat) (x2 : Nat) (x3 : Option Nat)  (h : Keeps T a s) [May T .ports] [May T .route] [May T .pot] [May T .ladder] [May T .pawn] : Keeps T a (sendHalt x0 x1 x2 x3 s) := by
  unfold sendHalt
  repeat' first
    | assumption
    | (extract_lets +onlyGivenNames l; try clear_value l)
    | with_reducible apply keeps_pipSend

theorem keeps_haltTable {a s : State} (x0 : Nat) (x1 : Nat) (x2 : Nat) (x3 : Option Nat) (x4 : Option Nat)  (h : Keeps T a s) [May T .ports] [May T .route] [May T .pot] [May T .ladder] [May T .pawn] [May T .mem] [May T .sheet] [May T .tables] : Keeps T a (haltTable x0 x1 x2 x3 x4 s) := by
  unfold haltTable
  repeat' first
    | assumption
    | (extract_lets +onlyGivenNames l; refine keeps_pass (T := T) (a := a) (x := l) ?_ ?_; all_goals first | (intro k; clear_value l) | subst l)
    | with_reducible apply keeps_modTable
    | with_reducible apply keeps_closeGroup
    | with_reducible apply keeps_tableRecord
    | with_reducible apply keeps_sendHalt
    | split

theorem keeps_haltIn {a s : State} (x0 : Nat) (x1 : List W64)  (h : Keeps T a s) [May T .ports] [May T .route] [May T .pot] [May T .ladder] [May T .pawn] [May T .mem] [May T .sheet] [May T .tables] : Keeps T a (haltIn x0 x1 s) := by
  unfold haltIn
  repeat' first
    | assumption
    | (extract_lets +onlyGivenNames l; try clear_value l)
    | with_reducible apply keeps_pipDrop
    | with_reducible apply keeps_pipStray
    | with_reducible apply keeps_haltTable
    | split

theorem keeps_modBar {a s : State} (x0 : Nat) (x1 : Barrier → Barrier)  (h : Keeps T a s) [May T .tables] : Keeps T a (modBar x0 x1 s) := by
  unfold modBar
  repeat' first
    | assumption
    | with_reducible apply keeps_modTable

theorem keeps_joinCheck {a s : State} (x0 : Nat) (x1 : Nat)  (h : Keeps T a s) [May T .ports] [May T .route] [May T .pot] [May T .ladder] [May T .pawn] [May T .mem] [May T .sheet] [May T .tables] : Keeps T a (joinCheck x0 x1 s) := by
  unfold joinCheck
  repeat' first
    | assumption
    | (extract_lets +onlyGivenNames l; refine keeps_pass (T := T) (a := a) (x := l) ?_ ?_; all_goals first | (intro k; clear_value l) | subst l)
    | (extract_lets +onlyGivenNames l; try clear_value l)
    | with_reducible apply keeps_haltTable
    | with_reducible apply keeps_modBar
    | with_reducible apply keeps_pipSend
    | split

theorem keeps_joinIn {a s : State} (x0 : Nat) (x1 : List W64)  (h : Keeps T a s) [May T .ports] [May T .route] [May T .pot] [May T .ladder] [May T .pawn] [May T .mem] [May T .sheet] [May T .tables] : Keeps T a (joinIn x0 x1 s) := by
  unfold joinIn
  repeat' first
    | assumption
    | (extract_lets +onlyGivenNames l; try clear_value l)
    | with_reducible apply keeps_pipStray
    | with_reducible apply keeps_joinCheck
    | with_reducible apply keeps_modBar
    | split

theorem keeps_holdMsg {a s : State} (x0 : HeldMsg) (x1 : State → State) (hx1 : ∀  t, Keeps T a t → Keeps T a (x1  t))  (h : Keeps T a s) [May T .held] : Keeps T a (holdMsg x0 x1 s) := by
  unfold holdMsg
  repeat' first
    | assumption
    | exact Or.inr rfl
    | exact Or.inl May.ok
    | with_reducible apply hx1
    | split
    | with_reducible refine keeps_mk ?_ (Nat.le_refl _) id id id id id id id id id id id id id id id id id id id id id ?_ ?_ ?_ ?_ ?_ ?_ ?_ ?_ ?_ ?_ ?_ ?_ ?_ ?_ ?_ ?_ ?_ ?_ ?_ ?_ ?_ ?_ ?_ ?_ ?_ ?_ ?_ ?_ ?_ ?_ ?_ ?_ ?_ ?_ ?_ ?_ ?_ ?_ ?_

theorem keeps_joinArrive {a s : State} (x0 : Nat) (x1 : List W64)  (h : Keeps T a s) [May T .ports] [May T .route] [May T .pot] [May T .ladder] [May T .pawn] [May T .mem] [May T .sheet] [May T .tables] [May T .held] : Keeps T a (joinArrive x0 x1 s) := by
  unfold joinArrive
  repeat' first
    | assumption
    | (intro (_ : Keeps _ _ _))
    | (extract_lets +onlyGivenNames l; try clear_value l)
    | with_reducible apply keeps_joinIn
    | with_reducible apply keeps_holdMsg
    | with_reducible apply keeps_pipDrop
    | split
    | (intro _)

theorem keeps_sendMgmt {a s : State} (x0 : Nat) (x1 : List Byte)  (h : Keeps T a s) [May T .route] [May T .pot] : Keeps T a (sendMgmt x0 x1 s) := by
  unfold sendMgmt
  repeat' first
    | assumption
    | with_reducible apply keeps_sendTo

theorem keeps_sendLevelSet {a s : State} (x0 : Table) (x1 : Nat) (x2 : List Nat)  (h : Keeps T a s) [May T .route] [May T .pot] : Keeps T a (sendLevelSet x0 x1 x2 s) := by
  unfold sendLevelSet
  repeat' first
    | assumption
    | (intro (_ : Keeps _ _ _))
    | (extract_lets +onlyGivenNames l; try clear_value l)
    | with_reducible apply keeps_forAll
    | with_reducible apply keeps_sendMgmt
    | (intro _)

theorem keeps_setLevel {a s : State} (x0 : Nat) (x1 : Nat)  (h : Keeps T a s) [May T .tables] : Keeps T a (setLevel x0 x1 s) := by
  unfold setLevel
  repeat' first
    | assumption
    | with_reducible apply keeps_modTable

theorem keeps_levelCheck {a s : State} (x0 : Nat)  (h : Keeps T a s) [May T .route] [May T .pot] [May T .tables] : Keeps T a (levelCheck x0 s) := by
  unfold levelCheck
  repeat' first
    | assumption
    | (extract_lets +onlyGivenNames l; refine keeps_pass (T := T) (a := a) (x := l) ?_ ?_; all_goals first | (intro k; clear_value l) | subst l)
    | (extract_lets +onlyGivenNames l; try clear_value l)
    | with_reducible apply keeps_modTable
    | with_reducible apply keeps_sendLevelSet
    | with_reducible apply keeps_setLevel
    | with_reducible apply keeps_sendMgmt
    | split

theorem keeps_joinExpire {a s : State}   (h : Keeps T a s) [May T .power] [May T .wd] [May T .time] [May T .ports] [May T .pawn] [May T .tables] [May T .held] : Keeps T a (joinExpire s) := by
  unfold joinExpire
  repeat' first
    | assumption
    | exact Or.inr rfl
    | exact Or.inl May.ok
    | (intro (_ : Keeps _ _ _))
    | (extract_lets +onlyGivenNames l; refine keeps_pass (T := T) (a := a) (x := l) ?_ ?_; all_goals first | (intro k; clear_value l) | subst l)
    | (extract_lets +onlyGivenNames l; try clear_value l)
    | with_reducible apply keeps_advanceTo
    | with_reducible apply keeps_forAll
    | with_reducible apply keeps_pipDrop
    | split
    | (intro _)
    | with_reducible refine keeps_mk ?_ (Nat.le_refl _) id id id id id id id id id id id id id id id id id id id id id ?_ ?_ ?_ ?_ ?_ ?_ ?_ ?_ ?_ ?_ ?_ ?_ ?_ ?_ ?_ ?_ ?_ ?_ ?_ ?_ ?_ ?_ ?_ ?_ ?_ ?_ ?_ ?_ ?_ ?_ ?_ ?_ ?_ ?_ ?_ ?_ ?_ ?_ ?_

theorem keeps_mgmtArrive {a s : State} (x0 : Nat) (x1 : Nat) (x2 : List Byte) (x3 : Option Packet → State → State) (hx3 : ∀ y0 t, Keeps T a t → Keeps T a (x3 y0 t))  (h : Keeps T a s) [May T .links] [May T .inbox] [May T .pawn] : Keeps T a (mgmtArrive x0 x1 x2 x3 s) := by
  unfold mgmtArrive
  repeat' first
    | assumption
    | (extract_lets +onlyGivenNames l; try clear_value l)
    | with_reducible apply hx3
    | (refine keeps_takeSelfFree_eq (by assumption) ?_)
    | with_reducible apply keeps_selfDrop
    | with_reducible apply keeps_protoError
    | split

theorem keeps_levelAdvIn {a s : State} (x0 : Nat) (x1 : List Byte) (x2 : Option Packet)  (h : Keeps T a s) [May T .links] : Keeps T a (levelAdvIn x0 x1 x2 s) := by
  unfold levelAdvIn
  repeat' first
    | assumption
    | (extract_lets +onlyGivenNames l; try clear_value l)
    | with_reducible apply keeps_modLink
    | split

theorem keeps_levelIn {a s : State} (x0 : Nat) (x1 : List Byte)  (h : Keeps T a s) [May T .ports] [May T .links] [May T .route] [May T .pot] [May T .ladder] [May T .pawn] [May T .mem] [May T .sheet] [May T .tables] : Keeps T a (levelIn x0 x1 s) := by
  unfold levelIn
  repeat' first
    | assumption
    | (extract_lets +onlyGivenNames l; try clear_value l)
    | with_reducible apply keeps_protoError
    | with_reducible apply keeps_joinCheck
    | with_reducible apply keeps_levelCheck
    | with_reducible apply keeps_modTable
    | with_reducible apply keeps_sendLevelSet
    | with_reducible apply keeps_setLevel
    | split

theorem keeps_levelArrive {a s : State} (x0 : Nat) (x1 : List Byte)  (h : Keeps T a s) [May T .ports] [May T .links] [May T .route] [May T .pot] [May T .ladder] [May T .pawn] [May T .mem] [May T .sheet] [May T .tables] [May T .held] : Keeps T a (levelArrive x0 x1 s) := by
  unfold levelArrive
  repeat' first
    | assumption
    | (intro (_ : Keeps _ _ _))
    | (extract_lets +onlyGivenNames l; try clear_value l)
    | with_reducible apply keeps_levelIn
    | with_reducible apply keeps_holdMsg
    | with_reducible apply keeps_protoError
    | split
    | (intro _)

theorem keeps_barrierStall {a s : State} (x0 : Nat)  (h : Keeps T a s) [May T .power] [May T .wd] [May T .time] [May T .ports] [May T .pawn] [May T .tables] : Keeps T a (barrierStall x0 s) := by
  unfold barrierStall
  repeat' first
    | assumption
    | (extract_lets +onlyGivenNames l; try clear_value l)
    | with_reducible apply keeps_modBar
    | with_reducible apply keeps_advanceTo
    | split

theorem keeps_levelExpire {a s : State}   (h : Keeps T a s) [May T .power] [May T .wd] [May T .time] [May T .ports] [May T .links] [May T .pawn] [May T .tables] [May T .held] : Keeps T a (levelExpire s) := by
  unfold levelExpire
  repeat' first
    | assumption
    | exact Or.inr rfl
    | exact Or.inl May.ok
    | (intro (_ : Keeps _ _ _))
    | (extract_lets +onlyGivenNames l; refine keeps_pass (T := T) (a := a) (x := l) ?_ ?_; all_goals first | (intro k; clear_value l) | subst l)
    | (extract_lets +onlyGivenNames l; try clear_value l)
    | with_reducible apply keeps_advanceTo
    | with_reducible apply keeps_forAll
    | with_reducible apply keeps_protoError
    | split
    | (intro _)
    | with_reducible refine keeps_mk ?_ (Nat.le_refl _) id id id id id id id id id id id id id id id id id id id id id ?_ ?_ ?_ ?_ ?_ ?_ ?_ ?_ ?_ ?_ ?_ ?_ ?_ ?_ ?_ ?_ ?_ ?_ ?_ ?_ ?_ ?_ ?_ ?_ ?_ ?_ ?_ ?_ ?_ ?_ ?_ ?_ ?_ ?_ ?_ ?_ ?_ ?_ ?_

theorem keeps_releaseHeld {a s : State} (x0 : Nat)  (h : Keeps T a s) [May T .ports] [May T .links] [May T .route] [May T .pot] [May T .ladder] [May T .pawn] [May T .mem] [May T .sheet] [May T .tables] [May T .held] : Keeps T a (releaseHeld x0 s) := by
  unfold releaseHeld
  repeat' first
    | assumption
    | exact Or.inr rfl
    | exact Or.inl May.ok
    | (intro (_ : Keeps _ _ _))
    | (extract_lets +onlyGivenNames l; try clear_value l)
    | with_reducible apply keeps_forAll
    | with_reducible apply keeps_joinIn
    | with_reducible apply keeps_levelIn
    | split
    | (intro _)
    | with_reducible refine keeps_mk ?_ (Nat.le_refl _) id id id id id id id id id id id id id id id id id id id id id ?_ ?_ ?_ ?_ ?_ ?_ ?_ ?_ ?_ ?_ ?_ ?_ ?_ ?_ ?_ ?_ ?_ ?_ ?_ ?_ ?_ ?_ ?_ ?_ ?_ ?_ ?_ ?_ ?_ ?_ ?_ ?_ ?_ ?_ ?_ ?_ ?_ ?_ ?_

end Sys2Proof.Laws
end

