-- ==== Sys2Proof/Laws/KeepsMailbox.lean ====
section
/-! SUPPORT. What the updates of Machine/Mailbox.lean keep. -/

namespace Sys2Proof.Laws
open Sys2Proof Sys2Proof.Machine Sys2Proof.Safety
variable {T : StatePart → Bool}

theorem keeps_reject {a s : State} (x0 : Nat) (x1 : Nat)  (h : Keeps T a s) : Keeps T a (reject x0 x1 s).2 := by
  unfold reject
  repeat' first
    | assumption

theorem keeps_dropFrame {a s : State} (x0 : Nat)  (h : Keeps T a s) [May T .host] : Keeps T a (dropFrame x0 s) := by
  unfold dropFrame
  repeat' first
    | assumption
    | with_reducible apply keeps_modHost

theorem keeps_frameIn {a s : State} (x0 : Nat)  (h : Keeps T a s) [May T .host] : Keeps T a (frameIn x0 s) := by
  unfold frameIn
  repeat' first
    | assumption
    | with_reducible apply keeps_modHost

theorem keeps_turnAway {a s : State} (x0 : Nat)  (h : Keeps T a s) [May T .host] : Keeps T a (turnAway x0 s) := by
  unfold turnAway
  repeat' first
    | assumption
    | (extract_lets +onlyGivenNames l; try clear_value l)
    | with_reducible apply keeps_whenDo
    | with_reducible apply keeps_dropFrame
    | with_reducible apply keeps_frameIn
    | split

theorem keeps_countDup {a s : State}   (h : Keeps T a s) [May T .gci] : Keeps T a (countDup s) := by
  unfold countDup
  repeat' first
    | assumption
    | with_reducible apply keeps_modGci

theorem keeps_sendOn {a s : State} (x0 : Nat) (x1 : Emission)  (h : Keeps T a s) [May T .out] [May T .host] : Keeps T a (sendOn x0 x1 s) := by
  unfold sendOn
  repeat' first
    | assumption
    | (extract_lets +onlyGivenNames l; try clear_value l)
    | with_reducible apply keeps_emit
    | with_reducible apply keeps_modHost
    | split

theorem keeps_requestIn {a s : State} (x0 : Source) (x1 : MboxHdr) (x2 : List Byte)  (h : Keeps T a s) [May T .out] [May T .mbox] [May T .gci] [May T .host] : Keeps T a (requestIn x0 x1 x2 s) := by
  unfold requestIn
  repeat' first
    | assumption
    | (extract_lets +onlyGivenNames l; try clear_value l)
    | with_reducible apply keeps_countDup
    | with_reducible apply keeps_sendOn
    | with_reducible apply keeps_modHost
    | with_reducible apply keeps_modMbox
    | split

theorem keeps_dropSegment {a s : State}   (h : Keeps T a s) [May T .gci] : Keeps T a (dropSegment s) := by
  unfold dropSegment
  repeat' first
    | assumption
    | with_reducible apply keeps_modGci

theorem keeps_segmentIn {a s : State} (x0 : Nat) (x1 : Nat) (x2 : List Byte)  (h : Keeps T a s) [May T .mbox] [May T .gci] : Keeps T a (segmentIn x0 x1 x2 s) := by
  unfold segmentIn
  repeat' first
    | assumption
    | (extract_lets +onlyGivenNames l; try clear_value l)
    | with_reducible apply keeps_dropSegment
    | with_reducible apply keeps_modMbox
    | split

theorem keeps_mailboxIn {a s : State} (x0 : Source) (x1 : List Byte)  (h : Keeps T a s) [May T .out] [May T .mbox] [May T .gci] [May T .host] : Keeps T a (mailboxIn x0 x1 s) := by
  unfold mailboxIn
  repeat' first
    | assumption
    | (extract_lets +onlyGivenNames l; refine keeps_pass (T := T) (a := a) (x := l) ?_ ?_; all_goals first | (intro k; clear_value l) | subst l)
    | (extract_lets +onlyGivenNames l; try clear_value l)
    | with_reducible apply keeps_turnAway
    | with_reducible apply keeps_frameIn
    | with_reducible apply keeps_dropFrame
    | with_reducible apply keeps_requestIn
    | with_reducible apply keeps_segmentIn
    | split

theorem keeps_freeStaging {a s : State}   (h : Keeps T a s) [May T .route] : Keeps T a (freeStaging s) := by
  unfold freeStaging
  refine keeps_modRoute _ (fun e => ?_) h
  exact routeOk_map (fun b => if b.state = 3 then {} else b) (fun b => by split <;> simp_all) rfl rfl rfl e

theorem keeps_endSession {a s : State} (x0 : Nat)  (h : Keeps T a s) [May T .mbox] [May T .route] : Keeps T a (endSession x0 s) := by
  unfold endSession
  repeat' first
    | assumption
    | (extract_lets +onlyGivenNames l; refine keeps_pass (T := T) (a := a) (x := l) ?_ ?_; all_goals first | (intro k; clear_value l) | subst l)
    | with_reducible apply keeps_modMbox
    | with_reducible apply keeps_freeStaging
    | split

theorem keeps_idleExpire {a s : State} (x0 : Nat)  (h : Keeps T a s) [May T .power] [May T .wd] [May T .time] [May T .mbox] [May T .ports] [May T .route] [May T .pawn] [May T .tables] : Keeps T a (idleExpire x0 s) := by
  unfold idleExpire
  repeat' first
    | assumption
    | (extract_lets +onlyGivenNames l; try clear_value l)
    | with_reducible apply keeps_endSession
    | with_reducible apply keeps_advanceTo
    | split

theorem keeps_beginReq {a s : State} (x0 : Nat) (x1 : List Byte → Bool)  (h : Keeps T a s) [May T .mbox] : KeepsP T a (beginReq x0 x1 s) := by
  unfold beginReq
  repeat' first
    | assumption
    | (extract_lets +onlyGivenNames l; try clear_value l)
    | with_reducible apply keeps_modMbox
    | with_reducible apply keepsP_none
    | with_reducible apply keepsP_some
    | split

theorem keeps_beginReq_eq {a s t : State} {x0 : Nat} {x1 : List Byte → Bool}  {r} (e : beginReq x0 x1 s = some (r, t)) (h : Keeps T a s) [May T .mbox] : Keeps T a t := keeps_beginReq x0 x1 h r t e

theorem keeps_respond {a s : State} (x0 : Nat) (x1 : Answer)  (h : Keeps T a s) [May T .out] [May T .mbox] [May T .gci] [May T .host] : Keeps T a (respond x0 x1 s) := by
  unfold respond
  repeat' first
    | assumption
    | (extract_lets +onlyGivenNames l; refine keeps_pass (T := T) (a := a) (x := l) ?_ ?_; all_goals first | (intro k; clear_value l) | subst l)
    | (extract_lets +onlyGivenNames l; try clear_value l)
    | with_reducible apply keeps_modMbox
    | with_reducible apply keeps_modGci
    | with_reducible apply keeps_sendOn
    | split

theorem keeps_runCmd {a s : State} (x0 : Nat) (x1 : CmdSpec) (x2 : List Byte → Bool) (x3 : Request → Nat → State → Reply) (hx3 : ∀ y0 y1 t, Keeps T a t → Keeps T a (x3 y0 y1 t).2)  (h : Keeps T a s) [May T .out] [May T .mbox] [May T .gci] [May T .host] : Keeps T a (runCmd x0 x1 x2 x3 s) := by
  unfold runCmd
  repeat' first
    | assumption
    | (extract_lets +onlyGivenNames l; try clear_value l)
    | (refine keeps_snd (by assumption) (hx3 _ _ _ ?_))
    | (refine keeps_beginReq_eq (by assumption) ?_)
    | with_reducible apply keeps_respond
    | split

theorem keeps_okWith {a s : State} (x0 : List Byte)  (h : Keeps T a s) : Keeps T a (okWith x0 s).2 := by
  unfold okWith
  repeat' first
    | assumption

theorem keeps_okay {a s : State}   (h : Keeps T a s) : Keeps T a (okay s).2 := by
  unfold okay
  repeat' first
    | assumption

theorem keeps_sessionCloseBody {a s : State} (x0 : Nat) (x1 : Request) (x2 : Nat)  (h : Keeps T a s) [May T .mbox] [May T .route] : Keeps T a (sessionCloseBody x0 x1 x2 s).2 := by
  unfold sessionCloseBody
  repeat' first
    | assumption
    | (extract_lets +onlyGivenNames l; try clear_value l)
    | with_reducible apply keeps_okay
    | with_reducible apply keeps_endSession

theorem keeps_sendSegments {a s : State} (x0 : Nat) (x1 : Nat) (x2 : Source) (x3 : OutBulk) (x4 : Nat) (x5 : Nat)  (h : Keeps T a s) [May T .out] [May T .free] [May T .host] : Keeps T a (sendSegments x0 x1 x2 x3 x4 x5 s) := by
  unfold sendSegments
  repeat' first
    | assumption
    | (intro (_ : Keeps _ _ _))
    | (extract_lets +onlyGivenNames l; try clear_value l)
    | with_reducible apply keeps_forAll
    | with_reducible apply keeps_sendOn
    | with_reducible apply keeps_freeNext
    | (intro _)

theorem keeps_bulkFetchRun {a s : State} (x0 : Nat)  (h : Keeps T a s) [May T .out] [May T .free] [May T .mbox] [May T .gci] [May T .host] : Keeps T a (bulkFetchRun x0 s) := by
  unfold bulkFetchRun
  repeat' first
    | assumption
    | (extract_lets +onlyGivenNames l; try clear_value l)
    | (refine keeps_beginReq_eq (by assumption) ?_)
    | with_reducible apply keeps_respond
    | with_reducible apply keeps_sendSegments
    | split

theorem keeps_sessionOpenBody {a s : State} (x0 : Nat) (x1 : Request) (x2 : Nat)  (h : Keeps T a s) [May T .mbox] [May T .route] : Keeps T a (sessionOpenBody x0 x1 x2 s).2 := by
  unfold sessionOpenBody
  repeat' first
    | assumption
    | (extract_lets +onlyGivenNames l; refine keeps_pass (T := T) (a := a) (x := l) ?_ ?_; all_goals first | (intro k; clear_value l) | subst l)
    | (extract_lets +onlyGivenNames l; try clear_value l)
    | with_reducible apply keeps_endSession
    | with_reducible apply keeps_okWith
    | with_reducible apply keeps_modMbox
    | split

theorem keeps_nopRun {a s : State} (x0 : Nat)  (h : Keeps T a s) [May T .out] [May T .mbox] [May T .gci] [May T .host] : Keeps T a (nopRun x0 s) := by
  unfold nopRun
  repeat' first
    | assumption
    | (extract_lets +onlyGivenNames l; try clear_value l)
    | (refine keeps_beginReq_eq (by assumption) ?_)
    | with_reducible apply keeps_respond
    | split

theorem keeps_waits {a s : State}   (h : Keeps T a s) : Keeps T a (waits s).2 := by
  unfold waits
  repeat' first
    | assumption

theorem keeps_respondBulk {a s : State} (x0 : Nat) (x1 : Answer) (x2 : List Byte)  (h : Keeps T a s) [May T .out] [May T .free] [May T .mbox] [May T .gci] [May T .host] : Keeps T a (respondBulk x0 x1 x2 s) := by
  unfold respondBulk
  repeat' first
    | assumption
    | (extract_lets +onlyGivenNames l; refine keeps_pass (T := T) (a := a) (x := l) ?_ ?_; all_goals first | (intro k; clear_value l) | subst l)
    | (extract_lets +onlyGivenNames l; try clear_value l)
    | with_reducible apply keeps_modMbox
    | with_reducible apply keeps_freeNext
    | with_reducible apply keeps_sendSegments
    | with_reducible apply keeps_respond
    | split

end Sys2Proof.Laws
end

