-- ==== Sys2Proof/Laws/KeepsMoves.lean ====
section
/-! SUPPORT. What the updates of Machine/Moves.lean keep. -/

namespace Sys2Proof.Laws
open Sys2Proof Sys2Proof.Machine Sys2Proof.Safety
variable {T : StatePart → Bool}

/-- A table that leaves a pool does not change the number of units. -/
@[simp] theorem closePool_units (t : Nat) (sv : Serve) : (closePool t sv).units.length = sv.units.length := by simp [closePool]


theorem keeps_retireBarrier {a s : State} (x0 : Nat)  (h : Keeps T a s) [May T .tables] : Keeps T a (retireBarrier x0 s) := by
  unfold retireBarrier
  repeat' first
    | assumption
    | with_reducible apply keeps_modTable

theorem keeps_sendPhase {a s : State} (x0 : Table) (x1 : Nat) (x2 : Nat) (x3 : Option Nat)  (h : Keeps T a s) [May T .links] [May T .route] [May T .pot] : Keeps T a (sendPhase x0 x1 x2 x3 s) := by
  unfold sendPhase
  repeat' first
    | assumption
    | (intro (_ : Keeps _ _ _))
    | (extract_lets +onlyGivenNames l; try clear_value l)
    | with_reducible apply keeps_forAll
    | with_reducible apply keeps_sendCtl
    | (intro _)

theorem keeps_rebuildStep {a s : State} (x0 : Nat) (x1 : Nat)  (h : Keeps T a s) [May T .links] [May T .route] [May T .pot] [May T .tables] : Keeps T a (rebuildStep x0 x1 s) := by
  unfold rebuildStep
  repeat' first
    | assumption
    | (extract_lets +onlyGivenNames l; refine keeps_pass (T := T) (a := a) (x := l) ?_ ?_; all_goals first | (intro k; clear_value l) | subst l)
    | (extract_lets +onlyGivenNames l; try clear_value l)
    | with_reducible apply keeps_modTable
    | with_reducible apply keeps_sendPhase
    | with_reducible apply keeps_sendCtl
    | with_reducible apply keeps_flushFeed
    | with_reducible apply keeps_modKeeper
    | with_reducible apply keeps_sendSync
    | split

theorem keeps_keeperRelease {a s : State} (x0 : Nat) (x1 : Nat)  (h : Keeps T a s) [May T .links] [May T .route] [May T .pot] [May T .tables] : Keeps T a (keeperRelease x0 x1 s) := by
  unfold keeperRelease
  repeat' first
    | assumption
    | (extract_lets +onlyGivenNames l; refine keeps_pass (T := T) (a := a) (x := l) ?_ ?_; all_goals first | (intro k; clear_value l) | subst l)
    | (extract_lets +onlyGivenNames l; try clear_value l)
    | with_reducible apply keeps_modKeeper
    | with_reducible apply keeps_sendSync
    | with_reducible apply keeps_rebuildStep
    | split

theorem keeps_releaseBarrier {a s : State} (x0 : Nat)  (h : Keeps T a s) [May T .links] [May T .route] [May T .pot] [May T .tables] : Keeps T a (releaseBarrier x0 s) := by
  unfold releaseBarrier
  repeat' first
    | assumption
    | (extract_lets +onlyGivenNames l; refine keeps_pass (T := T) (a := a) (x := l) ?_ ?_; all_goals first | (intro k; clear_value l) | subst l)
    | (extract_lets +onlyGivenNames l; try clear_value l)
    | with_reducible apply keeps_retireBarrier
    | with_reducible apply keeps_modTable
    | with_reducible apply keeps_keeperRelease
    | with_reducible apply keeps_reshard
    | split

theorem keeps_waitMove {a s : State} (x0 : Nat) (x1 : Bool)  (h : Keeps T a s) [May T .tables] : Keeps T a (waitMove x0 x1 s) := by
  unfold waitMove
  repeat' first
    | assumption
    | with_reducible apply keeps_modTable

theorem keeps_joinMove {a s : State} (x0 : Nat) (x1 : Nat) (x2 : Nat) (x3 : Nat)  (h : Keeps T a s) [May T .ports] [May T .route] [May T .pot] [May T .ladder] [May T .pawn] [May T .mem] [May T .sheet] [May T .tables] : Keeps T a (joinMove x0 x1 x2 x3 s) := by
  unfold joinMove
  repeat' first
    | assumption
    | (extract_lets +onlyGivenNames l; refine keeps_pass (T := T) (a := a) (x := l) ?_ ?_; all_goals first | (intro k; clear_value l) | subst l)
    | (extract_lets +onlyGivenNames l; try clear_value l)
    | with_reducible apply keeps_modBar
    | with_reducible apply keeps_joinCheck
    | with_reducible apply keeps_waitMove

theorem keeps_turnBegin {a s : State} (x0 : Nat)  (h : Keeps T a s) [May T .ports] [May T .links] [May T .route] [May T .pot] [May T .ladder] [May T .pawn] [May T .mem] [May T .sheet] [May T .tables] : Keeps T a (turnBegin x0 s) := by
  unfold turnBegin
  repeat' first
    | assumption
    | (extract_lets +onlyGivenNames l; refine keeps_pass (T := T) (a := a) (x := l) ?_ ?_; all_goals first | (intro k; clear_value l) | subst l)
    | (extract_lets +onlyGivenNames l; try clear_value l)
    | with_reducible apply keeps_turnDue
    | with_reducible apply keeps_closeGroup
    | with_reducible apply keeps_waitMove
    | with_reducible apply keeps_modPrim
    | with_reducible apply keeps_joinMove
    | split

theorem keeps_verdictTimeout {a s : State} (x0 : Nat)  (h : Keeps T a s) [May T .power] [May T .wd] [May T .time] [May T .ports] [May T .links] [May T .route] [May T .pot] [May T .ladder] [May T .pawn] [May T .mem] [May T .sheet] [May T .tables] : Keeps T a (verdictTimeout x0 s) := by
  unfold verdictTimeout
  repeat' first
    | assumption
    | (extract_lets +onlyGivenNames l; try clear_value l)
    | with_reducible apply keeps_turnBegin
    | with_reducible apply keeps_modPrim
    | with_reducible apply keeps_advanceTo
    | split

theorem keeps_retireMove {a s : State} (x0 : Nat)  (h : Keeps T a s) [May T .tables] : Keeps T a (retireMove x0 s) := by
  unfold retireMove
  repeat' first
    | assumption
    | with_reducible apply keeps_modTable

theorem keeps_haltMove {a s : State} (x0 : Nat) (x1 : Nat)  (h : Keeps T a s) [May T .ports] [May T .route] [May T .pot] [May T .ladder] [May T .pawn] [May T .mem] [May T .sheet] [May T .tables] : Keeps T a (haltMove x0 x1 s) := by
  unfold haltMove
  repeat' first
    | assumption
    | with_reducible apply keeps_haltTable

theorem keeps_boardSwitch {a s : State} (x0 : Nat)  (h : Keeps T a s) [May T .ports] [May T .route] [May T .pot] [May T .ladder] [May T .pawn] [May T .mem] [May T .sheet] [May T .tables] : Keeps T a (boardSwitch x0 s) := by
  unfold boardSwitch
  repeat' first
    | assumption
    | (extract_lets +onlyGivenNames l; refine keeps_pass (T := T) (a := a) (x := l) ?_ ?_; all_goals first | (intro k; clear_value l) | subst l)
    | with_reducible apply keeps_closeGroup
    | with_reducible apply keeps_haltMove
    | with_reducible apply keeps_retireMove
    | with_reducible apply keeps_modTable
    | with_reducible apply keeps_tableRecord
    | with_reducible apply keeps_waitMove
    | split

theorem keeps_barrierRelease {a s : State} (x0 : Nat)  (h : Keeps T a s) [May T .power] [May T .wd] [May T .time] [May T .ports] [May T .links] [May T .route] [May T .pot] [May T .pawn] [May T .tables] : Keeps T a (barrierRelease x0 s) := by
  unfold barrierRelease
  repeat' first
    | assumption
    | (extract_lets +onlyGivenNames l; try clear_value l)
    | with_reducible apply keeps_releaseBarrier
    | with_reducible apply keeps_advanceTo
    | split

theorem keeps_barrierMove {a s : State} (x0 : Nat)  (h : Keeps T a s) [May T .ports] [May T .route] [May T .pot] [May T .ladder] [May T .pawn] [May T .mem] [May T .sheet] [May T .tables] : Keeps T a (barrierMove x0 s) := by
  unfold barrierMove
  repeat' first
    | assumption
    | (extract_lets +onlyGivenNames l; try clear_value l)
    | with_reducible apply keeps_joinMove
    | with_reducible apply keeps_closeGroup
    | split

theorem keeps_waitRounds {a s : State} (x0 : Nat)  (h : Keeps T a s) [May T .tables] : Keeps T a (waitRounds x0 s) := by
  unfold waitRounds
  repeat' first
    | assumption
    | (extract_lets +onlyGivenNames l; refine keeps_pass (T := T) (a := a) (x := l) ?_ ?_; all_goals first | (intro k; clear_value l) | subst l)
    | with_reducible apply keeps_closeGroup
    | with_reducible apply keeps_retireMove
    | with_reducible apply keeps_waitMove
    | split

theorem keeps_keeperTurn {a s : State} (x0 : Nat)  (h : Keeps T a s) [May T .links] [May T .route] [May T .pot] [May T .mem] [May T .tables] : Keeps T a (keeperTurn x0 s) := by
  unfold keeperTurn
  repeat' first
    | assumption
    | (extract_lets +onlyGivenNames l; refine keeps_pass (T := T) (a := a) (x := l) ?_ ?_; all_goals first | (intro k; clear_value l) | subst l)
    | (extract_lets +onlyGivenNames l; try clear_value l)
    | with_reducible apply keeps_retireMove
    | with_reducible apply keeps_modKeeper
    | with_reducible apply keeps_feedRecord
    | split

theorem keeps_releaseIn {a s : State} (x0 : Nat) (x1 : List W64)  (h : Keeps T a s) [May T .ports] [May T .links] [May T .route] [May T .pot] [May T .ladder] [May T .pawn] [May T .tables] : Keeps T a (releaseIn x0 x1 s) := by
  unfold releaseIn
  repeat' first
    | assumption
    | (extract_lets +onlyGivenNames l; refine keeps_pass (T := T) (a := a) (x := l) ?_ ?_; all_goals first | (intro k; clear_value l) | subst l)
    | (extract_lets +onlyGivenNames l; try clear_value l)
    | with_reducible apply keeps_pipDrop
    | with_reducible apply keeps_modBar
    | with_reducible apply keeps_pipSend
    | with_reducible apply keeps_releaseBarrier
    | split

theorem keeps_roundOpen {a s : State} (x0 : Nat)  (h : Keeps T a s) [May T .free] [May T .ports] [May T .links] [May T .route] [May T .pot] [May T .ladder] [May T .pawn] [May T .mem] [May T .sheet] [May T .hazard] [May T .tables] [May T .feed] [May T .mu] [May T .norm] [May T .pipes] [May T .dma] : Keeps T a (roundOpen x0 s) := by
  unfold roundOpen
  repeat' first
    | assumption
    | (extract_lets +onlyGivenNames l; refine keeps_pass (T := T) (a := a) (x := l) ?_ ?_; all_goals first | (intro k; clear_value l) | subst l)
    | (extract_lets +onlyGivenNames l; try clear_value l)
    | with_reducible apply keeps_haltMove
    | with_reducible apply keeps_waitMove
    | with_reducible apply keeps_freeNext
    | with_reducible apply keeps_modTable
    | with_reducible apply keeps_setResid
    | with_reducible apply keeps_retireMove
    | with_reducible apply keeps_modKeeper
    | with_reducible apply keeps_failRound
    | with_reducible apply keeps_takeEarly
    | with_reducible apply keeps_commitAll
    | with_reducible apply keeps_sendReady
    | with_reducible apply keeps_checkDone
    | split

theorem keeps_phaseSet {a s : State} (x0 : Nat)  (h : Keeps T a s) [May T .tables] : Keeps T a (phaseSet x0 s) := by
  unfold phaseSet
  repeat' first
    | assumption
    | (extract_lets +onlyGivenNames l; try clear_value l)
    | with_reducible apply keeps_retireMove
    | with_reducible apply keeps_modTable
    | split

theorem keeps_residClear {a s : State} (x0 : Nat)  (h : Keeps T a s) [May T .free] [May T .ports] [May T .links] [May T .route] [May T .pot] [May T .ladder] [May T .pawn] [May T .mem] [May T .sheet] [May T .hazard] [May T .tables] [May T .feed] [May T .mu] [May T .norm] [May T .pipes] [May T .dma] : Keeps T a (residClear x0 s) := by
  unfold residClear
  repeat' first
    | assumption
    | (extract_lets +onlyGivenNames l; refine keeps_pass (T := T) (a := a) (x := l) ?_ ?_; all_goals first | (intro k; clear_value l) | subst l)
    | (extract_lets +onlyGivenNames l; try clear_value l)
    | with_reducible apply keeps_modTable
    | with_reducible apply keeps_drain
    | with_reducible apply keeps_applyClears
    | with_reducible apply keeps_retireMove
    | split

theorem keeps_failRestore {a s : State} (x0 : Nat)  (h : Keeps T a s) [May T .out] [May T .mbox] [May T .gci] [May T .host] [May T .tables] : Keeps T a (failRestore x0 s) := by
  unfold failRestore
  repeat' first
    | assumption
    | (extract_lets +onlyGivenNames l; try clear_value l)
    | with_reducible apply keeps_respond
    | with_reducible apply keeps_modKeeper
    | split

theorem keeps_dropStore {a s : State} (x0 : StoreFor → Bool)  (h : Keeps T a s) [May T .store] : Keeps T a (dropStore x0 s) := by
  unfold dropStore
  repeat' first
    | assumption
    | exact Or.inr rfl
    | exact Or.inl May.ok
    | (extract_lets +onlyGivenNames l; try clear_value l)
    | with_reducible refine keeps_mk ?_ (Nat.le_refl _) id id id id id id id id id id id id id id id id id id id id id ?_ ?_ ?_ ?_ ?_ ?_ ?_ ?_ ?_ ?_ ?_ ?_ ?_ ?_ ?_ ?_ ?_ ?_ ?_ ?_ ?_ ?_ ?_ ?_ ?_ ?_ ?_ ?_ ?_ ?_ ?_ ?_ ?_ ?_ ?_ ?_ ?_ ?_ ?_

theorem keeps_closeTable {a s : State} (x0 : Nat)  (h : Keeps T a s) [May T .out] [May T .free] [May T .alert] [May T .mbox] [May T .gci] [May T .host] [May T .ports] [May T .links] [May T .route] [May T .pot] [May T .ladder] [May T .pawn] [May T .mem] [May T .sheet] [May T .hazard] [May T .tables] [May T .feed] [May T .mu] [May T .norm] [May T .pipes] [May T .dma] [May T .kunits] [May T .store] : Keeps T a (closeTable x0 s) := by
  unfold closeTable
  repeat' first
    | assumption
    | exact Or.inr rfl
    | exact Or.inl May.ok
    | (intro (_ : Keeps _ _ _))
    | (extract_lets +onlyGivenNames l; refine keeps_pass (T := T) (a := a) (x := l) ?_ ?_; all_goals first | (intro k; clear_value l) | subst l)
    | (extract_lets +onlyGivenNames l; try clear_value l)
    | with_reducible apply keeps_modTable
    | with_reducible apply keeps_forAll
    | with_reducible apply keeps_failRound
    | with_reducible apply keeps_turnDue
    | with_reducible apply keeps_flushWork
    | with_reducible apply keeps_sendCtl
    | with_reducible apply keeps_failRestore
    | with_reducible apply keeps_tableRecord
    | with_reducible apply keeps_dropStore
    | with_reducible apply keeps_drain
    | (intro e; exact (closePool_units _ _).trans e)
    | split
    | exact id
    | exact Nat.le_refl _
    | (intro _)
    | with_reducible apply keeps_mk

theorem keeps_endMove {a s : State} (x0 : Nat)  (h : Keeps T a s) [May T .out] [May T .free] [May T .alert] [May T .mbox] [May T .gci] [May T .host] [May T .ports] [May T .links] [May T .route] [May T .pot] [May T .ladder] [May T .pawn] [May T .mem] [May T .sheet] [May T .hazard] [May T .tables] [May T .feed] [May T .mu] [May T .norm] [May T .pipes] [May T .dma] [May T .kunits] [May T .store] : Keeps T a (endMove x0 s) := by
  unfold endMove
  repeat' first
    | assumption
    | (extract_lets +onlyGivenNames l; refine keeps_pass (T := T) (a := a) (x := l) ?_ ?_; all_goals first | (intro k; clear_value l) | subst l)
    | (extract_lets +onlyGivenNames l; try clear_value l)
    | with_reducible apply keeps_turnDue
    | with_reducible apply keeps_closeGroup
    | with_reducible apply keeps_modTable
    | with_reducible apply keeps_closeTable
    | with_reducible apply keeps_retireMove
    | with_reducible apply keeps_waitMove
    | split

theorem keeps_checkpointMove {a s : State} (x0 : Nat)  (h : Keeps T a s) [May T .tables] : Keeps T a (checkpointMove x0 s) := by
  unfold checkpointMove
  repeat' first
    | assumption
    | (extract_lets +onlyGivenNames l; refine keeps_pass (T := T) (a := a) (x := l) ?_ ?_; all_goals first | (intro k; clear_value l) | subst l)
    | (extract_lets +onlyGivenNames l; try clear_value l)
    | with_reducible apply keeps_closeGroup
    | with_reducible apply keeps_retireMove
    | with_reducible apply keeps_modKeeper
    | split

end Sys2Proof.Laws
end

