-- ==== Sys2Proof/Laws/KeepsStorage.lean ====
section
/-! SUPPORT. What the updates of Machine/Storage.lean keep. -/

namespace Sys2Proof.Laws
open Sys2Proof Sys2Proof.Machine Sys2Proof.Safety
variable {T : StatePart → Bool}

theorem keeps_modOp {a s : State} (x0 : Nat) (x1 : StoreOp → StoreOp)  (h : Keeps T a s) [May T .store] : Keeps T a (modOp x0 x1 s) := by
  unfold modOp
  repeat' first
    | assumption
    | exact Or.inr rfl
    | exact Or.inl May.ok
    | (extract_lets +onlyGivenNames l; try clear_value l)
    | with_reducible refine keeps_mk ?_ (Nat.le_refl _) id id id id id id id id id id id id id id id id id id id id id ?_ ?_ ?_ ?_ ?_ ?_ ?_ ?_ ?_ ?_ ?_ ?_ ?_ ?_ ?_ ?_ ?_ ?_ ?_ ?_ ?_ ?_ ?_ ?_ ?_ ?_ ?_ ?_ ?_ ?_ ?_ ?_ ?_ ?_ ?_ ?_ ?_ ?_ ?_

theorem keeps_holdUdp {a s : State} (x0 : Nat) (x1 : Nat × Source × Nat × List Byte)  (h : Keeps T a s) [May T .host] : Keeps T a (holdUdp x0 x1 s) := by
  unfold holdUdp
  repeat' first
    | assumption
    | with_reducible apply keeps_modHost

theorem keeps_sendUdp {a s : State} (x0 : Nat) (x1 : Nat) (x2 : Nat) (x3 : Nat) (x4 : List Byte)  (h : Keeps T a s) [May T .out] [May T .host] : Keeps T a (sendUdp x0 x1 x2 x3 x4 s) := by
  unfold sendUdp
  repeat' first
    | assumption
    | (extract_lets +onlyGivenNames l; try clear_value l)
    | with_reducible apply keeps_sendOn
    | with_reducible apply keeps_holdUdp
    | split

theorem keeps_sendOp {a s : State} (x0 : StoreOp)  (h : Keeps T a s) [May T .out] [May T .host] [May T .store] : Keeps T a (sendOp x0 s) := by
  unfold sendOp
  repeat' first
    | assumption
    | (intro (_ : Keeps _ _ _))
    | (extract_lets +onlyGivenNames l; try clear_value l)
    | with_reducible apply keeps_modOp
    | with_reducible apply keeps_forAll
    | with_reducible apply keeps_sendUdp
    | split
    | (intro _)

theorem keeps_countResends {a s : State} (x0 : Nat) (x1 : StoreOp)  (h : Keeps T a s) [May T .host] : Keeps T a (countResends x0 x1 s) := by
  unfold countResends
  repeat' first
    | assumption
    | with_reducible apply keeps_modHost

theorem keeps_placeOp {a s : State} (x0 : Nat)  (h : Keeps T a s) [May T .out] [May T .host] [May T .store] : Keeps T a (placeOp x0 s) := by
  unfold placeOp
  repeat' first
    | assumption
    | exact Or.inr rfl
    | exact Or.inl May.ok
    | (extract_lets +onlyGivenNames l; refine keeps_pass (T := T) (a := a) (x := l) ?_ ?_; all_goals first | (intro k; clear_value l) | subst l)
    | (extract_lets +onlyGivenNames l; try clear_value l)
    | with_reducible apply keeps_sendOp
    | with_reducible apply keeps_whenDo
    | with_reducible apply keeps_countResends
    | with_reducible apply keeps_modOp
    | split
    | with_reducible refine keeps_mk ?_ (Nat.le_refl _) id id id id id id id id id id id id id id id id id id id id id ?_ ?_ ?_ ?_ ?_ ?_ ?_ ?_ ?_ ?_ ?_ ?_ ?_ ?_ ?_ ?_ ?_ ?_ ?_ ?_ ?_ ?_ ?_ ?_ ?_ ?_ ?_ ?_ ?_ ?_ ?_ ?_ ?_ ?_ ?_ ?_ ?_ ?_ ?_

theorem keeps_issue {a s : State} (x0 : StoreFor) (x1 : Nat) (x2 : Nat) (x3 : Bool) (x4 : List Byte) (x5 : List Byte)  (h : Keeps T a s) [May T .out] [May T .free] [May T .host] [May T .store] : Keeps T a (issue x0 x1 x2 x3 x4 x5 s) := by
  unfold issue
  repeat' first
    | assumption
    | exact Or.inr rfl
    | exact Or.inl May.ok
    | (extract_lets +onlyGivenNames l; refine keeps_pass (T := T) (a := a) (x := l) ?_ ?_; all_goals first | (intro k; clear_value l) | subst l)
    | (extract_lets +onlyGivenNames l; try clear_value l)
    | with_reducible apply keeps_freeNext
    | with_reducible apply keeps_placeOp
    | with_reducible refine keeps_mk ?_ (Nat.le_refl _) id id id id id id id id id id id id id id id id id id id id id ?_ ?_ ?_ ?_ ?_ ?_ ?_ ?_ ?_ ?_ ?_ ?_ ?_ ?_ ?_ ?_ ?_ ?_ ?_ ?_ ?_ ?_ ?_ ?_ ?_ ?_ ?_ ?_ ?_ ?_ ?_ ?_ ?_ ?_ ?_ ?_ ?_ ?_ ?_

theorem keeps_pump {a s : State}   (h : Keeps T a s) [May T .out] [May T .host] [May T .store] : Keeps T a (pump s) := by
  unfold pump
  repeat' first
    | assumption
    | (intro (_ : Keeps _ _ _))
    | (extract_lets +onlyGivenNames l; try clear_value l)
    | with_reducible apply keeps_forAll
    | with_reducible apply keeps_placeOp
    | (intro _)

theorem keeps_replaceOps {a s : State} (x0 : Nat)  (h : Keeps T a s) [May T .out] [May T .host] [May T .store] : Keeps T a (replaceOps x0 s) := by
  unfold replaceOps
  repeat' first
    | assumption
    | (intro (_ : Keeps _ _ _))
    | (extract_lets +onlyGivenNames l; refine keeps_pass (T := T) (a := a) (x := l) ?_ ?_; all_goals first | (intro k; clear_value l) | subst l)
    | (extract_lets +onlyGivenNames l; try clear_value l)
    | with_reducible apply keeps_forAll
    | with_reducible apply keeps_modOp
    | with_reducible apply keeps_pump
    | (intro _)

theorem keeps_storeStray {a s : State} (x0 : Nat)  (h : Keeps T a s) [May T .host] : Keeps T a (storeStray x0 s) := by
  unfold storeStray
  repeat' first
    | assumption
    | with_reducible apply keeps_modHost

theorem keeps_endOp {a s : State} (x0 : Nat)  (h : Keeps T a s) [May T .out] [May T .host] [May T .store] : Keeps T a (endOp x0 s) := by
  unfold endOp
  repeat' first
    | assumption
    | exact Or.inr rfl
    | exact Or.inl May.ok
    | (extract_lets +onlyGivenNames l; try clear_value l)
    | with_reducible apply keeps_pump
    | with_reducible refine keeps_mk ?_ (Nat.le_refl _) id id id id id id id id id id id id id id id id id id id id id ?_ ?_ ?_ ?_ ?_ ?_ ?_ ?_ ?_ ?_ ?_ ?_ ?_ ?_ ?_ ?_ ?_ ?_ ?_ ?_ ?_ ?_ ?_ ?_ ?_ ?_ ?_ ?_ ?_ ?_ ?_ ?_ ?_ ?_ ?_ ?_ ?_ ?_ ?_

theorem keeps_retryOp {a s : State} (x0 : Nat)  (h : Keeps T a s) [May T .out] [May T .power] [May T .wd] [May T .time] [May T .host] [May T .ports] [May T .pawn] [May T .tables] [May T .store] : Keeps T a (retryOp x0 s) := by
  unfold retryOp
  repeat' first
    | assumption
    | (extract_lets +onlyGivenNames l; refine keeps_pass (T := T) (a := a) (x := l) ?_ ?_; all_goals first | (intro k; clear_value l) | subst l)
    | (extract_lets +onlyGivenNames l; try clear_value l)
    | with_reducible apply keeps_advanceTo
    | with_reducible apply keeps_sendOp
    | with_reducible apply keeps_countResends
    | split

theorem keeps_replyIn {a s : State} (x0 : Source) (x1 : List Byte)  (h : Keeps T a s) [May T .out] [May T .host] [May T .store] : Keeps T a (replyIn x0 x1 s).2 := by
  unfold replyIn
  repeat' first
    | assumption
    | (extract_lets +onlyGivenNames l; try clear_value l)
    | dsimp only
    | with_reducible apply keeps_storeStray
    | with_reducible apply keeps_endOp
    | with_reducible apply keeps_modOp
    | split

theorem keeps_replyIn_eq {a s t : State} {x0 : Source} {x1 : List Byte}  {r} (e : replyIn x0 x1 s = (r, t)) (h : Keeps T a s) [May T .out] [May T .host] [May T .store] : Keeps T a t := by
  have k := keeps_replyIn x0 x1 h
  rw [e] at k; exact k

end Sys2Proof.Laws
end

