-- ==== Sys2Proof/Laws/KeepsDoubleOps.lean ====
section
/-! SUPPORT. What the updates of Machine/DoubleOps.lean keep. -/

namespace Sys2Proof.Laws
open Sys2Proof Sys2Proof.Machine Sys2Proof.Safety
variable {T : StatePart → Bool}

theorem keeps_modDouble {a s : State} (x0 : Nat) (x1 : Nat) (x2 : Double → Double)  (h : Keeps T a s) [May T .doubles] : Keeps T a (modDouble x0 x1 x2 s) := by
  unfold modDouble
  repeat' first
    | assumption
    | exact Or.inr rfl
    | exact Or.inl May.ok
    | with_reducible refine keeps_mk ?_ (Nat.le_refl _) id id id id id id id id id id id id id id id id id id id id id ?_ ?_ ?_ ?_ ?_ ?_ ?_ ?_ ?_ ?_ ?_ ?_ ?_ ?_ ?_ ?_ ?_ ?_ ?_ ?_ ?_ ?_ ?_ ?_ ?_ ?_ ?_ ?_ ?_ ?_ ?_ ?_ ?_ ?_ ?_ ?_ ?_ ?_ ?_

theorem keeps_removeDouble {a s : State} (x0 : Double)  (h : Keeps T a s) [May T .doubles] : Keeps T a (removeDouble x0 s) := by
  unfold removeDouble
  repeat' first
    | assumption
    | exact Or.inr rfl
    | exact Or.inl May.ok
    | with_reducible refine keeps_mk ?_ (Nat.le_refl _) id id id id id id id id id id id id id id id id id id id id id ?_ ?_ ?_ ?_ ?_ ?_ ?_ ?_ ?_ ?_ ?_ ?_ ?_ ?_ ?_ ?_ ?_ ?_ ?_ ?_ ?_ ?_ ?_ ?_ ?_ ?_ ?_ ?_ ?_ ?_ ?_ ?_ ?_ ?_ ?_ ?_ ?_ ?_ ?_

end Sys2Proof.Laws
end

