-- ==== Sys2Proof/Laws/KeepsCheckpoint.lean ====
section
/-! SUPPORT. What the updates of Machine/Checkpoint.lean keep. -/

namespace Sys2Proof.Laws
open Sys2Proof Sys2Proof.Machine Sys2Proof.Safety
variable {T : StatePart → Bool}

theorem keeps_modThis {a s : State} (x0 : Double) (x1 : Double → Double)  (h : Keeps T a s) [May T .doubles] : Keeps T a (modThis x0 x1 s) := by
  unfold modThis
  repeat' first
    | assumption
    | exact Or.inr rfl
    | exact Or.inl May.ok
    | with_reducible refine keeps_mk ?_ (Nat.le_refl _) id id id id id id id id id id id id id id id id id id id id id ?_ ?_ ?_ ?_ ?_ ?_ ?_ ?_ ?_ ?_ ?_ ?_ ?_ ?_ ?_ ?_ ?_ ?_ ?_ ?_ ?_ ?_ ?_ ?_ ?_ ?_ ?_ ?_ ?_ ?_ ?_ ?_ ?_ ?_ ?_ ?_ ?_ ?_ ?_

theorem keeps_shardIssue {a s : State} (x0 : Double) (x1 : ShardOut)  (h : Keeps T a s) [May T .out] [May T .free] [May T .host] [May T .doubles] [May T .store] : Keeps T a (shardIssue x0 x1 s) := by
  unfold shardIssue
  repeat' first
    | assumption
    | (extract_lets +onlyGivenNames l; refine keeps_pass (T := T) (a := a) (x := l) ?_ ?_; all_goals first | (intro k; clear_value l) | subst l)
    | (extract_lets +onlyGivenNames l; try clear_value l)
    | with_reducible apply keeps_modThis
    | with_reducible apply keeps_issue
    | split

theorem keeps_shardChunk {a s : State} (x0 : Double) (x1 : ShardOut) (x2 : Nat)  (h : Keeps T a s) [May T .out] [May T .free] [May T .host] [May T .doubles] [May T .store] : Keeps T a (shardChunk x0 x1 x2 s) := by
  unfold shardChunk
  repeat' first
    | assumption
    | with_reducible apply keeps_shardIssue

theorem keeps_sendShardDone {a s : State} (x0 : Double) (x1 : ShardOut) (x2 : Nat)  (h : Keeps T a s) [May T .links] [May T .route] [May T .pot] : Keeps T a (sendShardDone x0 x1 x2 s) := by
  unfold sendShardDone
  repeat' first
    | assumption
    | with_reducible apply keeps_sendCtl

theorem keeps_shardFail {a s : State} (x0 : Double) (x1 : ShardOut)  (h : Keeps T a s) [May T .links] [May T .route] [May T .pot] [May T .doubles] : Keeps T a (shardFail x0 x1 s) := by
  unfold shardFail
  repeat' first
    | assumption
    | (extract_lets +onlyGivenNames l; try clear_value l)
    | with_reducible apply keeps_sendShardDone
    | with_reducible apply keeps_modThis

theorem keeps_shardResult {a s : State} (x0 : Nat) (x1 : Nat) (x2 : StoreResult)  (h : Keeps T a s) [May T .out] [May T .free] [May T .host] [May T .links] [May T .route] [May T .pot] [May T .doubles] [May T .store] : Keeps T a (shardResult x0 x1 x2 s) := by
  unfold shardResult
  repeat' first
    | assumption
    | (extract_lets +onlyGivenNames l; try clear_value l)
    | with_reducible apply keeps_shardChunk
    | with_reducible apply keeps_modThis
    | with_reducible apply keeps_shardIssue
    | with_reducible apply keeps_shardFail
    | with_reducible apply keeps_sendShardDone
    | split

theorem keeps_modCkpt {a s : State} (x0 : Nat) (x1 : Ckpt → Ckpt)  (h : Keeps T a s) [May T .tables] : Keeps T a (modCkpt x0 x1 s) := by
  unfold modCkpt
  repeat' first
    | assumption
    | with_reducible apply keeps_modKeeper

theorem keeps_manifestDurable {a s : State} (x0 : Nat)  (h : Keeps T a s) [May T .out] [May T .free] [May T .host] [May T .tables] [May T .store] : Keeps T a (manifestDurable x0 s) := by
  unfold manifestDurable
  repeat' first
    | assumption
    | (extract_lets +onlyGivenNames l; try clear_value l)
    | with_reducible apply keeps_issue
    | with_reducible apply keeps_modCkpt
    | split

theorem keeps_readReports {a s : State} (x0 : Nat)  (h : Keeps T a s) [May T .out] [May T .free] [May T .host] [May T .tables] [May T .store] : Keeps T a (readReports x0 s) := by
  unfold readReports
  repeat' first
    | assumption
    | (intro (_ : Keeps _ _ _))
    | (extract_lets +onlyGivenNames l; try clear_value l)
    | with_reducible apply keeps_forAll
    | with_reducible apply keeps_issue
    | with_reducible apply keeps_modCkpt
    | split
    | (intro _)

theorem keeps_startCkpt {a s : State} (x0 : Nat)  (h : Keeps T a s) [May T .out] [May T .free] [May T .host] [May T .tables] [May T .store] : Keeps T a (startCkpt x0 s) := by
  unfold startCkpt
  repeat' first
    | assumption
    | (extract_lets +onlyGivenNames l; try clear_value l)
    | with_reducible apply keeps_readReports
    | with_reducible apply keeps_modKeeper
    | split

theorem keeps_passRelease {a s : State} (x0 : Table) (x1 : Nat) (x2 : Nat) (x3 : Nat)  (h : Keeps T a s) [May T .links] [May T .route] [May T .pot] : Keeps T a (passRelease x0 x1 x2 x3 s) := by
  unfold passRelease
  repeat' first
    | assumption
    | (extract_lets +onlyGivenNames l; refine keeps_pass (T := T) (a := a) (x := l) ?_ ?_; all_goals first | (intro k; clear_value l) | subst l)
    | with_reducible apply keeps_sendCtl
    | split

theorem keeps_endCkpt {a s : State} (x0 : Nat) (x1 : Nat) (x2 : Nat)  (h : Keeps T a s) [May T .out] [May T .free] [May T .host] [May T .links] [May T .route] [May T .pot] [May T .tables] [May T .store] : Keeps T a (endCkpt x0 x1 x2 s) := by
  unfold endCkpt
  repeat' first
    | assumption
    | (extract_lets +onlyGivenNames l; refine keeps_pass (T := T) (a := a) (x := l) ?_ ?_; all_goals first | (intro k; clear_value l) | subst l)
    | (extract_lets +onlyGivenNames l; try clear_value l)
    | with_reducible apply keeps_dropStore
    | with_reducible apply keeps_modKeeper
    | with_reducible apply keeps_startCkpt
    | with_reducible apply keeps_passRelease
    | split

theorem keeps_ckptTimeout {a s : State} (x0 : Nat)  (h : Keeps T a s) [May T .out] [May T .free] [May T .power] [May T .wd] [May T .time] [May T .host] [May T .ports] [May T .links] [May T .route] [May T .pot] [May T .pawn] [May T .tables] [May T .store] : Keeps T a (ckptTimeout x0 s) := by
  unfold ckptTimeout
  repeat' first
    | assumption
    | (extract_lets +onlyGivenNames l; try clear_value l)
    | with_reducible apply keeps_endCkpt
    | with_reducible apply keeps_advanceTo
    | split

theorem keeps_ctlArrive {a s : State} (x0 : Nat) (x1 : Nat) (x2 : List W64) (x3 : Ctl → State → State) (hx3 : ∀ y0 t, Keeps T a t → Keeps T a (x3 y0 t))  (h : Keeps T a s) [May T .links] [May T .inbox] [May T .pawn] : Keeps T a (ctlArrive x0 x1 x2 x3 s) := by
  unfold ctlArrive
  repeat' first
    | assumption
    | (extract_lets +onlyGivenNames l; refine keeps_pass (T := T) (a := a) (x := l) ?_ ?_; all_goals first | (intro k; clear_value l) | subst l)
    | with_reducible apply hx3
    | with_reducible apply keeps_takeKFlit
    | with_reducible apply keeps_protoError
    | with_reducible apply keeps_selfDrop
    | split

theorem keeps_takeShard {a s : State} (x0 : Nat) (x1 : Ctl)  (h : Keeps T a s) [May T .out] [May T .free] [May T .host] [May T .links] [May T .route] [May T .pot] [May T .tables] [May T .store] : Keeps T a (takeShard x0 x1 s) := by
  unfold takeShard
  repeat' first
    | assumption
    | (extract_lets +onlyGivenNames l; try clear_value l)
    | with_reducible apply keeps_endCkpt
    | with_reducible apply keeps_readReports
    | with_reducible apply keeps_modKeeper
    | split

theorem keeps_beginShard {a s : State} (x0 : Double) (x1 : Nat) (x2 : Nat) (x3 : Nat) (x4 : List KParam)  (h : Keeps T a s) [May T .out] [May T .free] [May T .host] [May T .links] [May T .route] [May T .pot] [May T .mem] [May T .doubles] [May T .store] : Keeps T a (beginShard x0 x1 x2 x3 x4 s) := by
  unfold beginShard
  repeat' first
    | assumption
    | (extract_lets +onlyGivenNames l; refine keeps_pass (T := T) (a := a) (x := l) ?_ ?_; all_goals first | (intro k; clear_value l) | subst l)
    | (extract_lets +onlyGivenNames l; try clear_value l)
    | with_reducible apply keeps_modThis
    | with_reducible apply keeps_shardFail
    | with_reducible apply keeps_shardChunk
    | with_reducible apply keeps_wroteWord
    | split

theorem keeps_releaseSlot {a s : State} (x0 : Double)  (h : Keeps T a s) [May T .out] [May T .free] [May T .host] [May T .links] [May T .route] [May T .pot] [May T .mem] [May T .doubles] [May T .store] : Keeps T a (releaseSlot x0 s) := by
  unfold releaseSlot
  repeat' first
    | assumption
    | exact Or.inr rfl
    | exact Or.inl May.ok
    | (extract_lets +onlyGivenNames l; refine keeps_pass (T := T) (a := a) (x := l) ?_ ?_; all_goals first | (intro k; clear_value l) | subst l)
    | (extract_lets +onlyGivenNames l; try clear_value l)
    | with_reducible apply keeps_dropStore
    | with_reducible apply keeps_modThis
    | with_reducible apply keeps_beginShard
    | split
    | with_reducible refine keeps_mk ?_ (Nat.le_refl _) id id id id id id id id id id id id id id id id id id id id id ?_ ?_ ?_ ?_ ?_ ?_ ?_ ?_ ?_ ?_ ?_ ?_ ?_ ?_ ?_ ?_ ?_ ?_ ?_ ?_ ?_ ?_ ?_ ?_ ?_ ?_ ?_ ?_ ?_ ?_ ?_ ?_ ?_ ?_ ?_ ?_ ?_ ?_ ?_

theorem keeps_partnerRelease {a s : State} (x0 : Ctl)  (h : Keeps T a s) [May T .out] [May T .free] [May T .host] [May T .links] [May T .route] [May T .pot] [May T .mem] [May T .doubles] [May T .store] : Keeps T a (partnerRelease x0 s) := by
  unfold partnerRelease
  repeat' first
    | assumption
    | with_reducible apply keeps_releaseSlot
    | split

theorem keeps_commitDurable {a s : State} (x0 : Nat)  (h : Keeps T a s) [May T .out] [May T .free] [May T .host] [May T .links] [May T .route] [May T .pot] [May T .tables] [May T .store] : Keeps T a (commitDurable x0 s) := by
  unfold commitDurable
  repeat' first
    | assumption
    | with_reducible apply keeps_endCkpt
    | split

theorem keeps_shardDoneIn {a s : State} (x0 : Ctl)  (h : Keeps T a s) [May T .out] [May T .free] [May T .host] [May T .links] [May T .route] [May T .pot] [May T .tables] [May T .store] : Keeps T a (shardDoneIn x0 s) := by
  unfold shardDoneIn
  repeat' first
    | assumption
    | (extract_lets +onlyGivenNames l; try clear_value l)
    | with_reducible apply keeps_takeShard
    | with_reducible apply keeps_sendCtl
    | split

theorem keeps_shardWritten {a s : State} (x0 : Nat) (x1 : Nat)  (h : Keeps T a s) [May T .out] [May T .free] [May T .host] [May T .doubles] [May T .store] : Keeps T a (shardWritten x0 x1 s) := by
  unfold shardWritten
  repeat' first
    | assumption
    | with_reducible apply keeps_shardIssue
    | split

theorem keeps_selfRelease {a s : State} (x0 : Nat) (x1 : Nat)  (h : Keeps T a s) [May T .out] [May T .free] [May T .power] [May T .wd] [May T .time] [May T .host] [May T .ports] [May T .links] [May T .route] [May T .pot] [May T .pawn] [May T .mem] [May T .tables] [May T .doubles] [May T .store] : Keeps T a (selfRelease x0 x1 s) := by
  unfold selfRelease
  repeat' first
    | assumption
    | (extract_lets +onlyGivenNames l; try clear_value l)
    | with_reducible apply keeps_releaseSlot
    | with_reducible apply keeps_advanceTo
    | split

theorem keeps_ckptVerdict {a s : State} (x0 : Nat) (x1 : Nat) (x2 : Nat)  (h : Keeps T a s) [May T .out] [May T .free] [May T .host] [May T .links] [May T .route] [May T .pot] [May T .tables] [May T .store] : Keeps T a (ckptVerdict x0 x1 x2 s) := by
  unfold ckptVerdict
  repeat' first
    | assumption
    | (extract_lets +onlyGivenNames l; try clear_value l)
    | with_reducible apply keeps_endCkpt
    | with_reducible apply keeps_modKeeper
    | with_reducible apply keeps_startCkpt
    | split

theorem keeps_slotsRead {a s : State} (x0 : Nat)  (h : Keeps T a s) [May T .out] [May T .free] [May T .host] [May T .tables] [May T .store] : Keeps T a (slotsRead x0 s) := by
  unfold slotsRead
  repeat' first
    | assumption
    | (extract_lets +onlyGivenNames l; try clear_value l)
    | with_reducible apply keeps_issue
    | with_reducible apply keeps_modCkpt
    | split

theorem keeps_ckptResult {a s : State} (x0 : Nat) (x1 : StoreFor) (x2 : StoreResult)  (h : Keeps T a s) [May T .out] [May T .free] [May T .host] [May T .links] [May T .route] [May T .pot] [May T .tables] [May T .store] : Keeps T a (ckptResult x0 x1 x2 s) := by
  unfold ckptResult
  repeat' first
    | assumption
    | (intro (_ : Keeps _ _ _))
    | (extract_lets +onlyGivenNames l; refine keeps_pass (T := T) (a := a) (x := l) ?_ ?_; all_goals first | (intro k; clear_value l) | subst l)
    | (extract_lets +onlyGivenNames l; try clear_value l)
    | with_reducible apply keeps_endCkpt
    | with_reducible apply keeps_modCkpt
    | with_reducible apply keeps_forAll
    | with_reducible apply keeps_issue
    | with_reducible apply keeps_slotsRead
    | split
    | (intro _)

theorem keeps_ringRelease {a s : State} (x0 : Ctl)  (h : Keeps T a s) [May T .links] [May T .route] [May T .pot] [May T .tables] : Keeps T a (ringRelease x0 s) := by
  unfold ringRelease
  repeat' first
    | assumption
    | (extract_lets +onlyGivenNames l; refine keeps_pass (T := T) (a := a) (x := l) ?_ ?_; all_goals first | (intro k; clear_value l) | subst l)
    | (extract_lets +onlyGivenNames l; try clear_value l)
    | with_reducible apply keeps_modKeeper
    | with_reducible apply keeps_passRelease
    | split

theorem keeps_slotReleaseIn {a s : State} (x0 : Ctl)  (h : Keeps T a s) [May T .out] [May T .free] [May T .host] [May T .links] [May T .route] [May T .pot] [May T .mem] [May T .tables] [May T .doubles] [May T .store] : Keeps T a (slotReleaseIn x0 s) := by
  unfold slotReleaseIn
  repeat' first
    | assumption
    | (extract_lets +onlyGivenNames l; try clear_value l)
    | with_reducible apply keeps_ringRelease
    | with_reducible apply keeps_partnerRelease

end Sys2Proof.Laws
end

