-- ==== Sys2Proof/Laws/KeepsDoubles.lean ====
section
/-! SUPPORT. What the updates of Machine/Doubles.lean keep. -/

namespace Sys2Proof.Laws
open Sys2Proof Sys2Proof.Machine Sys2Proof.Safety
variable {T : StatePart → Bool}

theorem keeps_hazSrc {a t : State} (i : Nat) (w : HazardSrc) (k : Keeps T a t) [May T .hazard] :
    Keeps T a (modHazard (fun h => { h with src := modAt h.src i (fun _ => w) }) t) :=
  keeps_modHazard _ (fun e => ⟨e.1, (modAt_length _ _ _).trans e.2⟩) k

theorem keeps_syncArrive {a s : State} (x0 : Nat) (x1 : Nat) (x2 : List Byte) (x3 : Option Packet → State → State) (hx3 : ∀ y0 t, Keeps T a t → Keeps T a (x3 y0 t))  (h : Keeps T a s) [May T .links] [May T .inbox] [May T .pawn] : Keeps T a (syncArrive x0 x1 x2 x3 s) := by
  unfold syncArrive
  repeat' first
    | assumption
    | (extract_lets +onlyGivenNames l; try clear_value l)
    | with_reducible apply hx3
    | (refine keeps_takeSelfFree_eq (by assumption) ?_)
    | with_reducible apply keeps_selfDrop
    | split

theorem keeps_tieCheck {a s : State} (x0 : Nat)  (h : Keeps T a s) [May T .links] [May T .route] [May T .pot] [May T .tables] : Keeps T a (tieCheck x0 s) := by
  unfold tieCheck
  repeat' first
    | assumption
    | (extract_lets +onlyGivenNames l; try clear_value l)
    | with_reducible apply keeps_sendCtl
    | with_reducible apply keeps_modPrim
    | split

theorem keeps_modTie {a s : State} (x0 : Nat) (x1 : Nat) (x2 : Tie → Tie)  (h : Keeps T a s) [May T .tables] : Keeps T a (modTie x0 x1 x2 s) := by
  unfold modTie
  repeat' first
    | assumption
    | with_reducible apply keeps_modPrim

theorem keeps_tieState {a s : State} (x0 : List Byte) (x1 : Option Packet)  (h : Keeps T a s) [May T .links] [May T .route] [May T .pot] [May T .tables] : Keeps T a (tieState x0 x1 s) := by
  unfold tieState
  repeat' first
    | assumption
    | (extract_lets +onlyGivenNames l; try clear_value l)
    | with_reducible apply keeps_tieCheck
    | with_reducible apply keeps_modTie
    | split

theorem keeps_dropOpening {a s : State} (x0 : Nat)  (h : Keeps T a s) [May T .opening] : Keeps T a (dropOpening x0 s) := by
  unfold dropOpening
  repeat' first
    | assumption
    | exact Or.inr rfl
    | exact Or.inl May.ok
    | with_reducible refine keeps_mk ?_ (Nat.le_refl _) id id id id id id id id id id id id id id id id id id id id id ?_ ?_ ?_ ?_ ?_ ?_ ?_ ?_ ?_ ?_ ?_ ?_ ?_ ?_ ?_ ?_ ?_ ?_ ?_ ?_ ?_ ?_ ?_ ?_ ?_ ?_ ?_ ?_ ?_ ?_ ?_ ?_ ?_ ?_ ?_ ?_ ?_ ?_ ?_

theorem keeps_openNow {a s : State} (x0 : Table)  (h : Keeps T a s) [May T .ports] [May T .links] [May T .route] [May T .pot] [May T .ladder] [May T .pawn] [May T .mem] [May T .sheet] [May T .tables] [May T .held] : Keeps T a (openNow x0 s) := by
  unfold openNow
  repeat' first
    | assumption
    | exact Or.inr rfl
    | exact Or.inl May.ok
    | (extract_lets +onlyGivenNames l; refine keeps_pass (T := T) (a := a) (x := l) ?_ ?_; all_goals first | (intro k; clear_value l) | subst l)
    | (extract_lets +onlyGivenNames l; try clear_value l)
    | with_reducible apply keeps_tableRecord
    | with_reducible apply keeps_releaseHeld
    | with_reducible apply keeps_levelCheck
    | with_reducible refine keeps_mk ?_ (Nat.le_refl _) id id id id id id id id id id id id id id id id id id id id id ?_ ?_ ?_ ?_ ?_ ?_ ?_ ?_ ?_ ?_ ?_ ?_ ?_ ?_ ?_ ?_ ?_ ?_ ?_ ?_ ?_ ?_ ?_ ?_ ?_ ?_ ?_ ?_ ?_ ?_ ?_ ?_ ?_ ?_ ?_ ?_ ?_ ?_ ?_

theorem keeps_acceptIn {a s : State} (x0 : Ctl)  (h : Keeps T a s) [May T .out] [May T .mbox] [May T .gci] [May T .host] [May T .ports] [May T .links] [May T .route] [May T .pot] [May T .ladder] [May T .pawn] [May T .mem] [May T .sheet] [May T .tables] [May T .opening] [May T .held] : Keeps T a (acceptIn x0 s) := by
  unfold acceptIn
  repeat' first
    | assumption
    | (extract_lets +onlyGivenNames l; refine keeps_pass (T := T) (a := a) (x := l) ?_ ?_; all_goals first | (intro k; clear_value l) | subst l)
    | (extract_lets +onlyGivenNames l; try clear_value l)
    | with_reducible apply keeps_dropOpening
    | with_reducible apply keeps_respond
    | with_reducible apply keeps_openNow
    | split

theorem keeps_feedArrive {a s : State} (x0 : Nat) (x1 : Nat) (x2 : List Byte)  (h : Keeps T a s) [May T .links] [May T .route] [May T .pot] [May T .inbox] [May T .pawn] [May T .mem] [May T .tables] [May T .doubles] : Keeps T a (feedArrive x0 x1 x2 s) := by
  unfold feedArrive
  repeat' first
    | assumption
    | (extract_lets +onlyGivenNames l; refine keeps_pass (T := T) (a := a) (x := l) ?_ ?_; all_goals first | (intro k; clear_value l) | subst l)
    | (extract_lets +onlyGivenNames l; try clear_value l)
    | (refine keeps_takeSelfFree_eq (by assumption) ?_)
    | with_reducible apply keeps_selfDrop
    | with_reducible apply keeps_modThis
    | with_reducible apply keeps_tieCheck
    | with_reducible apply keeps_modTie
    | with_reducible apply keeps_wroteWord
    | split

theorem keeps_verdictRecord {a s : State} (x0 : Double) (x1 : Nat) (x2 : Nat)  (h : Keeps T a s) [May T .mem] [May T .sheet] : Keeps T a (verdictRecord x0 x1 x2 s) := by
  unfold verdictRecord
  repeat' first
    | assumption
    | with_reducible apply keeps_appendSheet

theorem keeps_sendRepair {a s : State} (x0 : Double) (x1 : Nat)  (h : Keeps T a s) [May T .route] [May T .pot] : Keeps T a (sendRepair x0 x1 s) := by
  unfold sendRepair
  repeat' first
    | assumption
    | (extract_lets +onlyGivenNames l; try clear_value l)
    | with_reducible apply keeps_sendSync
    | split

theorem keeps_giveVerdict {a s : State} (x0 : Double) (x1 : Nat)  (h : Keeps T a s) [May T .out] [May T .free] [May T .host] [May T .links] [May T .route] [May T .pot] [May T .mem] [May T .sheet] [May T .doubles] [May T .store] : Keeps T a (giveVerdict x0 x1 s) := by
  unfold giveVerdict
  repeat' first
    | assumption
    | (extract_lets +onlyGivenNames l; refine keeps_pass (T := T) (a := a) (x := l) ?_ ?_; all_goals first | (intro k; clear_value l) | subst l)
    | (extract_lets +onlyGivenNames l; try clear_value l)
    | with_reducible apply keeps_sendCtl
    | with_reducible apply keeps_verdictRecord
    | with_reducible apply keeps_modThis
    | with_reducible apply keeps_sendRepair
    | with_reducible apply keeps_beginShard
    | split

theorem keeps_startTie {a s : State} (x0 : Double)  (h : Keeps T a s) [May T .out] [May T .free] [May T .host] [May T .links] [May T .route] [May T .pot] [May T .mem] [May T .sheet] [May T .doubles] [May T .store] : Keeps T a (startTie x0 s) := by
  unfold startTie
  repeat' first
    | assumption
    | (intro (_ : Keeps _ _ _))
    | (extract_lets +onlyGivenNames l; refine keeps_pass (T := T) (a := a) (x := l) ?_ ?_; all_goals first | (intro k; clear_value l) | subst l)
    | (extract_lets +onlyGivenNames l; try clear_value l)
    | with_reducible apply keeps_giveVerdict
    | with_reducible apply keeps_modThis
    | with_reducible apply keeps_sendCtl
    | with_reducible apply keeps_sendSync
    | with_reducible apply keeps_forAll
    | with_reducible apply keeps_sendKPkt
    | split
    | (intro _)

theorem keeps_compareDigests {a s : State} (x0 : Nat) (x1 : Nat)  (h : Keeps T a s) [May T .out] [May T .free] [May T .host] [May T .links] [May T .route] [May T .pot] [May T .mem] [May T .sheet] [May T .doubles] [May T .store] : Keeps T a (compareDigests x0 x1 s) := by
  unfold compareDigests
  repeat' first
    | assumption
    | with_reducible apply keeps_giveVerdict
    | with_reducible apply keeps_startTie
    | split

theorem keeps_replayDone {a s : State} (x0 : Nat) (x1 : Nat)  (h : Keeps T a s) [May T .out] [May T .free] [May T .host] [May T .links] [May T .route] [May T .pot] [May T .mem] [May T .sheet] [May T .doubles] [May T .store] : Keeps T a (replayDone x0 x1 s) := by
  unfold replayDone
  repeat' first
    | assumption
    | (extract_lets +onlyGivenNames l; refine keeps_pass (T := T) (a := a) (x := l) ?_ ?_; all_goals first | (intro k; clear_value l) | subst l)
    | (extract_lets +onlyGivenNames l; try clear_value l)
    | with_reducible apply keeps_wroteWord
    | with_reducible apply keeps_modThis
    | with_reducible apply keeps_compareDigests
    | split

theorem keeps_takeHazard {a s : State} (x0 : Table) (x1 : Nat) (x2 : Nat) (x3 : Nat) (x4 : Nat) (x5 : Option Nat)  (h : Keeps T a s) [May T .links] [May T .route] [May T .pot] [May T .tables] : Keeps T a (takeHazard x0 x1 x2 x3 x4 x5 s) := by
  unfold takeHazard
  repeat' first
    | assumption
    | (intro (_ : Keeps _ _ _))
    | (extract_lets +onlyGivenNames l; refine keeps_pass (T := T) (a := a) (x := l) ?_ ?_; all_goals first | (intro k; clear_value l) | subst l)
    | (extract_lets +onlyGivenNames l; try clear_value l)
    | with_reducible apply keeps_modKeeper
    | with_reducible apply keeps_forAll
    | with_reducible apply keeps_sendCtl
    | split
    | (intro _)

theorem keeps_rebuildPkt {a s : State} (x0 : List Byte) (x1 : Option Packet)  (h : Keeps T a s) [May T .doubles] : Keeps T a (rebuildPkt x0 x1 s) := by
  unfold rebuildPkt
  repeat' first
    | assumption
    | (extract_lets +onlyGivenNames l; try clear_value l)
    | with_reducible apply keeps_modThis
    | split

theorem keeps_decideTie {a s : State} (x0 : Nat) (x1 : Nat)  (h : Keeps T a s) [May T .out] [May T .free] [May T .host] [May T .links] [May T .route] [May T .pot] [May T .mem] [May T .sheet] [May T .doubles] [May T .store] : Keeps T a (decideTie x0 x1 s) := by
  unfold decideTie
  repeat' first
    | assumption
    | (extract_lets +onlyGivenNames l; try clear_value l)
    | with_reducible apply keeps_giveVerdict
    | with_reducible apply keeps_modThis
    | split

theorem keeps_helloIn {a s : State} (x0 : Ctl)  (h : Keeps T a s) [May T .links] [May T .route] [May T .pot] : Keeps T a (helloIn x0 s) := by
  unfold helloIn
  repeat' first
    | assumption
    | (extract_lets +onlyGivenNames l; try clear_value l)
    | with_reducible apply keeps_sendCtl

theorem keeps_verdictIn {a s : State} (x0 : Ctl)  (h : Keeps T a s) [May T .out] [May T .free] [May T .host] [May T .ports] [May T .links] [May T .route] [May T .pot] [May T .ladder] [May T .pawn] [May T .mem] [May T .sheet] [May T .hazard] [May T .tables] [May T .feed] [May T .mu] [May T .norm] [May T .pipes] [May T .dma] [May T .store] : Keeps T a (verdictIn x0 s) := by
  unfold verdictIn
  repeat' first
    | assumption
    | (extract_lets +onlyGivenNames l; refine keeps_pass (T := T) (a := a) (x := l) ?_ ?_; all_goals first | (intro k; clear_value l) | subst l)
    | with_reducible apply keeps_modTurn
    | with_reducible apply keeps_modPrim
    | with_reducible apply keeps_stopKeeper
    | with_reducible apply keeps_flushFeed
    | with_reducible apply keeps_ckptVerdict
    | split

theorem keeps_tiebreakIn {a s : State} (x0 : Ctl)  (h : Keeps T a s) [May T .links] [May T .route] [May T .pot] [May T .tables] : Keeps T a (tiebreakIn x0 s) := by
  unfold tiebreakIn
  repeat' first
    | assumption
    | (extract_lets +onlyGivenNames l; refine keeps_pass (T := T) (a := a) (x := l) ?_ ?_; all_goals first | (intro k; clear_value l) | subst l)
    | (extract_lets +onlyGivenNames l; try clear_value l)
    | with_reducible apply keeps_modPrim
    | with_reducible apply keeps_tieCheck
    | with_reducible apply keeps_modTie
    | split

theorem keeps_digestIn {a s : State} (x0 : Ctl)  (h : Keeps T a s) [May T .out] [May T .free] [May T .host] [May T .links] [May T .route] [May T .pot] [May T .mem] [May T .sheet] [May T .doubles] [May T .store] : Keeps T a (digestIn x0 s) := by
  unfold digestIn
  repeat' first
    | assumption
    | (extract_lets +onlyGivenNames l; try clear_value l)
    | with_reducible apply keeps_decideTie
    | with_reducible apply keeps_modThis
    | with_reducible apply keeps_compareDigests
    | split

theorem keeps_hazardNext {a s : State} (x0 : Nat)  (h : Keeps T a s) [May T .power] [May T .wd] [May T .time] [May T .ports] [May T .pawn] [May T .hazard] [May T .tables] : Keeps T a (hazardNext x0 s) := by
  rw [hazardNext.eq_1]
  generalize hazWindow (hazEntry s x0) * 1000000 = w
  by_cases c : (6 ≤ x0 || w = 0) = true
  · rw [if_pos c]; exact h
  · rw [if_neg c]
    exact keeps_hazSrc _ _ (keeps_advanceTo _ h)

theorem keeps_hazardFire {a s : State} (x0 : Nat)  (h : Keeps T a s) [May T .free] [May T .links] [May T .route] [May T .pot] [May T .hazard] [May T .tables] : Keeps T a (hazardFire x0 s) := by
  unfold hazardFire
  repeat' first
    | assumption
    | (intro (_ : Keeps _ _ _))
    | (extract_lets +onlyGivenNames l; refine keeps_pass (T := T) (a := a) (x := l) ?_ ?_; all_goals first | (intro k; clear_value l) | subst l)
    | (extract_lets +onlyGivenNames l)
    | with_reducible apply keeps_modHazard
    | with_reducible apply keeps_forAll
    | with_reducible apply keeps_takeHazard
    | with_reducible apply keeps_sendCtl
    | with_reducible apply keeps_freeNext
    | split
    | (intro e; simp_all +zetaDelta [hazardOk]; done)
    | (intro _)

theorem keeps_tieReplayDone {a s : State} (x0 : Nat) (x1 : Nat) (x2 : WordRead)  (h : Keeps T a s) [May T .out] [May T .free] [May T .alert] [May T .host] [May T .links] [May T .route] [May T .pot] [May T .mem] [May T .sheet] [May T .hazard] [May T .doubles] [May T .store] : Keeps T a (tieReplayDone x0 x1 x2 s) := by
  unfold tieReplayDone
  repeat' first
    | assumption
    | (extract_lets +onlyGivenNames l; refine keeps_pass (T := T) (a := a) (x := l) ?_ ?_; all_goals first | (intro k; clear_value l) | subst l)
    | (extract_lets +onlyGivenNames l; try clear_value l)
    | with_reducible apply keeps_giveVerdict
    | with_reducible apply keeps_readWord
    | with_reducible apply keeps_decideTie
    | with_reducible apply keeps_modThis
    | split

theorem keeps_closeDouble {a s : State} (x0 : Double)  (h : Keeps T a s) [May T .doubles] [May T .store] : Keeps T a (closeDouble x0 s) := by
  unfold closeDouble
  repeat' first
    | assumption
    | (extract_lets +onlyGivenNames l; refine keeps_pass (T := T) (a := a) (x := l) ?_ ?_; all_goals first | (intro k; clear_value l) | subst l)
    | with_reducible apply keeps_dropStore
    | with_reducible apply keeps_removeDouble
    | split

theorem keeps_hazardIn {a s : State} (x0 : Nat) (x1 : Ctl)  (h : Keeps T a s) [May T .links] [May T .route] [May T .pot] [May T .tables] : Keeps T a (hazardIn x0 x1 s) := by
  unfold hazardIn
  repeat' first
    | assumption
    | with_reducible apply keeps_takeHazard
    | split

theorem keeps_helloTimeout {a s : State} (x0 : Nat)  (h : Keeps T a s) [May T .out] [May T .power] [May T .wd] [May T .time] [May T .mbox] [May T .gci] [May T .host] [May T .ports] [May T .pawn] [May T .tables] [May T .opening] : Keeps T a (helloTimeout x0 s) := by
  unfold helloTimeout
  repeat' first
    | assumption
    | (extract_lets +onlyGivenNames l; try clear_value l)
    | with_reducible apply keeps_respond
    | with_reducible apply keeps_dropOpening
    | with_reducible apply keeps_advanceTo
    | split

theorem keeps_closeIn {a s : State} (x0 : Ctl)  (h : Keeps T a s) [May T .doubles] [May T .store] : Keeps T a (closeIn x0 s) := by
  unfold closeIn
  repeat' first
    | assumption
    | with_reducible apply keeps_closeDouble
    | split

theorem keeps_repairPkt {a s : State} (x0 : List Byte) (x1 : Option Packet)  (h : Keeps T a s) [May T .mem] [May T .tables] : Keeps T a (repairPkt x0 x1 s) := by
  unfold repairPkt
  repeat' first
    | assumption
    | (extract_lets +onlyGivenNames l; try clear_value l)
    | with_reducible apply keeps_wroteWord
    | with_reducible apply keeps_modKeeper
    | split

theorem keeps_phaseIn {a s : State} (x0 : Nat) (x1 : Ctl)  (h : Keeps T a s) [May T .links] [May T .route] [May T .pot] [May T .tables] : Keeps T a (phaseIn x0 x1 s) := by
  unfold phaseIn
  repeat' first
    | assumption
    | (intro (_ : Keeps _ _ _))
    | (extract_lets +onlyGivenNames l; refine keeps_pass (T := T) (a := a) (x := l) ?_ ?_; all_goals first | (intro k; clear_value l) | subst l)
    | (extract_lets +onlyGivenNames l; try clear_value l)
    | with_reducible apply keeps_modTable
    | with_reducible apply keeps_forAll
    | with_reducible apply keeps_sendCtl
    | split
    | (intro _)

end Sys2Proof.Laws
end

