-- ==== Sys2Proof/Laws/KeepsRestoring.lean ====
section
/-! SUPPORT. What the updates of Machine/Restoring.lean keep. -/

namespace Sys2Proof.Laws
open Sys2Proof Sys2Proof.Machine Sys2Proof.Safety
variable {T : StatePart → Bool}

theorem keeps_sendAround {a s : State} (x0 : Table) (x1 : Ctl)  (h : Keeps T a s) [May T .links] [May T .route] [May T .pot] : Keeps T a (sendAround x0 x1 s) := by
  unfold sendAround
  repeat' first
    | assumption
    | with_reducible apply keeps_sendCtl
    | split

theorem keeps_modRestore {a s : State} (x0 : Nat) (x1 : Restore → Restore)  (h : Keeps T a s) [May T .tables] : Keeps T a (modRestore x0 x1 s) := by
  unfold modRestore
  repeat' first
    | assumption
    | with_reducible apply keeps_modKeeper

theorem keeps_sendLoaded {a s : State} (x0 : Table) (x1 : Load) (x2 : Nat) (x3 : Ctl → State → State) (hx3 : ∀ y0 t, Keeps T a t → Keeps T a (x3 y0 t))  (h : Keeps T a s) [May T .links] [May T .route] [May T .pot] : Keeps T a (sendLoaded x0 x1 x2 x3 s) := by
  unfold sendLoaded
  repeat' first
    | assumption
    | (extract_lets +onlyGivenNames l; try clear_value l)
    | with_reducible apply hx3
    | with_reducible apply keeps_sendCtl
    | split

theorem keeps_adoptLoad {a s : State} (x0 : Nat)  (h : Keeps T a s) [May T .out] [May T .mbox] [May T .gci] [May T .host] [May T .links] [May T .route] [May T .pot] [May T .mem] [May T .sheet] [May T .tables] : Keeps T a (adoptLoad x0 s) := by
  unfold adoptLoad
  repeat' first
    | assumption
    | (extract_lets +onlyGivenNames l; refine keeps_pass (T := T) (a := a) (x := l) ?_ ?_; all_goals first | (intro k; clear_value l) | subst l)
    | (extract_lets +onlyGivenNames l; try clear_value l)
    | with_reducible apply keeps_modKeeper
    | with_reducible apply keeps_wroteWord
    | with_reducible apply keeps_tableRecord
    | with_reducible apply keeps_sendCtl
    | with_reducible apply keeps_respond
    | split

theorem keeps_dropLoad {a s : State} (x0 : Nat) (x1 : Nat)  (h : Keeps T a s) [May T .links] [May T .route] [May T .pot] [May T .tables] [May T .store] : Keeps T a (dropLoad x0 x1 s) := by
  unfold dropLoad
  repeat' first
    | assumption
    | (extract_lets +onlyGivenNames l; refine keeps_pass (T := T) (a := a) (x := l) ?_ ?_; all_goals first | (intro k; clear_value l) | subst l)
    | (extract_lets +onlyGivenNames l; try clear_value l)
    | with_reducible apply keeps_dropStore
    | with_reducible apply keeps_modRestore
    | with_reducible apply keeps_sendCtl
    | split

theorem keeps_sendGo {a s : State} (x0 : Table) (x1 : Nat) (x2 : Cand) (x3 : Nat)  (h : Keeps T a s) [May T .out] [May T .mbox] [May T .gci] [May T .host] [May T .links] [May T .route] [May T .pot] [May T .mem] [May T .sheet] [May T .tables] [May T .store] : Keeps T a (sendGo x0 x1 x2 x3 s) := by
  unfold sendGo
  repeat' first
    | assumption
    | (extract_lets +onlyGivenNames l; refine keeps_pass (T := T) (a := a) (x := l) ?_ ?_; all_goals first | (intro k; clear_value l) | subst l)
    | with_reducible apply keeps_sendAround
    | with_reducible apply keeps_adoptLoad
    | with_reducible apply keeps_dropLoad
    | split

theorem keeps_loadedAtZero {a s : State} (x0 : Nat → State → State) (x1 : Ctl) (hx0 : ∀ y0 t, Keeps T a t → Keeps T a (x0 y0 t))  (h : Keeps T a s) [May T .out] [May T .mbox] [May T .gci] [May T .host] [May T .links] [May T .route] [May T .pot] [May T .mem] [May T .sheet] [May T .tables] [May T .store] : Keeps T a (loadedAtZero x0 x1 s) := by
  unfold loadedAtZero
  repeat' first
    | assumption
    | (extract_lets +onlyGivenNames l; refine keeps_pass (T := T) (a := a) (x := l) ?_ ?_; all_goals first | (intro k; clear_value l) | subst l)
    | (extract_lets +onlyGivenNames l; try clear_value l)
    | with_reducible apply hx0
    | with_reducible apply keeps_sendGo
    | with_reducible apply keeps_modRestore
    | split

theorem keeps_modLoad {a s : State} (x0 : Nat) (x1 : Load → Load)  (h : Keeps T a s) [May T .tables] : Keeps T a (modLoad x0 x1 s) := by
  unfold modLoad
  repeat' first
    | assumption
    | with_reducible apply keeps_modRestore

theorem keeps_loadEnds {a s : State} (x0 : Nat → State → State) (x1 : Nat) (x2 : Nat) (hx0 : ∀ y0 t, Keeps T a t → Keeps T a (x0 y0 t))  (h : Keeps T a s) [May T .out] [May T .mbox] [May T .gci] [May T .host] [May T .links] [May T .route] [May T .pot] [May T .mem] [May T .sheet] [May T .tables] [May T .store] : Keeps T a (loadEnds x0 x1 x2 s) := by
  unfold loadEnds
  repeat' first
    | assumption
    | (intro (_ : Keeps _ _ _))
    | (extract_lets +onlyGivenNames l; try clear_value l)
    | with_reducible apply keeps_sendLoaded
    | with_reducible apply keeps_loadedAtZero
    | with_reducible apply keeps_dropStore
    | with_reducible apply keeps_modLoad
    | split
    | (intro _)

theorem keeps_startLoad {a s : State} (x0 : Nat → State → State) (x1 : Nat) (x2 : Nat) (x3 : Nat) (x4 : Nat) (x5 : Nat) (hx0 : ∀ y0 t, Keeps T a t → Keeps T a (x0 y0 t))  (h : Keeps T a s) [May T .out] [May T .free] [May T .mbox] [May T .gci] [May T .host] [May T .links] [May T .route] [May T .pot] [May T .mem] [May T .sheet] [May T .tables] [May T .store] : Keeps T a (startLoad x0 x1 x2 x3 x4 x5 s) := by
  unfold startLoad
  repeat' first
    | assumption
    | (extract_lets +onlyGivenNames l; refine keeps_pass (T := T) (a := a) (x := l) ?_ ?_; all_goals first | (intro k; clear_value l) | subst l)
    | (extract_lets +onlyGivenNames l; try clear_value l)
    | with_reducible apply keeps_modRestore
    | with_reducible apply keeps_dropStore
    | with_reducible apply keeps_issue
    | with_reducible apply keeps_loadEnds
    | with_reducible apply keeps_sendCtl
    | split

theorem keeps_tryNext {a s : State} (x0 : Nat) (x1 : Nat)  (h : Keeps T a s) [May T .out] [May T .free] [May T .mbox] [May T .gci] [May T .host] [May T .links] [May T .route] [May T .pot] [May T .mem] [May T .sheet] [May T .tables] [May T .store] : Keeps T a (tryNext x0 x1 s) := by
  induction x0 generalizing s x1 with
  | zero => (first | exact h | (unfold tryNext; exact h))
  | succ n ih =>
    unfold tryNext
    repeat' first
      | assumption
      | with_reducible apply ih
      | (extract_lets +onlyGivenNames l; refine keeps_pass (T := T) (a := a) (x := l) ?_ ?_; all_goals first | (intro k; clear_value l) | subst l)
      | (extract_lets +onlyGivenNames l; try clear_value l)
      | with_reducible apply keeps_respond
      | with_reducible apply keeps_modKeeper
      | with_reducible apply keeps_modRestore
      | with_reducible apply keeps_sendAround
      | with_reducible apply keeps_startLoad
      | split
      | (intro _)

theorem keeps_nextCand {a s : State} (x0 : Nat)  (h : Keeps T a s) [May T .out] [May T .free] [May T .mbox] [May T .gci] [May T .host] [May T .links] [May T .route] [May T .pot] [May T .mem] [May T .sheet] [May T .tables] [May T .store] : Keeps T a (nextCand x0 s) := by
  unfold nextCand
  repeat' first
    | assumption
    | with_reducible apply keeps_tryNext
    | split

theorem keeps_needRestore {a s : State} (x0 : Nat) (x1 : Restore → Restore)  (h : Keeps T a s) [May T .tables] : Keeps T a (needRestore x0 x1 s) := by
  unfold needRestore
  repeat' first
    | assumption
    | with_reducible apply keeps_modKeeper

theorem keeps_candidateIn {a s : State} (x0 : Ctl)  (h : Keeps T a s) [May T .out] [May T .free] [May T .mbox] [May T .gci] [May T .host] [May T .links] [May T .route] [May T .pot] [May T .mem] [May T .sheet] [May T .tables] [May T .store] : Keeps T a (candidateIn x0 s) := by
  unfold candidateIn
  repeat' first
    | assumption
    | (intro (_ : Keeps _ _ _))
    | (extract_lets +onlyGivenNames l; refine keeps_pass (T := T) (a := a) (x := l) ?_ ?_; all_goals first | (intro k; clear_value l) | subst l)
    | (extract_lets +onlyGivenNames l; try clear_value l)
    | with_reducible apply keeps_sendAround
    | with_reducible apply keeps_startLoad
    | with_reducible apply keeps_nextCand
    | with_reducible apply keeps_needRestore
    | split
    | (intro _)

theorem keeps_formCands {a s : State} (x0 : Nat)  (h : Keeps T a s) [May T .out] [May T .free] [May T .mbox] [May T .gci] [May T .host] [May T .links] [May T .route] [May T .pot] [May T .mem] [May T .sheet] [May T .tables] [May T .store] : Keeps T a (formCands x0 s) := by
  unfold formCands
  repeat' first
    | assumption
    | (extract_lets +onlyGivenNames l; try clear_value l)
    | with_reducible apply keeps_nextCand
    | with_reducible apply keeps_modRestore
    | split

theorem keeps_formCheck {a s : State} (x0 : Nat)  (h : Keeps T a s) [May T .out] [May T .free] [May T .mbox] [May T .gci] [May T .host] [May T .links] [May T .route] [May T .pot] [May T .mem] [May T .sheet] [May T .tables] [May T .store] : Keeps T a (formCheck x0 s) := by
  unfold formCheck
  repeat' first
    | assumption
    | (extract_lets +onlyGivenNames l; try clear_value l)
    | with_reducible apply keeps_formCands
    | split

theorem keeps_restoreBody {a s : State} (x0 : Nat) (x1 : Request) (x2 : Nat)  (h : Keeps T a s) [May T .out] [May T .free] [May T .mbox] [May T .gci] [May T .host] [May T .links] [May T .route] [May T .pot] [May T .mem] [May T .sheet] [May T .tables] [May T .store] : Keeps T a (restoreBody x0 x1 x2 s).2 := by
  unfold restoreBody
  repeat' first
    | assumption
    | (intro (_ : Keeps _ _ _))
    | (extract_lets +onlyGivenNames l; refine keeps_pass (T := T) (a := a) (x := l) ?_ ?_; all_goals first | (intro k; clear_value l) | subst l)
    | (extract_lets +onlyGivenNames l; try clear_value l)
    | dsimp only
    | with_reducible apply keeps_needRestore
    | with_reducible apply keeps_sendCtl
    | with_reducible apply keeps_waits
    | with_reducible apply keeps_modRestore
    | with_reducible apply keeps_forAll
    | with_reducible apply keeps_issue
    | with_reducible apply keeps_formCheck
    | split
    | (intro _)

theorem keeps_takeLoaded {a s : State} (x0 : Nat) (x1 : List KParam)  (h : Keeps T a s) [May T .out] [May T .free] [May T .mbox] [May T .gci] [May T .host] [May T .links] [May T .route] [May T .pot] [May T .mem] [May T .sheet] [May T .tables] [May T .store] : Keeps T a (takeLoaded x0 x1 s) := by
  unfold takeLoaded
  repeat' first
    | assumption
    | (intro (_ : Keeps _ _ _))
    | (extract_lets +onlyGivenNames l; refine keeps_pass (T := T) (a := a) (x := l) ?_ ?_; all_goals first | (intro k; clear_value l) | subst l)
    | (extract_lets +onlyGivenNames l; try clear_value l)
    | with_reducible apply keeps_modLoad
    | with_reducible apply keeps_sendSync
    | with_reducible apply keeps_loadEnds
    | with_reducible apply keeps_nextCand
    | split
    | (intro _)

theorem keeps_restorePkt {a s : State} (x0 : List Byte) (x1 : Option Packet)  (h : Keeps T a s) [May T .out] [May T .free] [May T .mbox] [May T .gci] [May T .host] [May T .links] [May T .route] [May T .pot] [May T .mem] [May T .sheet] [May T .tables] [May T .store] : Keeps T a (restorePkt x0 x1 s) := by
  unfold restorePkt
  repeat' first
    | assumption
    | (extract_lets +onlyGivenNames l; try clear_value l)
    | with_reducible apply keeps_takeLoaded
    | split

theorem keeps_readDone {a s : State} (x0 : Nat)  (h : Keeps T a s) [May T .out] [May T .free] [May T .mbox] [May T .gci] [May T .host] [May T .links] [May T .route] [May T .pot] [May T .mem] [May T .sheet] [May T .tables] [May T .store] : Keeps T a (readDone x0 s) := by
  unfold readDone
  repeat' first
    | assumption
    | (extract_lets +onlyGivenNames l; try clear_value l)
    | with_reducible apply keeps_formCheck
    | with_reducible apply keeps_modRestore

theorem keeps_storedCheck {a s : State} (x0 : Nat)  (h : Keeps T a s) [May T .out] [May T .free] [May T .mbox] [May T .gci] [May T .host] [May T .links] [May T .route] [May T .pot] [May T .mem] [May T .sheet] [May T .tables] [May T .store] : Keeps T a (storedCheck x0 s) := by
  unfold storedCheck
  repeat' first
    | assumption
    | (intro (_ : Keeps _ _ _))
    | (extract_lets +onlyGivenNames l; try clear_value l)
    | with_reducible apply keeps_loadEnds
    | with_reducible apply keeps_nextCand
    | with_reducible apply keeps_takeLoaded
    | split
    | (intro _)

theorem keeps_readChunks {a s : State} (x0 : Nat) (x1 : Nat) (x2 : Nat) (x3 : Load) (x4 : List Byte)  (h : Keeps T a s) [May T .out] [May T .free] [May T .host] [May T .store] : Keeps T a (readChunks x0 x1 x2 x3 x4 s) := by
  unfold readChunks
  repeat' first
    | assumption
    | (intro (_ : Keeps _ _ _))
    | (extract_lets +onlyGivenNames l; try clear_value l)
    | with_reducible apply keeps_forAll
    | with_reducible apply keeps_issue
    | (intro _)

theorem keeps_restoreResult {a s : State} (x0 : Nat) (x1 : StoreFor) (x2 : StoreResult)  (h : Keeps T a s) [May T .out] [May T .free] [May T .mbox] [May T .gci] [May T .host] [May T .links] [May T .route] [May T .pot] [May T .mem] [May T .sheet] [May T .tables] [May T .store] : Keeps T a (restoreResult x0 x1 x2 s) := by
  unfold restoreResult
  repeat' first
    | assumption
    | (intro (_ : Keeps _ _ _))
    | (extract_lets +onlyGivenNames l; refine keeps_pass (T := T) (a := a) (x := l) ?_ ?_; all_goals first | (intro k; clear_value l) | subst l)
    | (extract_lets +onlyGivenNames l; try clear_value l)
    | with_reducible apply keeps_issue
    | with_reducible apply keeps_modRestore
    | with_reducible apply keeps_readDone
    | with_reducible apply keeps_loadEnds
    | with_reducible apply keeps_nextCand
    | with_reducible apply keeps_modLoad
    | with_reducible apply keeps_storedCheck
    | with_reducible apply keeps_forAll
    | with_reducible apply keeps_readChunks
    | split
    | (intro _)

theorem keeps_storeEnds {a s : State} (x0 : StoreFor × StoreResult)  (h : Keeps T a s) [May T .out] [May T .free] [May T .mbox] [May T .gci] [May T .host] [May T .links] [May T .route] [May T .pot] [May T .mem] [May T .sheet] [May T .tables] [May T .doubles] [May T .store] : Keeps T a (storeEnds x0 s) := by
  unfold storeEnds
  repeat' first
    | assumption
    | with_reducible apply keeps_shardResult
    | with_reducible apply keeps_ckptResult
    | with_reducible apply keeps_restoreResult
    | split

theorem keeps_sendHeld {a s : State} (x0 : Ctl)  (h : Keeps T a s) [May T .route] [May T .pot] : Keeps T a (sendHeld x0 s) := by
  unfold sendHeld
  repeat' first
    | assumption
    | (intro (_ : Keeps _ _ _))
    | (extract_lets +onlyGivenNames l; try clear_value l)
    | with_reducible apply keeps_forAll
    | with_reducible apply keeps_sendSync
    | split
    | (intro _)

theorem keeps_loadReqIn {a s : State} (x0 : Ctl)  (h : Keeps T a s) [May T .links] [May T .route] [May T .pot] [May T .tables] : Keeps T a (loadReqIn x0 s) := by
  unfold loadReqIn
  repeat' first
    | assumption
    | (extract_lets +onlyGivenNames l; refine keeps_pass (T := T) (a := a) (x := l) ?_ ?_; all_goals first | (intro k; clear_value l) | subst l)
    | (extract_lets +onlyGivenNames l; try clear_value l)
    | with_reducible apply keeps_sendHeld
    | with_reducible apply keeps_needRestore
    | with_reducible apply keeps_sendCtl
    | split

theorem keeps_storageTimeout {a s : State} (x0 : Nat)  (h : Keeps T a s) [May T .out] [May T .free] [May T .power] [May T .wd] [May T .time] [May T .mbox] [May T .gci] [May T .host] [May T .ports] [May T .links] [May T .route] [May T .pot] [May T .pawn] [May T .mem] [May T .sheet] [May T .tables] [May T .doubles] [May T .store] : Keeps T a (storageTimeout x0 s) := by
  unfold storageTimeout
  repeat' first
    | assumption
    | (extract_lets +onlyGivenNames l; try clear_value l)
    | with_reducible apply keeps_storeEnds
    | with_reducible apply keeps_endOp
    | with_reducible apply keeps_advanceTo
    | split

theorem keeps_loadedIn {a s : State} (x0 : Ctl)  (h : Keeps T a s) [May T .out] [May T .free] [May T .mbox] [May T .gci] [May T .host] [May T .links] [May T .route] [May T .pot] [May T .mem] [May T .sheet] [May T .tables] [May T .store] : Keeps T a (loadedIn x0 s) := by
  unfold loadedIn
  repeat' first
    | assumption
    | (intro (_ : Keeps _ _ _))
    | (extract_lets +onlyGivenNames l; try clear_value l)
    | with_reducible apply keeps_loadedAtZero
    | with_reducible apply keeps_nextCand
    | with_reducible apply keeps_sendCtl
    | split
    | (intro _)

theorem keeps_loadTimeout {a s : State} (x0 : Nat)  (h : Keeps T a s) [May T .out] [May T .free] [May T .power] [May T .wd] [May T .time] [May T .mbox] [May T .gci] [May T .host] [May T .ports] [May T .links] [May T .route] [May T .pot] [May T .pawn] [May T .mem] [May T .sheet] [May T .tables] [May T .store] : Keeps T a (loadTimeout x0 s) := by
  unfold loadTimeout
  repeat' first
    | assumption
    | (intro (_ : Keeps _ _ _))
    | (extract_lets +onlyGivenNames l; try clear_value l)
    | with_reducible apply keeps_loadEnds
    | with_reducible apply keeps_nextCand
    | with_reducible apply keeps_advanceTo
    | split
    | (intro _)

theorem keeps_memberGo {a s : State} (x0 : Ctl)  (h : Keeps T a s) [May T .out] [May T .mbox] [May T .gci] [May T .host] [May T .links] [May T .route] [May T .pot] [May T .mem] [May T .sheet] [May T .tables] [May T .store] : Keeps T a (memberGo x0 s) := by
  unfold memberGo
  repeat' first
    | assumption
    | (extract_lets +onlyGivenNames l; refine keeps_pass (T := T) (a := a) (x := l) ?_ ?_; all_goals first | (intro k; clear_value l) | subst l)
    | with_reducible apply keeps_sendAround
    | with_reducible apply keeps_adoptLoad
    | with_reducible apply keeps_dropLoad
    | split

theorem keeps_heldIn {a s : State} (x0 : Ctl)  (h : Keeps T a s) [May T .out] [May T .free] [May T .mbox] [May T .gci] [May T .host] [May T .links] [May T .route] [May T .pot] [May T .mem] [May T .sheet] [May T .tables] [May T .store] : Keeps T a (heldIn x0 s) := by
  unfold heldIn
  repeat' first
    | assumption
    | (extract_lets +onlyGivenNames l; refine keeps_pass (T := T) (a := a) (x := l) ?_ ?_; all_goals first | (intro k; clear_value l) | subst l)
    | (extract_lets +onlyGivenNames l; try clear_value l)
    | with_reducible apply keeps_sendCtl
    | with_reducible apply keeps_needRestore
    | with_reducible apply keeps_formCheck
    | split

theorem keeps_loadedTimeout {a s : State} (x0 : Nat)  (h : Keeps T a s) [May T .out] [May T .free] [May T .power] [May T .wd] [May T .time] [May T .mbox] [May T .gci] [May T .host] [May T .ports] [May T .links] [May T .route] [May T .pot] [May T .pawn] [May T .mem] [May T .sheet] [May T .tables] [May T .store] : Keeps T a (loadedTimeout x0 s) := by
  unfold loadedTimeout
  repeat' first
    | assumption
    | (extract_lets +onlyGivenNames l; try clear_value l)
    | with_reducible apply keeps_nextCand
    | with_reducible apply keeps_sendGo
    | with_reducible apply keeps_advanceTo
    | split

theorem keeps_queryIn {a s : State} (x0 : Ctl)  (h : Keeps T a s) [May T .links] [May T .route] [May T .pot] : Keeps T a (queryIn x0 s) := by
  unfold queryIn
  repeat' first
    | assumption
    | (intro (_ : Keeps _ _ _))
    | (extract_lets +onlyGivenNames l; refine keeps_pass (T := T) (a := a) (x := l) ?_ ?_; all_goals first | (intro k; clear_value l) | subst l)
    | (extract_lets +onlyGivenNames l; try clear_value l)
    | with_reducible apply keeps_forAll
    | with_reducible apply keeps_sendCtl
    | (intro _)

theorem keeps_formTimeout {a s : State} (x0 : Nat)  (h : Keeps T a s) [May T .out] [May T .free] [May T .power] [May T .wd] [May T .time] [May T .mbox] [May T .gci] [May T .host] [May T .ports] [May T .links] [May T .route] [May T .pot] [May T .pawn] [May T .mem] [May T .sheet] [May T .tables] [May T .store] : Keeps T a (formTimeout x0 s) := by
  unfold formTimeout
  repeat' first
    | assumption
    | (extract_lets +onlyGivenNames l; try clear_value l)
    | with_reducible apply keeps_formCands
    | with_reducible apply keeps_advanceTo
    | split

theorem keeps_partnerGo {a s : State} (x0 : Ctl)  (h : Keeps T a s) [May T .doubles] : Keeps T a (partnerGo x0 s) := by
  unfold partnerGo
  repeat' first
    | assumption
    | with_reducible apply keeps_modThis
    | split

theorem keeps_goIn {a s : State} (x0 : Ctl)  (h : Keeps T a s) [May T .out] [May T .mbox] [May T .gci] [May T .host] [May T .links] [May T .route] [May T .pot] [May T .mem] [May T .sheet] [May T .tables] [May T .doubles] [May T .store] : Keeps T a (goIn x0 s) := by
  unfold goIn
  repeat' first
    | assumption
    | (extract_lets +onlyGivenNames l; try clear_value l)
    | with_reducible apply keeps_memberGo
    | with_reducible apply keeps_partnerGo

theorem keeps_storageReply {a s : State} (x0 : Source) (x1 : List Byte)  (h : Keeps T a s) [May T .out] [May T .free] [May T .mbox] [May T .gci] [May T .host] [May T .links] [May T .route] [May T .pot] [May T .mem] [May T .sheet] [May T .tables] [May T .doubles] [May T .store] : Keeps T a (storageReply x0 x1 s) := by
  unfold storageReply
  repeat' first
    | assumption
    | (extract_lets +onlyGivenNames l; refine keeps_pass (T := T) (a := a) (x := l) ?_ ?_; all_goals first | (intro k; clear_value l) | subst l)
    | (extract_lets +onlyGivenNames l; try clear_value l)
    | with_reducible apply keeps_turnAway
    | with_reducible apply keeps_frameIn
    | with_reducible apply keeps_dropFrame
    | (refine keeps_replyIn_eq (by assumption) ?_)
    | with_reducible apply keeps_storeEnds
    | split

end Sys2Proof.Laws
end

