-- ==== Sys2Proof/Laws/KeepsTables.lean ====
section
/-! SUPPORT. What the updates of Machine/Tables.lean keep. -/

namespace Sys2Proof.Laws
open Sys2Proof Sys2Proof.Machine Sys2Proof.Safety
variable {T : StatePart → Bool}

theorem keeps_boardLoadBody {a s : State} (x0 : Nat) (x1 : Request) (x2 : Nat)  (h : Keeps T a s) [May T .tables] : Keeps T a (boardLoadBody x0 x1 x2 s).2 := by
  unfold boardLoadBody
  repeat' first
    | assumption
    | (extract_lets +onlyGivenNames l; try clear_value l)
    | with_reducible apply keeps_okay
    | with_reducible apply keeps_modTable
    | split

theorem keeps_doubleDetachBody {a s : State} (x0 : Request) (x1 : Nat)  (h : Keeps T a s) [May T .doubles] [May T .detachNum] : Keeps T a (doubleDetachBody x0 x1 s).2 := by
  unfold doubleDetachBody
  repeat' first
    | assumption
    | exact Or.inr rfl
    | exact Or.inl May.ok
    | (extract_lets +onlyGivenNames l; try clear_value l)
    | dsimp only
    | with_reducible apply keeps_okay
    | with_reducible apply keeps_modThis
    | split
    | with_reducible refine keeps_mk ?_ (Nat.le_refl _) id id id id id id id id id id id id id id id id id id id id id ?_ ?_ ?_ ?_ ?_ ?_ ?_ ?_ ?_ ?_ ?_ ?_ ?_ ?_ ?_ ?_ ?_ ?_ ?_ ?_ ?_ ?_ ?_ ?_ ?_ ?_ ?_ ?_ ?_ ?_ ?_ ?_ ?_ ?_ ?_ ?_ ?_ ?_ ?_

theorem keeps_appendMoves {a s : State} (x0 : Table) (x1 : Nat) (x2 : Nat) (x3 : List Byte)  (h : Keeps T a s) [May T .mem] [May T .tables] : Keeps T a (appendMoves x0 x1 x2 x3 s).2 := by
  unfold appendMoves
  repeat' first
    | assumption
    | (extract_lets +onlyGivenNames l; try clear_value l)
    | with_reducible apply keeps_okWith
    | with_reducible apply keeps_wroteWord
    | with_reducible apply keeps_modTable
    | split

theorem keeps_doubleCloseBody {a s : State} (x0 : Request) (x1 : Nat)  (h : Keeps T a s) [May T .doubles] [May T .store] : Keeps T a (doubleCloseBody x0 x1 s).2 := by
  unfold doubleCloseBody
  repeat' first
    | assumption
    | (extract_lets +onlyGivenNames l; try clear_value l)
    | with_reducible apply keeps_okay
    | with_reducible apply keeps_closeDouble
    | split

theorem keeps_doubleMoveBody {a s : State} (x0 : Request) (x1 : Nat)  (h : Keeps T a s) [May T .tables] : Keeps T a (doubleMoveBody x0 x1 s).2 := by
  unfold doubleMoveBody
  repeat' first
    | assumption
    | (extract_lets +onlyGivenNames l; try clear_value l)
    | with_reducible apply keeps_okay
    | with_reducible apply keeps_modPrim
    | split

theorem keeps_movesAppendBody {a s : State} (x0 : Nat) (x1 : Request) (x2 : Nat)  (h : Keeps T a s) [May T .mem] [May T .tables] : Keeps T a (movesAppendBody x0 x1 x2 s).2 := by
  unfold movesAppendBody
  repeat' first
    | assumption
    | (extract_lets +onlyGivenNames l; try clear_value l)
    | with_reducible apply keeps_appendMoves
    | split

theorem keeps_tableOpenBody {a s : State} (x0 : Nat) (x1 : Request) (x2 : Nat)  (h : Keeps T a s) [May T .ports] [May T .links] [May T .route] [May T .pot] [May T .ladder] [May T .pawn] [May T .mem] [May T .sheet] [May T .tables] [May T .opening] [May T .held] : Keeps T a (tableOpenBody x0 x1 x2 s).2 := by
  unfold tableOpenBody
  repeat' first
    | assumption
    | exact Or.inr rfl
    | exact Or.inl May.ok
    | (extract_lets +onlyGivenNames l; try clear_value l)
    | dsimp only
    | with_reducible apply keeps_waits
    | with_reducible apply keeps_sendCtl
    | with_reducible apply keeps_okWith
    | with_reducible apply keeps_openNow
    | split
    | with_reducible refine keeps_mk ?_ (Nat.le_refl _) id id id id id id id id id id id id id id id id id id id id id ?_ ?_ ?_ ?_ ?_ ?_ ?_ ?_ ?_ ?_ ?_ ?_ ?_ ?_ ?_ ?_ ?_ ?_ ?_ ?_ ?_ ?_ ?_ ?_ ?_ ?_ ?_ ?_ ?_ ?_ ?_ ?_ ?_ ?_ ?_ ?_ ?_ ?_ ?_

theorem keeps_tableCloseBody {a s : State} (x0 : Request) (x1 : Nat)  (h : Keeps T a s) [May T .out] [May T .free] [May T .alert] [May T .mbox] [May T .gci] [May T .host] [May T .ports] [May T .links] [May T .route] [May T .pot] [May T .ladder] [May T .pawn] [May T .mem] [May T .sheet] [May T .hazard] [May T .tables] [May T .feed] [May T .mu] [May T .norm] [May T .pipes] [May T .dma] [May T .kunits] [May T .store] : Keeps T a (tableCloseBody x0 x1 s).2 := by
  unfold tableCloseBody
  repeat' first
    | assumption
    | (extract_lets +onlyGivenNames l; try clear_value l)
    | with_reducible apply keeps_okay
    | with_reducible apply keeps_closeTable
    | split

theorem keeps_doubleOpenBody {a s : State} (x0 : Request) (x1 : Nat)  (h : Keeps T a s) [May T .mem] [May T .doubles] [May T .store] : Keeps T a (doubleOpenBody x0 x1 s).2 := by
  unfold doubleOpenBody
  repeat' first
    | assumption
    | exact Or.inr rfl
    | exact Or.inl May.ok
    | (extract_lets +onlyGivenNames l; try clear_value l)
    | dsimp only
    | with_reducible apply keeps_okay
    | with_reducible apply keeps_wroteWord
    | with_reducible apply keeps_closeDouble
    | split
    | with_reducible refine keeps_mk ?_ (Nat.le_refl _) id id id id id id id id id id id id id id id id id id id id id ?_ ?_ ?_ ?_ ?_ ?_ ?_ ?_ ?_ ?_ ?_ ?_ ?_ ?_ ?_ ?_ ?_ ?_ ?_ ?_ ?_ ?_ ?_ ?_ ?_ ?_ ?_ ?_ ?_ ?_ ?_ ?_ ?_ ?_ ?_ ?_ ?_ ?_ ?_

end Sys2Proof.Laws
end

