-- ==== Sys2Proof/Laws/KeepsRoutes.lean ====
section
/-! SUPPORT. What the updates of Machine/Routes.lean keep. -/

namespace Sys2Proof.Laws
open Sys2Proof Sys2Proof.Machine Sys2Proof.Safety
variable {T : StatePart → Bool}

/-- A bank that stays CURRENT or stays another's may change. -/
theorem keeps_modBank_at {a s : State} (b : Nat) (f : RouteBank → RouteBank)
    (hf : (f (getBank s b)).state = 1 ↔ (getBank s b).state = 1) (h : Keeps T a s) [May T .route] : Keeps T a (modBank b f s) := by
  refine keeps_modRoute _ (fun e => ?_) h
  obtain ⟨h1, h2, h3, h4⟩ := e
  refine ⟨by simpa using h1, h2, h3, fun i => ?_⟩
  rw [← h4 i, modAt_getD]
  split
  · rename_i hi
    rw [← hi.1]; exact hf
  · rfl

theorem stagingBank_state {s : State} {b : Nat} (e : stagingBank s = some b) : (getBank s b).state = 3 := by
  unfold stagingBank at e
  rw [List.findIdx?_eq_some_iff_getElem] at e
  obtain ⟨hb, h, _⟩ := e
  unfold getBank
  rw [List.getD_eq_getElem?_getD, List.getElem?_eq_getElem hb]
  simpa using h

theorem ownStaging_state {s : State} {m b : Nat} {r : Request} (e : ownStaging m r s = .ok b) : stagingBank s = some b := by
  unfold ownStaging at e
  split at e
  · cases e
  · split at e
    · cases e; assumption
    · cases e

theorem writeEntries_state (what first : Nat) (es : List Nat) (b : RouteBank) : (writeEntries what first es b).state = b.state := by
  unfold writeEntries
  repeat' split
  all_goals rfl

theorem banks_forAll {α : Type} (xs : List α) (f : α → State → State) (s : State)
    (hf : ∀ x t, (f x t).route.banks = t.route.banks) : (forAll xs f s).route.banks = s.route.banks := by
  unfold forAll
  induction xs generalizing s with
  | nil => rfl
  | cons x xs ih => exact (ih (f x s)).trans (hf x s)

theorem banks_sweepPkts (s : State) : (sweepPkts s).route.banks = s.route.banks := by
  refine (banks_forAll _ freeRest s fun p t => ?_ : (forAll _ freeRest s).route.banks = s.route.banks)
  unfold freeRest
  repeat' split
  all_goals rfl

theorem banks_dropStale (p : QPkt) (s : State) : (dropStale p s).route.banks = s.route.banks := by
  unfold dropStale
  refine (banks_forAll _ _ _ fun l t => ?_).trans rfl
  exact banks_sweepPkts _

theorem route_advance (n : Nat) (s : State) : (advance n s).route = s.route := by
  unfold advance
  split
  · rfl
  · rfl

theorem route_advanceTo (n : Nat) (s : State) : (advanceTo n s).route = s.route := by
  unfold advanceTo
  split
  · dsimp only
    split
    · exact route_advance _ _
    · exact route_advance _ _
  · rfl

/-- The staging bank becomes CURRENT in place of the old one. -/
theorem routeOk_commit {r r' : Route} {b : Nat} {f g : RouteBank → RouteBank} (hb : (r.banks.getD b {}).state = 3)
    (hr : r'.banks = modAt (modAt r.banks r.cur f) b g) (hc : r'.cur = b) (hk : r'.kibitz.length = r.kibitz.length)
    (hf : ∀ x, (f x).state = 2) (hg : ∀ x, (g x).state = 1) (h : routeOk r) : routeOk r' := by
  obtain ⟨h1, h2, h3, h4⟩ := h
  have hlt : b < 4 := by
    rcases Nat.lt_or_ge b 4 with h | h
    · exact h
    · rw [List.getD_eq_getElem?_getD, List.getElem?_eq_none (by omega)] at hb
      simp at hb
  have hne : b ≠ r.cur := fun e => by
    have := (h4 b).2 e
    omega
  refine ⟨by simp [hr, h1], hk.trans h2, by omega, fun i => ?_⟩
  rw [hr, hc, modAt_getD, modAt_getD, modAt_length, h1]
  by_cases e1 : b = i
  · subst e1; simp [hlt, hg]
  · rw [if_neg (by simp [e1])]
    by_cases e2 : r.cur = i
    · subst e2
      simp [h3, hf, Ne.symm hne]
    · rw [if_neg (by simp [e2])]
      constructor
      · intro e; exact absurd ((h4 i).1 e).symm e2
      · intro e; exact absurd e.symm e1

theorem route_readWord (tier : Nat) (o : WordOwner) (w : WordRead) (s : State) : (readWord tier o w s).route = s.route := by
  let U : StatePart → Bool := fun p => p != .route
  haveI : May U .free := ⟨rfl⟩
  haveI : May U .alert := ⟨rfl⟩
  haveI : May U .mem := ⟨rfl⟩
  haveI : May U .hazard := ⟨rfl⟩
  exact (keeps_readWord tier o w (T := U) (Keeps.refl s)).same_ .route rfl

theorem route_forAll {α : Type} (xs : List α) (f : α → State → State) (s : State)
    (hf : ∀ x t, (f x t).route = t.route) : (forAll xs f s).route = s.route := by
  unfold forAll
  induction xs generalizing s with
  | nil => rfl
  | cons x xs ih => rw [List.foldl_cons, ih, hf]

theorem loseEntries_state (es : List (Nat × Nat)) (b : RouteBank) : (es.foldl loseEntry b).state = b.state := by
  induction es generalizing b with
  | nil => rfl
  | cons e es ih => rw [List.foldl_cons, ih]; unfold loseEntry; split <;> (try split) <;> (try split) <;> rfl

theorem keeps_modFence {a s : State} (x0 : Nat) (x1 : Fence → Fence)  (h : Keeps T a s) [May T .route] : Keeps T a (modFence x0 x1 s) := by
  unfold modFence
  repeat' first
    | assumption
    | exact Or.inr rfl
    | exact Or.inl May.ok
    | (extract_lets +onlyGivenNames l)
    | with_reducible apply keeps_modRoute
    | exact id

theorem keeps_ackFence {a s : State} (x0 : Fence) (x1 : Bool)  (h : Keeps T a s) [May T .out] [May T .mbox] [May T .gci] [May T .host] [May T .route] : Keeps T a (ackFence x0 x1 s) := by
  unfold ackFence
  repeat' first
    | assumption
    | (extract_lets +onlyGivenNames l; refine keeps_pass (T := T) (a := a) (x := l) ?_ ?_; all_goals first | (intro k; clear_value l) | subst l)
    | with_reducible apply keeps_modFence
    | with_reducible apply keeps_respond
    | split

theorem keeps_endLoop {a s : State} (x0 : Nat)  (h : Keeps T a s) [May T .links] : Keeps T a (endLoop x0 s) := by
  unfold endLoop
  repeat' first
    | assumption
    | with_reducible apply keeps_modLink

theorem keeps_routeAbortBody {a s : State} (x0 : Nat) (x1 : Request) (x2 : Nat)  (h : Keeps T a s) [May T .route] : Keeps T a (routeAbortBody x0 x1 x2 s).2 := by
  unfold routeAbortBody
  repeat' first
    | assumption
    | (extract_lets +onlyGivenNames l; try clear_value l)
    | with_reducible apply keeps_okay
    | with_reducible apply keeps_freeStaging
    | split

theorem keeps_endFenced {a s : State} (x0 : Fence)  (h : Keeps T a s) [May T .ports] [May T .links] [May T .route] [May T .pot] [May T .ladder] : Keeps T a (endFenced x0 s) := by
  unfold endFenced
  repeat' first
    | assumption
    | exact Or.inr rfl
    | exact Or.inl May.ok
    | (intro (_ : Keeps _ _ _))
    | (extract_lets +onlyGivenNames l; refine keeps_pass (T := T) (a := a) (x := l) ?_ ?_; all_goals first | (intro k; clear_value l) | subst l)
    | (extract_lets +onlyGivenNames l)
    | with_reducible apply keeps_forAll
    | with_reducible apply keeps_endLeg
    | with_reducible apply keeps_fenceDrop
    | with_reducible apply keeps_modLadder
    | exact id
    | exact Nat.le_refl _
    | (intro e; simp_all +zetaDelta [ladderOk]; done)
    | (intro _)
    | with_reducible apply keeps_mk

theorem keeps_fenceTimeout {a s : State} (x0 : Nat)  (h : Keeps T a s) [May T .out] [May T .power] [May T .wd] [May T .time] [May T .mbox] [May T .gci] [May T .host] [May T .ports] [May T .links] [May T .route] [May T .pot] [May T .ladder] [May T .pawn] [May T .tables] : Keeps T a (fenceTimeout x0 s) := by
  unfold fenceTimeout
  repeat' first
    | assumption
    | (extract_lets +onlyGivenNames l; try clear_value l)
    | with_reducible apply keeps_ackFence
    | with_reducible apply keeps_endFenced
    | with_reducible apply keeps_advanceTo
    | split

theorem keeps_dropStale {a s : State} (x0 : QPkt)  (h : Keeps T a s) [May T .ports] [May T .links] [May T .route] [May T .pot] : Keeps T a (dropStale x0 s) := by
  unfold dropStale
  repeat' first
    | assumption
    | (intro (_ : Keeps _ _ _))
    | (extract_lets +onlyGivenNames l; refine keeps_pass (T := T) (a := a) (x := l) ?_ ?_; all_goals first | (intro k; clear_value l) | subst l)
    | (extract_lets +onlyGivenNames l; try clear_value l)
    | with_reducible apply keeps_modCnt
    | with_reducible apply keeps_forAll
    | with_reducible apply keeps_legDone
    | with_reducible apply keeps_egressDrop
    | (intro _)

theorem keeps_loopbackBody {a s : State} (x0 : Nat) (x1 : Request) (x2 : Nat)  (h : Keeps T a s) [May T .time] [May T .ports] [May T .links] [May T .route] [May T .pot] : Keeps T a (loopbackBody x0 x1 x2 s).2 := by
  unfold loopbackBody
  repeat' first
    | assumption
    | (extract_lets +onlyGivenNames l; refine keeps_pass (T := T) (a := a) (x := l) ?_ ?_; all_goals first | (intro k; clear_value l) | subst l)
    | (extract_lets +onlyGivenNames l; try clear_value l)
    | dsimp only
    | with_reducible apply keeps_leaveService
    | with_reducible apply keeps_waits
    | with_reducible apply keeps_modLoop
    | with_reducible apply keeps_trainFromStart
    | with_reducible apply keeps_modLink
    | split

theorem keeps_routeBeginBody {a s : State} (x0 : List (Nat × Nat)) (x1 : Nat) (x2 : Request) (x3 : Nat)  (h : Keeps T a s) [May T .free] [May T .alert] [May T .route] [May T .mem] [May T .hazard] : Keeps T a (routeBeginBody x0 x1 x2 x3 s).2 := by
  unfold routeBeginBody
  extract_lets n src bank s1 s2
  split
  · exact keeps_reject _ _ h
  · rename_i c
    have h0 : (getBank s n).state = 0 := by
      simp only [Bool.or_eq_true, decide_eq_true_eq, not_or, ne_eq, Decidable.not_not] at c
      exact c.2
    have k : Keeps T a s1 := keeps_forAll _ _ (fun e t k => keeps_readWord _ _ _ k) h
    have e1 : s1.route = s.route := route_forAll _ _ _ (fun e t => route_readWord _ _ _ t)
    refine keeps_okWith _ (keeps_modRoute _ (fun e => e) (keeps_wroteWord _ _ (keeps_modBank_at n _ ?_ k)))
    have : (getBank s1 n).state = 0 := by unfold getBank; rw [e1]; exact h0
    have hb : bank.state = 3 := loseEntries_state _ _
    simp [this, hb]

theorem keeps_restartBody {a s : State} (x0 : Request) (x1 : Nat)  (h : Keeps T a s) [May T .boot] : Keeps T a (restartBody x0 x1 s).2 := by
  unfold restartBody
  repeat' first
    | assumption
    | exact Or.inr rfl
    | exact Or.inl May.ok
    | (extract_lets +onlyGivenNames l)
    | with_reducible apply keeps_okay
    | with_reducible apply keeps_modBoot
    | exact id

theorem keeps_routeWrite {a s : State} (x0 : Nat) (x1 : Nat) (x2 : Nat) (x3 : Nat) (x4 : List Nat)  (h : Keeps T a s) [May T .route] [May T .mem] : Keeps T a (routeWrite x0 x1 x2 x3 x4 s).2 := by
  unfold routeWrite
  dsimp only
  split
  · exact keeps_reject _ _ h
  · split
    · exact keeps_reject _ _ h
    · refine keeps_okay (keeps_wroteWord _ _ (keeps_modBank_at _ _ ?_ h))
      rw [writeEntries_state]

theorem keeps_unfenceBody {a s : State} (x0 : Request) (x1 : Nat)  (h : Keeps T a s) [May T .route] : Keeps T a (unfenceBody x0 x1 s).2 := by
  unfold unfenceBody
  repeat' first
    | assumption
    | exact Or.inr rfl
    | exact Or.inl May.ok
    | (extract_lets +onlyGivenNames l)
    | with_reducible apply keeps_okay
    | with_reducible apply keeps_modRoute
    | split
    | exact id

theorem keeps_routeCommitBody {a s : State} (x0 : Nat) (x1 : Request) (x2 : Nat)  (h : Keeps T a s) [May T .route] : Keeps T a (routeCommitBody x0 x1 x2 s).2 := by
  unfold routeCommitBody
  split
  · exact h
  · rename_i b e
    dsimp only
    refine keeps_okWith _ ?_
    refine h.upd rfl rfl (Nat.le_refl _) id id id id id id id id id id id id id id ?_ id id id id id id (by intro p q; cases p <;> first | exact May.no q | exact rfl)
    exact routeOk_commit (f := fun b => { b with state := 2, drainEnd := now s + s.route.drainUs * 1000 })
      (g := fun b => { b with state := 1 }) (stagingBank_state (ownStaging_state e)) rfl rfl rfl (fun _ => rfl) (fun _ => rfl)

theorem keeps_fenceBody {a s : State} (x0 : Nat) (x1 : Request) (x2 : Nat)  (h : Keeps T a s) [May T .route] : Keeps T a (fenceBody x0 x1 x2 s).2 := by
  unfold fenceBody
  repeat' first
    | assumption
    | exact Or.inr rfl
    | exact Or.inl May.ok
    | (extract_lets +onlyGivenNames l)
    | with_reducible apply keeps_waits
    | with_reducible apply keeps_modRoute
    | split
    | exact id

theorem keeps_fenceAck {a s : State} (x0 : Nat)  (h : Keeps T a s) [May T .out] [May T .mbox] [May T .gci] [May T .host] [May T .route] : Keeps T a (fenceAck x0 s) := by
  unfold fenceAck
  repeat' first
    | assumption
    | with_reducible apply keeps_ackFence
    | split

theorem keeps_loopbackEnd {a s : State} (x0 : Nat)  (h : Keeps T a s) [May T .out] [May T .power] [May T .wd] [May T .time] [May T .mbox] [May T .gci] [May T .host] [May T .ports] [May T .links] [May T .pawn] [May T .tables] : Keeps T a (loopbackEnd x0 s) := by
  unfold loopbackEnd
  repeat' first
    | assumption
    | (extract_lets +onlyGivenNames l; refine keeps_pass (T := T) (a := a) (x := l) ?_ ?_; all_goals first | (intro k; clear_value l) | subst l)
    | (extract_lets +onlyGivenNames l; try clear_value l)
    | with_reducible apply keeps_advanceTo
    | with_reducible apply keeps_endLoop
    | with_reducible apply keeps_respond
    | split

theorem keeps_drainExpire {a s : State} (x0 : Nat)  (h : Keeps T a s) [May T .power] [May T .wd] [May T .time] [May T .ports] [May T .links] [May T .route] [May T .pot] [May T .inbox] [May T .pawn] [May T .tables] : Keeps T a (drainExpire x0 s) := by
  unfold drainExpire
  split
  · exact h
  · rename_i c
    have h2 : (getBank s x0).state = 2 := by
      simp only [Bool.or_eq_true, decide_eq_true_eq, not_or, ne_eq, Decidable.not_not] at c
      exact c.2
    extract_lets s1 s2 s3 s4 s5
    have k1 : Keeps T a s1 := keeps_advanceTo _ h
    have k2 : Keeps T a s2 := keeps_forAll _ _ (fun p t k => keeps_dropStale _ k) k1
    have k : Keeps T a s3 := keeps_forAll _ _ (fun p t k => keeps_freeCredits _ _ _ (keeps_modCnt _ k)) k2
    have k4 : Keeps T a s4 := k.same rfl rfl rfl rfl rfl rfl rfl rfl rfl rfl rfl rfl rfl rfl rfl rfl rfl rfl rfl rfl rfl rfl rfl rfl (by intro p q; cases p <;> first | exact May.no q | exact rfl)
    have k5 : Keeps T a s5 := keeps_modRoute _ (fun e => e) k4
    have e3 : s3.route.banks = s2.route.banks := banks_forAll _ _ _ (fun p t => rfl)
    have e5 : s5.route.banks = s.route.banks :=
      e3.trans ((banks_forAll _ _ _ (fun p t => banks_dropStale p t)).trans (congrArg Route.banks (route_advanceTo _ _)))
    refine keeps_modBank_at _ _ ?_ k5
    have : (getBank s5 x0).state = 2 := by unfold getBank; rw [e5]; exact h2
    simp [this]

theorem keeps_routeWriteBody {a s : State} (x0 : Nat) (x1 : Request) (x2 : Nat)  (h : Keeps T a s) [May T .route] [May T .mem] : Keeps T a (routeWriteBody x0 x1 x2 s).2 := by
  unfold routeWriteBody
  repeat' first
    | assumption
    | (extract_lets +onlyGivenNames l; try clear_value l)
    | dsimp only
    | with_reducible apply keeps_routeWrite
    | split

end Sys2Proof.Laws
end

