-- ==== Sys2Proof/Laws/KeepsObjects.lean ====
section
/-! SUPPORT. What the updates of Machine/Objects.lean keep. -/

namespace Sys2Proof.Laws
open Sys2Proof Sys2Proof.Machine Sys2Proof.Safety
variable {T : StatePart → Bool}

theorem keeps_written {a s : State} (x0 : List Check)  (h : Keeps T a s) : KeepsW T a (written x0 s) := by
  unfold written
  repeat' first
    | assumption
    | with_reducible apply keepsW_ok
    | with_reducible apply keepsW_error
    | split

theorem keeps_written_eq {a s t : State} {x0 : List Check}  (e : written x0 s = .ok t) (h : Keeps T a s) : Keeps T a t := keeps_written x0 h t e

theorem keeps_writeClass {a s : State} (x0 : Nat) (x1 : Nat) (x2 : W64)  (h : Keeps T a s) [May T .pot] : KeepsW T a (writeClass x0 x1 x2 s) := by
  unfold writeClass
  repeat' first
    | assumption
    | (extract_lets +onlyGivenNames l)
    | with_reducible apply keeps_written
    | with_reducible apply keeps_modPot
    | (intro e; simp_all +zetaDelta [potOk]; done)

theorem keeps_writeClass_eq {a s t : State} {x0 : Nat} {x1 : Nat} {x2 : W64}  (e : writeClass x0 x1 x2 s = .ok t) (h : Keeps T a s) [May T .pot] : Keeps T a t := keeps_writeClass x0 x1 x2 h t e

theorem keeps_stopLoop {a s : State} (x0 : Nat)  (h : Keeps T a s) [May T .out] [May T .mbox] [May T .gci] [May T .host] [May T .links] : Keeps T a (stopLoop x0 s) := by
  unfold stopLoop
  repeat' first
    | assumption
    | (extract_lets +onlyGivenNames l; refine keeps_pass (T := T) (a := a) (x := l) ?_ ?_; all_goals first | (intro k; clear_value l) | subst l)
    | (extract_lets +onlyGivenNames l; try clear_value l)
    | with_reducible apply keeps_modLoop
    | with_reducible apply keeps_respond
    | split

theorem keeps_writeHazard {a s : State} (x0 : Nat) (x1 : List W64)  (h : Keeps T a s) [May T .hazard] : KeepsW T a (writeHazard x0 x1 s) := by
  unfold writeHazard
  repeat' first
    | assumption
    | (extract_lets +onlyGivenNames l)
    | with_reducible apply keeps_written
    | with_reducible apply keeps_modHazard
    | (intro e; simp_all +zetaDelta [hazardOk]; done)

theorem keeps_writeHazard_eq {a s t : State} {x0 : Nat} {x1 : List W64}  (e : writeHazard x0 x1 s = .ok t) (h : Keeps T a s) [May T .hazard] : Keeps T a t := keeps_writeHazard x0 x1 h t e

theorem keeps_writeTarget {a s : State} (x0 : Nat) (x1 : Nat) (x2 : List W64)  (h : Keeps T a s) [May T .targets] : KeepsW T a (writeTarget x0 x1 x2 s) := by
  unfold writeTarget
  repeat' first
    | assumption
    | exact Or.inr rfl
    | exact Or.inl May.ok
    | (extract_lets +onlyGivenNames l; try clear_value l)
    | with_reducible apply keeps_written
    | exact id
    | exact Nat.le_refl _
    | (intro e; simp_all +zetaDelta; done)
    | with_reducible apply keeps_mk

theorem keeps_writeTarget_eq {a s t : State} {x0 : Nat} {x1 : Nat} {x2 : List W64}  (e : writeTarget x0 x1 x2 s = .ok t) (h : Keeps T a s) [May T .targets] : Keeps T a t := keeps_writeTarget x0 x1 x2 h t e

theorem keeps_writePrio {a s : State} (x0 : W64)  (h : Keeps T a s) [May T .sq] : KeepsW T a (writePrio x0 s) := by
  unfold writePrio
  repeat' first
    | assumption
    | (extract_lets +onlyGivenNames l)
    | with_reducible apply keeps_modSq
    | with_reducible apply keepsW_ok
    | (intro e; simp_all +zetaDelta [sqOk]; done)

theorem keeps_writePrio_eq {a s t : State} {x0 : W64}  (e : writePrio x0 s = .ok t) (h : Keeps T a s) [May T .sq] : Keeps T a t := keeps_writePrio x0 h t e

theorem keeps_writeRoute {a s : State} (x0 : Nat) (x1 : W64)  (h : Keeps T a s) [May T .route] : KeepsW T a (writeRoute x0 x1 s) := by
  unfold writeRoute
  repeat' first
    | assumption
    | exact Or.inr rfl
    | exact Or.inl May.ok
    | (extract_lets +onlyGivenNames l)
    | with_reducible apply keeps_written
    | with_reducible apply keeps_modRoute
    | exact id

theorem keeps_writeRoute_eq {a s t : State} {x0 : Nat} {x1 : W64}  (e : writeRoute x0 x1 s = .ok t) (h : Keeps T a s) [May T .route] : Keeps T a t := keeps_writeRoute x0 x1 h t e

theorem keeps_writeKibitz {a s : State} (x0 : Nat) (x1 : Nat) (x2 : List W64)  (h : Keeps T a s) [May T .route] : KeepsW T a (writeKibitz x0 x1 x2 s) := by
  unfold writeKibitz
  repeat' first
    | assumption
    | (extract_lets +onlyGivenNames l)
    | with_reducible apply keeps_written
    | with_reducible apply keeps_modRoute
    | (intro e; simp_all +zetaDelta [routeOk]; done)

theorem keeps_writeKibitz_eq {a s t : State} {x0 : Nat} {x1 : Nat} {x2 : List W64}  (e : writeKibitz x0 x1 x2 s = .ok t) (h : Keeps T a s) [May T .route] : Keeps T a t := keeps_writeKibitz x0 x1 x2 h t e

theorem keeps_takeDown {a s : State} (x0 : Nat)  (h : Keeps T a s) [May T .out] [May T .time] [May T .mbox] [May T .gci] [May T .host] [May T .ports] [May T .links] [May T .route] [May T .pot] : Keeps T a (takeDown x0 s) := by
  unfold takeDown
  repeat' first
    | assumption
    | (extract_lets +onlyGivenNames l; try clear_value l)
    | with_reducible apply keeps_stopLoop
    | with_reducible apply keeps_leaveService
    | split

theorem keeps_writePort {a s : State} (x0 : Nat) (x1 : Nat) (x2 : W64)  (h : Keeps T a s) [May T .out] [May T .time] [May T .mbox] [May T .gci] [May T .host] [May T .ports] [May T .links] [May T .route] [May T .pot] : KeepsW T a (writePort x0 x1 x2 s) := by
  unfold writePort
  repeat' first
    | assumption
    | (intro (_ : Keeps _ _ _))
    | (extract_lets +onlyGivenNames l; try clear_value l)
    | with_reducible apply keeps_written
    | with_reducible apply keeps_forAll
    | with_reducible apply keeps_trainFromStart
    | with_reducible apply keeps_modPort
    | with_reducible apply keeps_takeDown
    | (intro _)

theorem keeps_writePort_eq {a s t : State} {x0 : Nat} {x1 : Nat} {x2 : W64}  (e : writePort x0 x1 x2 s = .ok t) (h : Keeps T a s) [May T .out] [May T .time] [May T .mbox] [May T .gci] [May T .host] [May T .ports] [May T .links] [May T .route] [May T .pot] : Keeps T a t := keeps_writePort x0 x1 x2 h t e

theorem keeps_writeTelemetry {a s : State} (x0 : Nat) (x1 : Nat) (x2 : List W64)  (h : Keeps T a s) [May T .telem] : KeepsW T a (writeTelemetry x0 x1 x2 s) := by
  unfold writeTelemetry
  repeat' first
    | assumption
    | (extract_lets +onlyGivenNames l)
    | with_reducible apply keeps_written
    | with_reducible apply keeps_modTelem
    | (intro e; simp_all +zetaDelta [telemOk]; done)

theorem keeps_writeTelemetry_eq {a s t : State} {x0 : Nat} {x1 : Nat} {x2 : List W64}  (e : writeTelemetry x0 x1 x2 s = .ok t) (h : Keeps T a s) [May T .telem] : Keeps T a t := keeps_writeTelemetry x0 x1 x2 h t e

theorem keeps_writeScrub {a s : State} (x0 : Nat) (x1 : W64)  (h : Keeps T a s) [May T .mem] : KeepsW T a (writeScrub x0 x1 s) := by
  unfold writeScrub
  repeat' first
    | assumption
    | exact Or.inr rfl
    | exact Or.inl May.ok
    | (extract_lets +onlyGivenNames l)
    | with_reducible apply keeps_written
    | with_reducible apply keeps_modMem
    | split
    | exact id
    | (intro e; simp_all +zetaDelta [memOk]; done)

theorem keeps_writeScrub_eq {a s t : State} {x0 : Nat} {x1 : W64}  (e : writeScrub x0 x1 s = .ok t) (h : Keeps T a s) [May T .mem] : Keeps T a t := keeps_writeScrub x0 x1 h t e

theorem keeps_writeInject {a s : State} (x0 : Nat) (x1 : W64)  (h : Keeps T a s) [May T .mem] : KeepsW T a (writeInject x0 x1 s) := by
  unfold writeInject
  repeat' first
    | assumption
    | exact Or.inr rfl
    | exact Or.inl May.ok
    | (extract_lets +onlyGivenNames l)
    | with_reducible apply keeps_written
    | with_reducible apply keeps_wroteWord
    | with_reducible apply keeps_modMem
    | exact id

theorem keeps_writeInject_eq {a s t : State} {x0 : Nat} {x1 : W64}  (e : writeInject x0 x1 s = .ok t) (h : Keeps T a s) [May T .mem] : Keeps T a t := keeps_writeInject x0 x1 h t e

theorem keeps_writeAlert {a s : State} (x0 : Nat) (x1 : W64)  (h : Keeps T a s) [May T .alert] : KeepsW T a (writeAlert x0 x1 s) := by
  unfold writeAlert
  repeat' first
    | assumption
    | (extract_lets +onlyGivenNames l)
    | with_reducible apply keeps_written
    | with_reducible apply keeps_modAlert
    | (intro e; simp_all +zetaDelta [alertOk]; done)

theorem keeps_writeAlert_eq {a s t : State} {x0 : Nat} {x1 : W64}  (e : writeAlert x0 x1 s = .ok t) (h : Keeps T a s) [May T .alert] : Keeps T a t := keeps_writeAlert x0 x1 h t e

theorem keepsW_ite {ε : Type} {a : State} {c : Prop} [Decidable c] {x y : Except ε State} (hx : KeepsW T a x) (hy : KeepsW T a y) :
    KeepsW T a (if c then x else y) := by split <;> assumption

theorem keeps_objWrite {a s : State} (x0 : Nat) (x1 : Nat) (x2 : Nat) (x3 : Nat) (x4 : List Byte)  (h : Keeps T a s) [May T .out] [May T .alert] [May T .time] [May T .mbox] [May T .gci] [May T .host] [May T .telem] [May T .ports] [May T .links] [May T .route] [May T .pot] [May T .sq] [May T .mem] [May T .hazard] [May T .targets] : KeepsW T a (objWrite x0 x1 x2 x3 x4 s) := by
  rw [objWrite.eq_1]
  refine keepsW_ite (keeps_writeHazard _ _ h) <|
    keepsW_ite (keeps_writeTarget _ _ _ h) <|
    keepsW_ite (keeps_writeClass _ _ _ h) <|
    keepsW_ite (keeps_writePrio _ h) <|
    keepsW_ite (keeps_writeRoute _ _ h) <|
    keepsW_ite (keeps_writeKibitz _ _ _ h) <|
    keepsW_ite (keeps_writePort _ _ _ h) <|
    keepsW_ite (keeps_writeTelemetry _ _ _ h) <|
    keepsW_ite (keeps_writeScrub _ _ h) <|
    keepsW_ite (keeps_writeInject _ _ h) <|
    keepsW_ite (keeps_writeAlert _ _ h) <| keepsW_error

theorem keeps_objWrite_eq {a s t : State} {x0 : Nat} {x1 : Nat} {x2 : Nat} {x3 : Nat} {x4 : List Byte}  (e : objWrite x0 x1 x2 x3 x4 s = .ok t) (h : Keeps T a s) [May T .out] [May T .alert] [May T .time] [May T .mbox] [May T .gci] [May T .host] [May T .telem] [May T .ports] [May T .links] [May T .route] [May T .pot] [May T .sq] [May T .mem] [May T .hazard] [May T .targets] : Keeps T a t := keeps_objWrite x0 x1 x2 x3 x4 h t e

theorem keeps_objWriteBody {a s : State} (x0 : Request) (x1 : Nat)  (h : Keeps T a s) [May T .out] [May T .alert] [May T .time] [May T .mbox] [May T .gci] [May T .host] [May T .telem] [May T .ports] [May T .links] [May T .route] [May T .pot] [May T .sq] [May T .mem] [May T .hazard] [May T .targets] : Keeps T a (objWriteBody x0 x1 s).2 := by
  unfold objWriteBody
  repeat' first
    | assumption
    | (extract_lets +onlyGivenNames l; try clear_value l)
    | (refine keeps_objWrite_eq (by assumption) ?_)
    | split

theorem keeps_writeRun {a s : State} (x0 : Nat) (x1 : List Byte → Bool)  (h : Keeps T a s) [May T .out] [May T .alert] [May T .time] [May T .mbox] [May T .gci] [May T .host] [May T .telem] [May T .ports] [May T .links] [May T .route] [May T .pot] [May T .sq] [May T .mem] [May T .hazard] [May T .targets] : Keeps T a (writeRun x0 x1 s) := by
  unfold writeRun
  repeat' first
    | assumption
    | (intro (_ : Keeps _ _ _))
    | (extract_lets +onlyGivenNames l; try clear_value l)
    | with_reducible apply keeps_runCmd
    | with_reducible apply keeps_objWriteBody
    | (intro _)

theorem keeps_objReadBody {a s : State} (x0 : Request) (x1 : Nat)  (h : Keeps T a s) : Keeps T a (objReadBody x0 x1 s).2 := by
  unfold objReadBody
  repeat' first
    | assumption
    | (extract_lets +onlyGivenNames l; try clear_value l)
    | split

theorem keeps_sheetReadBody {a s : State} (x0 : WordRead) (x1 : Request) (x2 : Nat)  (h : Keeps T a s) [May T .free] [May T .alert] [May T .mem] [May T .sheet] [May T .hazard] : Keeps T a (sheetReadBody x0 x1 x2 s).2 := by
  unfold sheetReadBody
  repeat' first
    | assumption
    | (extract_lets +onlyGivenNames l; refine keeps_pass (T := T) (a := a) (x := l) ?_ ?_; all_goals first | (intro k; clear_value l) | subst l)
    | (extract_lets +onlyGivenNames l; try clear_value l)
    | with_reducible apply keeps_objReadBody
    | with_reducible apply keeps_modSheet
    | with_reducible apply keeps_readWord
    | split

end Sys2Proof.Laws
end

