-- ==== Sys2Proof/Laws/KeepsHostPorts.lean ====
section
/-! SUPPORT. What the updates of Machine/HostPorts.lean keep. -/

namespace Sys2Proof.Laws
open Sys2Proof Sys2Proof.Machine Sys2Proof.Safety
variable {T : StatePart → Bool}

theorem keeps_telemLast {a s : State} (x : Option Nat) (h : Keeps T a s) [May T .telem] : Keeps T a (modTelem (fun t => { t with last := x }) s) :=
  keeps_modTelem _ id h

theorem keeps_telemSeq {a s : State} (h : Keeps T a s) [May T .telem] : Keeps T a (modTelem (fun t => { t with seq := t.seq + 1 }) s) :=
  keeps_modTelem _ id h

theorem keeps_telemSend {a s : State} (h : Keeps T a s)
    (hs : ∀ (p : Nat) (d : List (List Byte)) (t : State), Keeps T a t → Keeps T a (modTelem (fun t => { t with seq := t.seq + 1 })
      (sendUdp p (normIp ((telW s 2).toNat + 2 ^ 64 * (telW s 3).toNat)) (fld (telW t 0) 63 48) 47712 (telemDatagram t d) t))) :
    Keeps T a (match telemPort s with
    | none => s
    | some p =>
      let rs := ((List.range (fld (telW s 0) 45 41)).map fun k => entryRecords s (telW s (4 + k))).flatMap id
      let ip := normIp ((telW s 2).toNat + 2 ^ 64 * (telW s 3).toNat)
      forAll (fillDatagrams rs [] 32) (fun d s =>
        modTelem (fun t => { t with seq := t.seq + 1 }) (sendUdp p ip (fld (telW s 0) 63 48) 47712 (telemDatagram s d) s)) s) := by
  split
  · exact h
  · exact keeps_forAll _ _ (hs _) h

theorem keeps_selectMaster {a s : State}   (h : Keeps T a s) [May T .time] : Keeps T a (selectMaster s) := by
  unfold selectMaster
  repeat' first
    | assumption
    | (extract_lets +onlyGivenNames l; try clear_value l)
    | with_reducible apply keeps_modTime

theorem keeps_ptpSync {a s : State} (x0 : Int)  (h : Keeps T a s) [May T .free] [May T .time] : Keeps T a (ptpSync x0 s) := by
  unfold ptpSync
  repeat' first
    | assumption
    | (extract_lets +onlyGivenNames l; try clear_value l)
    | with_reducible apply keeps_modTime
    | with_reducible apply keeps_freeNext
    | split

theorem keeps_ptpIn {a s : State} (x0 : Nat) (x1 : Nat) (x2 : PtpMessage)  (h : Keeps T a s) [May T .free] [May T .time] [May T .host] : Keeps T a (ptpIn x0 x1 x2 s) := by
  unfold ptpIn
  repeat' first
    | assumption
    | (extract_lets +onlyGivenNames l; refine keeps_pass (T := T) (a := a) (x := l) ?_ ?_; all_goals first | (intro k; clear_value l) | subst l)
    | (extract_lets +onlyGivenNames l; try clear_value l)
    | with_reducible apply keeps_turnAway
    | with_reducible apply keeps_frameIn
    | with_reducible apply keeps_dropFrame
    | with_reducible apply keeps_selectMaster
    | with_reducible apply keeps_modTime
    | with_reducible apply keeps_ptpSync
    | split

theorem keeps_frameFor {a s : State} (x0 : Nat) (x1 : Nat) (x2 : HostCfg → Bool) (x3 : HostCfg → Emission)  (h : Keeps T a s) [May T .out] [May T .host] : Keeps T a (frameFor x0 x1 x2 x3 s) := by
  unfold frameFor
  repeat' first
    | assumption
    | (extract_lets +onlyGivenNames l; refine keeps_pass (T := T) (a := a) (x := l) ?_ ?_; all_goals first | (intro k; clear_value l) | subst l)
    | (extract_lets +onlyGivenNames l; try clear_value l)
    | with_reducible apply keeps_frameIn
    | with_reducible apply keeps_sendOn
    | with_reducible apply keeps_dropFrame
    | split

theorem keeps_hopKnown {a s : State} (x0 : Nat) (x1 : Nat) (x2 : Nat)  (h : Keeps T a s) [May T .out] [May T .host] [May T .store] : Keeps T a (hopKnown x0 x1 x2 s) := by
  unfold hopKnown
  repeat' first
    | assumption
    | (intro (_ : Keeps _ _ _))
    | (extract_lets +onlyGivenNames l; refine keeps_pass (T := T) (a := a) (x := l) ?_ ?_; all_goals first | (intro k; clear_value l) | subst l)
    | (extract_lets +onlyGivenNames l; try clear_value l)
    | with_reducible apply keeps_turnAway
    | with_reducible apply keeps_modHost
    | with_reducible apply keeps_forAll
    | with_reducible apply keeps_modOp
    | with_reducible apply keeps_sendOn
    | split
    | (intro _)

theorem keeps_portUp {a s : State} (x0 : Nat)  (h : Keeps T a s) [May T .out] [May T .host] [May T .store] : Keeps T a (portUp x0 s) := by
  unfold portUp
  repeat' first
    | assumption
    | (extract_lets +onlyGivenNames l; try clear_value l)
    | with_reducible apply keeps_pump
    | with_reducible apply keeps_modHost
    | split

theorem keeps_macControl {a s : State} (x0 : Nat)  (h : Keeps T a s) [May T .host] : Keeps T a (macControl x0 s) := by
  unfold macControl
  repeat' first
    | assumption
    | with_reducible apply keeps_modHost
    | split

theorem keeps_frameBad {a s : State} (x0 : Nat) (x1 : DropReason)  (h : Keeps T a s) [May T .host] : Keeps T a (frameBad x0 x1 s) := by
  unfold frameBad
  repeat' first
    | assumption
    | (extract_lets +onlyGivenNames l; try clear_value l)
    | with_reducible apply keeps_modHost
    | with_reducible apply keeps_dropFrame
    | with_reducible apply keeps_frameIn
    | split

theorem keeps_portDown {a s : State} (x0 : Nat)  (h : Keeps T a s) [May T .out] [May T .time] [May T .host] [May T .store] : Keeps T a (portDown x0 s) := by
  unfold portDown
  repeat' first
    | assumption
    | (extract_lets +onlyGivenNames l; refine keeps_pass (T := T) (a := a) (x := l) ?_ ?_; all_goals first | (intro k; clear_value l) | subst l)
    | (extract_lets +onlyGivenNames l; try clear_value l)
    | with_reducible apply keeps_modHost
    | with_reducible apply keeps_modTime
    | with_reducible apply keeps_replaceOps
    | with_reducible apply keeps_selectMaster
    | split

theorem keeps_telemetry {a s : State}   (h : Keeps T a s) [May T .out] [May T .power] [May T .wd] [May T .time] [May T .host] [May T .telem] [May T .ports] [May T .pawn] [May T .tables] : Keeps T a (telemetry s) := by
  rw [telemetry.eq_1]
  generalize hc : (!cpRuns s || !bitAt (telW s 0) 47) = c
  cases c
  · rw [if_neg (by simp)]
    exact keeps_telemSend (keeps_telemLast _ (keeps_advanceTo _ h)) (fun p d t k => keeps_telemSeq (keeps_sendUdp _ _ _ _ _ k))
  · exact h

end Sys2Proof.Laws
end

