-- ==== Sys2Proof/Laws/KeepsSwitch.lean ====
section
/-! SUPPORT. What the updates of Machine/Switch.lean keep. -/

namespace Sys2Proof.Laws
open Sys2Proof Sys2Proof.Machine Sys2Proof.Safety
variable {T : StatePart → Bool}

theorem keeps_ladder {a s : State} (f : Ladder → Ladder) (hf : Inv a → ladderOk (f s.ladder)) (h : Keeps T a s) [May T .ladder] :
    Keeps T a (modLadder f s) :=
  ⟨h.pending, h.out, h.free, h.flash,
    fun p q => StatePart.same_trans (h.same_ p q) (by cases p <;> first | exact May.no q | exact rfl), fun i => { h.inv i with ladder := hf i }⟩

theorem sqRotate_length (n : Nat) (xs : List Square) : (sqRotate n xs).length = xs.length := by
  simp [sqRotate]

theorem keeps_squares {a s : State} (m : Nat) (f : Squares → List Square) (hf : ∀ q, (f q).length = 64) (n : Nat) (h : Keeps T a s) [May T .sq] :
    Keeps T a (modSq (fun q => { q with slot := m, squares := sqRotate n (f q) }) s) := by
  refine keeps_modSq _ (fun e => ?_) h
  unfold sqOk at e ⊢
  exact ⟨e.1, (sqRotate_length _ _).trans (hf _)⟩

theorem keeps_ctxFilter {a t : State} (p : Reorder → Bool) (k : Keeps T a t) [May T .route] :
    Keeps T a (modRoute (fun r => { r with contexts := r.contexts.filter p }) t) := keeps_modRoute _ id k


theorem keeps_unhold {a s : State} (x0 : Nat)  (h : Keeps T a s) [May T .pot] : Keeps T a (unhold x0 s) := by
  unfold unhold
  repeat' first
    | assumption
    | exact Or.inr rfl
    | exact Or.inl May.ok
    | (extract_lets +onlyGivenNames l)
    | with_reducible apply keeps_modPot
    | exact id

theorem keeps_flushHeld {a s : State} (x0 : Nat) (x1 : Reorder)  (h : Keeps T a s) [May T .pot] : Keeps T a (flushHeld x0 x1 s).2 := by
  induction x0 generalizing s x1 with
  | zero => (first | exact h | (unfold flushHeld; exact h))
  | succ n ih =>
    unfold flushHeld
    repeat' first
      | assumption
      | with_reducible apply ih
      | (extract_lets +onlyGivenNames l; try clear_value l)
      | with_reducible apply keeps_unhold
      | split

theorem keeps_flushHeld_eq {a s t : State} {x0 : Nat} {x1 : Reorder}  {r} (e : flushHeld x0 x1 s = (r, t)) (h : Keeps T a s) [May T .pot] : Keeps T a t := by
  have k := keeps_flushHeld x0 x1 h
  rw [e] at k; exact k

theorem keeps_skipTo {a s : State} (x0 : Reorder)  (h : Keeps T a s) [May T .route] [May T .pot] : Keeps T a (skipTo x0 s).2 := by
  unfold skipTo
  repeat' first
    | assumption
    | (extract_lets +onlyGivenNames l; try clear_value l)
    | with_reducible apply keeps_flushHeld
    | with_reducible apply keeps_modCnt
    | split

theorem keeps_skipTo_eq {a s t : State} {x0 : Reorder}  {r} (e : skipTo x0 s = (r, t)) (h : Keeps T a s) [May T .route] [May T .pot] : Keeps T a t := by
  have k := keeps_skipTo x0 h
  rw [e] at k; exact k

theorem keeps_replicate {a s : State} (x0 : QPkt)  (h : Keeps T a s) [May T .links] [May T .route] [May T .pot] : Keeps T a (replicate x0 s) := by
  unfold replicate
  repeat' first
    | assumption
    | (intro (_ : Keeps _ _ _))
    | (extract_lets +onlyGivenNames l; try clear_value l)
    | with_reducible apply keeps_forAll
    | with_reducible apply keeps_legDone
    | with_reducible apply keeps_fenceDrop
    | (intro _)

theorem keeps_failLeg {a s : State} (x0 : Nat) (x1 : PLeg)  (h : Keeps T a s) [May T .ports] [May T .links] [May T .pot] : Keeps T a (failLeg x0 x1 s) := by
  unfold failLeg
  repeat' first
    | assumption
    | (extract_lets +onlyGivenNames l; try clear_value l)
    | with_reducible apply keeps_cutLeg
    | with_reducible apply keeps_egressDrop
    | split

theorem keeps_kibitzCopy {a s : State} (x0 : Bool) (x1 : Nat) (x2 : Nat) (x3 : Nat) (x4 : Nat) (x5 : List Byte) (x6 : Nat)  (h : Keeps T a s) [May T .route] [May T .pot] : Keeps T a (kibitzCopy x0 x1 x2 x3 x4 x5 x6 s) := by
  unfold kibitzCopy
  repeat' first
    | assumption
    | (extract_lets +onlyGivenNames l; try clear_value l)
    | with_reducible apply keeps_fenceDrop
    | (refine keeps_unicastLeg_eq (by assumption) ?_)
    | with_reducible apply keeps_modKibitz
    | with_reducible apply keeps_modPkt
    | with_reducible apply keeps_store
    | split

theorem keeps_loseRecord {a s : State} (x0 : Packet)  (h : Keeps T a s) [May T .doubles] : Keeps T a (loseRecord x0 s) := by
  unfold loseRecord
  repeat' first
    | assumption
    | exact Or.inr rfl
    | exact Or.inl May.ok
    | (extract_lets +onlyGivenNames l; try clear_value l)
    | split
    | with_reducible refine keeps_mk ?_ (Nat.le_refl _) id id id id id id id id id id id id id id id id id id id id id ?_ ?_ ?_ ?_ ?_ ?_ ?_ ?_ ?_ ?_ ?_ ?_ ?_ ?_ ?_ ?_ ?_ ?_ ?_ ?_ ?_ ?_ ?_ ?_ ?_ ?_ ?_ ?_ ?_ ?_ ?_ ?_ ?_ ?_ ?_ ?_ ?_ ?_ ?_

theorem keeps_selfIn {a s : State} (x0 : Nat) (x1 : Nat) (x2 : Nat) (x3 : Packet) (x4 : List Nat)  (h : Keeps T a s) [May T .links] [May T .route] [May T .pot] [May T .inbox] [May T .pawn] [May T .doubles] : Keeps T a (selfIn x0 x1 x2 x3 x4 s) := by
  unfold selfIn
  repeat' first
    | assumption
    | exact Or.inr rfl
    | exact Or.inl May.ok
    | (intro (_ : Keeps _ _ _))
    | (extract_lets +onlyGivenNames l; refine keeps_pass (T := T) (a := a) (x := l) ?_ ?_; all_goals first | (intro k; clear_value l) | subst l)
    | (extract_lets +onlyGivenNames l)
    | with_reducible apply keeps_forAll
    | with_reducible apply keeps_kibitzCopy
    | with_reducible apply keeps_freeCredits
    | with_reducible apply keeps_loseRecord
    | with_reducible apply keeps_modPawn
    | split
    | exact id
    | (intro _)
    | with_reducible refine keeps_mk ?_ (Nat.le_refl _) id id id id id id id id id id id id id id id id id id id id id ?_ ?_ ?_ ?_ ?_ ?_ ?_ ?_ ?_ ?_ ?_ ?_ ?_ ?_ ?_ ?_ ?_ ?_ ?_ ?_ ?_ ?_ ?_ ?_ ?_ ?_ ?_ ?_ ?_ ?_ ?_ ?_ ?_ ?_ ?_ ?_ ?_ ?_ ?_

theorem keeps_enqueued {a s : State} (x0 : Nat)  (h : Keeps T a s) [May T .route] [May T .pot] : Keeps T a (enqueued x0 s) := by
  unfold enqueued
  repeat' first
    | assumption
    | (intro (_ : Keeps _ _ _))
    | (extract_lets +onlyGivenNames l; refine keeps_pass (T := T) (a := a) (x := l) ?_ ?_; all_goals first | (intro k; clear_value l) | subst l)
    | (extract_lets +onlyGivenNames l; try clear_value l)
    | with_reducible apply keeps_modPkt
    | with_reducible apply keeps_forAll
    | with_reducible apply keeps_kibitzCopy
    | split
    | (intro _)

theorem keeps_copySent {a s : State} (x0 : QPkt) (x1 : Nat)  (h : Keeps T a s) [May T .route] [May T .pot] : Keeps T a (copySent x0 x1 s) := by
  unfold copySent
  repeat' first
    | assumption
    | (intro (_ : Keeps _ _ _))
    | (extract_lets +onlyGivenNames l; try clear_value l)
    | with_reducible apply keeps_kibitzSelect
    | with_reducible apply keeps_forAll
    | with_reducible apply keeps_kibitzCopy
    | (intro _)

theorem keeps_dropIn {a s : State} (x0 : Nat) (x1 : Nat) (x2 : Packet)  (h : Keeps T a s) [May T .links] : Keeps T a (dropIn x0 x1 x2 s) := by
  unfold dropIn
  repeat' first
    | assumption
    | with_reducible apply keeps_freeCredits

theorem keeps_storeOrder {a s : State} (x0 : Nat) (x1 : Nat) (x2 : Packet) (x3 : Nat) (x4 : List Nat) (x5 : Bool)  (h : Keeps T a s) [May T .links] [May T .route] [May T .pot] [May T .pawn] : Keeps T a (storeOrder x0 x1 x2 x3 x4 x5 s).2 := by
  unfold storeOrder
  repeat' first
    | assumption
    | (extract_lets +onlyGivenNames l; try clear_value l)
    | dsimp only
    | (refine keeps_unicastLeg_eq (by assumption) ?_)
    | with_reducible apply keeps_dropIn
    | with_reducible apply keeps_modPkt
    | with_reducible apply keeps_store
    | with_reducible apply keeps_countForward
    | split

theorem keeps_storeOrder_eq {a s t : State} {x0 : Nat} {x1 : Nat} {x2 : Packet} {x3 : Nat} {x4 : List Nat} {x5 : Bool}  {r} (e : storeOrder x0 x1 x2 x3 x4 x5 s = (r, t)) (h : Keeps T a s) [May T .links] [May T .route] [May T .pot] [May T .pawn] : Keeps T a t := by
  have k := keeps_storeOrder x0 x1 x2 x3 x4 x5 h
  rw [e] at k; exact k

theorem keeps_orderStep {a s : State} (x0 : Nat) (x1 : Nat) (x2 : Packet) (x3 : Nat) (x4 : List Nat) (x5 : Reorder)  (h : Keeps T a s) [May T .links] [May T .route] [May T .pot] [May T .pawn] : Keeps T a (orderStep x0 x1 x2 x3 x4 x5 s).2 := by
  unfold orderStep
  repeat' first
    | assumption
    | (extract_lets +onlyGivenNames l; try clear_value l)
    | dsimp only
    | with_reducible apply keeps_storeOrder
    | (refine keeps_storeOrder_eq (by assumption) ?_)
    | with_reducible apply keeps_flushHeld
    | with_reducible apply keeps_dropIn
    | with_reducible apply keeps_modCnt
    | with_reducible apply keeps_skipTo
    | split

theorem keeps_orderStep_eq {a s t : State} {x0 : Nat} {x1 : Nat} {x2 : Packet} {x3 : Nat} {x4 : List Nat} {x5 : Reorder}  {r} (e : orderStep x0 x1 x2 x3 x4 x5 s = (r, t)) (h : Keeps T a s) [May T .links] [May T .route] [May T .pot] [May T .pawn] : Keeps T a t := by
  have k := keeps_orderStep x0 x1 x2 x3 x4 x5 h
  rw [e] at k; exact k

theorem keeps_pipCross {a s : State} (x0 : PipPkt) (x1 : Nat) (x2 : Nat)  (h : Keeps T a s) [May T .ports] [May T .links] [May T .route] : Keeps T a (pipCross x0 x1 x2 s) := by
  unfold pipCross
  repeat' first
    | assumption
    | with_reducible apply keeps_pushFlits
    | with_reducible apply keeps_dropLinkDown
    | split

theorem keeps_putCtx {a s : State} (x0 : Reorder)  (h : Keeps T a s) [May T .route] : Keeps T a (putCtx x0 s) := by
  unfold putCtx
  repeat' first
    | assumption
    | exact Or.inr rfl
    | exact Or.inl May.ok
    | (extract_lets +onlyGivenNames l)
    | with_reducible apply keeps_modRoute
    | exact id

theorem keeps_reorderFree {a s : State} (x0 : Nat) (x1 : Nat) (x2 : Nat)  (h : Keeps T a s) [May T .power] [May T .wd] [May T .time] [May T .ports] [May T .route] [May T .pawn] [May T .tables] : Keeps T a (reorderFree x0 x1 x2 s) := by
  unfold reorderFree
  split
  · exact h
  · split
    · exact h
    · split
      · exact h
      · exact keeps_ctxFilter _ (keeps_advanceTo _ h)


theorem keeps_multicastIn {a s : State} (x0 : Nat) (x1 : Nat) (x2 : Nat) (x3 : Packet) (x4 : List Nat)  (h : Keeps T a s) [May T .links] [May T .route] [May T .pot] [May T .pawn] : Keeps T a (multicastIn x0 x1 x2 x3 x4 s) := by
  unfold multicastIn
  repeat' first
    | assumption
    | (extract_lets +onlyGivenNames l; try clear_value l)
    | with_reducible apply keeps_freeCredits
    | with_reducible apply keeps_modCnt
    | with_reducible apply keeps_store
    | with_reducible apply keeps_countForward
    | split

theorem keeps_unicastIn {a s : State} (x0 : Nat) (x1 : Nat) (x2 : Nat) (x3 : Packet) (x4 : List Nat)  (h : Keeps T a s) [May T .links] [May T .route] [May T .pot] [May T .inbox] [May T .pawn] [May T .doubles] : Keeps T a (unicastIn x0 x1 x2 x3 x4 s) := by
  unfold unicastIn
  repeat' first
    | assumption
    | exact Or.inr rfl
    | exact Or.inl May.ok
    | (extract_lets +onlyGivenNames l; try clear_value l)
    | with_reducible apply keeps_selfIn
    | with_reducible apply keeps_freeCredits
    | with_reducible apply keeps_fenceDrop
    | (refine keeps_unicastLeg_eq (by assumption) ?_)
    | with_reducible apply keeps_store
    | with_reducible apply keeps_countForward
    | split
    | with_reducible refine keeps_mk ?_ (Nat.le_refl _) id id id id id id id id id id id id id id id id id id id id id ?_ ?_ ?_ ?_ ?_ ?_ ?_ ?_ ?_ ?_ ?_ ?_ ?_ ?_ ?_ ?_ ?_ ?_ ?_ ?_ ?_ ?_ ?_ ?_ ?_ ?_ ?_ ?_ ?_ ?_ ?_ ?_ ?_ ?_ ?_ ?_ ?_ ?_ ?_

theorem keeps_lookupHeader {a s : State} (x0 : Nat) (x1 : Nat) (x2 : Nat) (x3 : Packet) (x4 : WordRead)  (h : Keeps T a s) [May T .free] [May T .alert] [May T .ports] [May T .links] [May T .route] [May T .pot] [May T .inbox] [May T .pawn] [May T .mem] [May T .hazard] [May T .doubles] : Keeps T a (lookupHeader x0 x1 x2 x3 x4 s) := by
  unfold lookupHeader
  repeat' first
    | assumption
    | (extract_lets +onlyGivenNames l; refine keeps_pass (T := T) (a := a) (x := l) ?_ ?_; all_goals first | (intro k; clear_value l) | subst l)
    | (extract_lets +onlyGivenNames l; try clear_value l)
    | with_reducible apply keeps_modPort
    | with_reducible apply keeps_freeCredits
    | with_reducible apply keeps_protoError
    | (refine keeps_kibitzSelect_eq (by assumption) ?_)
    | with_reducible apply keeps_modCnt
    | with_reducible apply keeps_readWord
    | with_reducible apply keeps_multicastIn
    | with_reducible apply keeps_unicastIn
    | split

theorem keeps_lookupEarly {a s : State} (x0 : Nat) (x1 : Nat) (x2 : Packet) (x3 : WordRead) (x4 : PartPkt)  (h : Keeps T a s) [May T .free] [May T .alert] [May T .ports] [May T .links] [May T .route] [May T .pot] [May T .inbox] [May T .pawn] [May T .mem] [May T .hazard] [May T .doubles] : Keeps T a (lookupEarly x0 x1 x2 x3 x4 s) := by
  unfold lookupEarly
  repeat' first
    | assumption
    | (extract_lets +onlyGivenNames l; refine keeps_pass (T := T) (a := a) (x := l) ?_ ?_; all_goals first | (intro k; clear_value l) | subst l)
    | (extract_lets +onlyGivenNames l; try clear_value l)
    | with_reducible apply keeps_lookupHeader
    | with_reducible apply keeps_setPart
    | with_reducible apply keeps_modPkt
    | split

theorem keeps_headerLookup {a s : State} (x0 : Nat) (x1 : Packet) (x2 : WordRead)  (h : Keeps T a s) [May T .free] [May T .alert] [May T .ports] [May T .links] [May T .route] [May T .pot] [May T .inbox] [May T .pawn] [May T .mem] [May T .hazard] [May T .doubles] : Keeps T a (headerLookup x0 x1 x2 s) := by
  unfold headerLookup
  repeat' first
    | assumption
    | (extract_lets +onlyGivenNames l; try clear_value l)
    | with_reducible apply keeps_lookupHeader
    | with_reducible apply keeps_takeArrived
    | with_reducible apply keeps_lookupEarly
    | split

theorem keeps_squareSlot {a s : State} (x0 : List SqReq) (x1 : List (Nat × Nat))  (h : Keeps T a s) [May T .pot] [May T .sq] : Keeps T a (squareSlot x0 x1 s) := by
  unfold squareSlot
  split
  · exact h
  · extract_lets n lapsed s1
    clear_value lapsed
    have k1 : Keeps T a s1 := keeps_modPot _ (fun e => e) h
    clear_value s1
    exact keeps_squares _ (fun q => (List.range 64).map fun i => sqSlot n i x0 x1 (q.squares.getD i {})) (by simp) n k1

theorem keeps_ladderStep {a s : State}   (h : Keeps T a s) [May T .ports] [May T .links] [May T .route] [May T .ladder] [May T .pawn] : Keeps T a (ladderStep s) := by
  unfold ladderStep
  split
  · exact h
  · extract_lets qs acc won left sent s1 s2
    have k1 : Keeps T a s1 := keeps_forAll _ _ (fun g t k => keeps_forAll _ _ (fun l u j => keeps_pipCross _ _ _ j) k) h
    have k2 : Keeps T a s2 := keeps_forAll _ _ (fun _ t k => keeps_countForward k) k1
    refine keeps_ladder _ (fun i => ⟨?_, by simp⟩) k2
    simpa [left, qs] using (h.inv i).ladder.1

theorem keeps_releaseAll {a s : State} (x0 : Nat) (x1 : Reorder)  (h : Keeps T a s) [May T .pot] : Keeps T a (releaseAll x0 x1 s).2 := by
  induction x0 generalizing s x1 with
  | zero => (first | exact h | (unfold releaseAll; exact h))
  | succ n ih =>
    unfold releaseAll
    repeat' first
      | assumption
      | with_reducible apply ih
      | (extract_lets +onlyGivenNames l; try clear_value l)
      | with_reducible apply keeps_unhold
      | split

theorem keeps_releaseAll_eq {a s t : State} {x0 : Nat} {x1 : Reorder}  {r} (e : releaseAll x0 x1 s = (r, t)) (h : Keeps T a s) [May T .pot] : Keeps T a t := by
  have k := keeps_releaseAll x0 x1 h
  rw [e] at k; exact k

theorem keeps_orderIn {a s : State} (x0 : Nat) (x1 : Packet)  (h : Keeps T a s) [May T .links] [May T .route] [May T .pot] [May T .inbox] [May T .pawn] : Keeps T a (orderIn x0 x1 s) := by
  unfold orderIn
  repeat' first
    | assumption
    | (extract_lets +onlyGivenNames l; refine keeps_pass (T := T) (a := a) (x := l) ?_ ?_; all_goals first | (intro k; clear_value l) | subst l)
    | (extract_lets +onlyGivenNames l; try clear_value l)
    | with_reducible apply keeps_takeArrived
    | with_reducible apply keeps_dropIn
    | with_reducible apply keeps_fenceDrop
    | with_reducible apply keeps_releaseAll
    | with_reducible apply keeps_orderStep
    | with_reducible apply keeps_putCtx
    | with_reducible apply keeps_storeOrder
    | with_reducible apply keeps_modCnt
    | split

theorem keeps_reorderTimeout {a s : State} (x0 : Nat) (x1 : Nat) (x2 : Nat)  (h : Keeps T a s) [May T .power] [May T .wd] [May T .time] [May T .ports] [May T .route] [May T .pot] [May T .pawn] [May T .tables] : Keeps T a (reorderTimeout x0 x1 x2 s) := by
  unfold reorderTimeout
  repeat' first
    | assumption
    | (extract_lets +onlyGivenNames l; refine keeps_pass (T := T) (a := a) (x := l) ?_ ?_; all_goals first | (intro k; clear_value l) | subst l)
    | (extract_lets +onlyGivenNames l; try clear_value l)
    | with_reducible apply keeps_advanceTo
    | with_reducible apply keeps_skipTo
    | with_reducible apply keeps_putCtx
    | split

theorem keeps_cellAdmit {a s : State} (x0 : Nat)  (h : Keeps T a s) [May T .links] [May T .route] [May T .pot] [May T .mem] : Keeps T a (cellAdmit x0 s) := by
  unfold cellAdmit
  repeat' first
    | assumption
    | exact Or.inr rfl
    | exact Or.inl May.ok
    | (extract_lets +onlyGivenNames l; refine keeps_pass (T := T) (a := a) (x := l) ?_ ?_; all_goals first | (intro k; clear_value l) | subst l)
    | (extract_lets +onlyGivenNames l)
    | with_reducible apply keeps_modPot
    | with_reducible apply keeps_modPkt
    | with_reducible apply keeps_whenDo
    | with_reducible apply keeps_wroteWord
    | with_reducible apply keeps_replicate
    | with_reducible apply keeps_freeCredits
    | with_reducible apply keeps_enqueued
    | split
    | exact id

theorem keeps_pipOverflow {a s : State} (x0 : Nat)  (h : Keeps T a s) [May T .ports] [May T .route] [May T .pot] [May T .ladder] [May T .pawn] : Keeps T a (pipOverflow x0 s) := by
  unfold pipOverflow
  repeat' first
    | assumption
    | (intro (_ : Keeps _ _ _))
    | (extract_lets +onlyGivenNames l; try clear_value l)
    | with_reducible apply keeps_forAll
    | with_reducible apply keeps_pipOver
    | split
    | (intro _)

theorem keeps_failPacket {a s : State} (x0 : Nat)  (h : Keeps T a s) [May T .free] [May T .ports] [May T .links] [May T .route] [May T .pot] [May T .ladder] [May T .pawn] [May T .mem] [May T .sheet] [May T .hazard] [May T .tables] [May T .feed] [May T .mu] [May T .norm] [May T .pipes] [May T .dma] : Keeps T a (failPacket x0 s) := by
  unfold failPacket
  repeat' first
    | assumption
    | (intro (_ : Keeps _ _ _))
    | (extract_lets +onlyGivenNames l; refine keeps_pass (T := T) (a := a) (x := l) ?_ ?_; all_goals first | (intro k; clear_value l) | subst l)
    | (extract_lets +onlyGivenNames l; try clear_value l)
    | with_reducible apply keeps_forAll
    | with_reducible apply keeps_failLeg
    | with_reducible apply keeps_cutLegs
    | with_reducible apply keeps_failRound
    | with_reducible apply keeps_modRound
    | split
    | (intro _)

theorem keeps_egressStart {a s : State} (x0 : Nat) (x1 : WordRead)  (h : Keeps T a s) [May T .free] [May T .alert] [May T .ports] [May T .links] [May T .route] [May T .pot] [May T .ladder] [May T .pawn] [May T .mem] [May T .sheet] [May T .hazard] [May T .tables] [May T .feed] [May T .mu] [May T .norm] [May T .pipes] [May T .dma] : Keeps T a (egressStart x0 x1 s) := by
  unfold egressStart
  repeat' first
    | assumption
    | (extract_lets +onlyGivenNames l; refine keeps_pass (T := T) (a := a) (x := l) ?_ ?_; all_goals first | (intro k; clear_value l) | subst l)
    | (extract_lets +onlyGivenNames l)
    | with_reducible apply keeps_modPot
    | with_reducible apply keeps_readWord
    | with_reducible apply keeps_failPacket
    | with_reducible apply keeps_rechoose
    | with_reducible apply keeps_copySent
    | with_reducible apply keeps_startLeg
    | split
    | (intro e; simp_all +zetaDelta [potOk]; done)

end Sys2Proof.Laws
end

