-- ==== Sys2Proof/Laws/KeepsUpkeep.lean ====
section
/-! SUPPORT. What the updates of Machine/Upkeep.lean keep. -/

namespace Sys2Proof.Laws
open Sys2Proof Sys2Proof.Machine Sys2Proof.Safety
variable {T : StatePart → Bool}

theorem keeps_scrubOn {a s : State} (x0 : Nat)  (h : Keeps T a s) [May T .mem] : Keeps T a (scrubOn x0 s) := by
  unfold scrubOn
  repeat' first
    | assumption
    | with_reducible apply keeps_modTier

theorem keeps_failStaged {a s : State} (x0 : Bool) (x1 : Nat) (x2 : Nat) (x3 : Nat)  (h : Keeps T a s) [May T .free] [May T .ports] [May T .links] [May T .route] [May T .pot] [May T .ladder] [May T .pawn] [May T .mem] [May T .sheet] [May T .hazard] [May T .tables] [May T .feed] [May T .mu] [May T .norm] [May T .pipes] [May T .dma] : Keeps T a (failStaged x0 x1 x2 x3 s) := by
  unfold failStaged
  repeat' first
    | assumption
    | with_reducible apply keeps_failPacket
    | with_reducible apply keeps_failRound
    | split

theorem keeps_zeroResid {a s : State} (x0 : Nat) (x1 : Nat) (x2 : Nat)  (h : Keeps T a s) [May T .tables] : Keeps T a (zeroResid x0 x1 x2 s) := by
  unfold zeroResid
  repeat' first
    | assumption
    | with_reducible apply keeps_modTable

theorem keeps_failCkpt {a s : State} (x0 : Nat)  (h : Keeps T a s) [May T .out] [May T .free] [May T .mbox] [May T .gci] [May T .host] [May T .links] [May T .route] [May T .pot] [May T .mem] [May T .sheet] [May T .tables] [May T .doubles] [May T .store] : Keeps T a (failCkpt x0 s) := by
  unfold failCkpt
  repeat' first
    | assumption
    | (intro (_ : Keeps _ _ _))
    | (extract_lets +onlyGivenNames l; refine keeps_pass (T := T) (a := a) (x := l) ?_ ?_; all_goals first | (intro k; clear_value l) | subst l)
    | (extract_lets +onlyGivenNames l; try clear_value l)
    | with_reducible apply keeps_forAll
    | with_reducible apply keeps_shardFail
    | with_reducible apply keeps_endCkpt
    | with_reducible apply keeps_loadEnds
    | with_reducible apply keeps_nextCand
    | split
    | (intro _)

theorem keeps_failWord {a s : State} (x0 : Nat) (x1 : Nat) (x2 : WordOwner)  (h : Keeps T a s) [May T .out] [May T .free] [May T .alert] [May T .wd] [May T .mbox] [May T .gci] [May T .host] [May T .ports] [May T .links] [May T .route] [May T .pot] [May T .ladder] [May T .pawn] [May T .mem] [May T .sheet] [May T .hazard] [May T .tables] [May T .feed] [May T .mu] [May T .norm] [May T .pipes] [May T .dma] [May T .kunits] [May T .doubles] [May T .store] : Keeps T a (failWord x0 x1 x2 s) := by
  unfold failWord
  repeat' first
    | assumption
    | exact Or.inr rfl
    | exact Or.inl May.ok
    | (extract_lets +onlyGivenNames l; try clear_value l)
    | with_reducible apply keeps_wroteWord
    | with_reducible apply keeps_forgetWord
    | with_reducible apply keeps_failPacket
    | with_reducible apply keeps_failRound
    | with_reducible apply keeps_failStaged
    | with_reducible apply keeps_modKeeper
    | with_reducible apply keeps_modPrim
    | with_reducible apply keeps_zeroResid
    | with_reducible apply keeps_modDouble
    | with_reducible apply keeps_failCkpt
    | with_reducible apply keeps_closeTable
    | with_reducible apply keeps_modWd
    | split
    | with_reducible refine keeps_mk ?_ (Nat.le_refl _) id id id id id id id id id id id id id id id id id id id id id ?_ ?_ ?_ ?_ ?_ ?_ ?_ ?_ ?_ ?_ ?_ ?_ ?_ ?_ ?_ ?_ ?_ ?_ ?_ ?_ ?_ ?_ ?_ ?_ ?_ ?_ ?_ ?_ ?_ ?_ ?_ ?_ ?_ ?_ ?_ ?_ ?_ ?_ ?_

theorem keeps_scrubRead {a s : State} (x0 : Nat) (x1 : Nat) (x2 : WordOwner) (x3 : WordRead) (x4 : Bool)  (h : Keeps T a s) [May T .out] [May T .free] [May T .alert] [May T .wd] [May T .mbox] [May T .gci] [May T .host] [May T .ports] [May T .links] [May T .route] [May T .pot] [May T .ladder] [May T .pawn] [May T .mem] [May T .sheet] [May T .hazard] [May T .tables] [May T .feed] [May T .mu] [May T .norm] [May T .pipes] [May T .dma] [May T .kunits] [May T .doubles] [May T .store] : Keeps T a (scrubRead x0 x1 x2 x3 x4 s) := by
  unfold scrubRead
  repeat' first
    | assumption
    | (extract_lets +onlyGivenNames l; try clear_value l)
    | with_reducible apply keeps_scrubOn
    | with_reducible apply keeps_wordCorrected
    | with_reducible apply keeps_failWord
    | with_reducible apply keeps_wordFailed
    | split

theorem keeps_idleStep {a s : State}   (h : Keeps T a s) [May T .power] [May T .wd] [May T .time] [May T .ports] [May T .pawn] [May T .tables] : Keeps T a (idleStep s) := by
  unfold idleStep
  repeat' first
    | assumption
    | exact Or.inr rfl
    | exact Or.inl May.ok
    | (extract_lets +onlyGivenNames l; refine keeps_pass (T := T) (a := a) (x := l) ?_ ?_; all_goals first | (intro k; clear_value l) | subst l)
    | (extract_lets +onlyGivenNames l; try clear_value l)
    | with_reducible apply keeps_advanceTo
    | split
    | with_reducible refine keeps_mk ?_ (Nat.le_refl _) id id id id id id id id id id id id id id id id id id id id id ?_ ?_ ?_ ?_ ?_ ?_ ?_ ?_ ?_ ?_ ?_ ?_ ?_ ?_ ?_ ?_ ?_ ?_ ?_ ?_ ?_ ?_ ?_ ?_ ?_ ?_ ?_ ?_ ?_ ?_ ?_ ?_ ?_ ?_ ?_ ?_ ?_ ?_ ?_

end Sys2Proof.Laws
end

