-- ==== Sys2Proof/Laws/KeepsSecurity.lean ====
section
/-! SUPPORT. What the updates of Machine/Security.lean keep. -/

namespace Sys2Proof.Laws
open Sys2Proof Sys2Proof.Machine Sys2Proof.Safety
variable {T : StatePart → Bool}

@[simp] theorem wordsOf_length (n : Nat) (bs : List Byte) : (wordsOf n bs).length = n := by
  induction n generalizing bs with
  | zero => rfl
  | succ n ih => simp [wordsOf, ih]

theorem keeps_noChallenge {a s : State} (h : Keeps T a s) [May T .ident] : Keeps T a (modIdent (fun d => { d with challenge := none }) s) :=
  keeps_modIdent _ id h

theorem keepsO_bind {a s : State} {o : Option State} {f : State → Option State} (h : KeepsO T a o)
    (hf : ∀ t, o = some t → Keeps T a t → KeepsO T a (f t)) (_ : Keeps T a s) : KeepsO T a (o.bind f) := by
  intro t e
  cases o with
  | none => cases e
  | some u => exact hf u rfl (h u rfl) t e
theorem imageOf_length {bs : List Byte} {kind : Nat} {i : Image} (h : imageOf bs kind = some i) : bs.length ≤ 192 + maxBody kind := by
  rw [imageOf.eq_1] at h
  split at h
  · cases h
  · rename_i k
    simp only [Bool.or_eq_true, decide_eq_true_eq, ne_eq, not_or] at k
    omega


theorem keeps_challengeLapse {a s : State}   (h : Keeps T a s) [May T .power] [May T .wd] [May T .time] [May T .ident] [May T .ports] [May T .pawn] [May T .tables] : Keeps T a (challengeLapse s) := by
  unfold challengeLapse
  split
  · exact h
  · split
    · exact h
    · exact keeps_noChallenge (keeps_advanceTo _ h)

theorem keeps_relockBody {a s : State} (x0 : Request) (x1 : Nat)  (h : Keeps T a s) [May T .ident] : Keeps T a (relockBody x0 x1 s).2 := by
  unfold relockBody
  repeat' first
    | assumption
    | (extract_lets +onlyGivenNames l)
    | with_reducible apply keeps_okay
    | with_reducible apply keeps_modIdent
    | split
    | (intro e; simp_all +zetaDelta [identOk]; done)

theorem keeps_applyDevice {a s : State} (x0 : Nat) (x1 : CfgRec)  (h : Keeps T a s) [May T .time] [May T .ident] : KeepsO T a (applyDevice x0 x1 s) := by
  unfold applyDevice
  dsimp only
  split
  · exact keepsO_none
  · exact keepsO_some (keeps_modIdent _ (fun e => ⟨wordsOf_length _ _, e.2⟩) (keeps_modTime _ h))

theorem keeps_applyDevice_eq {a s t : State} {x0 : Nat} {x1 : CfgRec}  (e : applyDevice x0 x1 s = some t) (h : Keeps T a s) [May T .time] [May T .ident] : Keeps T a t := keeps_applyDevice x0 x1 h t e

theorem keeps_applyHost {a s : State} (x0 : CfgRec)  (h : Keeps T a s) [May T .host] : KeepsO T a (applyHost x0 s) := by
  unfold applyHost
  repeat' first
    | assumption
    | (extract_lets +onlyGivenNames l; try clear_value l)
    | with_reducible apply keeps_modHost
    | with_reducible apply keepsO_none
    | with_reducible apply keepsO_some
    | split

theorem keeps_applyHost_eq {a s t : State} {x0 : CfgRec}  (e : applyHost x0 s = some t) (h : Keeps T a s) [May T .host] : Keeps T a t := keeps_applyHost x0 h t e

theorem keeps_applyRoute {a s : State} (x0 : Nat) (x1 : CfgRec)  (h : Keeps T a s) [May T .route] [May T .mem] : KeepsO T a (applyRoute x0 x1 s) := by
  unfold applyRoute
  dsimp only
  split
  · exact keepsO_none
  · split
    · split
      · rename_i q _
        exact keepsO_some (keeps_snd q (keeps_routeWrite _ _ _ _ _ h))
      · exact keepsO_none
    · exact keepsO_none

theorem keeps_applyRoute_eq {a s t : State} {x0 : Nat} {x1 : CfgRec}  (e : applyRoute x0 x1 s = some t) (h : Keeps T a s) [May T .route] [May T .mem] : Keeps T a t := keeps_applyRoute x0 x1 h t e

theorem keeps_applyObj {a s : State} (x0 : CfgRec)  (h : Keeps T a s) [May T .out] [May T .alert] [May T .time] [May T .mbox] [May T .gci] [May T .host] [May T .telem] [May T .ports] [May T .links] [May T .route] [May T .pot] [May T .sq] [May T .mem] [May T .hazard] [May T .targets] : KeepsO T a (applyObj x0 s) := by
  unfold applyObj
  repeat' first
    | assumption
    | (extract_lets +onlyGivenNames l; try clear_value l)
    | (refine keeps_objWrite_eq (by assumption) ?_)
    | with_reducible apply keepsO_none
    | with_reducible apply keepsO_some
    | split

theorem keeps_applyObj_eq {a s t : State} {x0 : CfgRec}  (e : applyObj x0 s = some t) (h : Keeps T a s) [May T .out] [May T .alert] [May T .time] [May T .mbox] [May T .gci] [May T .host] [May T .telem] [May T .ports] [May T .links] [May T .route] [May T .pot] [May T .sq] [May T .mem] [May T .hazard] [May T .targets] : Keeps T a t := keeps_applyObj x0 h t e

theorem keeps_applyRec {a s : State} (x0 : Nat) (x1 : CfgRec)  (h : Keeps T a s) [May T .out] [May T .alert] [May T .time] [May T .ident] [May T .mbox] [May T .gci] [May T .host] [May T .telem] [May T .ports] [May T .links] [May T .route] [May T .pot] [May T .sq] [May T .mem] [May T .hazard] [May T .targets] : KeepsO T a (applyRec x0 x1 s) := by
  unfold applyRec
  repeat' first
    | assumption
    | with_reducible apply keeps_applyDevice
    | with_reducible apply keeps_applyHost
    | with_reducible apply keeps_applyRoute
    | with_reducible apply keeps_applyObj
    | split

theorem keeps_applyRec_eq {a s t : State} {x0 : Nat} {x1 : CfgRec}  (e : applyRec x0 x1 s = some t) (h : Keeps T a s) [May T .out] [May T .alert] [May T .time] [May T .ident] [May T .mbox] [May T .gci] [May T .host] [May T .telem] [May T .ports] [May T .links] [May T .route] [May T .pot] [May T .sq] [May T .mem] [May T .hazard] [May T .targets] : Keeps T a t := keeps_applyRec x0 x1 h t e

theorem keeps_applyRecs {a s : State} (x0 : Nat) (x1 : List CfgRec)  (h : Keeps T a s) [May T .out] [May T .alert] [May T .time] [May T .ident] [May T .mbox] [May T .gci] [May T .host] [May T .telem] [May T .ports] [May T .links] [May T .route] [May T .pot] [May T .sq] [May T .mem] [May T .hazard] [May T .targets] : KeepsO T a (applyRecs x0 x1 s) := by
  induction x1 generalizing s with
  | nil => exact keepsO_some h
  | cons y ys ih =>
    unfold applyRecs
    exact keepsO_bind (keeps_applyRec _ _ h) (fun t _ k => ih k) h

theorem keeps_applyRecs_eq {a s t : State} {x0 : Nat} {x1 : List CfgRec}  (e : applyRecs x0 x1 s = some t) (h : Keeps T a s) [May T .out] [May T .alert] [May T .time] [May T .ident] [May T .mbox] [May T .gci] [May T .host] [May T .telem] [May T .ports] [May T .links] [May T .route] [May T .pot] [May T .sq] [May T .mem] [May T .hazard] [May T .targets] : Keeps T a t := keeps_applyRecs x0 x1 h t e

theorem keeps_selfEntry {a s : State} (x0 : Nat)  (h : Keeps T a s) [May T .route] : Keeps T a (selfEntry x0 s) := by
  unfold selfEntry
  repeat' first
    | assumption
    | (extract_lets +onlyGivenNames l; try clear_value l)
    | with_reducible apply keeps_modBank
    | (intro e; simp_all +zetaDelta [routeOk]; done)

theorem keeps_applyBody {a s : State} (x0 : Nat) (x1 : List Byte)  (h : Keeps T a s) [May T .out] [May T .alert] [May T .time] [May T .ident] [May T .mbox] [May T .gci] [May T .host] [May T .telem] [May T .ports] [May T .links] [May T .route] [May T .pot] [May T .sq] [May T .mem] [May T .hazard] [May T .targets] : KeepsO T a (applyBody x0 x1 s) := by
  unfold applyBody
  repeat' first
    | assumption
    | exact Or.inr rfl
    | exact Or.inl May.ok
    | (extract_lets +onlyGivenNames l)
    | dsimp only
    | with_reducible apply keeps_applyRecs
    | with_reducible apply keeps_selfEntry
    | with_reducible apply keeps_modIdent
    | with_reducible apply keepsO_none
    | split
    | exact id

theorem keeps_applyBody_eq {a s t : State} {x0 : Nat} {x1 : List Byte}  (e : applyBody x0 x1 s = some t) (h : Keeps T a s) [May T .out] [May T .alert] [May T .time] [May T .ident] [May T .mbox] [May T .gci] [May T .host] [May T .telem] [May T .ports] [May T .links] [May T .route] [May T .pot] [May T .sq] [May T .mem] [May T .hazard] [May T .targets] : Keeps T a t := keeps_applyBody x0 x1 h t e

theorem keeps_configOk {a s : State} (x0 : Option (List Byte)) (x1 : Image)  (h : Keeps T a s) [May T .out] [May T .alert] [May T .time] [May T .ident] [May T .mbox] [May T .gci] [May T .host] [May T .telem] [May T .ports] [May T .links] [May T .route] [May T .pot] [May T .sq] [May T .mem] [May T .hazard] [May T .targets] : KeepsO T a (configOk x0 x1 s) := by
  unfold configOk
  repeat' first
    | assumption
    | with_reducible apply keeps_applyBody
    | with_reducible apply keepsO_none
    | split

theorem keeps_configOk_eq {a s t : State} {x0 : Option (List Byte)} {x1 : Image}  (e : configOk x0 x1 s = some t) (h : Keeps T a s) [May T .out] [May T .alert] [May T .time] [May T .ident] [May T .mbox] [May T .gci] [May T .host] [May T .telem] [May T .ports] [May T .links] [May T .route] [May T .pot] [May T .sq] [May T .mem] [May T .hazard] [May T .targets] : Keeps T a t := keeps_configOk x0 x1 h t e

theorem keeps_fwStageBody {a s : State} (x0 : Nat) (x1 : Request) (x2 : Nat)  (h : Keeps T a s) [May T .flash] : Keeps T a (fwStageBody x0 x1 x2 s).2 := by
  rw [fwStageBody.eq_1]
  split
  · exact h
  · split
    · exact keeps_reject _ _ h
    · extract_lets good
      split
      · exact h
      · rename_i bs _ _ _ g
        apply keeps_okay
        refine keeps_mk h (Nat.le_refl _) (fun _ => flashOk_write _ _ _ _ ?_) id id id id id id id id id id id id id id id id id id id id (by first | exact Or.inr rfl | exact Or.inl May.ok) (by first | exact Or.inr rfl | exact Or.inl May.ok) (by first | exact Or.inr rfl | exact Or.inl May.ok) (by first | exact Or.inr rfl | exact Or.inl May.ok) (by first | exact Or.inr rfl | exact Or.inl May.ok) (by first | exact Or.inr rfl | exact Or.inl May.ok) (by first | exact Or.inr rfl | exact Or.inl May.ok) (by first | exact Or.inr rfl | exact Or.inl May.ok) (by first | exact Or.inr rfl | exact Or.inl May.ok) (by first | exact Or.inr rfl | exact Or.inl May.ok) (by first | exact Or.inr rfl | exact Or.inl May.ok) (by first | exact Or.inr rfl | exact Or.inl May.ok) (by first | exact Or.inr rfl | exact Or.inl May.ok) (by first | exact Or.inr rfl | exact Or.inl May.ok) (by first | exact Or.inr rfl | exact Or.inl May.ok) (by first | exact Or.inr rfl | exact Or.inl May.ok) (by first | exact Or.inr rfl | exact Or.inl May.ok) (by first | exact Or.inr rfl | exact Or.inl May.ok) (by first | exact Or.inr rfl | exact Or.inl May.ok) (by first | exact Or.inr rfl | exact Or.inl May.ok) (by first | exact Or.inr rfl | exact Or.inl May.ok) (by first | exact Or.inr rfl | exact Or.inl May.ok) (by first | exact Or.inr rfl | exact Or.inl May.ok) (by first | exact Or.inr rfl | exact Or.inl May.ok) (by first | exact Or.inr rfl | exact Or.inl May.ok) (by first | exact Or.inr rfl | exact Or.inl May.ok) (by first | exact Or.inr rfl | exact Or.inl May.ok) (by first | exact Or.inr rfl | exact Or.inl May.ok) (by first | exact Or.inr rfl | exact Or.inl May.ok) (by first | exact Or.inr rfl | exact Or.inl May.ok) (by first | exact Or.inr rfl | exact Or.inl May.ok) (by first | exact Or.inr rfl | exact Or.inl May.ok) (by first | exact Or.inr rfl | exact Or.inl May.ok) (by first | exact Or.inr rfl | exact Or.inl May.ok) (by first | exact Or.inr rfl | exact Or.inl May.ok) (by first | exact Or.inr rfl | exact Or.inl May.ok) (by first | exact Or.inr rfl | exact Or.inl May.ok) (by first | exact Or.inr rfl | exact Or.inl May.ok) (by first | exact Or.inr rfl | exact Or.inl May.ok)
        cases e : imageOf bs (if fld (argW x1.msg 0) 63 62 = 1 then 3 else 2) with
        | none => simp [good, e] at g
        | some i =>
          refine Nat.le_trans (imageOf_length e) ?_
          by_cases q : fld (argW x1.msg 0) 63 62 = 1 <;> simp [q, maxBody]


theorem keeps_quoteBody {a s : State} (x0 : Nat) (x1 : Request) (x2 : Nat)  (h : Keeps T a s) [May T .out] [May T .free] [May T .mbox] [May T .gci] [May T .host] : Keeps T a (quoteBody x0 x1 x2 s).2 := by
  unfold quoteBody
  repeat' first
    | assumption
    | (extract_lets +onlyGivenNames l; try clear_value l)
    | with_reducible apply keeps_waits
    | with_reducible apply keeps_respondBulk
    | split

theorem keeps_configSlotOf {a s : State} (x0 : List Host.Cell) (x1 : Nat)  (h : Keeps T a s) [May T .out] [May T .alert] [May T .time] [May T .ident] [May T .mbox] [May T .gci] [May T .host] [May T .telem] [May T .ports] [May T .links] [May T .route] [May T .pot] [May T .sq] [May T .mem] [May T .hazard] [May T .targets] : KeepsP T a (configSlotOf x0 x1 s) := by
  unfold configSlotOf
  intro i t e
  cases h1 : imageAt x0 (slotAt true x1) 3 with
  | none => simp [h1] at e
  | some j =>
    simp only [h1, Option.bind_some, Option.map_eq_some_iff] at e
    obtain ⟨u, e1, e2⟩ := e
    cases e2
    exact keeps_configOk _ _ h _ e1

theorem keeps_configSlotOf_eq {a s t : State} {x0 : List Host.Cell} {x1 : Nat}  {r} (e : configSlotOf x0 x1 s = some (r, t)) (h : Keeps T a s) [May T .out] [May T .alert] [May T .time] [May T .ident] [May T .mbox] [May T .gci] [May T .host] [May T .telem] [May T .ports] [May T .links] [May T .route] [May T .pot] [May T .sq] [May T .mem] [May T .hazard] [May T .targets] : Keeps T a t := keeps_configSlotOf x0 x1 h r t e

theorem keeps_challengeBody {a s : State} (x0 : Request) (x1 : Nat)  (h : Keeps T a s) [May T .ident] : Keeps T a (challengeBody x0 x1 s).2 := by
  unfold challengeBody
  repeat' first
    | assumption
    | exact Or.inr rfl
    | exact Or.inl May.ok
    | (extract_lets +onlyGivenNames l)
    | with_reducible apply keeps_okWith
    | with_reducible apply keeps_modIdent
    | split
    | exact id

theorem keeps_scopeExpire {a s : State} (x0 : Nat)  (h : Keeps T a s) [May T .power] [May T .wd] [May T .time] [May T .ident] [May T .ports] [May T .pawn] [May T .tables] : Keeps T a (scopeExpire x0 s) := by
  unfold scopeExpire
  repeat' first
    | assumption
    | (extract_lets +onlyGivenNames l)
    | with_reducible apply keeps_modIdent
    | with_reducible apply keeps_advanceTo
    | split
    | (intro e; simp_all +zetaDelta [identOk]; done)

theorem keeps_tokenBody {a s : State} (x0 : Nat) (x1 : Request) (x2 : Nat)  (h : Keeps T a s) [May T .out] [May T .ident] [May T .mbox] [May T .gci] [May T .host] : Keeps T a (tokenBody x0 x1 x2 s).2 := by
  unfold tokenBody
  repeat' first
    | assumption
    | exact Or.inr rfl
    | exact Or.inl May.ok
    | (extract_lets +onlyGivenNames l; refine keeps_pass (T := T) (a := a) (x := l) ?_ ?_; all_goals first | (intro k; clear_value l) | subst l)
    | (extract_lets +onlyGivenNames l)
    | with_reducible apply keeps_modIdent
    | with_reducible apply keeps_waits
    | with_reducible apply keeps_respond
    | with_reducible apply keeps_okay
    | split
    | exact id
    | (intro e; simp_all +zetaDelta [identOk]; done)

end Sys2Proof.Laws
end

