-- ==== Sys2Proof/Laws/KeepsPawnMode.lean ====
section
/-! SUPPORT. What the updates of Machine/PawnMode.lean keep. -/

namespace Sys2Proof.Laws
open Sys2Proof Sys2Proof.Machine Sys2Proof.Safety
variable {T : StatePart → Bool}

theorem keeps_pawnIs {a s : State} (p : Pawn) (hp : p.cause ≤ 3) (h : Keeps T a s) [May T .pawn] : Keeps T a (modPawn (fun _ => p) s) :=
  keeps_modPawn _ (fun _ => hp) h

theorem keeps_pawnTo {a s : State} (f : Pawn → Pawn) (hp : (f s.pawn).cause ≤ 3) (h : Keeps T a s) [May T .pawn] : Keeps T a (modPawn f s) :=
  keeps_modPawn _ (fun _ => hp) h

theorem keeps_pawnRequest {a s : State} (x0 : Source) (x1 : List Byte)  (h : Keeps T a s) [May T .out] [May T .host] : Keeps T a (pawnRequest x0 x1 s) := by
  unfold pawnRequest
  repeat' first
    | assumption
    | (extract_lets +onlyGivenNames l; refine keeps_pass (T := T) (a := a) (x := l) ?_ ?_; all_goals first | (intro k; clear_value l) | subst l)
    | (extract_lets +onlyGivenNames l; try clear_value l)
    | with_reducible apply keeps_frameIn
    | with_reducible apply keeps_dropFrame
    | with_reducible apply keeps_sendOn
    | split

theorem keeps_beginLinks {a s : State}   (h : Keeps T a s) [May T .boot] [May T .links] : Keeps T a (beginLinks s) := by
  unfold beginLinks
  exact keeps_forAll _ _ (fun l t k => keeps_trainFromStart l k) (keeps_modBoot _ id h)

theorem keeps_stepAgain {a s : State}   (h : Keeps T a s) [May T .out] [May T .boot] [May T .time] [May T .mbox] [May T .gci] [May T .host] [May T .ports] [May T .links] [May T .route] [May T .pot] : Keeps T a (stepAgain s) := by
  unfold stepAgain
  split
  · exact keeps_beginLinks (keeps_forAll _ _ (fun l t k => keeps_takeDown l k) h)
  · exact h

theorem keeps_pawnLeave {a s : State}   (h : Keeps T a s) [May T .out] [May T .boot] [May T .power] [May T .time] [May T .mbox] [May T .gci] [May T .host] [May T .ports] [May T .links] [May T .route] [May T .pot] [May T .pawn] [May T .mem] [May T .tables] [May T .doubles] : Keeps T a (pawnLeave s) := by
  unfold pawnLeave
  extract_lets +onlyGivenNames s2
  have k2 : Keeps T a s2 := keeps_pawnTo _ (Nat.zero_le 3) h
  clear_value s2
  extract_lets +onlyGivenNames s3
  have k3 : Keeps T a s3 := keeps_modPower _ id (keeps_mk k2 (Nat.le_refl _) id id id id id id id id id id id id id id id id id id id id id (by first | exact Or.inr rfl | exact Or.inl May.ok) (by first | exact Or.inr rfl | exact Or.inl May.ok) (by first | exact Or.inr rfl | exact Or.inl May.ok) (by first | exact Or.inr rfl | exact Or.inl May.ok) (by first | exact Or.inr rfl | exact Or.inl May.ok) (by first | exact Or.inr rfl | exact Or.inl May.ok) (by first | exact Or.inr rfl | exact Or.inl May.ok) (by first | exact Or.inr rfl | exact Or.inl May.ok) (by first | exact Or.inr rfl | exact Or.inl May.ok) (by first | exact Or.inr rfl | exact Or.inl May.ok) (by first | exact Or.inr rfl | exact Or.inl May.ok) (by first | exact Or.inr rfl | exact Or.inl May.ok) (by first | exact Or.inr rfl | exact Or.inl May.ok) (by first | exact Or.inr rfl | exact Or.inl May.ok) (by first | exact Or.inr rfl | exact Or.inl May.ok) (by first | exact Or.inr rfl | exact Or.inl May.ok) (by first | exact Or.inr rfl | exact Or.inl May.ok) (by first | exact Or.inr rfl | exact Or.inl May.ok) (by first | exact Or.inr rfl | exact Or.inl May.ok) (by first | exact Or.inr rfl | exact Or.inl May.ok) (by first | exact Or.inr rfl | exact Or.inl May.ok) (by first | exact Or.inr rfl | exact Or.inl May.ok) (by first | exact Or.inr rfl | exact Or.inl May.ok) (by first | exact Or.inr rfl | exact Or.inl May.ok) (by first | exact Or.inr rfl | exact Or.inl May.ok) (by first | exact Or.inr rfl | exact Or.inl May.ok) (by first | exact Or.inr rfl | exact Or.inl May.ok) (by first | exact Or.inr rfl | exact Or.inl May.ok) (by first | exact Or.inr rfl | exact Or.inl May.ok) (by first | exact Or.inr rfl | exact Or.inl May.ok) (by first | exact Or.inr rfl | exact Or.inl May.ok) (by first | exact Or.inr rfl | exact Or.inl May.ok) (by first | exact Or.inr rfl | exact Or.inl May.ok) (by first | exact Or.inr rfl | exact Or.inl May.ok) (by first | exact Or.inr rfl | exact Or.inl May.ok) (by first | exact Or.inr rfl | exact Or.inl May.ok) (by first | exact Or.inr rfl | exact Or.inl May.ok) (by first | exact Or.inr rfl | exact Or.inl May.ok) (by first | exact Or.inr rfl | exact Or.inl May.ok))
  clear_value s3
  exact keeps_stepAgain (keeps_forAll _ _ (fun tb t k => keeps_checkTurn _ k) k3)


theorem keeps_pawnExit {a s : State} (x0 : Int) (x1 : List Nat)  (h : Keeps T a s) [May T .out] [May T .boot] [May T .power] [May T .wd] [May T .time] [May T .mbox] [May T .gci] [May T .host] [May T .ports] [May T .links] [May T .route] [May T .pot] [May T .pawn] [May T .mem] [May T .tables] [May T .doubles] : Keeps T a (pawnExit x0 x1 s) := by
  unfold pawnExit
  repeat' first
    | assumption
    | (extract_lets +onlyGivenNames l; try clear_value l)
    | with_reducible apply keeps_pawnLeave
    | with_reducible apply keeps_advanceTo
    | split

theorem keeps_hushMailboxes {a s : State}   (h : Keeps T a s) [May T .mbox] [May T .links] [May T .route] [May T .opening] : Keeps T a (hushMailboxes s) := by
  unfold hushMailboxes
  repeat' first
    | assumption
    | exact Or.inr rfl
    | exact Or.inl May.ok
    | (extract_lets +onlyGivenNames l; refine keeps_pass (T := T) (a := a) (x := l) ?_ ?_; all_goals first | (intro k; clear_value l) | subst l)
    | (extract_lets +onlyGivenNames l)
    | with_reducible apply keeps_freeStaging
    | with_reducible apply keeps_modRoute
    | exact id
    | exact Nat.le_refl _
    | (intro e; simp_all +zetaDelta [routeOk]; done)
    | with_reducible apply keeps_mk

theorem keeps_failKeeperRounds {a s : State}   (h : Keeps T a s) [May T .free] [May T .ports] [May T .links] [May T .route] [May T .pot] [May T .ladder] [May T .pawn] [May T .mem] [May T .sheet] [May T .hazard] [May T .tables] [May T .feed] [May T .mu] [May T .norm] [May T .pipes] [May T .dma] : Keeps T a (failKeeperRounds s) := by
  unfold failKeeperRounds
  repeat' first
    | assumption
    | (intro (_ : Keeps _ _ _))
    | (extract_lets +onlyGivenNames l; try clear_value l)
    | with_reducible apply keeps_forAll
    | with_reducible apply keeps_failRound
    | (intro _)

theorem keeps_pawnRoundEnds {a s : State} (x0 : Nat) (x1 : Nat)  (h : Keeps T a s) [May T .free] [May T .power] [May T .wd] [May T .time] [May T .ports] [May T .links] [May T .route] [May T .pot] [May T .ladder] [May T .pawn] [May T .mem] [May T .sheet] [May T .hazard] [May T .tables] [May T .feed] [May T .mu] [May T .norm] [May T .pipes] [May T .dma] : Keeps T a (pawnRoundEnds x0 x1 s) := by
  unfold pawnRoundEnds
  repeat' first
    | assumption
    | (extract_lets +onlyGivenNames l; try clear_value l)
    | with_reducible apply keeps_drain
    | with_reducible apply keeps_failRound
    | with_reducible apply keeps_advanceTo
    | split

theorem keeps_abandonCheckpoints {a s : State}   (h : Keeps T a s) [May T .tables] [May T .doubles] [May T .store] : Keeps T a (abandonCheckpoints s) := by
  unfold abandonCheckpoints
  repeat' first
    | assumption
    | exact Or.inr rfl
    | exact Or.inl May.ok
    | (extract_lets +onlyGivenNames l; try clear_value l)
    | with_reducible refine keeps_mk ?_ (Nat.le_refl _) id id id id id id id id id id id id id id id id id id id id id ?_ ?_ ?_ ?_ ?_ ?_ ?_ ?_ ?_ ?_ ?_ ?_ ?_ ?_ ?_ ?_ ?_ ?_ ?_ ?_ ?_ ?_ ?_ ?_ ?_ ?_ ?_ ?_ ?_ ?_ ?_ ?_ ?_ ?_ ?_ ?_ ?_ ?_ ?_

theorem keeps_enterPawn {a s : State} (x0 : Nat) (hc : x0 ≤ 3) (h : Keeps T a s) [May T .free] [May T .alert] [May T .mbox] [May T .ports] [May T .links] [May T .route] [May T .pot] [May T .ladder] [May T .pawn] [May T .mem] [May T .sheet] [May T .hazard] [May T .tables] [May T .opening] [May T .feed] [May T .mu] [May T .norm] [May T .pipes] [May T .dma] [May T .doubles] [May T .store] : Keeps T a (enterPawn x0 s) := by
  unfold enterPawn
  split
  · exact h
  · split
    · split
      · exact keeps_pawnTo _ (by simp) h
      · exact h
    · extract_lets last s1
      have k1 : Keeps T a s1 := keeps_pawnTo _ hc h
      exact keeps_drain (keeps_failKeeperRounds (keeps_abandonCheckpoints (keeps_hushMailboxes (keeps_setCause _ k1))))

end Sys2Proof.Laws
end

