-- ==== Sys2Proof/Laws/KeepsStartup.lean ====
section
/-! SUPPORT. What the updates of Machine/Startup.lean keep. -/

namespace Sys2Proof.Laws
open Sys2Proof Sys2Proof.Machine Sys2Proof.Safety
variable {T : StatePart → Bool}

theorem keeps_bootTo {a s : State} (f : Boot → Boot) (h1 : (f s.boot).step ≤ 10)
    (h2 : (f s.boot).srdClockOk.length = s.boot.srdClockOk.length) (h : Keeps T a s) [May T .boot] : Keeps T a (modBoot f s) :=
  keeps_modBoot _ (fun e => ⟨h1, h2.trans e.2⟩) h

theorem keeps_bootKeep {a s : State} (f : Boot → Boot) (h1 : (f s.boot).step = s.boot.step)
    (h2 : (f s.boot).srdClockOk.length = s.boot.srdClockOk.length) (h : Keeps T a s) [May T .boot] : Keeps T a (modBoot f s) :=
  keeps_modBoot _ (fun e => ⟨h1 ▸ e.1, h2.trans e.2⟩) h

theorem keeps_identKeep {a s : State} (f : Ident → Ident) (h1 : (f s.ident).cfg = s.ident.cfg)
    (h2 : (f s.ident).scopes = s.ident.scopes) (h : Keeps T a s) [May T .ident] : Keeps T a (modIdent f s) :=
  keeps_modIdent _ (fun e => ⟨h1 ▸ e.1, h2 ▸ e.2⟩) h

theorem keeps_powerKeep {a s : State} (f : Power → Power) (h1 : (f s.power).vcoreMv = s.power.vcoreMv)
    (h2 : (f s.power).vcoreMinMv = s.power.vcoreMinMv) (h3 : (f s.power).vcoreMaxMv = s.power.vcoreMaxMv)
    (h : Keeps T a s) [May T .power] : Keeps T a (modPower f s) :=
  keeps_modPower _ (fun e => by rw [powerOk, h1, h2, h3]; exact e) h

theorem routeOk_first : routeOk State.reset.route := by
  refine ⟨by decide +kernel, by decide +kernel, by decide +kernel, fun i => ?_⟩
  match i with
  | 0 | 1 | 2 | 3 => decide +kernel
  | n + 4 => exact ⟨fun e => absurd (show (0 : Nat) = 1 from e) (by decide), fun e => absurd (show n + 4 = 0 from e) (by omega)⟩


theorem keeps_startFail {a s : State} (x0 : Nat) (x1 : Nat)  (h : Keeps T a s) [May T .boot] [May T .alert] : Keeps T a (startFail x0 x1 s) := by
  exact keeps_setCause _ (keeps_bootKeep _ rfl rfl h)


theorem keeps_memFail {a s : State} (x0 : MemFail)  (h : Keeps T a s) [May T .boot] [May T .alert] : Keeps T a (memFail x0 s) := by
  unfold memFail
  repeat' first
    | assumption
    | with_reducible apply keeps_startFail
    | split

theorem keeps_memTrain {a s : State} (x0 : Option MemFail)  (h : Keeps T a s) [May T .boot] [May T .alert] : Keeps T a (memTrain x0 s) := by
  unfold memTrain
  repeat' first
    | assumption
    | (extract_lets +onlyGivenNames l)
    | with_reducible apply keeps_memFail
    | with_reducible apply keeps_modBoot
    | split
    | (intro e; simp_all +zetaDelta [bootOk]; done)

theorem keeps_loadPatch {a s : State}   (h : Keeps T a s) [May T .ident] : Keeps T a (loadPatch s) := by
  rw [loadPatch.eq_1]
  generalize pickSlot _ _ = x
  cases x with
  | none => exact h
  | some b =>
    dsimp only
    generalize imageAt _ _ _ = y
    cases y with
    | none => exact h
    | some i => exact keeps_identKeep _ rfl rfl h


theorem keeps_loadConfig {a s : State}   (h : Keeps T a s) [May T .out] [May T .alert] [May T .time] [May T .ident] [May T .mbox] [May T .gci] [May T .host] [May T .telem] [May T .ports] [May T .links] [May T .route] [May T .pot] [May T .sq] [May T .mem] [May T .hazard] [May T .targets] : KeepsO T a (loadConfig s) := by
  rw [loadConfig.eq_1]
  have ka := keeps_configSlotOf s.flash 0 h
  have kb := keeps_configSlotOf s.flash 1 h
  generalize configSlotOf s.flash 0 s = x at ka ⊢
  generalize configSlotOf s.flash 1 s = y at kb ⊢
  generalize pickSlot _ _ = q
  cases q with
  | none => exact keepsO_none
  | some i =>
    dsimp only
    intro t e
    have kz : KeepsP T a (if i = 0 then x else y) := by
      split
      · exact ka
      · exact kb
    generalize (if i = 0 then x else y) = z at e kz
    cases z with
    | none => cases e
    | some p => cases e; exact keeps_identKeep _ rfl rfl (kz p.1 p.2 rfl)


theorem keeps_loadConfig_eq {a s t : State}   (e : loadConfig s = some t) (h : Keeps T a s) [May T .out] [May T .alert] [May T .time] [May T .ident] [May T .mbox] [May T .gci] [May T .host] [May T .telem] [May T .ports] [May T .links] [May T .route] [May T .pot] [May T .sq] [May T .mem] [May T .hazard] [May T .targets] : Keeps T a t := keeps_loadConfig  h t e

theorem keeps_startHosts {a s : State}   (h : Keeps T a s) [May T .host] : Keeps T a (startHosts s) := by
  unfold startHosts
  repeat' first
    | assumption
    | exact Or.inr rfl
    | exact Or.inl May.ok
    | (extract_lets +onlyGivenNames l; try clear_value l)
    | exact id
    | exact Nat.le_refl _
    | (intro e; simp_all +zetaDelta; done)
    | with_reducible apply keeps_mk

theorem keeps_flashVerify {a s : State}   (h : Keeps T a s) [May T .out] [May T .boot] [May T .alert] [May T .time] [May T .ident] [May T .mbox] [May T .gci] [May T .host] [May T .telem] [May T .ports] [May T .links] [May T .route] [May T .pot] [May T .sq] [May T .mem] [May T .hazard] [May T .targets] : Keeps T a (flashVerify s) := by
  rw [flashVerify.eq_1]
  generalize atStep 4 s = c
  cases c with
  | false => exact h
  | true =>
    have k0 : Keeps T a (modIdent (fun i => { i with ownerKey := ownerKeyOf s.flash, patchFloor := Config.romPatchFloor }) s) :=
      keeps_identKeep _ rfl rfl h
    generalize modIdent _ s = s0 at k0 ⊢
    rw [if_neg (by decide)]
    dsimp only
    have kl := keeps_loadConfig k0
    generalize loadConfig s0 = x at kl ⊢
    cases x with
    | none => exact keeps_startFail _ _ (keeps_loadPatch k0)
    | some u =>
      have k1 := keeps_startHosts (keeps_loadPatch (kl u rfl))
      dsimp only
      generalize startHosts (loadPatch u) = v at k1 ⊢
      split
      · exact keeps_startFail _ _ (keeps_bootTo _ (by show (5 : Nat) ≤ 10; decide) rfl k1)
      · exact keeps_bootTo _ (by show (6 : Nat) ≤ 10; decide) rfl k1


theorem keeps_afterReset {a s : State}   (h : Keeps T a s) [May T .pins] [May T .boot] [May T .power] [May T .alert] [May T .wd] [May T .time] [May T .ident] [May T .mbox] [May T .gci] [May T .host] [May T .telem] [May T .ports] [May T .links] [May T .route] [May T .pot] [May T .sq] [May T .ladder] [May T .inbox] [May T .pawn] [May T .mem] [May T .sheet] [May T .hazard] [May T .tables] [May T .opening] [May T .feed] [May T .mu] [May T .mats] [May T .norm] [May T .pipes] [May T .dma] [May T .kunits] [May T .doubles] [May T .detachNum] [May T .targets] [May T .store] [May T .held] [May T .strayAll] : Keeps T a (afterReset s) := by
  refine h.trans ⟨rfl, ⟨[], (List.append_nil _).symm⟩, Nat.le_refl _, fun _ _ => rfl,
    (by intro p q; cases p <;> first | exact May.no q | exact rfl), fun i => ?_⟩
  have b : (650 : Nat) ≤ State.reset.power.vcoreMv ∧ State.reset.power.vcoreMv ≤ 900 ∧
      State.reset.power.vcoreMinMv ≤ State.reset.power.vcoreMv ∧ State.reset.power.vcoreMv ≤ State.reset.power.vcoreMaxMv := by decide
  exact ⟨i.flash, (by decide +kernel : State.reset.mbox.length = 64), (by decide +kernel : State.reset.host.length = 8), (by decide +kernel : State.reset.ports.length = 64), (by decide +kernel : State.reset.links.length = 512), (by decide +kernel : State.reset.targets.length = 16), (by decide +kernel : State.reset.mu.units.length = 2), (by decide +kernel : State.reset.kunits.units.length = 8),
    ⟨Nat.zero_le 10, i.boot.2⟩, b, (by unfold alertOk; decide +kernel : alertOk State.reset.alert), (by unfold identOk; decide +kernel : identOk State.reset.ident), (by unfold telemOk; decide +kernel : telemOk State.reset.telem), (by unfold pawnOk; decide +kernel : pawnOk State.reset.pawn), routeOk_first, (by unfold potOk; decide +kernel : potOk State.reset.pot), (by unfold sqOk; decide +kernel : sqOk State.reset.sq), (by unfold ladderOk; decide +kernel : ladderOk State.reset.ladder), (by unfold memOk; decide +kernel : memOk State.reset.mem), (by unfold hazardOk; decide +kernel : hazardOk State.reset.hazard),
    (by unfold planeOk; decide +kernel : planeOk State.reset.feed)⟩


theorem keeps_powerOff {a s : State}   (h : Keeps T a s) [May T .pins] [May T .boot] [May T .power] [May T .alert] [May T .wd] [May T .time] [May T .ident] [May T .mbox] [May T .gci] [May T .host] [May T .telem] [May T .ports] [May T .links] [May T .route] [May T .pot] [May T .sq] [May T .ladder] [May T .inbox] [May T .pawn] [May T .mem] [May T .sheet] [May T .hazard] [May T .tables] [May T .opening] [May T .feed] [May T .mu] [May T .mats] [May T .norm] [May T .pipes] [May T .dma] [May T .kunits] [May T .doubles] [May T .detachNum] [May T .targets] [May T .store] [May T .held] [May T .strayAll] : Keeps T a (powerOff s) := by
  unfold powerOff
  repeat' first
    | assumption
    | exact Or.inr rfl
    | exact Or.inl May.ok
    | (extract_lets +onlyGivenNames l; refine keeps_pass (T := T) (a := a) (x := l) ?_ ?_; all_goals first | (intro k; clear_value l) | subst l)
    | (extract_lets +onlyGivenNames l)
    | with_reducible apply keeps_modBoot
    | with_reducible apply keeps_afterReset
    | with_reducible apply keeps_modPins
    | split
    | exact id

theorem keeps_srdClockLost {a s : State} (x0 : Nat)  (h : Keeps T a s) [May T .out] [May T .boot] [May T .alert] [May T .time] [May T .mbox] [May T .gci] [May T .host] [May T .ports] [May T .links] [May T .route] [May T .pot] : Keeps T a (srdClockLost x0 s) := by
  rw [srdClockLost.eq_1]
  generalize (_ || _ : Bool) = c
  cases c with
  | true => exact h
  | false =>
    have k1 := keeps_bootKeep (s := s) (fun b => { b with srdClockOk := b.srdClockOk.set x0 false, clockLoss := true }) rfl
      (List.length_set ..) h
    exact keeps_forAll _ _ (fun l t k => keeps_trainFromStart _ (keeps_takeDown _ k)) (keeps_setCause _ k1)


theorem keeps_selfTest {a s : State} (x0 : Option Nat)  (h : Keeps T a s) [May T .boot] [May T .alert] : Keeps T a (selfTest x0 s) := by
  unfold selfTest
  repeat' first
    | assumption
    | (extract_lets +onlyGivenNames l)
    | with_reducible apply keeps_startFail
    | with_reducible apply keeps_modBoot
    | split
    | (intro e; simp_all +zetaDelta [bootOk]; done)

theorem keeps_pllLock {a s : State} (x0 : List Nat) (x1 : Nat) (x2 : Bool)  (h : Keeps T a s) [May T .boot] [May T .power] [May T .wd] [May T .time] [May T .ident] : Keeps T a (pllLock x0 x1 x2 s) := by
  rw [pllLock.eq_1]
  dsimp only
  split
  · exact h
  · have k2 := keeps_modWd (fun w => { w with armed := true, ticks := 0 })
      (keeps_modTime (fun t => { t with running := true, t64 := 0, rateAcc := 0 }) h)
    refine keeps_bootTo _ (by show (4 : Nat) ≤ 10; decide) rfl (keeps_identKeep _ ?_ ?_ (keeps_powerKeep _ rfl rfl rfl k2))
    · cases x2
      · rw [if_neg (by decide)]
      · rw [if_pos rfl]
    · cases x2
      · rw [if_neg (by decide)]
      · rw [if_pos rfl]


theorem keeps_memClear {a s : State} (x0 : Option MemFail)  (h : Keeps T a s) [May T .boot] [May T .alert] [May T .links] : Keeps T a (memClear x0 s) := by
  unfold memClear
  generalize (!atStep 8 s) = c
  cases c with
  | true => exact h
  | false =>
    rw [if_neg (by decide)]
    cases x0 with
    | some f => exact keeps_memFail _ h
    | none => exact keeps_beginLinks (keeps_bootTo _ (by show (9 : Nat) ≤ 10; decide) rfl h)


theorem keeps_inService {a s : State} (n : Nat) (up down : State → Nat) (c : Bool) (h : Keeps T a s) [May T .boot] [May T .time] [May T .power] [May T .wd] [May T .ports] [May T .pawn] [May T .tables] :
    Keeps T a (elect (modBoot (fun b => { b with
      step := 10, tService := now (bif c then s else advanceTo n s), linksUp := up (bif c then s else advanceTo n s)
      linksFailed := down (bif c then s else advanceTo n s) }) (bif c then s else advanceTo n s))) := by
  refine keeps_elect (keeps_bootTo _ (Nat.le_refl 10) rfl ?_)
  cases c
  · exact keeps_advanceTo _ h
  · exact h


theorem keeps_driveSpi {a s : State}   (h : Keeps T a s) [May T .pins] : Keeps T a (driveSpi s) := by
  unfold driveSpi
  repeat' first
    | assumption
    | with_reducible apply keeps_modPins

theorem keeps_startUp {a s : State} (x0 : Straps)  (h : Keeps T a s) [May T .pins] [May T .boot] [May T .alert] : Keeps T a (startUp x0 s) := by
  rw [startUp.eq_1]
  have k1 := keeps_bootTo (s := driveSpi (modPins (fun p => { p with straps := x0, i2cAddr := 0x60 + x0.i2c, jtagHold := false }) s))
    (fun b => { b with step := 1, fail := 0, clockHold := false, coreClockOk := true }) (by show (1 : Nat) ≤ 10; decide) rfl
    (keeps_driveSpi (keeps_modPins _ h))
  exact keeps_whenDo _ _ (keeps_setCause _ k1) k1


theorem keeps_powerOn {a s : State} (x0 : Straps)  (h : Keeps T a s) [May T .pins] [May T .boot] [May T .alert] : Keeps T a (powerOn x0 s) := by
  unfold powerOn
  repeat' first
    | assumption
    | (extract_lets +onlyGivenNames l; refine keeps_pass (T := T) (a := a) (x := l) ?_ ?_; all_goals first | (intro k; clear_value l) | subst l)
    | with_reducible apply keeps_modPins
    | with_reducible apply keeps_startUp
    | split

theorem keeps_enterService {a s : State}   (h : Keeps T a s) [May T .boot] [May T .power] [May T .wd] [May T .time] [May T .ports] [May T .pawn] [May T .tables] : Keeps T a (enterService s) := by
  rw [enterService.eq_1]
  generalize atStep 9 s = c
  cases c with
  | false => exact h
  | true =>
    rw [if_neg (by decide)]
    have e := keeps_inService (s.boot.tMailbox + 5000000000) (fun t => ((enabledLinks t).filter (linkUp t)).length)
      (fun t => ((enabledLinks t).filter fun l => (getLink t l).train.failedVl1).length) (linksSettled s) h
    rw [Bool.cond_eq_ite] at e
    exact e


theorem keeps_srdClockBack {a s : State} (x0 : Nat)  (h : Keeps T a s) [May T .boot] [May T .links] : Keeps T a (srdClockBack x0 s) := by
  rw [srdClockBack.eq_1]
  generalize (_ || _ : Bool) = c
  cases c with
  | true => exact h
  | false =>
    exact keeps_forAll _ _ (fun l t k => keeps_trainFromStart _ k) (keeps_bootKeep _ rfl (List.length_set ..) h)


theorem keeps_coreClockLost {a s : State}   (h : Keeps T a s) [May T .pins] [May T .boot] [May T .power] [May T .alert] [May T .wd] [May T .time] [May T .ident] [May T .mbox] [May T .gci] [May T .host] [May T .telem] [May T .ports] [May T .links] [May T .route] [May T .pot] [May T .sq] [May T .ladder] [May T .inbox] [May T .pawn] [May T .mem] [May T .sheet] [May T .hazard] [May T .tables] [May T .opening] [May T .feed] [May T .mu] [May T .mats] [May T .norm] [May T .pipes] [May T .dma] [May T .kunits] [May T .doubles] [May T .detachNum] [May T .targets] [May T .store] [May T .held] [May T .strayAll] : Keeps T a (coreClockLost s) := by
  unfold coreClockLost
  repeat' first
    | assumption
    | exact Or.inr rfl
    | exact Or.inl May.ok
    | (extract_lets +onlyGivenNames l)
    | with_reducible apply keeps_afterReset
    | with_reducible apply keeps_modBoot
    | split
    | exact id

theorem keeps_resetOff {a s : State} (x0 : Straps)  (h : Keeps T a s) [May T .pins] [May T .boot] [May T .alert] : Keeps T a (resetOff x0 s) := by
  unfold resetOff
  repeat' first
    | assumption
    | (extract_lets +onlyGivenNames l; refine keeps_pass (T := T) (a := a) (x := l) ?_ ?_; all_goals first | (intro k; clear_value l) | subst l)
    | with_reducible apply keeps_modPins
    | with_reducible apply keeps_driveSpi
    | with_reducible apply keeps_startUp
    | split

theorem keeps_restartNow {a s : State} (x0 : Straps)  (h : Keeps T a s) [May T .pins] [May T .boot] [May T .power] [May T .alert] [May T .wd] [May T .time] [May T .ident] [May T .mbox] [May T .gci] [May T .host] [May T .telem] [May T .ports] [May T .links] [May T .route] [May T .pot] [May T .sq] [May T .ladder] [May T .inbox] [May T .pawn] [May T .mem] [May T .sheet] [May T .hazard] [May T .tables] [May T .opening] [May T .feed] [May T .mu] [May T .mats] [May T .norm] [May T .pipes] [May T .dma] [May T .kunits] [May T .doubles] [May T .detachNum] [May T .targets] [May T .store] [May T .held] [May T .strayAll] : Keeps T a (restartNow x0 s) := by
  unfold restartNow
  repeat' first
    | assumption
    | (extract_lets +onlyGivenNames l; try clear_value l)
    | with_reducible apply keeps_startUp
    | with_reducible apply keeps_afterReset
    | with_reducible apply keeps_advanceTo
    | split

theorem keeps_floatSpi {a s : State}   (h : Keeps T a s) [May T .pins] : Keeps T a (floatSpi s) := by
  unfold floatSpi
  repeat' first
    | assumption
    | with_reducible apply keeps_modPins

theorem keeps_resetOn {a s : State}   (h : Keeps T a s) [May T .pins] [May T .boot] [May T .power] [May T .alert] [May T .wd] [May T .time] [May T .ident] [May T .mbox] [May T .gci] [May T .host] [May T .telem] [May T .ports] [May T .links] [May T .route] [May T .pot] [May T .sq] [May T .ladder] [May T .inbox] [May T .pawn] [May T .mem] [May T .sheet] [May T .hazard] [May T .tables] [May T .opening] [May T .feed] [May T .mu] [May T .mats] [May T .norm] [May T .pipes] [May T .dma] [May T .kunits] [May T .doubles] [May T .detachNum] [May T .targets] [May T .store] [May T .held] [May T .strayAll] : Keeps T a (resetOn s) := by
  unfold resetOn
  repeat' first
    | assumption
    | (extract_lets +onlyGivenNames l; refine keeps_pass (T := T) (a := a) (x := l) ?_ ?_; all_goals first | (intro k; clear_value l) | subst l)
    | (extract_lets +onlyGivenNames l; try clear_value l)
    | with_reducible apply keeps_floatSpi
    | with_reducible apply keeps_modPins
    | with_reducible apply keeps_afterReset
    | split

end Sys2Proof.Laws
end

