-- ==== Sys2Proof/Laws/KeepsHeat.lean ====
section
/-! SUPPORT. What the updates of Machine/Heat.lean keep. -/

namespace Sys2Proof.Laws
open Sys2Proof Sys2Proof.Machine Sys2Proof.Safety
variable {T : StatePart → Bool}

theorem keeps_powerFrom {a s t : State} (f : Power → Power) (hf : powerOk s.power → powerOk (f t.power)) (h : Keeps T a s)
    (k : Keeps T a t) [May T .power] : Keeps T a (modPower f t) :=
  ⟨k.pending, k.out, k.free, k.flash,
    fun p q => StatePart.same_trans (k.same_ p q) (by cases p <;> first | exact May.no q | exact rfl), fun i => { k.inv i with power := hf (h.inv i).power }⟩

/-- A commanded voltage lies within the limits of R602. -/
theorem stepTo_range (mv : Nat) (d : Int) : 650 ≤ stepTo mv d ∧ stepTo mv d ≤ 900 := by unfold stepTo; omega


theorem keeps_readTemps {a s : State} (x0 : Int) (x1 : Int)  (h : Keeps T a s) [May T .power] : Keeps T a (readTemps x0 x1 s) := by
  unfold readTemps
  repeat' first
    | assumption
    | exact Or.inr rfl
    | exact Or.inl May.ok
    | (extract_lets +onlyGivenNames l)
    | with_reducible apply keeps_modPower
    | exact id


/-- Time passes, then throttling ends. -/
theorem throttleEnd_keeps {a s : State} (n k : Nat) (c : Bool) (h : Keeps T a s) [May T .power] [May T .wd] [May T .time] [May T .ports] [May T .pawn] [May T .tables] :
    Keeps T a (if c then modPower (fun p => { p with throttled := false }) (advanceTo (n + k) s) else s) := by
  split
  · exact keeps_modPower _ id (keeps_advanceTo _ h)
  · exact h


theorem keeps_throttleOff {a s : State} (x0 : Int) (x1 : Int)  (h : Keeps T a s) [May T .power] [May T .wd] [May T .time] [May T .ports] [May T .pawn] [May T .tables] : Keeps T a (throttleOff x0 x1 s) := by
  rw [throttleOff.eq_1]
  split
  · exact h
  · exact throttleEnd_keeps _ _ _ (keeps_readTemps _ _ h)

theorem keeps_wdExpire {a s : State}   (h : Keeps T a s) [May T .free] [May T .power] [May T .alert] [May T .wd] [May T .time] [May T .mbox] [May T .ports] [May T .links] [May T .route] [May T .pot] [May T .ladder] [May T .pawn] [May T .mem] [May T .sheet] [May T .hazard] [May T .tables] [May T .opening] [May T .feed] [May T .mu] [May T .norm] [May T .pipes] [May T .dma] [May T .doubles] [May T .store] : Keeps T a (wdExpire s) := by
  unfold wdExpire
  repeat' first
    | assumption
    | (extract_lets +onlyGivenNames l; try clear_value l)
    | with_reducible apply keeps_enterPawn
    | with_reducible apply keeps_advance
    | split
    | (show _ ≤ 3; decide)

theorem keeps_sendStep {a s : State} (x0 : Int) (x1 : List Nat)  (h : Keeps T a s) [May T .out] [May T .power] [May T .alert] [May T .hazard] : Keeps T a (sendStep x0 x1 s) := by
  rw [sendStep.eq_1]
  have r := stepTo_range s.power.vcoreMv x0
  dsimp only
  generalize stepTo s.power.vcoreMv x0 = mv at r ⊢
  split
  · exact h
  · have k := keeps_modPower (s := emits (s.power.regs.map fun r => .pmbus (voutBytes mv r)) s)
      (fun p => { p with
        vcoreMv := mv, vcoreMinMv := min p.vcoreMinMv mv, vcoreMaxMv := max p.vcoreMaxMv mv
        regs := s.power.regs.map (ackReg x1), inFlight := true
        avsFault := s.power.avsFault || (s.power.regs.map (ackReg x1)).any fun r => 3 ≤ r.nacks
        pmbusErrors := s.power.pmbusErrors + ((s.power.regs.map (ackReg x1)).filter fun r => x1.contains r.addr).length
        stepsUp := s.power.stepsUp + b2n (0 < x0), stepsDown := s.power.stepsDown + b2n (x0 < 0) })
      (fun e => ⟨r.1, r.2, Nat.min_le_right _ _, Nat.le_max_right _ _⟩) (keeps_emits _ h)
    exact keeps_whenDo _ _ (keeps_hazardCount _ (keeps_whenDo _ _ (keeps_setCause _ k) k)) (keeps_whenDo _ _ (keeps_setCause _ k) k)


theorem keeps_throttleOn {a s : State} (x0 : Int) (x1 : Int)  (h : Keeps T a s) [May T .power] [May T .alert] : Keeps T a (throttleOn x0 x1 s) := by
  unfold throttleOn
  repeat' first
    | assumption
    | exact Or.inr rfl
    | exact Or.inl May.ok
    | (extract_lets +onlyGivenNames l; refine keeps_pass (T := T) (a := a) (x := l) ?_ ?_; all_goals first | (intro k; clear_value l) | subst l)
    | (extract_lets +onlyGivenNames l)
    | with_reducible apply keeps_readTemps
    | with_reducible apply keeps_setCause
    | with_reducible apply keeps_modPower
    | split
    | exact id

theorem keeps_callStep {a s : State} (x0 : Int) (x1 : List Nat)  (h : Keeps T a s) [May T .out] [May T .power] [May T .alert] [May T .hazard] : Keeps T a (callStep x0 x1 s) := by
  unfold callStep
  repeat' first
    | assumption
    | exact Or.inr rfl
    | exact Or.inl May.ok
    | (extract_lets +onlyGivenNames l)
    | with_reducible apply keeps_sendStep
    | with_reducible apply keeps_modPower
    | split
    | exact id

theorem keeps_decideAvs {a s : State} (x0 : Nat) (x1 : List Nat)  (h : Keeps T a s) [May T .out] [May T .free] [May T .power] [May T .alert] [May T .mbox] [May T .ports] [May T .links] [May T .route] [May T .pot] [May T .ladder] [May T .pawn] [May T .mem] [May T .sheet] [May T .hazard] [May T .tables] [May T .opening] [May T .feed] [May T .mu] [May T .norm] [May T .pipes] [May T .dma] [May T .doubles] [May T .store] : Keeps T a (decideAvs x0 x1 s) := by
  unfold decideAvs
  repeat' first
    | assumption
    | exact Or.inr rfl
    | exact Or.inl May.ok
    | (extract_lets +onlyGivenNames l; refine keeps_pass (T := T) (a := a) (x := l) ?_ ?_; all_goals first | (intro k; clear_value l) | subst l)
    | (extract_lets +onlyGivenNames l)
    | with_reducible apply keeps_modPower
    | with_reducible apply keeps_whenDo
    | with_reducible apply keeps_enterPawn
    | with_reducible apply keeps_setCause
    | with_reducible apply keeps_callStep
    | split
    | exact id
    | exact Nat.le_refl _

theorem keeps_avsReading {a s : State} (x0 : List Nat) (x1 : List Nat)  (h : Keeps T a s) [May T .out] [May T .free] [May T .power] [May T .alert] [May T .mbox] [May T .ports] [May T .links] [May T .route] [May T .pot] [May T .ladder] [May T .pawn] [May T .mem] [May T .sheet] [May T .hazard] [May T .tables] [May T .opening] [May T .feed] [May T .mu] [May T .norm] [May T .pipes] [May T .dma] [May T .doubles] [May T .store] : Keeps T a (avsReading x0 x1 s) := by
  unfold avsReading
  repeat' first
    | assumption
    | with_reducible apply keeps_decideAvs
    | split

theorem keeps_avsPoll {a s : State} (x0 : List Nat) (x1 : List Nat) (x2 : List Nat)  (h : Keeps T a s) [May T .free] [May T .power] : Keeps T a (avsPoll x0 x1 x2 s) := by
  unfold avsPoll
  repeat' first
    | assumption
    | exact Or.inr rfl
    | exact Or.inl May.ok
    | (extract_lets +onlyGivenNames l)
    | with_reducible apply keeps_freeNext
    | with_reducible apply keeps_modPower
    | split
    | exact id

theorem keeps_stallCheck {a s : State} (x0 : List HelperView)  (h : Keeps T a s) [May T .wd] : Keeps T a (stallCheck x0 s) := by
  unfold stallCheck
  repeat' first
    | assumption
    | with_reducible apply keeps_modWd
    | split

theorem keeps_thermalTrip {a s : State} (x0 : Int)  (h : Keeps T a s) [May T .pins] [May T .boot] [May T .power] [May T .alert] [May T .wd] [May T .time] [May T .ident] [May T .mbox] [May T .gci] [May T .host] [May T .telem] [May T .ports] [May T .links] [May T .route] [May T .pot] [May T .sq] [May T .ladder] [May T .inbox] [May T .pawn] [May T .mem] [May T .sheet] [May T .hazard] [May T .tables] [May T .opening] [May T .feed] [May T .mu] [May T .mats] [May T .norm] [May T .pipes] [May T .dma] [May T .kunits] [May T .doubles] [May T .detachNum] [May T .targets] [May T .store] [May T .held] [May T .strayAll] : Keeps T a (thermalTrip x0 s) := by
  rw [thermalTrip.eq_1]
  generalize (_ || _ : Bool) = c
  cases c with
  | true => exact h
  | false =>
    exact keeps_powerFrom (s := s) (fun x => { x with
      vcoreMv := s.power.vcoreMv, vcoreMinMv := s.power.vcoreMinMv, vcoreMaxMv := s.power.vcoreMaxMv, coreW := s.power.coreW })
      id h (keeps_afterReset (keeps_modPins _ (keeps_bootKeep (fun b => { b with tripped := true }) rfl rfl h)))


theorem keeps_wdRestart {a s : State}   (h : Keeps T a s) [May T .wd] : Keeps T a (wdRestart s) := by
  unfold wdRestart
  repeat' first
    | assumption
    | with_reducible apply keeps_modWd
    | split

theorem keeps_thermalPawn {a s : State} (x0 : Int)  (h : Keeps T a s) [May T .free] [May T .power] [May T .alert] [May T .mbox] [May T .ports] [May T .links] [May T .route] [May T .pot] [May T .ladder] [May T .pawn] [May T .mem] [May T .sheet] [May T .hazard] [May T .tables] [May T .opening] [May T .feed] [May T .mu] [May T .norm] [May T .pipes] [May T .dma] [May T .doubles] [May T .store] : Keeps T a (thermalPawn x0 s) := by
  unfold thermalPawn
  repeat' first
    | assumption
    | exact Or.inr rfl
    | exact Or.inl May.ok
    | (extract_lets +onlyGivenNames l; refine keeps_pass (T := T) (a := a) (x := l) ?_ ?_; all_goals first | (intro k; clear_value l) | subst l)
    | (extract_lets +onlyGivenNames l)
    | with_reducible apply keeps_modPower
    | with_reducible apply keeps_enterPawn
    | split
    | exact id
    | (show _ ≤ 3; decide)

theorem keeps_avsStepDone {a s : State} (x0 : List Nat)  (h : Keeps T a s) [May T .out] [May T .power] [May T .alert] [May T .hazard] : Keeps T a (avsStepDone x0 s) := by
  rw [avsStepDone.eq_1]
  generalize (_ || _ : Bool) = c
  cases c with
  | true => exact h
  | false =>
    dsimp only
    generalize s.power.pendingStep = d
    have k := keeps_powerKeep (fun p => { p with inFlight := false, pendingStep := none }) rfl rfl rfl h
    cases d with
    | none => exact k
    | some d => exact keeps_sendStep _ _ k


end Sys2Proof.Laws
end

