-- ==== Sys2Proof/Laws/KeepsJtag.lean ====
section
/-! SUPPORT. What the updates of Machine/Jtag.lean keep. -/

namespace Sys2Proof.Laws
open Sys2Proof Sys2Proof.Machine Sys2Proof.Safety
variable {T : StatePart → Bool}

theorem keeps_loadIr {a s : State} (x0 : Nat) (x1 : Straps)  (h : Keeps T a s) [May T .pins] [May T .boot] [May T .alert] : Keeps T a (loadIr x0 x1 s) := by
  unfold loadIr
  repeat' first
    | assumption
    | (extract_lets +onlyGivenNames l; refine keeps_pass (T := T) (a := a) (x := l) ?_ ?_; all_goals first | (intro k; clear_value l) | subst l)
    | (extract_lets +onlyGivenNames l; try clear_value l)
    | with_reducible apply keeps_modPins
    | with_reducible apply keeps_whenDo
    | with_reducible apply keeps_startUp
    | split

theorem keeps_boundaryIr {a s : State} (x0 : Nat) (x1 : Straps)  (h : Keeps T a s) [May T .pins] [May T .boot] [May T .alert] : Keeps T a (boundaryIr x0 x1 s) := by
  unfold boundaryIr
  repeat' first
    | assumption
    | with_reducible apply keeps_loadIr
    | split

end Sys2Proof.Laws
end

