-- ==== Sys2Proof/Laws/State.lean ====
section
/-! SUPPORT. One lemma for every update of the state and every field: what the field is after it. -/

namespace Sys2Proof.Laws
open Sys2Proof Sys2Proof.Machine

variable (s : State)

/-! ### modBoot -/

@[simp] theorem modBoot_pending (f : Boot → Boot) : (modBoot f s).pending = s.pending := rfl
@[simp] theorem modBoot_out (f : Boot → Boot) : (modBoot f s).out = s.out := rfl
@[simp] theorem modBoot_free (f : Boot → Boot) : (modBoot f s).free = s.free := rfl
@[simp] theorem modBoot_pins (f : Boot → Boot) : (modBoot f s).pins = s.pins := rfl
@[simp] theorem modBoot_boot (f : Boot → Boot) : (modBoot f s).boot = f s.boot := rfl
@[simp] theorem modBoot_power (f : Boot → Boot) : (modBoot f s).power = s.power := rfl
@[simp] theorem modBoot_alert (f : Boot → Boot) : (modBoot f s).alert = s.alert := rfl
@[simp] theorem modBoot_wd (f : Boot → Boot) : (modBoot f s).wd = s.wd := rfl
@[simp] theorem modBoot_time (f : Boot → Boot) : (modBoot f s).time = s.time := rfl
@[simp] theorem modBoot_ident (f : Boot → Boot) : (modBoot f s).ident = s.ident := rfl
@[simp] theorem modBoot_flash (f : Boot → Boot) : (modBoot f s).flash = s.flash := rfl
@[simp] theorem modBoot_mbox (f : Boot → Boot) : (modBoot f s).mbox = s.mbox := rfl
@[simp] theorem modBoot_gci (f : Boot → Boot) : (modBoot f s).gci = s.gci := rfl
@[simp] theorem modBoot_host (f : Boot → Boot) : (modBoot f s).host = s.host := rfl
@[simp] theorem modBoot_telem (f : Boot → Boot) : (modBoot f s).telem = s.telem := rfl
@[simp] theorem modBoot_ports (f : Boot → Boot) : (modBoot f s).ports = s.ports := rfl
@[simp] theorem modBoot_links (f : Boot → Boot) : (modBoot f s).links = s.links := rfl
@[simp] theorem modBoot_route (f : Boot → Boot) : (modBoot f s).route = s.route := rfl
@[simp] theorem modBoot_pot (f : Boot → Boot) : (modBoot f s).pot = s.pot := rfl
@[simp] theorem modBoot_sq (f : Boot → Boot) : (modBoot f s).sq = s.sq := rfl
@[simp] theorem modBoot_ladder (f : Boot → Boot) : (modBoot f s).ladder = s.ladder := rfl
@[simp] theorem modBoot_inbox (f : Boot → Boot) : (modBoot f s).inbox = s.inbox := rfl
@[simp] theorem modBoot_pawn (f : Boot → Boot) : (modBoot f s).pawn = s.pawn := rfl
@[simp] theorem modBoot_mem (f : Boot → Boot) : (modBoot f s).mem = s.mem := rfl
@[simp] theorem modBoot_sheet (f : Boot → Boot) : (modBoot f s).sheet = s.sheet := rfl
@[simp] theorem modBoot_hazard (f : Boot → Boot) : (modBoot f s).hazard = s.hazard := rfl
@[simp] theorem modBoot_tables (f : Boot → Boot) : (modBoot f s).tables = s.tables := rfl
@[simp] theorem modBoot_opening (f : Boot → Boot) : (modBoot f s).opening = s.opening := rfl
@[simp] theorem modBoot_feed (f : Boot → Boot) : (modBoot f s).feed = s.feed := rfl
@[simp] theorem modBoot_mu (f : Boot → Boot) : (modBoot f s).mu = s.mu := rfl
@[simp] theorem modBoot_mats (f : Boot → Boot) : (modBoot f s).mats = s.mats := rfl
@[simp] theorem modBoot_norm (f : Boot → Boot) : (modBoot f s).norm = s.norm := rfl
@[simp] theorem modBoot_pipes (f : Boot → Boot) : (modBoot f s).pipes = s.pipes := rfl
@[simp] theorem modBoot_dma (f : Boot → Boot) : (modBoot f s).dma = s.dma := rfl
@[simp] theorem modBoot_kunits (f : Boot → Boot) : (modBoot f s).kunits = s.kunits := rfl
@[simp] theorem modBoot_doubles (f : Boot → Boot) : (modBoot f s).doubles = s.doubles := rfl
@[simp] theorem modBoot_detachNum (f : Boot → Boot) : (modBoot f s).detachNum = s.detachNum := rfl
@[simp] theorem modBoot_targets (f : Boot → Boot) : (modBoot f s).targets = s.targets := rfl
@[simp] theorem modBoot_store (f : Boot → Boot) : (modBoot f s).store = s.store := rfl
@[simp] theorem modBoot_held (f : Boot → Boot) : (modBoot f s).held = s.held := rfl
@[simp] theorem modBoot_strayAll (f : Boot → Boot) : (modBoot f s).strayAll = s.strayAll := rfl

/-! ### modPower -/

@[simp] theorem modPower_pending (f : Power → Power) : (modPower f s).pending = s.pending := rfl
@[simp] theorem modPower_out (f : Power → Power) : (modPower f s).out = s.out := rfl
@[simp] theorem modPower_free (f : Power → Power) : (modPower f s).free = s.free := rfl
@[simp] theorem modPower_pins (f : Power → Power) : (modPower f s).pins = s.pins := rfl
@[simp] theorem modPower_boot (f : Power → Power) : (modPower f s).boot = s.boot := rfl
@[simp] theorem modPower_power (f : Power → Power) : (modPower f s).power = f s.power := rfl
@[simp] theorem modPower_alert (f : Power → Power) : (modPower f s).alert = s.alert := rfl
@[simp] theorem modPower_wd (f : Power → Power) : (modPower f s).wd = s.wd := rfl
@[simp] theorem modPower_time (f : Power → Power) : (modPower f s).time = s.time := rfl
@[simp] theorem modPower_ident (f : Power → Power) : (modPower f s).ident = s.ident := rfl
@[simp] theorem modPower_flash (f : Power → Power) : (modPower f s).flash = s.flash := rfl
@[simp] theorem modPower_mbox (f : Power → Power) : (modPower f s).mbox = s.mbox := rfl
@[simp] theorem modPower_gci (f : Power → Power) : (modPower f s).gci = s.gci := rfl
@[simp] theorem modPower_host (f : Power → Power) : (modPower f s).host = s.host := rfl
@[simp] theorem modPower_telem (f : Power → Power) : (modPower f s).telem = s.telem := rfl
@[simp] theorem modPower_ports (f : Power → Power) : (modPower f s).ports = s.ports := rfl
@[simp] theorem modPower_links (f : Power → Power) : (modPower f s).links = s.links := rfl
@[simp] theorem modPower_route (f : Power → Power) : (modPower f s).route = s.route := rfl
@[simp] theorem modPower_pot (f : Power → Power) : (modPower f s).pot = s.pot := rfl
@[simp] theorem modPower_sq (f : Power → Power) : (modPower f s).sq = s.sq := rfl
@[simp] theorem modPower_ladder (f : Power → Power) : (modPower f s).ladder = s.ladder := rfl
@[simp] theorem modPower_inbox (f : Power → Power) : (modPower f s).inbox = s.inbox := rfl
@[simp] theorem modPower_pawn (f : Power → Power) : (modPower f s).pawn = s.pawn := rfl
@[simp] theorem modPower_mem (f : Power → Power) : (modPower f s).mem = s.mem := rfl
@[simp] theorem modPower_sheet (f : Power → Power) : (modPower f s).sheet = s.sheet := rfl
@[simp] theorem modPower_hazard (f : Power → Power) : (modPower f s).hazard = s.hazard := rfl
@[simp] theorem modPower_tables (f : Power → Power) : (modPower f s).tables = s.tables := rfl
@[simp] theorem modPower_opening (f : Power → Power) : (modPower f s).opening = s.opening := rfl
@[simp] theorem modPower_feed (f : Power → Power) : (modPower f s).feed = s.feed := rfl
@[simp] theorem modPower_mu (f : Power → Power) : (modPower f s).mu = s.mu := rfl
@[simp] theorem modPower_mats (f : Power → Power) : (modPower f s).mats = s.mats := rfl
@[simp] theorem modPower_norm (f : Power → Power) : (modPower f s).norm = s.norm := rfl
@[simp] theorem modPower_pipes (f : Power → Power) : (modPower f s).pipes = s.pipes := rfl
@[simp] theorem modPower_dma (f : Power → Power) : (modPower f s).dma = s.dma := rfl
@[simp] theorem modPower_kunits (f : Power → Power) : (modPower f s).kunits = s.kunits := rfl
@[simp] theorem modPower_doubles (f : Power → Power) : (modPower f s).doubles = s.doubles := rfl
@[simp] theorem modPower_detachNum (f : Power → Power) : (modPower f s).detachNum = s.detachNum := rfl
@[simp] theorem modPower_targets (f : Power → Power) : (modPower f s).targets = s.targets := rfl
@[simp] theorem modPower_store (f : Power → Power) : (modPower f s).store = s.store := rfl
@[simp] theorem modPower_held (f : Power → Power) : (modPower f s).held = s.held := rfl
@[simp] theorem modPower_strayAll (f : Power → Power) : (modPower f s).strayAll = s.strayAll := rfl

/-! ### modAlert -/

@[simp] theorem modAlert_pending (f : Alert → Alert) : (modAlert f s).pending = s.pending := rfl
@[simp] theorem modAlert_out (f : Alert → Alert) : (modAlert f s).out = s.out := rfl
@[simp] theorem modAlert_free (f : Alert → Alert) : (modAlert f s).free = s.free := rfl
@[simp] theorem modAlert_pins (f : Alert → Alert) : (modAlert f s).pins = s.pins := rfl
@[simp] theorem modAlert_boot (f : Alert → Alert) : (modAlert f s).boot = s.boot := rfl
@[simp] theorem modAlert_power (f : Alert → Alert) : (modAlert f s).power = s.power := rfl
@[simp] theorem modAlert_alert (f : Alert → Alert) : (modAlert f s).alert = f s.alert := rfl
@[simp] theorem modAlert_wd (f : Alert → Alert) : (modAlert f s).wd = s.wd := rfl
@[simp] theorem modAlert_time (f : Alert → Alert) : (modAlert f s).time = s.time := rfl
@[simp] theorem modAlert_ident (f : Alert → Alert) : (modAlert f s).ident = s.ident := rfl
@[simp] theorem modAlert_flash (f : Alert → Alert) : (modAlert f s).flash = s.flash := rfl
@[simp] theorem modAlert_mbox (f : Alert → Alert) : (modAlert f s).mbox = s.mbox := rfl
@[simp] theorem modAlert_gci (f : Alert → Alert) : (modAlert f s).gci = s.gci := rfl
@[simp] theorem modAlert_host (f : Alert → Alert) : (modAlert f s).host = s.host := rfl
@[simp] theorem modAlert_telem (f : Alert → Alert) : (modAlert f s).telem = s.telem := rfl
@[simp] theorem modAlert_ports (f : Alert → Alert) : (modAlert f s).ports = s.ports := rfl
@[simp] theorem modAlert_links (f : Alert → Alert) : (modAlert f s).links = s.links := rfl
@[simp] theorem modAlert_route (f : Alert → Alert) : (modAlert f s).route = s.route := rfl
@[simp] theorem modAlert_pot (f : Alert → Alert) : (modAlert f s).pot = s.pot := rfl
@[simp] theorem modAlert_sq (f : Alert → Alert) : (modAlert f s).sq = s.sq := rfl
@[simp] theorem modAlert_ladder (f : Alert → Alert) : (modAlert f s).ladder = s.ladder := rfl
@[simp] theorem modAlert_inbox (f : Alert → Alert) : (modAlert f s).inbox = s.inbox := rfl
@[simp] theorem modAlert_pawn (f : Alert → Alert) : (modAlert f s).pawn = s.pawn := rfl
@[simp] theorem modAlert_mem (f : Alert → Alert) : (modAlert f s).mem = s.mem := rfl
@[simp] theorem modAlert_sheet (f : Alert → Alert) : (modAlert f s).sheet = s.sheet := rfl
@[simp] theorem modAlert_hazard (f : Alert → Alert) : (modAlert f s).hazard = s.hazard := rfl
@[simp] theorem modAlert_tables (f : Alert → Alert) : (modAlert f s).tables = s.tables := rfl
@[simp] theorem modAlert_opening (f : Alert → Alert) : (modAlert f s).opening = s.opening := rfl
@[simp] theorem modAlert_feed (f : Alert → Alert) : (modAlert f s).feed = s.feed := rfl
@[simp] theorem modAlert_mu (f : Alert → Alert) : (modAlert f s).mu = s.mu := rfl
@[simp] theorem modAlert_mats (f : Alert → Alert) : (modAlert f s).mats = s.mats := rfl
@[simp] theorem modAlert_norm (f : Alert → Alert) : (modAlert f s).norm = s.norm := rfl
@[simp] theorem modAlert_pipes (f : Alert → Alert) : (modAlert f s).pipes = s.pipes := rfl
@[simp] theorem modAlert_dma (f : Alert → Alert) : (modAlert f s).dma = s.dma := rfl
@[simp] theorem modAlert_kunits (f : Alert → Alert) : (modAlert f s).kunits = s.kunits := rfl
@[simp] theorem modAlert_doubles (f : Alert → Alert) : (modAlert f s).doubles = s.doubles := rfl
@[simp] theorem modAlert_detachNum (f : Alert → Alert) : (modAlert f s).detachNum = s.detachNum := rfl
@[simp] theorem modAlert_targets (f : Alert → Alert) : (modAlert f s).targets = s.targets := rfl
@[simp] theorem modAlert_store (f : Alert → Alert) : (modAlert f s).store = s.store := rfl
@[simp] theorem modAlert_held (f : Alert → Alert) : (modAlert f s).held = s.held := rfl
@[simp] theorem modAlert_strayAll (f : Alert → Alert) : (modAlert f s).strayAll = s.strayAll := rfl

/-! ### modWd -/

@[simp] theorem modWd_pending (f : Watchdog → Watchdog) : (modWd f s).pending = s.pending := rfl
@[simp] theorem modWd_out (f : Watchdog → Watchdog) : (modWd f s).out = s.out := rfl
@[simp] theorem modWd_free (f : Watchdog → Watchdog) : (modWd f s).free = s.free := rfl
@[simp] theorem modWd_pins (f : Watchdog → Watchdog) : (modWd f s).pins = s.pins := rfl
@[simp] theorem modWd_boot (f : Watchdog → Watchdog) : (modWd f s).boot = s.boot := rfl
@[simp] theorem modWd_power (f : Watchdog → Watchdog) : (modWd f s).power = s.power := rfl
@[simp] theorem modWd_alert (f : Watchdog → Watchdog) : (modWd f s).alert = s.alert := rfl
@[simp] theorem modWd_wd (f : Watchdog → Watchdog) : (modWd f s).wd = f s.wd := rfl
@[simp] theorem modWd_time (f : Watchdog → Watchdog) : (modWd f s).time = s.time := rfl
@[simp] theorem modWd_ident (f : Watchdog → Watchdog) : (modWd f s).ident = s.ident := rfl
@[simp] theorem modWd_flash (f : Watchdog → Watchdog) : (modWd f s).flash = s.flash := rfl
@[simp] theorem modWd_mbox (f : Watchdog → Watchdog) : (modWd f s).mbox = s.mbox := rfl
@[simp] theorem modWd_gci (f : Watchdog → Watchdog) : (modWd f s).gci = s.gci := rfl
@[simp] theorem modWd_host (f : Watchdog → Watchdog) : (modWd f s).host = s.host := rfl
@[simp] theorem modWd_telem (f : Watchdog → Watchdog) : (modWd f s).telem = s.telem := rfl
@[simp] theorem modWd_ports (f : Watchdog → Watchdog) : (modWd f s).ports = s.ports := rfl
@[simp] theorem modWd_links (f : Watchdog → Watchdog) : (modWd f s).links = s.links := rfl
@[simp] theorem modWd_route (f : Watchdog → Watchdog) : (modWd f s).route = s.route := rfl
@[simp] theorem modWd_pot (f : Watchdog → Watchdog) : (modWd f s).pot = s.pot := rfl
@[simp] theorem modWd_sq (f : Watchdog → Watchdog) : (modWd f s).sq = s.sq := rfl
@[simp] theorem modWd_ladder (f : Watchdog → Watchdog) : (modWd f s).ladder = s.ladder := rfl
@[simp] theorem modWd_inbox (f : Watchdog → Watchdog) : (modWd f s).inbox = s.inbox := rfl
@[simp] theorem modWd_pawn (f : Watchdog → Watchdog) : (modWd f s).pawn = s.pawn := rfl
@[simp] theorem modWd_mem (f : Watchdog → Watchdog) : (modWd f s).mem = s.mem := rfl
@[simp] theorem modWd_sheet (f : Watchdog → Watchdog) : (modWd f s).sheet = s.sheet := rfl
@[simp] theorem modWd_hazard (f : Watchdog → Watchdog) : (modWd f s).hazard = s.hazard := rfl
@[simp] theorem modWd_tables (f : Watchdog → Watchdog) : (modWd f s).tables = s.tables := rfl
@[simp] theorem modWd_opening (f : Watchdog → Watchdog) : (modWd f s).opening = s.opening := rfl
@[simp] theorem modWd_feed (f : Watchdog → Watchdog) : (modWd f s).feed = s.feed := rfl
@[simp] theorem modWd_mu (f : Watchdog → Watchdog) : (modWd f s).mu = s.mu := rfl
@[simp] theorem modWd_mats (f : Watchdog → Watchdog) : (modWd f s).mats = s.mats := rfl
@[simp] theorem modWd_norm (f : Watchdog → Watchdog) : (modWd f s).norm = s.norm := rfl
@[simp] theorem modWd_pipes (f : Watchdog → Watchdog) : (modWd f s).pipes = s.pipes := rfl
@[simp] theorem modWd_dma (f : Watchdog → Watchdog) : (modWd f s).dma = s.dma := rfl
@[simp] theorem modWd_kunits (f : Watchdog → Watchdog) : (modWd f s).kunits = s.kunits := rfl
@[simp] theorem modWd_doubles (f : Watchdog → Watchdog) : (modWd f s).doubles = s.doubles := rfl
@[simp] theorem modWd_detachNum (f : Watchdog → Watchdog) : (modWd f s).detachNum = s.detachNum := rfl
@[simp] theorem modWd_targets (f : Watchdog → Watchdog) : (modWd f s).targets = s.targets := rfl
@[simp] theorem modWd_store (f : Watchdog → Watchdog) : (modWd f s).store = s.store := rfl
@[simp] theorem modWd_held (f : Watchdog → Watchdog) : (modWd f s).held = s.held := rfl
@[simp] theorem modWd_strayAll (f : Watchdog → Watchdog) : (modWd f s).strayAll = s.strayAll := rfl

/-! ### modTime -/

@[simp] theorem modTime_pending (f : Time → Time) : (modTime f s).pending = s.pending := rfl
@[simp] theorem modTime_out (f : Time → Time) : (modTime f s).out = s.out := rfl
@[simp] theorem modTime_free (f : Time → Time) : (modTime f s).free = s.free := rfl
@[simp] theorem modTime_pins (f : Time → Time) : (modTime f s).pins = s.pins := rfl
@[simp] theorem modTime_boot (f : Time → Time) : (modTime f s).boot = s.boot := rfl
@[simp] theorem modTime_power (f : Time → Time) : (modTime f s).power = s.power := rfl
@[simp] theorem modTime_alert (f : Time → Time) : (modTime f s).alert = s.alert := rfl
@[simp] theorem modTime_wd (f : Time → Time) : (modTime f s).wd = s.wd := rfl
@[simp] theorem modTime_time (f : Time → Time) : (modTime f s).time = f s.time := rfl
@[simp] theorem modTime_ident (f : Time → Time) : (modTime f s).ident = s.ident := rfl
@[simp] theorem modTime_flash (f : Time → Time) : (modTime f s).flash = s.flash := rfl
@[simp] theorem modTime_mbox (f : Time → Time) : (modTime f s).mbox = s.mbox := rfl
@[simp] theorem modTime_gci (f : Time → Time) : (modTime f s).gci = s.gci := rfl
@[simp] theorem modTime_host (f : Time → Time) : (modTime f s).host = s.host := rfl
@[simp] theorem modTime_telem (f : Time → Time) : (modTime f s).telem = s.telem := rfl
@[simp] theorem modTime_ports (f : Time → Time) : (modTime f s).ports = s.ports := rfl
@[simp] theorem modTime_links (f : Time → Time) : (modTime f s).links = s.links := rfl
@[simp] theorem modTime_route (f : Time → Time) : (modTime f s).route = s.route := rfl
@[simp] theorem modTime_pot (f : Time → Time) : (modTime f s).pot = s.pot := rfl
@[simp] theorem modTime_sq (f : Time → Time) : (modTime f s).sq = s.sq := rfl
@[simp] theorem modTime_ladder (f : Time → Time) : (modTime f s).ladder = s.ladder := rfl
@[simp] theorem modTime_inbox (f : Time → Time) : (modTime f s).inbox = s.inbox := rfl
@[simp] theorem modTime_pawn (f : Time → Time) : (modTime f s).pawn = s.pawn := rfl
@[simp] theorem modTime_mem (f : Time → Time) : (modTime f s).mem = s.mem := rfl
@[simp] theorem modTime_sheet (f : Time → Time) : (modTime f s).sheet = s.sheet := rfl
@[simp] theorem modTime_hazard (f : Time → Time) : (modTime f s).hazard = s.hazard := rfl
@[simp] theorem modTime_tables (f : Time → Time) : (modTime f s).tables = s.tables := rfl
@[simp] theorem modTime_opening (f : Time → Time) : (modTime f s).opening = s.opening := rfl
@[simp] theorem modTime_feed (f : Time → Time) : (modTime f s).feed = s.feed := rfl
@[simp] theorem modTime_mu (f : Time → Time) : (modTime f s).mu = s.mu := rfl
@[simp] theorem modTime_mats (f : Time → Time) : (modTime f s).mats = s.mats := rfl
@[simp] theorem modTime_norm (f : Time → Time) : (modTime f s).norm = s.norm := rfl
@[simp] theorem modTime_pipes (f : Time → Time) : (modTime f s).pipes = s.pipes := rfl
@[simp] theorem modTime_dma (f : Time → Time) : (modTime f s).dma = s.dma := rfl
@[simp] theorem modTime_kunits (f : Time → Time) : (modTime f s).kunits = s.kunits := rfl
@[simp] theorem modTime_doubles (f : Time → Time) : (modTime f s).doubles = s.doubles := rfl
@[simp] theorem modTime_detachNum (f : Time → Time) : (modTime f s).detachNum = s.detachNum := rfl
@[simp] theorem modTime_targets (f : Time → Time) : (modTime f s).targets = s.targets := rfl
@[simp] theorem modTime_store (f : Time → Time) : (modTime f s).store = s.store := rfl
@[simp] theorem modTime_held (f : Time → Time) : (modTime f s).held = s.held := rfl
@[simp] theorem modTime_strayAll (f : Time → Time) : (modTime f s).strayAll = s.strayAll := rfl

/-! ### modIdent -/

@[simp] theorem modIdent_pending (f : Ident → Ident) : (modIdent f s).pending = s.pending := rfl
@[simp] theorem modIdent_out (f : Ident → Ident) : (modIdent f s).out = s.out := rfl
@[simp] theorem modIdent_free (f : Ident → Ident) : (modIdent f s).free = s.free := rfl
@[simp] theorem modIdent_pins (f : Ident → Ident) : (modIdent f s).pins = s.pins := rfl
@[simp] theorem modIdent_boot (f : Ident → Ident) : (modIdent f s).boot = s.boot := rfl
@[simp] theorem modIdent_power (f : Ident → Ident) : (modIdent f s).power = s.power := rfl
@[simp] theorem modIdent_alert (f : Ident → Ident) : (modIdent f s).alert = s.alert := rfl
@[simp] theorem modIdent_wd (f : Ident → Ident) : (modIdent f s).wd = s.wd := rfl
@[simp] theorem modIdent_time (f : Ident → Ident) : (modIdent f s).time = s.time := rfl
@[simp] theorem modIdent_ident (f : Ident → Ident) : (modIdent f s).ident = f s.ident := rfl
@[simp] theorem modIdent_flash (f : Ident → Ident) : (modIdent f s).flash = s.flash := rfl
@[simp] theorem modIdent_mbox (f : Ident → Ident) : (modIdent f s).mbox = s.mbox := rfl
@[simp] theorem modIdent_gci (f : Ident → Ident) : (modIdent f s).gci = s.gci := rfl
@[simp] theorem modIdent_host (f : Ident → Ident) : (modIdent f s).host = s.host := rfl
@[simp] theorem modIdent_telem (f : Ident → Ident) : (modIdent f s).telem = s.telem := rfl
@[simp] theorem modIdent_ports (f : Ident → Ident) : (modIdent f s).ports = s.ports := rfl
@[simp] theorem modIdent_links (f : Ident → Ident) : (modIdent f s).links = s.links := rfl
@[simp] theorem modIdent_route (f : Ident → Ident) : (modIdent f s).route = s.route := rfl
@[simp] theorem modIdent_pot (f : Ident → Ident) : (modIdent f s).pot = s.pot := rfl
@[simp] theorem modIdent_sq (f : Ident → Ident) : (modIdent f s).sq = s.sq := rfl
@[simp] theorem modIdent_ladder (f : Ident → Ident) : (modIdent f s).ladder = s.ladder := rfl
@[simp] theorem modIdent_inbox (f : Ident → Ident) : (modIdent f s).inbox = s.inbox := rfl
@[simp] theorem modIdent_pawn (f : Ident → Ident) : (modIdent f s).pawn = s.pawn := rfl
@[simp] theorem modIdent_mem (f : Ident → Ident) : (modIdent f s).mem = s.mem := rfl
@[simp] theorem modIdent_sheet (f : Ident → Ident) : (modIdent f s).sheet = s.sheet := rfl
@[simp] theorem modIdent_hazard (f : Ident → Ident) : (modIdent f s).hazard = s.hazard := rfl
@[simp] theorem modIdent_tables (f : Ident → Ident) : (modIdent f s).tables = s.tables := rfl
@[simp] theorem modIdent_opening (f : Ident → Ident) : (modIdent f s).opening = s.opening := rfl
@[simp] theorem modIdent_feed (f : Ident → Ident) : (modIdent f s).feed = s.feed := rfl
@[simp] theorem modIdent_mu (f : Ident → Ident) : (modIdent f s).mu = s.mu := rfl
@[simp] theorem modIdent_mats (f : Ident → Ident) : (modIdent f s).mats = s.mats := rfl
@[simp] theorem modIdent_norm (f : Ident → Ident) : (modIdent f s).norm = s.norm := rfl
@[simp] theorem modIdent_pipes (f : Ident → Ident) : (modIdent f s).pipes = s.pipes := rfl
@[simp] theorem modIdent_dma (f : Ident → Ident) : (modIdent f s).dma = s.dma := rfl
@[simp] theorem modIdent_kunits (f : Ident → Ident) : (modIdent f s).kunits = s.kunits := rfl
@[simp] theorem modIdent_doubles (f : Ident → Ident) : (modIdent f s).doubles = s.doubles := rfl
@[simp] theorem modIdent_detachNum (f : Ident → Ident) : (modIdent f s).detachNum = s.detachNum := rfl
@[simp] theorem modIdent_targets (f : Ident → Ident) : (modIdent f s).targets = s.targets := rfl
@[simp] theorem modIdent_store (f : Ident → Ident) : (modIdent f s).store = s.store := rfl
@[simp] theorem modIdent_held (f : Ident → Ident) : (modIdent f s).held = s.held := rfl
@[simp] theorem modIdent_strayAll (f : Ident → Ident) : (modIdent f s).strayAll = s.strayAll := rfl

/-! ### modGci -/

@[simp] theorem modGci_pending (f : Gci → Gci) : (modGci f s).pending = s.pending := rfl
@[simp] theorem modGci_out (f : Gci → Gci) : (modGci f s).out = s.out := rfl
@[simp] theorem modGci_free (f : Gci → Gci) : (modGci f s).free = s.free := rfl
@[simp] theorem modGci_pins (f : Gci → Gci) : (modGci f s).pins = s.pins := rfl
@[simp] theorem modGci_boot (f : Gci → Gci) : (modGci f s).boot = s.boot := rfl
@[simp] theorem modGci_power (f : Gci → Gci) : (modGci f s).power = s.power := rfl
@[simp] theorem modGci_alert (f : Gci → Gci) : (modGci f s).alert = s.alert := rfl
@[simp] theorem modGci_wd (f : Gci → Gci) : (modGci f s).wd = s.wd := rfl
@[simp] theorem modGci_time (f : Gci → Gci) : (modGci f s).time = s.time := rfl
@[simp] theorem modGci_ident (f : Gci → Gci) : (modGci f s).ident = s.ident := rfl
@[simp] theorem modGci_flash (f : Gci → Gci) : (modGci f s).flash = s.flash := rfl
@[simp] theorem modGci_mbox (f : Gci → Gci) : (modGci f s).mbox = s.mbox := rfl
@[simp] theorem modGci_gci (f : Gci → Gci) : (modGci f s).gci = f s.gci := rfl
@[simp] theorem modGci_host (f : Gci → Gci) : (modGci f s).host = s.host := rfl
@[simp] theorem modGci_telem (f : Gci → Gci) : (modGci f s).telem = s.telem := rfl
@[simp] theorem modGci_ports (f : Gci → Gci) : (modGci f s).ports = s.ports := rfl
@[simp] theorem modGci_links (f : Gci → Gci) : (modGci f s).links = s.links := rfl
@[simp] theorem modGci_route (f : Gci → Gci) : (modGci f s).route = s.route := rfl
@[simp] theorem modGci_pot (f : Gci → Gci) : (modGci f s).pot = s.pot := rfl
@[simp] theorem modGci_sq (f : Gci → Gci) : (modGci f s).sq = s.sq := rfl
@[simp] theorem modGci_ladder (f : Gci → Gci) : (modGci f s).ladder = s.ladder := rfl
@[simp] theorem modGci_inbox (f : Gci → Gci) : (modGci f s).inbox = s.inbox := rfl
@[simp] theorem modGci_pawn (f : Gci → Gci) : (modGci f s).pawn = s.pawn := rfl
@[simp] theorem modGci_mem (f : Gci → Gci) : (modGci f s).mem = s.mem := rfl
@[simp] theorem modGci_sheet (f : Gci → Gci) : (modGci f s).sheet = s.sheet := rfl
@[simp] theorem modGci_hazard (f : Gci → Gci) : (modGci f s).hazard = s.hazard := rfl
@[simp] theorem modGci_tables (f : Gci → Gci) : (modGci f s).tables = s.tables := rfl
@[simp] theorem modGci_opening (f : Gci → Gci) : (modGci f s).opening = s.opening := rfl
@[simp] theorem modGci_feed (f : Gci → Gci) : (modGci f s).feed = s.feed := rfl
@[simp] theorem modGci_mu (f : Gci → Gci) : (modGci f s).mu = s.mu := rfl
@[simp] theorem modGci_mats (f : Gci → Gci) : (modGci f s).mats = s.mats := rfl
@[simp] theorem modGci_norm (f : Gci → Gci) : (modGci f s).norm = s.norm := rfl
@[simp] theorem modGci_pipes (f : Gci → Gci) : (modGci f s).pipes = s.pipes := rfl
@[simp] theorem modGci_dma (f : Gci → Gci) : (modGci f s).dma = s.dma := rfl
@[simp] theorem modGci_kunits (f : Gci → Gci) : (modGci f s).kunits = s.kunits := rfl
@[simp] theorem modGci_doubles (f : Gci → Gci) : (modGci f s).doubles = s.doubles := rfl
@[simp] theorem modGci_detachNum (f : Gci → Gci) : (modGci f s).detachNum = s.detachNum := rfl
@[simp] theorem modGci_targets (f : Gci → Gci) : (modGci f s).targets = s.targets := rfl
@[simp] theorem modGci_store (f : Gci → Gci) : (modGci f s).store = s.store := rfl
@[simp] theorem modGci_held (f : Gci → Gci) : (modGci f s).held = s.held := rfl
@[simp] theorem modGci_strayAll (f : Gci → Gci) : (modGci f s).strayAll = s.strayAll := rfl

/-! ### modTelem -/

@[simp] theorem modTelem_pending (f : Telemetry → Telemetry) : (modTelem f s).pending = s.pending := rfl
@[simp] theorem modTelem_out (f : Telemetry → Telemetry) : (modTelem f s).out = s.out := rfl
@[simp] theorem modTelem_free (f : Telemetry → Telemetry) : (modTelem f s).free = s.free := rfl
@[simp] theorem modTelem_pins (f : Telemetry → Telemetry) : (modTelem f s).pins = s.pins := rfl
@[simp] theorem modTelem_boot (f : Telemetry → Telemetry) : (modTelem f s).boot = s.boot := rfl
@[simp] theorem modTelem_power (f : Telemetry → Telemetry) : (modTelem f s).power = s.power := rfl
@[simp] theorem modTelem_alert (f : Telemetry → Telemetry) : (modTelem f s).alert = s.alert := rfl
@[simp] theorem modTelem_wd (f : Telemetry → Telemetry) : (modTelem f s).wd = s.wd := rfl
@[simp] theorem modTelem_time (f : Telemetry → Telemetry) : (modTelem f s).time = s.time := rfl
@[simp] theorem modTelem_ident (f : Telemetry → Telemetry) : (modTelem f s).ident = s.ident := rfl
@[simp] theorem modTelem_flash (f : Telemetry → Telemetry) : (modTelem f s).flash = s.flash := rfl
@[simp] theorem modTelem_mbox (f : Telemetry → Telemetry) : (modTelem f s).mbox = s.mbox := rfl
@[simp] theorem modTelem_gci (f : Telemetry → Telemetry) : (modTelem f s).gci = s.gci := rfl
@[simp] theorem modTelem_host (f : Telemetry → Telemetry) : (modTelem f s).host = s.host := rfl
@[simp] theorem modTelem_telem (f : Telemetry → Telemetry) : (modTelem f s).telem = f s.telem := rfl
@[simp] theorem modTelem_ports (f : Telemetry → Telemetry) : (modTelem f s).ports = s.ports := rfl
@[simp] theorem modTelem_links (f : Telemetry → Telemetry) : (modTelem f s).links = s.links := rfl
@[simp] theorem modTelem_route (f : Telemetry → Telemetry) : (modTelem f s).route = s.route := rfl
@[simp] theorem modTelem_pot (f : Telemetry → Telemetry) : (modTelem f s).pot = s.pot := rfl
@[simp] theorem modTelem_sq (f : Telemetry → Telemetry) : (modTelem f s).sq = s.sq := rfl
@[simp] theorem modTelem_ladder (f : Telemetry → Telemetry) : (modTelem f s).ladder = s.ladder := rfl
@[simp] theorem modTelem_inbox (f : Telemetry → Telemetry) : (modTelem f s).inbox = s.inbox := rfl
@[simp] theorem modTelem_pawn (f : Telemetry → Telemetry) : (modTelem f s).pawn = s.pawn := rfl
@[simp] theorem modTelem_mem (f : Telemetry → Telemetry) : (modTelem f s).mem = s.mem := rfl
@[simp] theorem modTelem_sheet (f : Telemetry → Telemetry) : (modTelem f s).sheet = s.sheet := rfl
@[simp] theorem modTelem_hazard (f : Telemetry → Telemetry) : (modTelem f s).hazard = s.hazard := rfl
@[simp] theorem modTelem_tables (f : Telemetry → Telemetry) : (modTelem f s).tables = s.tables := rfl
@[simp] theorem modTelem_opening (f : Telemetry → Telemetry) : (modTelem f s).opening = s.opening := rfl
@[simp] theorem modTelem_feed (f : Telemetry → Telemetry) : (modTelem f s).feed = s.feed := rfl
@[simp] theorem modTelem_mu (f : Telemetry → Telemetry) : (modTelem f s).mu = s.mu := rfl
@[simp] theorem modTelem_mats (f : Telemetry → Telemetry) : (modTelem f s).mats = s.mats := rfl
@[simp] theorem modTelem_norm (f : Telemetry → Telemetry) : (modTelem f s).norm = s.norm := rfl
@[simp] theorem modTelem_pipes (f : Telemetry → Telemetry) : (modTelem f s).pipes = s.pipes := rfl
@[simp] theorem modTelem_dma (f : Telemetry → Telemetry) : (modTelem f s).dma = s.dma := rfl
@[simp] theorem modTelem_kunits (f : Telemetry → Telemetry) : (modTelem f s).kunits = s.kunits := rfl
@[simp] theorem modTelem_doubles (f : Telemetry → Telemetry) : (modTelem f s).doubles = s.doubles := rfl
@[simp] theorem modTelem_detachNum (f : Telemetry → Telemetry) : (modTelem f s).detachNum = s.detachNum := rfl
@[simp] theorem modTelem_targets (f : Telemetry → Telemetry) : (modTelem f s).targets = s.targets := rfl
@[simp] theorem modTelem_store (f : Telemetry → Telemetry) : (modTelem f s).store = s.store := rfl
@[simp] theorem modTelem_held (f : Telemetry → Telemetry) : (modTelem f s).held = s.held := rfl
@[simp] theorem modTelem_strayAll (f : Telemetry → Telemetry) : (modTelem f s).strayAll = s.strayAll := rfl

/-! ### modPawn -/

@[simp] theorem modPawn_pending (f : Pawn → Pawn) : (modPawn f s).pending = s.pending := rfl
@[simp] theorem modPawn_out (f : Pawn → Pawn) : (modPawn f s).out = s.out := rfl
@[simp] theorem modPawn_free (f : Pawn → Pawn) : (modPawn f s).free = s.free := rfl
@[simp] theorem modPawn_pins (f : Pawn → Pawn) : (modPawn f s).pins = s.pins := rfl
@[simp] theorem modPawn_boot (f : Pawn → Pawn) : (modPawn f s).boot = s.boot := rfl
@[simp] theorem modPawn_power (f : Pawn → Pawn) : (modPawn f s).power = s.power := rfl
@[simp] theorem modPawn_alert (f : Pawn → Pawn) : (modPawn f s).alert = s.alert := rfl
@[simp] theorem modPawn_wd (f : Pawn → Pawn) : (modPawn f s).wd = s.wd := rfl
@[simp] theorem modPawn_time (f : Pawn → Pawn) : (modPawn f s).time = s.time := rfl
@[simp] theorem modPawn_ident (f : Pawn → Pawn) : (modPawn f s).ident = s.ident := rfl
@[simp] theorem modPawn_flash (f : Pawn → Pawn) : (modPawn f s).flash = s.flash := rfl
@[simp] theorem modPawn_mbox (f : Pawn → Pawn) : (modPawn f s).mbox = s.mbox := rfl
@[simp] theorem modPawn_gci (f : Pawn → Pawn) : (modPawn f s).gci = s.gci := rfl
@[simp] theorem modPawn_host (f : Pawn → Pawn) : (modPawn f s).host = s.host := rfl
@[simp] theorem modPawn_telem (f : Pawn → Pawn) : (modPawn f s).telem = s.telem := rfl
@[simp] theorem modPawn_ports (f : Pawn → Pawn) : (modPawn f s).ports = s.ports := rfl
@[simp] theorem modPawn_links (f : Pawn → Pawn) : (modPawn f s).links = s.links := rfl
@[simp] theorem modPawn_route (f : Pawn → Pawn) : (modPawn f s).route = s.route := rfl
@[simp] theorem modPawn_pot (f : Pawn → Pawn) : (modPawn f s).pot = s.pot := rfl
@[simp] theorem modPawn_sq (f : Pawn → Pawn) : (modPawn f s).sq = s.sq := rfl
@[simp] theorem modPawn_ladder (f : Pawn → Pawn) : (modPawn f s).ladder = s.ladder := rfl
@[simp] theorem modPawn_inbox (f : Pawn → Pawn) : (modPawn f s).inbox = s.inbox := rfl
@[simp] theorem modPawn_pawn (f : Pawn → Pawn) : (modPawn f s).pawn = f s.pawn := rfl
@[simp] theorem modPawn_mem (f : Pawn → Pawn) : (modPawn f s).mem = s.mem := rfl
@[simp] theorem modPawn_sheet (f : Pawn → Pawn) : (modPawn f s).sheet = s.sheet := rfl
@[simp] theorem modPawn_hazard (f : Pawn → Pawn) : (modPawn f s).hazard = s.hazard := rfl
@[simp] theorem modPawn_tables (f : Pawn → Pawn) : (modPawn f s).tables = s.tables := rfl
@[simp] theorem modPawn_opening (f : Pawn → Pawn) : (modPawn f s).opening = s.opening := rfl
@[simp] theorem modPawn_feed (f : Pawn → Pawn) : (modPawn f s).feed = s.feed := rfl
@[simp] theorem modPawn_mu (f : Pawn → Pawn) : (modPawn f s).mu = s.mu := rfl
@[simp] theorem modPawn_mats (f : Pawn → Pawn) : (modPawn f s).mats = s.mats := rfl
@[simp] theorem modPawn_norm (f : Pawn → Pawn) : (modPawn f s).norm = s.norm := rfl
@[simp] theorem modPawn_pipes (f : Pawn → Pawn) : (modPawn f s).pipes = s.pipes := rfl
@[simp] theorem modPawn_dma (f : Pawn → Pawn) : (modPawn f s).dma = s.dma := rfl
@[simp] theorem modPawn_kunits (f : Pawn → Pawn) : (modPawn f s).kunits = s.kunits := rfl
@[simp] theorem modPawn_doubles (f : Pawn → Pawn) : (modPawn f s).doubles = s.doubles := rfl
@[simp] theorem modPawn_detachNum (f : Pawn → Pawn) : (modPawn f s).detachNum = s.detachNum := rfl
@[simp] theorem modPawn_targets (f : Pawn → Pawn) : (modPawn f s).targets = s.targets := rfl
@[simp] theorem modPawn_store (f : Pawn → Pawn) : (modPawn f s).store = s.store := rfl
@[simp] theorem modPawn_held (f : Pawn → Pawn) : (modPawn f s).held = s.held := rfl
@[simp] theorem modPawn_strayAll (f : Pawn → Pawn) : (modPawn f s).strayAll = s.strayAll := rfl

/-! ### modPins -/

@[simp] theorem modPins_pending (f : Pins → Pins) : (modPins f s).pending = s.pending := rfl
@[simp] theorem modPins_out (f : Pins → Pins) : (modPins f s).out = s.out := rfl
@[simp] theorem modPins_free (f : Pins → Pins) : (modPins f s).free = s.free := rfl
@[simp] theorem modPins_pins (f : Pins → Pins) : (modPins f s).pins = f s.pins := rfl
@[simp] theorem modPins_boot (f : Pins → Pins) : (modPins f s).boot = s.boot := rfl
@[simp] theorem modPins_power (f : Pins → Pins) : (modPins f s).power = s.power := rfl
@[simp] theorem modPins_alert (f : Pins → Pins) : (modPins f s).alert = s.alert := rfl
@[simp] theorem modPins_wd (f : Pins → Pins) : (modPins f s).wd = s.wd := rfl
@[simp] theorem modPins_time (f : Pins → Pins) : (modPins f s).time = s.time := rfl
@[simp] theorem modPins_ident (f : Pins → Pins) : (modPins f s).ident = s.ident := rfl
@[simp] theorem modPins_flash (f : Pins → Pins) : (modPins f s).flash = s.flash := rfl
@[simp] theorem modPins_mbox (f : Pins → Pins) : (modPins f s).mbox = s.mbox := rfl
@[simp] theorem modPins_gci (f : Pins → Pins) : (modPins f s).gci = s.gci := rfl
@[simp] theorem modPins_host (f : Pins → Pins) : (modPins f s).host = s.host := rfl
@[simp] theorem modPins_telem (f : Pins → Pins) : (modPins f s).telem = s.telem := rfl
@[simp] theorem modPins_ports (f : Pins → Pins) : (modPins f s).ports = s.ports := rfl
@[simp] theorem modPins_links (f : Pins → Pins) : (modPins f s).links = s.links := rfl
@[simp] theorem modPins_route (f : Pins → Pins) : (modPins f s).route = s.route := rfl
@[simp] theorem modPins_pot (f : Pins → Pins) : (modPins f s).pot = s.pot := rfl
@[simp] theorem modPins_sq (f : Pins → Pins) : (modPins f s).sq = s.sq := rfl
@[simp] theorem modPins_ladder (f : Pins → Pins) : (modPins f s).ladder = s.ladder := rfl
@[simp] theorem modPins_inbox (f : Pins → Pins) : (modPins f s).inbox = s.inbox := rfl
@[simp] theorem modPins_pawn (f : Pins → Pins) : (modPins f s).pawn = s.pawn := rfl
@[simp] theorem modPins_mem (f : Pins → Pins) : (modPins f s).mem = s.mem := rfl
@[simp] theorem modPins_sheet (f : Pins → Pins) : (modPins f s).sheet = s.sheet := rfl
@[simp] theorem modPins_hazard (f : Pins → Pins) : (modPins f s).hazard = s.hazard := rfl
@[simp] theorem modPins_tables (f : Pins → Pins) : (modPins f s).tables = s.tables := rfl
@[simp] theorem modPins_opening (f : Pins → Pins) : (modPins f s).opening = s.opening := rfl
@[simp] theorem modPins_feed (f : Pins → Pins) : (modPins f s).feed = s.feed := rfl
@[simp] theorem modPins_mu (f : Pins → Pins) : (modPins f s).mu = s.mu := rfl
@[simp] theorem modPins_mats (f : Pins → Pins) : (modPins f s).mats = s.mats := rfl
@[simp] theorem modPins_norm (f : Pins → Pins) : (modPins f s).norm = s.norm := rfl
@[simp] theorem modPins_pipes (f : Pins → Pins) : (modPins f s).pipes = s.pipes := rfl
@[simp] theorem modPins_dma (f : Pins → Pins) : (modPins f s).dma = s.dma := rfl
@[simp] theorem modPins_kunits (f : Pins → Pins) : (modPins f s).kunits = s.kunits := rfl
@[simp] theorem modPins_doubles (f : Pins → Pins) : (modPins f s).doubles = s.doubles := rfl
@[simp] theorem modPins_detachNum (f : Pins → Pins) : (modPins f s).detachNum = s.detachNum := rfl
@[simp] theorem modPins_targets (f : Pins → Pins) : (modPins f s).targets = s.targets := rfl
@[simp] theorem modPins_store (f : Pins → Pins) : (modPins f s).store = s.store := rfl
@[simp] theorem modPins_held (f : Pins → Pins) : (modPins f s).held = s.held := rfl
@[simp] theorem modPins_strayAll (f : Pins → Pins) : (modPins f s).strayAll = s.strayAll := rfl

/-! ### modRoute -/

@[simp] theorem modRoute_pending (f : Route → Route) : (modRoute f s).pending = s.pending := rfl
@[simp] theorem modRoute_out (f : Route → Route) : (modRoute f s).out = s.out := rfl
@[simp] theorem modRoute_free (f : Route → Route) : (modRoute f s).free = s.free := rfl
@[simp] theorem modRoute_pins (f : Route → Route) : (modRoute f s).pins = s.pins := rfl
@[simp] theorem modRoute_boot (f : Route → Route) : (modRoute f s).boot = s.boot := rfl
@[simp] theorem modRoute_power (f : Route → Route) : (modRoute f s).power = s.power := rfl
@[simp] theorem modRoute_alert (f : Route → Route) : (modRoute f s).alert = s.alert := rfl
@[simp] theorem modRoute_wd (f : Route → Route) : (modRoute f s).wd = s.wd := rfl
@[simp] theorem modRoute_time (f : Route → Route) : (modRoute f s).time = s.time := rfl
@[simp] theorem modRoute_ident (f : Route → Route) : (modRoute f s).ident = s.ident := rfl
@[simp] theorem modRoute_flash (f : Route → Route) : (modRoute f s).flash = s.flash := rfl
@[simp] theorem modRoute_mbox (f : Route → Route) : (modRoute f s).mbox = s.mbox := rfl
@[simp] theorem modRoute_gci (f : Route → Route) : (modRoute f s).gci = s.gci := rfl
@[simp] theorem modRoute_host (f : Route → Route) : (modRoute f s).host = s.host := rfl
@[simp] theorem modRoute_telem (f : Route → Route) : (modRoute f s).telem = s.telem := rfl
@[simp] theorem modRoute_ports (f : Route → Route) : (modRoute f s).ports = s.ports := rfl
@[simp] theorem modRoute_links (f : Route → Route) : (modRoute f s).links = s.links := rfl
@[simp] theorem modRoute_route (f : Route → Route) : (modRoute f s).route = f s.route := rfl
@[simp] theorem modRoute_pot (f : Route → Route) : (modRoute f s).pot = s.pot := rfl
@[simp] theorem modRoute_sq (f : Route → Route) : (modRoute f s).sq = s.sq := rfl
@[simp] theorem modRoute_ladder (f : Route → Route) : (modRoute f s).ladder = s.ladder := rfl
@[simp] theorem modRoute_inbox (f : Route → Route) : (modRoute f s).inbox = s.inbox := rfl
@[simp] theorem modRoute_pawn (f : Route → Route) : (modRoute f s).pawn = s.pawn := rfl
@[simp] theorem modRoute_mem (f : Route → Route) : (modRoute f s).mem = s.mem := rfl
@[simp] theorem modRoute_sheet (f : Route → Route) : (modRoute f s).sheet = s.sheet := rfl
@[simp] theorem modRoute_hazard (f : Route → Route) : (modRoute f s).hazard = s.hazard := rfl
@[simp] theorem modRoute_tables (f : Route → Route) : (modRoute f s).tables = s.tables := rfl
@[simp] theorem modRoute_opening (f : Route → Route) : (modRoute f s).opening = s.opening := rfl
@[simp] theorem modRoute_feed (f : Route → Route) : (modRoute f s).feed = s.feed := rfl
@[simp] theorem modRoute_mu (f : Route → Route) : (modRoute f s).mu = s.mu := rfl
@[simp] theorem modRoute_mats (f : Route → Route) : (modRoute f s).mats = s.mats := rfl
@[simp] theorem modRoute_norm (f : Route → Route) : (modRoute f s).norm = s.norm := rfl
@[simp] theorem modRoute_pipes (f : Route → Route) : (modRoute f s).pipes = s.pipes := rfl
@[simp] theorem modRoute_dma (f : Route → Route) : (modRoute f s).dma = s.dma := rfl
@[simp] theorem modRoute_kunits (f : Route → Route) : (modRoute f s).kunits = s.kunits := rfl
@[simp] theorem modRoute_doubles (f : Route → Route) : (modRoute f s).doubles = s.doubles := rfl
@[simp] theorem modRoute_detachNum (f : Route → Route) : (modRoute f s).detachNum = s.detachNum := rfl
@[simp] theorem modRoute_targets (f : Route → Route) : (modRoute f s).targets = s.targets := rfl
@[simp] theorem modRoute_store (f : Route → Route) : (modRoute f s).store = s.store := rfl
@[simp] theorem modRoute_held (f : Route → Route) : (modRoute f s).held = s.held := rfl
@[simp] theorem modRoute_strayAll (f : Route → Route) : (modRoute f s).strayAll = s.strayAll := rfl

/-! ### modPot -/

@[simp] theorem modPot_pending (f : Pot → Pot) : (modPot f s).pending = s.pending := rfl
@[simp] theorem modPot_out (f : Pot → Pot) : (modPot f s).out = s.out := rfl
@[simp] theorem modPot_free (f : Pot → Pot) : (modPot f s).free = s.free := rfl
@[simp] theorem modPot_pins (f : Pot → Pot) : (modPot f s).pins = s.pins := rfl
@[simp] theorem modPot_boot (f : Pot → Pot) : (modPot f s).boot = s.boot := rfl
@[simp] theorem modPot_power (f : Pot → Pot) : (modPot f s).power = s.power := rfl
@[simp] theorem modPot_alert (f : Pot → Pot) : (modPot f s).alert = s.alert := rfl
@[simp] theorem modPot_wd (f : Pot → Pot) : (modPot f s).wd = s.wd := rfl
@[simp] theorem modPot_time (f : Pot → Pot) : (modPot f s).time = s.time := rfl
@[simp] theorem modPot_ident (f : Pot → Pot) : (modPot f s).ident = s.ident := rfl
@[simp] theorem modPot_flash (f : Pot → Pot) : (modPot f s).flash = s.flash := rfl
@[simp] theorem modPot_mbox (f : Pot → Pot) : (modPot f s).mbox = s.mbox := rfl
@[simp] theorem modPot_gci (f : Pot → Pot) : (modPot f s).gci = s.gci := rfl
@[simp] theorem modPot_host (f : Pot → Pot) : (modPot f s).host = s.host := rfl
@[simp] theorem modPot_telem (f : Pot → Pot) : (modPot f s).telem = s.telem := rfl
@[simp] theorem modPot_ports (f : Pot → Pot) : (modPot f s).ports = s.ports := rfl
@[simp] theorem modPot_links (f : Pot → Pot) : (modPot f s).links = s.links := rfl
@[simp] theorem modPot_route (f : Pot → Pot) : (modPot f s).route = s.route := rfl
@[simp] theorem modPot_pot (f : Pot → Pot) : (modPot f s).pot = f s.pot := rfl
@[simp] theorem modPot_sq (f : Pot → Pot) : (modPot f s).sq = s.sq := rfl
@[simp] theorem modPot_ladder (f : Pot → Pot) : (modPot f s).ladder = s.ladder := rfl
@[simp] theorem modPot_inbox (f : Pot → Pot) : (modPot f s).inbox = s.inbox := rfl
@[simp] theorem modPot_pawn (f : Pot → Pot) : (modPot f s).pawn = s.pawn := rfl
@[simp] theorem modPot_mem (f : Pot → Pot) : (modPot f s).mem = s.mem := rfl
@[simp] theorem modPot_sheet (f : Pot → Pot) : (modPot f s).sheet = s.sheet := rfl
@[simp] theorem modPot_hazard (f : Pot → Pot) : (modPot f s).hazard = s.hazard := rfl
@[simp] theorem modPot_tables (f : Pot → Pot) : (modPot f s).tables = s.tables := rfl
@[simp] theorem modPot_opening (f : Pot → Pot) : (modPot f s).opening = s.opening := rfl
@[simp] theorem modPot_feed (f : Pot → Pot) : (modPot f s).feed = s.feed := rfl
@[simp] theorem modPot_mu (f : Pot → Pot) : (modPot f s).mu = s.mu := rfl
@[simp] theorem modPot_mats (f : Pot → Pot) : (modPot f s).mats = s.mats := rfl
@[simp] theorem modPot_norm (f : Pot → Pot) : (modPot f s).norm = s.norm := rfl
@[simp] theorem modPot_pipes (f : Pot → Pot) : (modPot f s).pipes = s.pipes := rfl
@[simp] theorem modPot_dma (f : Pot → Pot) : (modPot f s).dma = s.dma := rfl
@[simp] theorem modPot_kunits (f : Pot → Pot) : (modPot f s).kunits = s.kunits := rfl
@[simp] theorem modPot_doubles (f : Pot → Pot) : (modPot f s).doubles = s.doubles := rfl
@[simp] theorem modPot_detachNum (f : Pot → Pot) : (modPot f s).detachNum = s.detachNum := rfl
@[simp] theorem modPot_targets (f : Pot → Pot) : (modPot f s).targets = s.targets := rfl
@[simp] theorem modPot_store (f : Pot → Pot) : (modPot f s).store = s.store := rfl
@[simp] theorem modPot_held (f : Pot → Pot) : (modPot f s).held = s.held := rfl
@[simp] theorem modPot_strayAll (f : Pot → Pot) : (modPot f s).strayAll = s.strayAll := rfl

/-! ### modSq -/

@[simp] theorem modSq_pending (f : Squares → Squares) : (modSq f s).pending = s.pending := rfl
@[simp] theorem modSq_out (f : Squares → Squares) : (modSq f s).out = s.out := rfl
@[simp] theorem modSq_free (f : Squares → Squares) : (modSq f s).free = s.free := rfl
@[simp] theorem modSq_pins (f : Squares → Squares) : (modSq f s).pins = s.pins := rfl
@[simp] theorem modSq_boot (f : Squares → Squares) : (modSq f s).boot = s.boot := rfl
@[simp] theorem modSq_power (f : Squares → Squares) : (modSq f s).power = s.power := rfl
@[simp] theorem modSq_alert (f : Squares → Squares) : (modSq f s).alert = s.alert := rfl
@[simp] theorem modSq_wd (f : Squares → Squares) : (modSq f s).wd = s.wd := rfl
@[simp] theorem modSq_time (f : Squares → Squares) : (modSq f s).time = s.time := rfl
@[simp] theorem modSq_ident (f : Squares → Squares) : (modSq f s).ident = s.ident := rfl
@[simp] theorem modSq_flash (f : Squares → Squares) : (modSq f s).flash = s.flash := rfl
@[simp] theorem modSq_mbox (f : Squares → Squares) : (modSq f s).mbox = s.mbox := rfl
@[simp] theorem modSq_gci (f : Squares → Squares) : (modSq f s).gci = s.gci := rfl
@[simp] theorem modSq_host (f : Squares → Squares) : (modSq f s).host = s.host := rfl
@[simp] theorem modSq_telem (f : Squares → Squares) : (modSq f s).telem = s.telem := rfl
@[simp] theorem modSq_ports (f : Squares → Squares) : (modSq f s).ports = s.ports := rfl
@[simp] theorem modSq_links (f : Squares → Squares) : (modSq f s).links = s.links := rfl
@[simp] theorem modSq_route (f : Squares → Squares) : (modSq f s).route = s.route := rfl
@[simp] theorem modSq_pot (f : Squares → Squares) : (modSq f s).pot = s.pot := rfl
@[simp] theorem modSq_sq (f : Squares → Squares) : (modSq f s).sq = f s.sq := rfl
@[simp] theorem modSq_ladder (f : Squares → Squares) : (modSq f s).ladder = s.ladder := rfl
@[simp] theorem modSq_inbox (f : Squares → Squares) : (modSq f s).inbox = s.inbox := rfl
@[simp] theorem modSq_pawn (f : Squares → Squares) : (modSq f s).pawn = s.pawn := rfl
@[simp] theorem modSq_mem (f : Squares → Squares) : (modSq f s).mem = s.mem := rfl
@[simp] theorem modSq_sheet (f : Squares → Squares) : (modSq f s).sheet = s.sheet := rfl
@[simp] theorem modSq_hazard (f : Squares → Squares) : (modSq f s).hazard = s.hazard := rfl
@[simp] theorem modSq_tables (f : Squares → Squares) : (modSq f s).tables = s.tables := rfl
@[simp] theorem modSq_opening (f : Squares → Squares) : (modSq f s).opening = s.opening := rfl
@[simp] theorem modSq_feed (f : Squares → Squares) : (modSq f s).feed = s.feed := rfl
@[simp] theorem modSq_mu (f : Squares → Squares) : (modSq f s).mu = s.mu := rfl
@[simp] theorem modSq_mats (f : Squares → Squares) : (modSq f s).mats = s.mats := rfl
@[simp] theorem modSq_norm (f : Squares → Squares) : (modSq f s).norm = s.norm := rfl
@[simp] theorem modSq_pipes (f : Squares → Squares) : (modSq f s).pipes = s.pipes := rfl
@[simp] theorem modSq_dma (f : Squares → Squares) : (modSq f s).dma = s.dma := rfl
@[simp] theorem modSq_kunits (f : Squares → Squares) : (modSq f s).kunits = s.kunits := rfl
@[simp] theorem modSq_doubles (f : Squares → Squares) : (modSq f s).doubles = s.doubles := rfl
@[simp] theorem modSq_detachNum (f : Squares → Squares) : (modSq f s).detachNum = s.detachNum := rfl
@[simp] theorem modSq_targets (f : Squares → Squares) : (modSq f s).targets = s.targets := rfl
@[simp] theorem modSq_store (f : Squares → Squares) : (modSq f s).store = s.store := rfl
@[simp] theorem modSq_held (f : Squares → Squares) : (modSq f s).held = s.held := rfl
@[simp] theorem modSq_strayAll (f : Squares → Squares) : (modSq f s).strayAll = s.strayAll := rfl

/-! ### modLadder -/

@[simp] theorem modLadder_pending (f : Ladder → Ladder) : (modLadder f s).pending = s.pending := rfl
@[simp] theorem modLadder_out (f : Ladder → Ladder) : (modLadder f s).out = s.out := rfl
@[simp] theorem modLadder_free (f : Ladder → Ladder) : (modLadder f s).free = s.free := rfl
@[simp] theorem modLadder_pins (f : Ladder → Ladder) : (modLadder f s).pins = s.pins := rfl
@[simp] theorem modLadder_boot (f : Ladder → Ladder) : (modLadder f s).boot = s.boot := rfl
@[simp] theorem modLadder_power (f : Ladder → Ladder) : (modLadder f s).power = s.power := rfl
@[simp] theorem modLadder_alert (f : Ladder → Ladder) : (modLadder f s).alert = s.alert := rfl
@[simp] theorem modLadder_wd (f : Ladder → Ladder) : (modLadder f s).wd = s.wd := rfl
@[simp] theorem modLadder_time (f : Ladder → Ladder) : (modLadder f s).time = s.time := rfl
@[simp] theorem modLadder_ident (f : Ladder → Ladder) : (modLadder f s).ident = s.ident := rfl
@[simp] theorem modLadder_flash (f : Ladder → Ladder) : (modLadder f s).flash = s.flash := rfl
@[simp] theorem modLadder_mbox (f : Ladder → Ladder) : (modLadder f s).mbox = s.mbox := rfl
@[simp] theorem modLadder_gci (f : Ladder → Ladder) : (modLadder f s).gci = s.gci := rfl
@[simp] theorem modLadder_host (f : Ladder → Ladder) : (modLadder f s).host = s.host := rfl
@[simp] theorem modLadder_telem (f : Ladder → Ladder) : (modLadder f s).telem = s.telem := rfl
@[simp] theorem modLadder_ports (f : Ladder → Ladder) : (modLadder f s).ports = s.ports := rfl
@[simp] theorem modLadder_links (f : Ladder → Ladder) : (modLadder f s).links = s.links := rfl
@[simp] theorem modLadder_route (f : Ladder → Ladder) : (modLadder f s).route = s.route := rfl
@[simp] theorem modLadder_pot (f : Ladder → Ladder) : (modLadder f s).pot = s.pot := rfl
@[simp] theorem modLadder_sq (f : Ladder → Ladder) : (modLadder f s).sq = s.sq := rfl
@[simp] theorem modLadder_ladder (f : Ladder → Ladder) : (modLadder f s).ladder = f s.ladder := rfl
@[simp] theorem modLadder_inbox (f : Ladder → Ladder) : (modLadder f s).inbox = s.inbox := rfl
@[simp] theorem modLadder_pawn (f : Ladder → Ladder) : (modLadder f s).pawn = s.pawn := rfl
@[simp] theorem modLadder_mem (f : Ladder → Ladder) : (modLadder f s).mem = s.mem := rfl
@[simp] theorem modLadder_sheet (f : Ladder → Ladder) : (modLadder f s).sheet = s.sheet := rfl
@[simp] theorem modLadder_hazard (f : Ladder → Ladder) : (modLadder f s).hazard = s.hazard := rfl
@[simp] theorem modLadder_tables (f : Ladder → Ladder) : (modLadder f s).tables = s.tables := rfl
@[simp] theorem modLadder_opening (f : Ladder → Ladder) : (modLadder f s).opening = s.opening := rfl
@[simp] theorem modLadder_feed (f : Ladder → Ladder) : (modLadder f s).feed = s.feed := rfl
@[simp] theorem modLadder_mu (f : Ladder → Ladder) : (modLadder f s).mu = s.mu := rfl
@[simp] theorem modLadder_mats (f : Ladder → Ladder) : (modLadder f s).mats = s.mats := rfl
@[simp] theorem modLadder_norm (f : Ladder → Ladder) : (modLadder f s).norm = s.norm := rfl
@[simp] theorem modLadder_pipes (f : Ladder → Ladder) : (modLadder f s).pipes = s.pipes := rfl
@[simp] theorem modLadder_dma (f : Ladder → Ladder) : (modLadder f s).dma = s.dma := rfl
@[simp] theorem modLadder_kunits (f : Ladder → Ladder) : (modLadder f s).kunits = s.kunits := rfl
@[simp] theorem modLadder_doubles (f : Ladder → Ladder) : (modLadder f s).doubles = s.doubles := rfl
@[simp] theorem modLadder_detachNum (f : Ladder → Ladder) : (modLadder f s).detachNum = s.detachNum := rfl
@[simp] theorem modLadder_targets (f : Ladder → Ladder) : (modLadder f s).targets = s.targets := rfl
@[simp] theorem modLadder_store (f : Ladder → Ladder) : (modLadder f s).store = s.store := rfl
@[simp] theorem modLadder_held (f : Ladder → Ladder) : (modLadder f s).held = s.held := rfl
@[simp] theorem modLadder_strayAll (f : Ladder → Ladder) : (modLadder f s).strayAll = s.strayAll := rfl

/-! ### modMem -/

@[simp] theorem modMem_pending (f : Mem → Mem) : (modMem f s).pending = s.pending := rfl
@[simp] theorem modMem_out (f : Mem → Mem) : (modMem f s).out = s.out := rfl
@[simp] theorem modMem_free (f : Mem → Mem) : (modMem f s).free = s.free := rfl
@[simp] theorem modMem_pins (f : Mem → Mem) : (modMem f s).pins = s.pins := rfl
@[simp] theorem modMem_boot (f : Mem → Mem) : (modMem f s).boot = s.boot := rfl
@[simp] theorem modMem_power (f : Mem → Mem) : (modMem f s).power = s.power := rfl
@[simp] theorem modMem_alert (f : Mem → Mem) : (modMem f s).alert = s.alert := rfl
@[simp] theorem modMem_wd (f : Mem → Mem) : (modMem f s).wd = s.wd := rfl
@[simp] theorem modMem_time (f : Mem → Mem) : (modMem f s).time = s.time := rfl
@[simp] theorem modMem_ident (f : Mem → Mem) : (modMem f s).ident = s.ident := rfl
@[simp] theorem modMem_flash (f : Mem → Mem) : (modMem f s).flash = s.flash := rfl
@[simp] theorem modMem_mbox (f : Mem → Mem) : (modMem f s).mbox = s.mbox := rfl
@[simp] theorem modMem_gci (f : Mem → Mem) : (modMem f s).gci = s.gci := rfl
@[simp] theorem modMem_host (f : Mem → Mem) : (modMem f s).host = s.host := rfl
@[simp] theorem modMem_telem (f : Mem → Mem) : (modMem f s).telem = s.telem := rfl
@[simp] theorem modMem_ports (f : Mem → Mem) : (modMem f s).ports = s.ports := rfl
@[simp] theorem modMem_links (f : Mem → Mem) : (modMem f s).links = s.links := rfl
@[simp] theorem modMem_route (f : Mem → Mem) : (modMem f s).route = s.route := rfl
@[simp] theorem modMem_pot (f : Mem → Mem) : (modMem f s).pot = s.pot := rfl
@[simp] theorem modMem_sq (f : Mem → Mem) : (modMem f s).sq = s.sq := rfl
@[simp] theorem modMem_ladder (f : Mem → Mem) : (modMem f s).ladder = s.ladder := rfl
@[simp] theorem modMem_inbox (f : Mem → Mem) : (modMem f s).inbox = s.inbox := rfl
@[simp] theorem modMem_pawn (f : Mem → Mem) : (modMem f s).pawn = s.pawn := rfl
@[simp] theorem modMem_mem (f : Mem → Mem) : (modMem f s).mem = f s.mem := rfl
@[simp] theorem modMem_sheet (f : Mem → Mem) : (modMem f s).sheet = s.sheet := rfl
@[simp] theorem modMem_hazard (f : Mem → Mem) : (modMem f s).hazard = s.hazard := rfl
@[simp] theorem modMem_tables (f : Mem → Mem) : (modMem f s).tables = s.tables := rfl
@[simp] theorem modMem_opening (f : Mem → Mem) : (modMem f s).opening = s.opening := rfl
@[simp] theorem modMem_feed (f : Mem → Mem) : (modMem f s).feed = s.feed := rfl
@[simp] theorem modMem_mu (f : Mem → Mem) : (modMem f s).mu = s.mu := rfl
@[simp] theorem modMem_mats (f : Mem → Mem) : (modMem f s).mats = s.mats := rfl
@[simp] theorem modMem_norm (f : Mem → Mem) : (modMem f s).norm = s.norm := rfl
@[simp] theorem modMem_pipes (f : Mem → Mem) : (modMem f s).pipes = s.pipes := rfl
@[simp] theorem modMem_dma (f : Mem → Mem) : (modMem f s).dma = s.dma := rfl
@[simp] theorem modMem_kunits (f : Mem → Mem) : (modMem f s).kunits = s.kunits := rfl
@[simp] theorem modMem_doubles (f : Mem → Mem) : (modMem f s).doubles = s.doubles := rfl
@[simp] theorem modMem_detachNum (f : Mem → Mem) : (modMem f s).detachNum = s.detachNum := rfl
@[simp] theorem modMem_targets (f : Mem → Mem) : (modMem f s).targets = s.targets := rfl
@[simp] theorem modMem_store (f : Mem → Mem) : (modMem f s).store = s.store := rfl
@[simp] theorem modMem_held (f : Mem → Mem) : (modMem f s).held = s.held := rfl
@[simp] theorem modMem_strayAll (f : Mem → Mem) : (modMem f s).strayAll = s.strayAll := rfl

/-! ### modSheet -/

@[simp] theorem modSheet_pending (f : Sheet → Sheet) : (modSheet f s).pending = s.pending := rfl
@[simp] theorem modSheet_out (f : Sheet → Sheet) : (modSheet f s).out = s.out := rfl
@[simp] theorem modSheet_free (f : Sheet → Sheet) : (modSheet f s).free = s.free := rfl
@[simp] theorem modSheet_pins (f : Sheet → Sheet) : (modSheet f s).pins = s.pins := rfl
@[simp] theorem modSheet_boot (f : Sheet → Sheet) : (modSheet f s).boot = s.boot := rfl
@[simp] theorem modSheet_power (f : Sheet → Sheet) : (modSheet f s).power = s.power := rfl
@[simp] theorem modSheet_alert (f : Sheet → Sheet) : (modSheet f s).alert = s.alert := rfl
@[simp] theorem modSheet_wd (f : Sheet → Sheet) : (modSheet f s).wd = s.wd := rfl
@[simp] theorem modSheet_time (f : Sheet → Sheet) : (modSheet f s).time = s.time := rfl
@[simp] theorem modSheet_ident (f : Sheet → Sheet) : (modSheet f s).ident = s.ident := rfl
@[simp] theorem modSheet_flash (f : Sheet → Sheet) : (modSheet f s).flash = s.flash := rfl
@[simp] theorem modSheet_mbox (f : Sheet → Sheet) : (modSheet f s).mbox = s.mbox := rfl
@[simp] theorem modSheet_gci (f : Sheet → Sheet) : (modSheet f s).gci = s.gci := rfl
@[simp] theorem modSheet_host (f : Sheet → Sheet) : (modSheet f s).host = s.host := rfl
@[simp] theorem modSheet_telem (f : Sheet → Sheet) : (modSheet f s).telem = s.telem := rfl
@[simp] theorem modSheet_ports (f : Sheet → Sheet) : (modSheet f s).ports = s.ports := rfl
@[simp] theorem modSheet_links (f : Sheet → Sheet) : (modSheet f s).links = s.links := rfl
@[simp] theorem modSheet_route (f : Sheet → Sheet) : (modSheet f s).route = s.route := rfl
@[simp] theorem modSheet_pot (f : Sheet → Sheet) : (modSheet f s).pot = s.pot := rfl
@[simp] theorem modSheet_sq (f : Sheet → Sheet) : (modSheet f s).sq = s.sq := rfl
@[simp] theorem modSheet_ladder (f : Sheet → Sheet) : (modSheet f s).ladder = s.ladder := rfl
@[simp] theorem modSheet_inbox (f : Sheet → Sheet) : (modSheet f s).inbox = s.inbox := rfl
@[simp] theorem modSheet_pawn (f : Sheet → Sheet) : (modSheet f s).pawn = s.pawn := rfl
@[simp] theorem modSheet_mem (f : Sheet → Sheet) : (modSheet f s).mem = s.mem := rfl
@[simp] theorem modSheet_sheet (f : Sheet → Sheet) : (modSheet f s).sheet = f s.sheet := rfl
@[simp] theorem modSheet_hazard (f : Sheet → Sheet) : (modSheet f s).hazard = s.hazard := rfl
@[simp] theorem modSheet_tables (f : Sheet → Sheet) : (modSheet f s).tables = s.tables := rfl
@[simp] theorem modSheet_opening (f : Sheet → Sheet) : (modSheet f s).opening = s.opening := rfl
@[simp] theorem modSheet_feed (f : Sheet → Sheet) : (modSheet f s).feed = s.feed := rfl
@[simp] theorem modSheet_mu (f : Sheet → Sheet) : (modSheet f s).mu = s.mu := rfl
@[simp] theorem modSheet_mats (f : Sheet → Sheet) : (modSheet f s).mats = s.mats := rfl
@[simp] theorem modSheet_norm (f : Sheet → Sheet) : (modSheet f s).norm = s.norm := rfl
@[simp] theorem modSheet_pipes (f : Sheet → Sheet) : (modSheet f s).pipes = s.pipes := rfl
@[simp] theorem modSheet_dma (f : Sheet → Sheet) : (modSheet f s).dma = s.dma := rfl
@[simp] theorem modSheet_kunits (f : Sheet → Sheet) : (modSheet f s).kunits = s.kunits := rfl
@[simp] theorem modSheet_doubles (f : Sheet → Sheet) : (modSheet f s).doubles = s.doubles := rfl
@[simp] theorem modSheet_detachNum (f : Sheet → Sheet) : (modSheet f s).detachNum = s.detachNum := rfl
@[simp] theorem modSheet_targets (f : Sheet → Sheet) : (modSheet f s).targets = s.targets := rfl
@[simp] theorem modSheet_store (f : Sheet → Sheet) : (modSheet f s).store = s.store := rfl
@[simp] theorem modSheet_held (f : Sheet → Sheet) : (modSheet f s).held = s.held := rfl
@[simp] theorem modSheet_strayAll (f : Sheet → Sheet) : (modSheet f s).strayAll = s.strayAll := rfl

/-! ### modHazard -/

@[simp] theorem modHazard_pending (f : Hazard → Hazard) : (modHazard f s).pending = s.pending := rfl
@[simp] theorem modHazard_out (f : Hazard → Hazard) : (modHazard f s).out = s.out := rfl
@[simp] theorem modHazard_free (f : Hazard → Hazard) : (modHazard f s).free = s.free := rfl
@[simp] theorem modHazard_pins (f : Hazard → Hazard) : (modHazard f s).pins = s.pins := rfl
@[simp] theorem modHazard_boot (f : Hazard → Hazard) : (modHazard f s).boot = s.boot := rfl
@[simp] theorem modHazard_power (f : Hazard → Hazard) : (modHazard f s).power = s.power := rfl
@[simp] theorem modHazard_alert (f : Hazard → Hazard) : (modHazard f s).alert = s.alert := rfl
@[simp] theorem modHazard_wd (f : Hazard → Hazard) : (modHazard f s).wd = s.wd := rfl
@[simp] theorem modHazard_time (f : Hazard → Hazard) : (modHazard f s).time = s.time := rfl
@[simp] theorem modHazard_ident (f : Hazard → Hazard) : (modHazard f s).ident = s.ident := rfl
@[simp] theorem modHazard_flash (f : Hazard → Hazard) : (modHazard f s).flash = s.flash := rfl
@[simp] theorem modHazard_mbox (f : Hazard → Hazard) : (modHazard f s).mbox = s.mbox := rfl
@[simp] theorem modHazard_gci (f : Hazard → Hazard) : (modHazard f s).gci = s.gci := rfl
@[simp] theorem modHazard_host (f : Hazard → Hazard) : (modHazard f s).host = s.host := rfl
@[simp] theorem modHazard_telem (f : Hazard → Hazard) : (modHazard f s).telem = s.telem := rfl
@[simp] theorem modHazard_ports (f : Hazard → Hazard) : (modHazard f s).ports = s.ports := rfl
@[simp] theorem modHazard_links (f : Hazard → Hazard) : (modHazard f s).links = s.links := rfl
@[simp] theorem modHazard_route (f : Hazard → Hazard) : (modHazard f s).route = s.route := rfl
@[simp] theorem modHazard_pot (f : Hazard → Hazard) : (modHazard f s).pot = s.pot := rfl
@[simp] theorem modHazard_sq (f : Hazard → Hazard) : (modHazard f s).sq = s.sq := rfl
@[simp] theorem modHazard_ladder (f : Hazard → Hazard) : (modHazard f s).ladder = s.ladder := rfl
@[simp] theorem modHazard_inbox (f : Hazard → Hazard) : (modHazard f s).inbox = s.inbox := rfl
@[simp] theorem modHazard_pawn (f : Hazard → Hazard) : (modHazard f s).pawn = s.pawn := rfl
@[simp] theorem modHazard_mem (f : Hazard → Hazard) : (modHazard f s).mem = s.mem := rfl
@[simp] theorem modHazard_sheet (f : Hazard → Hazard) : (modHazard f s).sheet = s.sheet := rfl
@[simp] theorem modHazard_hazard (f : Hazard → Hazard) : (modHazard f s).hazard = f s.hazard := rfl
@[simp] theorem modHazard_tables (f : Hazard → Hazard) : (modHazard f s).tables = s.tables := rfl
@[simp] theorem modHazard_opening (f : Hazard → Hazard) : (modHazard f s).opening = s.opening := rfl
@[simp] theorem modHazard_feed (f : Hazard → Hazard) : (modHazard f s).feed = s.feed := rfl
@[simp] theorem modHazard_mu (f : Hazard → Hazard) : (modHazard f s).mu = s.mu := rfl
@[simp] theorem modHazard_mats (f : Hazard → Hazard) : (modHazard f s).mats = s.mats := rfl
@[simp] theorem modHazard_norm (f : Hazard → Hazard) : (modHazard f s).norm = s.norm := rfl
@[simp] theorem modHazard_pipes (f : Hazard → Hazard) : (modHazard f s).pipes = s.pipes := rfl
@[simp] theorem modHazard_dma (f : Hazard → Hazard) : (modHazard f s).dma = s.dma := rfl
@[simp] theorem modHazard_kunits (f : Hazard → Hazard) : (modHazard f s).kunits = s.kunits := rfl
@[simp] theorem modHazard_doubles (f : Hazard → Hazard) : (modHazard f s).doubles = s.doubles := rfl
@[simp] theorem modHazard_detachNum (f : Hazard → Hazard) : (modHazard f s).detachNum = s.detachNum := rfl
@[simp] theorem modHazard_targets (f : Hazard → Hazard) : (modHazard f s).targets = s.targets := rfl
@[simp] theorem modHazard_store (f : Hazard → Hazard) : (modHazard f s).store = s.store := rfl
@[simp] theorem modHazard_held (f : Hazard → Hazard) : (modHazard f s).held = s.held := rfl
@[simp] theorem modHazard_strayAll (f : Hazard → Hazard) : (modHazard f s).strayAll = s.strayAll := rfl

/-! ### modLink -/

@[simp] theorem modLink_pending (i : Nat) (f : Link → Link) : (modLink i f s).pending = s.pending := rfl
@[simp] theorem modLink_out (i : Nat) (f : Link → Link) : (modLink i f s).out = s.out := rfl
@[simp] theorem modLink_free (i : Nat) (f : Link → Link) : (modLink i f s).free = s.free := rfl
@[simp] theorem modLink_pins (i : Nat) (f : Link → Link) : (modLink i f s).pins = s.pins := rfl
@[simp] theorem modLink_boot (i : Nat) (f : Link → Link) : (modLink i f s).boot = s.boot := rfl
@[simp] theorem modLink_power (i : Nat) (f : Link → Link) : (modLink i f s).power = s.power := rfl
@[simp] theorem modLink_alert (i : Nat) (f : Link → Link) : (modLink i f s).alert = s.alert := rfl
@[simp] theorem modLink_wd (i : Nat) (f : Link → Link) : (modLink i f s).wd = s.wd := rfl
@[simp] theorem modLink_time (i : Nat) (f : Link → Link) : (modLink i f s).time = s.time := rfl
@[simp] theorem modLink_ident (i : Nat) (f : Link → Link) : (modLink i f s).ident = s.ident := rfl
@[simp] theorem modLink_flash (i : Nat) (f : Link → Link) : (modLink i f s).flash = s.flash := rfl
@[simp] theorem modLink_mbox (i : Nat) (f : Link → Link) : (modLink i f s).mbox = s.mbox := rfl
@[simp] theorem modLink_gci (i : Nat) (f : Link → Link) : (modLink i f s).gci = s.gci := rfl
@[simp] theorem modLink_host (i : Nat) (f : Link → Link) : (modLink i f s).host = s.host := rfl
@[simp] theorem modLink_telem (i : Nat) (f : Link → Link) : (modLink i f s).telem = s.telem := rfl
@[simp] theorem modLink_ports (i : Nat) (f : Link → Link) : (modLink i f s).ports = s.ports := rfl
@[simp] theorem modLink_links (i : Nat) (f : Link → Link) : (modLink i f s).links = modAt s.links i f := rfl
@[simp] theorem modLink_route (i : Nat) (f : Link → Link) : (modLink i f s).route = s.route := rfl
@[simp] theorem modLink_pot (i : Nat) (f : Link → Link) : (modLink i f s).pot = s.pot := rfl
@[simp] theorem modLink_sq (i : Nat) (f : Link → Link) : (modLink i f s).sq = s.sq := rfl
@[simp] theorem modLink_ladder (i : Nat) (f : Link → Link) : (modLink i f s).ladder = s.ladder := rfl
@[simp] theorem modLink_inbox (i : Nat) (f : Link → Link) : (modLink i f s).inbox = s.inbox := rfl
@[simp] theorem modLink_pawn (i : Nat) (f : Link → Link) : (modLink i f s).pawn = s.pawn := rfl
@[simp] theorem modLink_mem (i : Nat) (f : Link → Link) : (modLink i f s).mem = s.mem := rfl
@[simp] theorem modLink_sheet (i : Nat) (f : Link → Link) : (modLink i f s).sheet = s.sheet := rfl
@[simp] theorem modLink_hazard (i : Nat) (f : Link → Link) : (modLink i f s).hazard = s.hazard := rfl
@[simp] theorem modLink_tables (i : Nat) (f : Link → Link) : (modLink i f s).tables = s.tables := rfl
@[simp] theorem modLink_opening (i : Nat) (f : Link → Link) : (modLink i f s).opening = s.opening := rfl
@[simp] theorem modLink_feed (i : Nat) (f : Link → Link) : (modLink i f s).feed = s.feed := rfl
@[simp] theorem modLink_mu (i : Nat) (f : Link → Link) : (modLink i f s).mu = s.mu := rfl
@[simp] theorem modLink_mats (i : Nat) (f : Link → Link) : (modLink i f s).mats = s.mats := rfl
@[simp] theorem modLink_norm (i : Nat) (f : Link → Link) : (modLink i f s).norm = s.norm := rfl
@[simp] theorem modLink_pipes (i : Nat) (f : Link → Link) : (modLink i f s).pipes = s.pipes := rfl
@[simp] theorem modLink_dma (i : Nat) (f : Link → Link) : (modLink i f s).dma = s.dma := rfl
@[simp] theorem modLink_kunits (i : Nat) (f : Link → Link) : (modLink i f s).kunits = s.kunits := rfl
@[simp] theorem modLink_doubles (i : Nat) (f : Link → Link) : (modLink i f s).doubles = s.doubles := rfl
@[simp] theorem modLink_detachNum (i : Nat) (f : Link → Link) : (modLink i f s).detachNum = s.detachNum := rfl
@[simp] theorem modLink_targets (i : Nat) (f : Link → Link) : (modLink i f s).targets = s.targets := rfl
@[simp] theorem modLink_store (i : Nat) (f : Link → Link) : (modLink i f s).store = s.store := rfl
@[simp] theorem modLink_held (i : Nat) (f : Link → Link) : (modLink i f s).held = s.held := rfl
@[simp] theorem modLink_strayAll (i : Nat) (f : Link → Link) : (modLink i f s).strayAll = s.strayAll := rfl

/-! ### modPort -/

@[simp] theorem modPort_pending (i : Nat) (f : Port → Port) : (modPort i f s).pending = s.pending := rfl
@[simp] theorem modPort_out (i : Nat) (f : Port → Port) : (modPort i f s).out = s.out := rfl
@[simp] theorem modPort_free (i : Nat) (f : Port → Port) : (modPort i f s).free = s.free := rfl
@[simp] theorem modPort_pins (i : Nat) (f : Port → Port) : (modPort i f s).pins = s.pins := rfl
@[simp] theorem modPort_boot (i : Nat) (f : Port → Port) : (modPort i f s).boot = s.boot := rfl
@[simp] theorem modPort_power (i : Nat) (f : Port → Port) : (modPort i f s).power = s.power := rfl
@[simp] theorem modPort_alert (i : Nat) (f : Port → Port) : (modPort i f s).alert = s.alert := rfl
@[simp] theorem modPort_wd (i : Nat) (f : Port → Port) : (modPort i f s).wd = s.wd := rfl
@[simp] theorem modPort_time (i : Nat) (f : Port → Port) : (modPort i f s).time = s.time := rfl
@[simp] theorem modPort_ident (i : Nat) (f : Port → Port) : (modPort i f s).ident = s.ident := rfl
@[simp] theorem modPort_flash (i : Nat) (f : Port → Port) : (modPort i f s).flash = s.flash := rfl
@[simp] theorem modPort_mbox (i : Nat) (f : Port → Port) : (modPort i f s).mbox = s.mbox := rfl
@[simp] theorem modPort_gci (i : Nat) (f : Port → Port) : (modPort i f s).gci = s.gci := rfl
@[simp] theorem modPort_host (i : Nat) (f : Port → Port) : (modPort i f s).host = s.host := rfl
@[simp] theorem modPort_telem (i : Nat) (f : Port → Port) : (modPort i f s).telem = s.telem := rfl
@[simp] theorem modPort_ports (i : Nat) (f : Port → Port) : (modPort i f s).ports = modAt s.ports i f := rfl
@[simp] theorem modPort_links (i : Nat) (f : Port → Port) : (modPort i f s).links = s.links := rfl
@[simp] theorem modPort_route (i : Nat) (f : Port → Port) : (modPort i f s).route = s.route := rfl
@[simp] theorem modPort_pot (i : Nat) (f : Port → Port) : (modPort i f s).pot = s.pot := rfl
@[simp] theorem modPort_sq (i : Nat) (f : Port → Port) : (modPort i f s).sq = s.sq := rfl
@[simp] theorem modPort_ladder (i : Nat) (f : Port → Port) : (modPort i f s).ladder = s.ladder := rfl
@[simp] theorem modPort_inbox (i : Nat) (f : Port → Port) : (modPort i f s).inbox = s.inbox := rfl
@[simp] theorem modPort_pawn (i : Nat) (f : Port → Port) : (modPort i f s).pawn = s.pawn := rfl
@[simp] theorem modPort_mem (i : Nat) (f : Port → Port) : (modPort i f s).mem = s.mem := rfl
@[simp] theorem modPort_sheet (i : Nat) (f : Port → Port) : (modPort i f s).sheet = s.sheet := rfl
@[simp] theorem modPort_hazard (i : Nat) (f : Port → Port) : (modPort i f s).hazard = s.hazard := rfl
@[simp] theorem modPort_tables (i : Nat) (f : Port → Port) : (modPort i f s).tables = s.tables := rfl
@[simp] theorem modPort_opening (i : Nat) (f : Port → Port) : (modPort i f s).opening = s.opening := rfl
@[simp] theorem modPort_feed (i : Nat) (f : Port → Port) : (modPort i f s).feed = s.feed := rfl
@[simp] theorem modPort_mu (i : Nat) (f : Port → Port) : (modPort i f s).mu = s.mu := rfl
@[simp] theorem modPort_mats (i : Nat) (f : Port → Port) : (modPort i f s).mats = s.mats := rfl
@[simp] theorem modPort_norm (i : Nat) (f : Port → Port) : (modPort i f s).norm = s.norm := rfl
@[simp] theorem modPort_pipes (i : Nat) (f : Port → Port) : (modPort i f s).pipes = s.pipes := rfl
@[simp] theorem modPort_dma (i : Nat) (f : Port → Port) : (modPort i f s).dma = s.dma := rfl
@[simp] theorem modPort_kunits (i : Nat) (f : Port → Port) : (modPort i f s).kunits = s.kunits := rfl
@[simp] theorem modPort_doubles (i : Nat) (f : Port → Port) : (modPort i f s).doubles = s.doubles := rfl
@[simp] theorem modPort_detachNum (i : Nat) (f : Port → Port) : (modPort i f s).detachNum = s.detachNum := rfl
@[simp] theorem modPort_targets (i : Nat) (f : Port → Port) : (modPort i f s).targets = s.targets := rfl
@[simp] theorem modPort_store (i : Nat) (f : Port → Port) : (modPort i f s).store = s.store := rfl
@[simp] theorem modPort_held (i : Nat) (f : Port → Port) : (modPort i f s).held = s.held := rfl
@[simp] theorem modPort_strayAll (i : Nat) (f : Port → Port) : (modPort i f s).strayAll = s.strayAll := rfl

/-! ### modHost -/

@[simp] theorem modHost_pending (i : Nat) (f : HostPort → HostPort) : (modHost i f s).pending = s.pending := rfl
@[simp] theorem modHost_out (i : Nat) (f : HostPort → HostPort) : (modHost i f s).out = s.out := rfl
@[simp] theorem modHost_free (i : Nat) (f : HostPort → HostPort) : (modHost i f s).free = s.free := rfl
@[simp] theorem modHost_pins (i : Nat) (f : HostPort → HostPort) : (modHost i f s).pins = s.pins := rfl
@[simp] theorem modHost_boot (i : Nat) (f : HostPort → HostPort) : (modHost i f s).boot = s.boot := rfl
@[simp] theorem modHost_power (i : Nat) (f : HostPort → HostPort) : (modHost i f s).power = s.power := rfl
@[simp] theorem modHost_alert (i : Nat) (f : HostPort → HostPort) : (modHost i f s).alert = s.alert := rfl
@[simp] theorem modHost_wd (i : Nat) (f : HostPort → HostPort) : (modHost i f s).wd = s.wd := rfl
@[simp] theorem modHost_time (i : Nat) (f : HostPort → HostPort) : (modHost i f s).time = s.time := rfl
@[simp] theorem modHost_ident (i : Nat) (f : HostPort → HostPort) : (modHost i f s).ident = s.ident := rfl
@[simp] theorem modHost_flash (i : Nat) (f : HostPort → HostPort) : (modHost i f s).flash = s.flash := rfl
@[simp] theorem modHost_mbox (i : Nat) (f : HostPort → HostPort) : (modHost i f s).mbox = s.mbox := rfl
@[simp] theorem modHost_gci (i : Nat) (f : HostPort → HostPort) : (modHost i f s).gci = s.gci := rfl
@[simp] theorem modHost_host (i : Nat) (f : HostPort → HostPort) : (modHost i f s).host = modAt s.host i f := rfl
@[simp] theorem modHost_telem (i : Nat) (f : HostPort → HostPort) : (modHost i f s).telem = s.telem := rfl
@[simp] theorem modHost_ports (i : Nat) (f : HostPort → HostPort) : (modHost i f s).ports = s.ports := rfl
@[simp] theorem modHost_links (i : Nat) (f : HostPort → HostPort) : (modHost i f s).links = s.links := rfl
@[simp] theorem modHost_route (i : Nat) (f : HostPort → HostPort) : (modHost i f s).route = s.route := rfl
@[simp] theorem modHost_pot (i : Nat) (f : HostPort → HostPort) : (modHost i f s).pot = s.pot := rfl
@[simp] theorem modHost_sq (i : Nat) (f : HostPort → HostPort) : (modHost i f s).sq = s.sq := rfl
@[simp] theorem modHost_ladder (i : Nat) (f : HostPort → HostPort) : (modHost i f s).ladder = s.ladder := rfl
@[simp] theorem modHost_inbox (i : Nat) (f : HostPort → HostPort) : (modHost i f s).inbox = s.inbox := rfl
@[simp] theorem modHost_pawn (i : Nat) (f : HostPort → HostPort) : (modHost i f s).pawn = s.pawn := rfl
@[simp] theorem modHost_mem (i : Nat) (f : HostPort → HostPort) : (modHost i f s).mem = s.mem := rfl
@[simp] theorem modHost_sheet (i : Nat) (f : HostPort → HostPort) : (modHost i f s).sheet = s.sheet := rfl
@[simp] theorem modHost_hazard (i : Nat) (f : HostPort → HostPort) : (modHost i f s).hazard = s.hazard := rfl
@[simp] theorem modHost_tables (i : Nat) (f : HostPort → HostPort) : (modHost i f s).tables = s.tables := rfl
@[simp] theorem modHost_opening (i : Nat) (f : HostPort → HostPort) : (modHost i f s).opening = s.opening := rfl
@[simp] theorem modHost_feed (i : Nat) (f : HostPort → HostPort) : (modHost i f s).feed = s.feed := rfl
@[simp] theorem modHost_mu (i : Nat) (f : HostPort → HostPort) : (modHost i f s).mu = s.mu := rfl
@[simp] theorem modHost_mats (i : Nat) (f : HostPort → HostPort) : (modHost i f s).mats = s.mats := rfl
@[simp] theorem modHost_norm (i : Nat) (f : HostPort → HostPort) : (modHost i f s).norm = s.norm := rfl
@[simp] theorem modHost_pipes (i : Nat) (f : HostPort → HostPort) : (modHost i f s).pipes = s.pipes := rfl
@[simp] theorem modHost_dma (i : Nat) (f : HostPort → HostPort) : (modHost i f s).dma = s.dma := rfl
@[simp] theorem modHost_kunits (i : Nat) (f : HostPort → HostPort) : (modHost i f s).kunits = s.kunits := rfl
@[simp] theorem modHost_doubles (i : Nat) (f : HostPort → HostPort) : (modHost i f s).doubles = s.doubles := rfl
@[simp] theorem modHost_detachNum (i : Nat) (f : HostPort → HostPort) : (modHost i f s).detachNum = s.detachNum := rfl
@[simp] theorem modHost_targets (i : Nat) (f : HostPort → HostPort) : (modHost i f s).targets = s.targets := rfl
@[simp] theorem modHost_store (i : Nat) (f : HostPort → HostPort) : (modHost i f s).store = s.store := rfl
@[simp] theorem modHost_held (i : Nat) (f : HostPort → HostPort) : (modHost i f s).held = s.held := rfl
@[simp] theorem modHost_strayAll (i : Nat) (f : HostPort → HostPort) : (modHost i f s).strayAll = s.strayAll := rfl

/-! ### modMbox -/

@[simp] theorem modMbox_pending (i : Nat) (f : Mailbox → Mailbox) : (modMbox i f s).pending = s.pending := rfl
@[simp] theorem modMbox_out (i : Nat) (f : Mailbox → Mailbox) : (modMbox i f s).out = s.out := rfl
@[simp] theorem modMbox_free (i : Nat) (f : Mailbox → Mailbox) : (modMbox i f s).free = s.free := rfl
@[simp] theorem modMbox_pins (i : Nat) (f : Mailbox → Mailbox) : (modMbox i f s).pins = s.pins := rfl
@[simp] theorem modMbox_boot (i : Nat) (f : Mailbox → Mailbox) : (modMbox i f s).boot = s.boot := rfl
@[simp] theorem modMbox_power (i : Nat) (f : Mailbox → Mailbox) : (modMbox i f s).power = s.power := rfl
@[simp] theorem modMbox_alert (i : Nat) (f : Mailbox → Mailbox) : (modMbox i f s).alert = s.alert := rfl
@[simp] theorem modMbox_wd (i : Nat) (f : Mailbox → Mailbox) : (modMbox i f s).wd = s.wd := rfl
@[simp] theorem modMbox_time (i : Nat) (f : Mailbox → Mailbox) : (modMbox i f s).time = s.time := rfl
@[simp] theorem modMbox_ident (i : Nat) (f : Mailbox → Mailbox) : (modMbox i f s).ident = s.ident := rfl
@[simp] theorem modMbox_flash (i : Nat) (f : Mailbox → Mailbox) : (modMbox i f s).flash = s.flash := rfl
@[simp] theorem modMbox_mbox (i : Nat) (f : Mailbox → Mailbox) : (modMbox i f s).mbox = modAt s.mbox i f := rfl
@[simp] theorem modMbox_gci (i : Nat) (f : Mailbox → Mailbox) : (modMbox i f s).gci = s.gci := rfl
@[simp] theorem modMbox_host (i : Nat) (f : Mailbox → Mailbox) : (modMbox i f s).host = s.host := rfl
@[simp] theorem modMbox_telem (i : Nat) (f : Mailbox → Mailbox) : (modMbox i f s).telem = s.telem := rfl
@[simp] theorem modMbox_ports (i : Nat) (f : Mailbox → Mailbox) : (modMbox i f s).ports = s.ports := rfl
@[simp] theorem modMbox_links (i : Nat) (f : Mailbox → Mailbox) : (modMbox i f s).links = s.links := rfl
@[simp] theorem modMbox_route (i : Nat) (f : Mailbox → Mailbox) : (modMbox i f s).route = s.route := rfl
@[simp] theorem modMbox_pot (i : Nat) (f : Mailbox → Mailbox) : (modMbox i f s).pot = s.pot := rfl
@[simp] theorem modMbox_sq (i : Nat) (f : Mailbox → Mailbox) : (modMbox i f s).sq = s.sq := rfl
@[simp] theorem modMbox_ladder (i : Nat) (f : Mailbox → Mailbox) : (modMbox i f s).ladder = s.ladder := rfl
@[simp] theorem modMbox_inbox (i : Nat) (f : Mailbox → Mailbox) : (modMbox i f s).inbox = s.inbox := rfl
@[simp] theorem modMbox_pawn (i : Nat) (f : Mailbox → Mailbox) : (modMbox i f s).pawn = s.pawn := rfl
@[simp] theorem modMbox_mem (i : Nat) (f : Mailbox → Mailbox) : (modMbox i f s).mem = s.mem := rfl
@[simp] theorem modMbox_sheet (i : Nat) (f : Mailbox → Mailbox) : (modMbox i f s).sheet = s.sheet := rfl
@[simp] theorem modMbox_hazard (i : Nat) (f : Mailbox → Mailbox) : (modMbox i f s).hazard = s.hazard := rfl
@[simp] theorem modMbox_tables (i : Nat) (f : Mailbox → Mailbox) : (modMbox i f s).tables = s.tables := rfl
@[simp] theorem modMbox_opening (i : Nat) (f : Mailbox → Mailbox) : (modMbox i f s).opening = s.opening := rfl
@[simp] theorem modMbox_feed (i : Nat) (f : Mailbox → Mailbox) : (modMbox i f s).feed = s.feed := rfl
@[simp] theorem modMbox_mu (i : Nat) (f : Mailbox → Mailbox) : (modMbox i f s).mu = s.mu := rfl
@[simp] theorem modMbox_mats (i : Nat) (f : Mailbox → Mailbox) : (modMbox i f s).mats = s.mats := rfl
@[simp] theorem modMbox_norm (i : Nat) (f : Mailbox → Mailbox) : (modMbox i f s).norm = s.norm := rfl
@[simp] theorem modMbox_pipes (i : Nat) (f : Mailbox → Mailbox) : (modMbox i f s).pipes = s.pipes := rfl
@[simp] theorem modMbox_dma (i : Nat) (f : Mailbox → Mailbox) : (modMbox i f s).dma = s.dma := rfl
@[simp] theorem modMbox_kunits (i : Nat) (f : Mailbox → Mailbox) : (modMbox i f s).kunits = s.kunits := rfl
@[simp] theorem modMbox_doubles (i : Nat) (f : Mailbox → Mailbox) : (modMbox i f s).doubles = s.doubles := rfl
@[simp] theorem modMbox_detachNum (i : Nat) (f : Mailbox → Mailbox) : (modMbox i f s).detachNum = s.detachNum := rfl
@[simp] theorem modMbox_targets (i : Nat) (f : Mailbox → Mailbox) : (modMbox i f s).targets = s.targets := rfl
@[simp] theorem modMbox_store (i : Nat) (f : Mailbox → Mailbox) : (modMbox i f s).store = s.store := rfl
@[simp] theorem modMbox_held (i : Nat) (f : Mailbox → Mailbox) : (modMbox i f s).held = s.held := rfl
@[simp] theorem modMbox_strayAll (i : Nat) (f : Mailbox → Mailbox) : (modMbox i f s).strayAll = s.strayAll := rfl

/-! ### emit -/

@[simp] theorem emit_pending (e : Emission) : (emit e s).pending = s.pending := rfl
@[simp] theorem emit_out (e : Emission) : (emit e s).out = s.out ++ [e] := rfl
@[simp] theorem emit_free (e : Emission) : (emit e s).free = s.free := rfl
@[simp] theorem emit_pins (e : Emission) : (emit e s).pins = s.pins := rfl
@[simp] theorem emit_boot (e : Emission) : (emit e s).boot = s.boot := rfl
@[simp] theorem emit_power (e : Emission) : (emit e s).power = s.power := rfl
@[simp] theorem emit_alert (e : Emission) : (emit e s).alert = s.alert := rfl
@[simp] theorem emit_wd (e : Emission) : (emit e s).wd = s.wd := rfl
@[simp] theorem emit_time (e : Emission) : (emit e s).time = s.time := rfl
@[simp] theorem emit_ident (e : Emission) : (emit e s).ident = s.ident := rfl
@[simp] theorem emit_flash (e : Emission) : (emit e s).flash = s.flash := rfl
@[simp] theorem emit_mbox (e : Emission) : (emit e s).mbox = s.mbox := rfl
@[simp] theorem emit_gci (e : Emission) : (emit e s).gci = s.gci := rfl
@[simp] theorem emit_host (e : Emission) : (emit e s).host = s.host := rfl
@[simp] theorem emit_telem (e : Emission) : (emit e s).telem = s.telem := rfl
@[simp] theorem emit_ports (e : Emission) : (emit e s).ports = s.ports := rfl
@[simp] theorem emit_links (e : Emission) : (emit e s).links = s.links := rfl
@[simp] theorem emit_route (e : Emission) : (emit e s).route = s.route := rfl
@[simp] theorem emit_pot (e : Emission) : (emit e s).pot = s.pot := rfl
@[simp] theorem emit_sq (e : Emission) : (emit e s).sq = s.sq := rfl
@[simp] theorem emit_ladder (e : Emission) : (emit e s).ladder = s.ladder := rfl
@[simp] theorem emit_inbox (e : Emission) : (emit e s).inbox = s.inbox := rfl
@[simp] theorem emit_pawn (e : Emission) : (emit e s).pawn = s.pawn := rfl
@[simp] theorem emit_mem (e : Emission) : (emit e s).mem = s.mem := rfl
@[simp] theorem emit_sheet (e : Emission) : (emit e s).sheet = s.sheet := rfl
@[simp] theorem emit_hazard (e : Emission) : (emit e s).hazard = s.hazard := rfl
@[simp] theorem emit_tables (e : Emission) : (emit e s).tables = s.tables := rfl
@[simp] theorem emit_opening (e : Emission) : (emit e s).opening = s.opening := rfl
@[simp] theorem emit_feed (e : Emission) : (emit e s).feed = s.feed := rfl
@[simp] theorem emit_mu (e : Emission) : (emit e s).mu = s.mu := rfl
@[simp] theorem emit_mats (e : Emission) : (emit e s).mats = s.mats := rfl
@[simp] theorem emit_norm (e : Emission) : (emit e s).norm = s.norm := rfl
@[simp] theorem emit_pipes (e : Emission) : (emit e s).pipes = s.pipes := rfl
@[simp] theorem emit_dma (e : Emission) : (emit e s).dma = s.dma := rfl
@[simp] theorem emit_kunits (e : Emission) : (emit e s).kunits = s.kunits := rfl
@[simp] theorem emit_doubles (e : Emission) : (emit e s).doubles = s.doubles := rfl
@[simp] theorem emit_detachNum (e : Emission) : (emit e s).detachNum = s.detachNum := rfl
@[simp] theorem emit_targets (e : Emission) : (emit e s).targets = s.targets := rfl
@[simp] theorem emit_store (e : Emission) : (emit e s).store = s.store := rfl
@[simp] theorem emit_held (e : Emission) : (emit e s).held = s.held := rfl
@[simp] theorem emit_strayAll (e : Emission) : (emit e s).strayAll = s.strayAll := rfl

/-! ### emits -/

@[simp] theorem emits_pending (es : List Emission) : (emits es s).pending = s.pending := rfl
@[simp] theorem emits_out (es : List Emission) : (emits es s).out = s.out ++ es := rfl
@[simp] theorem emits_free (es : List Emission) : (emits es s).free = s.free := rfl
@[simp] theorem emits_pins (es : List Emission) : (emits es s).pins = s.pins := rfl
@[simp] theorem emits_boot (es : List Emission) : (emits es s).boot = s.boot := rfl
@[simp] theorem emits_power (es : List Emission) : (emits es s).power = s.power := rfl
@[simp] theorem emits_alert (es : List Emission) : (emits es s).alert = s.alert := rfl
@[simp] theorem emits_wd (es : List Emission) : (emits es s).wd = s.wd := rfl
@[simp] theorem emits_time (es : List Emission) : (emits es s).time = s.time := rfl
@[simp] theorem emits_ident (es : List Emission) : (emits es s).ident = s.ident := rfl
@[simp] theorem emits_flash (es : List Emission) : (emits es s).flash = s.flash := rfl
@[simp] theorem emits_mbox (es : List Emission) : (emits es s).mbox = s.mbox := rfl
@[simp] theorem emits_gci (es : List Emission) : (emits es s).gci = s.gci := rfl
@[simp] theorem emits_host (es : List Emission) : (emits es s).host = s.host := rfl
@[simp] theorem emits_telem (es : List Emission) : (emits es s).telem = s.telem := rfl
@[simp] theorem emits_ports (es : List Emission) : (emits es s).ports = s.ports := rfl
@[simp] theorem emits_links (es : List Emission) : (emits es s).links = s.links := rfl
@[simp] theorem emits_route (es : List Emission) : (emits es s).route = s.route := rfl
@[simp] theorem emits_pot (es : List Emission) : (emits es s).pot = s.pot := rfl
@[simp] theorem emits_sq (es : List Emission) : (emits es s).sq = s.sq := rfl
@[simp] theorem emits_ladder (es : List Emission) : (emits es s).ladder = s.ladder := rfl
@[simp] theorem emits_inbox (es : List Emission) : (emits es s).inbox = s.inbox := rfl
@[simp] theorem emits_pawn (es : List Emission) : (emits es s).pawn = s.pawn := rfl
@[simp] theorem emits_mem (es : List Emission) : (emits es s).mem = s.mem := rfl
@[simp] theorem emits_sheet (es : List Emission) : (emits es s).sheet = s.sheet := rfl
@[simp] theorem emits_hazard (es : List Emission) : (emits es s).hazard = s.hazard := rfl
@[simp] theorem emits_tables (es : List Emission) : (emits es s).tables = s.tables := rfl
@[simp] theorem emits_opening (es : List Emission) : (emits es s).opening = s.opening := rfl
@[simp] theorem emits_feed (es : List Emission) : (emits es s).feed = s.feed := rfl
@[simp] theorem emits_mu (es : List Emission) : (emits es s).mu = s.mu := rfl
@[simp] theorem emits_mats (es : List Emission) : (emits es s).mats = s.mats := rfl
@[simp] theorem emits_norm (es : List Emission) : (emits es s).norm = s.norm := rfl
@[simp] theorem emits_pipes (es : List Emission) : (emits es s).pipes = s.pipes := rfl
@[simp] theorem emits_dma (es : List Emission) : (emits es s).dma = s.dma := rfl
@[simp] theorem emits_kunits (es : List Emission) : (emits es s).kunits = s.kunits := rfl
@[simp] theorem emits_doubles (es : List Emission) : (emits es s).doubles = s.doubles := rfl
@[simp] theorem emits_detachNum (es : List Emission) : (emits es s).detachNum = s.detachNum := rfl
@[simp] theorem emits_targets (es : List Emission) : (emits es s).targets = s.targets := rfl
@[simp] theorem emits_store (es : List Emission) : (emits es s).store = s.store := rfl
@[simp] theorem emits_held (es : List Emission) : (emits es s).held = s.held := rfl
@[simp] theorem emits_strayAll (es : List Emission) : (emits es s).strayAll = s.strayAll := rfl

/-! ### freeNext -/

@[simp] theorem freeNext_pending  : (freeNext s).pending = s.pending := rfl
@[simp] theorem freeNext_out  : (freeNext s).out = s.out := rfl
@[simp] theorem freeNext_free  : (freeNext s).free = s.free + 1 := rfl
@[simp] theorem freeNext_pins  : (freeNext s).pins = s.pins := rfl
@[simp] theorem freeNext_boot  : (freeNext s).boot = s.boot := rfl
@[simp] theorem freeNext_power  : (freeNext s).power = s.power := rfl
@[simp] theorem freeNext_alert  : (freeNext s).alert = s.alert := rfl
@[simp] theorem freeNext_wd  : (freeNext s).wd = s.wd := rfl
@[simp] theorem freeNext_time  : (freeNext s).time = s.time := rfl
@[simp] theorem freeNext_ident  : (freeNext s).ident = s.ident := rfl
@[simp] theorem freeNext_flash  : (freeNext s).flash = s.flash := rfl
@[simp] theorem freeNext_mbox  : (freeNext s).mbox = s.mbox := rfl
@[simp] theorem freeNext_gci  : (freeNext s).gci = s.gci := rfl
@[simp] theorem freeNext_host  : (freeNext s).host = s.host := rfl
@[simp] theorem freeNext_telem  : (freeNext s).telem = s.telem := rfl
@[simp] theorem freeNext_ports  : (freeNext s).ports = s.ports := rfl
@[simp] theorem freeNext_links  : (freeNext s).links = s.links := rfl
@[simp] theorem freeNext_route  : (freeNext s).route = s.route := rfl
@[simp] theorem freeNext_pot  : (freeNext s).pot = s.pot := rfl
@[simp] theorem freeNext_sq  : (freeNext s).sq = s.sq := rfl
@[simp] theorem freeNext_ladder  : (freeNext s).ladder = s.ladder := rfl
@[simp] theorem freeNext_inbox  : (freeNext s).inbox = s.inbox := rfl
@[simp] theorem freeNext_pawn  : (freeNext s).pawn = s.pawn := rfl
@[simp] theorem freeNext_mem  : (freeNext s).mem = s.mem := rfl
@[simp] theorem freeNext_sheet  : (freeNext s).sheet = s.sheet := rfl
@[simp] theorem freeNext_hazard  : (freeNext s).hazard = s.hazard := rfl
@[simp] theorem freeNext_tables  : (freeNext s).tables = s.tables := rfl
@[simp] theorem freeNext_opening  : (freeNext s).opening = s.opening := rfl
@[simp] theorem freeNext_feed  : (freeNext s).feed = s.feed := rfl
@[simp] theorem freeNext_mu  : (freeNext s).mu = s.mu := rfl
@[simp] theorem freeNext_mats  : (freeNext s).mats = s.mats := rfl
@[simp] theorem freeNext_norm  : (freeNext s).norm = s.norm := rfl
@[simp] theorem freeNext_pipes  : (freeNext s).pipes = s.pipes := rfl
@[simp] theorem freeNext_dma  : (freeNext s).dma = s.dma := rfl
@[simp] theorem freeNext_kunits  : (freeNext s).kunits = s.kunits := rfl
@[simp] theorem freeNext_doubles  : (freeNext s).doubles = s.doubles := rfl
@[simp] theorem freeNext_detachNum  : (freeNext s).detachNum = s.detachNum := rfl
@[simp] theorem freeNext_targets  : (freeNext s).targets = s.targets := rfl
@[simp] theorem freeNext_store  : (freeNext s).store = s.store := rfl
@[simp] theorem freeNext_held  : (freeNext s).held = s.held := rfl
@[simp] theorem freeNext_strayAll  : (freeNext s).strayAll = s.strayAll := rfl

/-! ### setCause -/

@[simp] theorem setCause_pending (i : Nat) : (setCause i s).pending = s.pending := rfl
@[simp] theorem setCause_out (i : Nat) : (setCause i s).out = s.out := rfl
@[simp] theorem setCause_free (i : Nat) : (setCause i s).free = s.free := rfl
@[simp] theorem setCause_pins (i : Nat) : (setCause i s).pins = s.pins := rfl
@[simp] theorem setCause_boot (i : Nat) : (setCause i s).boot = s.boot := rfl
@[simp] theorem setCause_power (i : Nat) : (setCause i s).power = s.power := rfl
@[simp] theorem setCause_alert (i : Nat) : (setCause i s).alert = { s.alert with causes := s.alert.causes.set i true } := rfl
@[simp] theorem setCause_wd (i : Nat) : (setCause i s).wd = s.wd := rfl
@[simp] theorem setCause_time (i : Nat) : (setCause i s).time = s.time := rfl
@[simp] theorem setCause_ident (i : Nat) : (setCause i s).ident = s.ident := rfl
@[simp] theorem setCause_flash (i : Nat) : (setCause i s).flash = s.flash := rfl
@[simp] theorem setCause_mbox (i : Nat) : (setCause i s).mbox = s.mbox := rfl
@[simp] theorem setCause_gci (i : Nat) : (setCause i s).gci = s.gci := rfl
@[simp] theorem setCause_host (i : Nat) : (setCause i s).host = s.host := rfl
@[simp] theorem setCause_telem (i : Nat) : (setCause i s).telem = s.telem := rfl
@[simp] theorem setCause_ports (i : Nat) : (setCause i s).ports = s.ports := rfl
@[simp] theorem setCause_links (i : Nat) : (setCause i s).links = s.links := rfl
@[simp] theorem setCause_route (i : Nat) : (setCause i s).route = s.route := rfl
@[simp] theorem setCause_pot (i : Nat) : (setCause i s).pot = s.pot := rfl
@[simp] theorem setCause_sq (i : Nat) : (setCause i s).sq = s.sq := rfl
@[simp] theorem setCause_ladder (i : Nat) : (setCause i s).ladder = s.ladder := rfl
@[simp] theorem setCause_inbox (i : Nat) : (setCause i s).inbox = s.inbox := rfl
@[simp] theorem setCause_pawn (i : Nat) : (setCause i s).pawn = s.pawn := rfl
@[simp] theorem setCause_mem (i : Nat) : (setCause i s).mem = s.mem := rfl
@[simp] theorem setCause_sheet (i : Nat) : (setCause i s).sheet = s.sheet := rfl
@[simp] theorem setCause_hazard (i : Nat) : (setCause i s).hazard = s.hazard := rfl
@[simp] theorem setCause_tables (i : Nat) : (setCause i s).tables = s.tables := rfl
@[simp] theorem setCause_opening (i : Nat) : (setCause i s).opening = s.opening := rfl
@[simp] theorem setCause_feed (i : Nat) : (setCause i s).feed = s.feed := rfl
@[simp] theorem setCause_mu (i : Nat) : (setCause i s).mu = s.mu := rfl
@[simp] theorem setCause_mats (i : Nat) : (setCause i s).mats = s.mats := rfl
@[simp] theorem setCause_norm (i : Nat) : (setCause i s).norm = s.norm := rfl
@[simp] theorem setCause_pipes (i : Nat) : (setCause i s).pipes = s.pipes := rfl
@[simp] theorem setCause_dma (i : Nat) : (setCause i s).dma = s.dma := rfl
@[simp] theorem setCause_kunits (i : Nat) : (setCause i s).kunits = s.kunits := rfl
@[simp] theorem setCause_doubles (i : Nat) : (setCause i s).doubles = s.doubles := rfl
@[simp] theorem setCause_detachNum (i : Nat) : (setCause i s).detachNum = s.detachNum := rfl
@[simp] theorem setCause_targets (i : Nat) : (setCause i s).targets = s.targets := rfl
@[simp] theorem setCause_store (i : Nat) : (setCause i s).store = s.store := rfl
@[simp] theorem setCause_held (i : Nat) : (setCause i s).held = s.held := rfl
@[simp] theorem setCause_strayAll (i : Nat) : (setCause i s).strayAll = s.strayAll := rfl

/-! ### takeArrived -/

@[simp] theorem takeArrived_pending (a : Arrived) : (takeArrived a s).pending = s.pending := rfl
@[simp] theorem takeArrived_out (a : Arrived) : (takeArrived a s).out = s.out := rfl
@[simp] theorem takeArrived_free (a : Arrived) : (takeArrived a s).free = s.free := rfl
@[simp] theorem takeArrived_pins (a : Arrived) : (takeArrived a s).pins = s.pins := rfl
@[simp] theorem takeArrived_boot (a : Arrived) : (takeArrived a s).boot = s.boot := rfl
@[simp] theorem takeArrived_power (a : Arrived) : (takeArrived a s).power = s.power := rfl
@[simp] theorem takeArrived_alert (a : Arrived) : (takeArrived a s).alert = s.alert := rfl
@[simp] theorem takeArrived_wd (a : Arrived) : (takeArrived a s).wd = s.wd := rfl
@[simp] theorem takeArrived_time (a : Arrived) : (takeArrived a s).time = s.time := rfl
@[simp] theorem takeArrived_ident (a : Arrived) : (takeArrived a s).ident = s.ident := rfl
@[simp] theorem takeArrived_flash (a : Arrived) : (takeArrived a s).flash = s.flash := rfl
@[simp] theorem takeArrived_mbox (a : Arrived) : (takeArrived a s).mbox = s.mbox := rfl
@[simp] theorem takeArrived_gci (a : Arrived) : (takeArrived a s).gci = s.gci := rfl
@[simp] theorem takeArrived_host (a : Arrived) : (takeArrived a s).host = s.host := rfl
@[simp] theorem takeArrived_telem (a : Arrived) : (takeArrived a s).telem = s.telem := rfl
@[simp] theorem takeArrived_ports (a : Arrived) : (takeArrived a s).ports = s.ports := rfl
@[simp] theorem takeArrived_links (a : Arrived) : (takeArrived a s).links = s.links := rfl
@[simp] theorem takeArrived_route (a : Arrived) : (takeArrived a s).route = s.route := rfl
@[simp] theorem takeArrived_pot (a : Arrived) : (takeArrived a s).pot = s.pot := rfl
@[simp] theorem takeArrived_sq (a : Arrived) : (takeArrived a s).sq = s.sq := rfl
@[simp] theorem takeArrived_ladder (a : Arrived) : (takeArrived a s).ladder = s.ladder := rfl
@[simp] theorem takeArrived_inbox (a : Arrived) : (takeArrived a s).inbox = s.inbox.erase a := rfl
@[simp] theorem takeArrived_pawn (a : Arrived) : (takeArrived a s).pawn = s.pawn := rfl
@[simp] theorem takeArrived_mem (a : Arrived) : (takeArrived a s).mem = s.mem := rfl
@[simp] theorem takeArrived_sheet (a : Arrived) : (takeArrived a s).sheet = s.sheet := rfl
@[simp] theorem takeArrived_hazard (a : Arrived) : (takeArrived a s).hazard = s.hazard := rfl
@[simp] theorem takeArrived_tables (a : Arrived) : (takeArrived a s).tables = s.tables := rfl
@[simp] theorem takeArrived_opening (a : Arrived) : (takeArrived a s).opening = s.opening := rfl
@[simp] theorem takeArrived_feed (a : Arrived) : (takeArrived a s).feed = s.feed := rfl
@[simp] theorem takeArrived_mu (a : Arrived) : (takeArrived a s).mu = s.mu := rfl
@[simp] theorem takeArrived_mats (a : Arrived) : (takeArrived a s).mats = s.mats := rfl
@[simp] theorem takeArrived_norm (a : Arrived) : (takeArrived a s).norm = s.norm := rfl
@[simp] theorem takeArrived_pipes (a : Arrived) : (takeArrived a s).pipes = s.pipes := rfl
@[simp] theorem takeArrived_dma (a : Arrived) : (takeArrived a s).dma = s.dma := rfl
@[simp] theorem takeArrived_kunits (a : Arrived) : (takeArrived a s).kunits = s.kunits := rfl
@[simp] theorem takeArrived_doubles (a : Arrived) : (takeArrived a s).doubles = s.doubles := rfl
@[simp] theorem takeArrived_detachNum (a : Arrived) : (takeArrived a s).detachNum = s.detachNum := rfl
@[simp] theorem takeArrived_targets (a : Arrived) : (takeArrived a s).targets = s.targets := rfl
@[simp] theorem takeArrived_store (a : Arrived) : (takeArrived a s).store = s.store := rfl
@[simp] theorem takeArrived_held (a : Arrived) : (takeArrived a s).held = s.held := rfl
@[simp] theorem takeArrived_strayAll (a : Arrived) : (takeArrived a s).strayAll = s.strayAll := rfl

/-! ### modStat -/

@[simp] theorem modStat_pending (i : Nat) (f : LinkStat → LinkStat) : (modStat i f s).pending = s.pending := rfl
@[simp] theorem modStat_out (i : Nat) (f : LinkStat → LinkStat) : (modStat i f s).out = s.out := rfl
@[simp] theorem modStat_free (i : Nat) (f : LinkStat → LinkStat) : (modStat i f s).free = s.free := rfl
@[simp] theorem modStat_pins (i : Nat) (f : LinkStat → LinkStat) : (modStat i f s).pins = s.pins := rfl
@[simp] theorem modStat_boot (i : Nat) (f : LinkStat → LinkStat) : (modStat i f s).boot = s.boot := rfl
@[simp] theorem modStat_power (i : Nat) (f : LinkStat → LinkStat) : (modStat i f s).power = s.power := rfl
@[simp] theorem modStat_alert (i : Nat) (f : LinkStat → LinkStat) : (modStat i f s).alert = s.alert := rfl
@[simp] theorem modStat_wd (i : Nat) (f : LinkStat → LinkStat) : (modStat i f s).wd = s.wd := rfl
@[simp] theorem modStat_time (i : Nat) (f : LinkStat → LinkStat) : (modStat i f s).time = s.time := rfl
@[simp] theorem modStat_ident (i : Nat) (f : LinkStat → LinkStat) : (modStat i f s).ident = s.ident := rfl
@[simp] theorem modStat_flash (i : Nat) (f : LinkStat → LinkStat) : (modStat i f s).flash = s.flash := rfl
@[simp] theorem modStat_mbox (i : Nat) (f : LinkStat → LinkStat) : (modStat i f s).mbox = s.mbox := rfl
@[simp] theorem modStat_gci (i : Nat) (f : LinkStat → LinkStat) : (modStat i f s).gci = s.gci := rfl
@[simp] theorem modStat_host (i : Nat) (f : LinkStat → LinkStat) : (modStat i f s).host = s.host := rfl
@[simp] theorem modStat_telem (i : Nat) (f : LinkStat → LinkStat) : (modStat i f s).telem = s.telem := rfl
@[simp] theorem modStat_ports (i : Nat) (f : LinkStat → LinkStat) : (modStat i f s).ports = s.ports := rfl
@[simp] theorem modStat_links (i : Nat) (f : LinkStat → LinkStat) : (modStat i f s).links = modAt s.links i (fun k => { k with stat := f k.stat }) := rfl
@[simp] theorem modStat_route (i : Nat) (f : LinkStat → LinkStat) : (modStat i f s).route = s.route := rfl
@[simp] theorem modStat_pot (i : Nat) (f : LinkStat → LinkStat) : (modStat i f s).pot = s.pot := rfl
@[simp] theorem modStat_sq (i : Nat) (f : LinkStat → LinkStat) : (modStat i f s).sq = s.sq := rfl
@[simp] theorem modStat_ladder (i : Nat) (f : LinkStat → LinkStat) : (modStat i f s).ladder = s.ladder := rfl
@[simp] theorem modStat_inbox (i : Nat) (f : LinkStat → LinkStat) : (modStat i f s).inbox = s.inbox := rfl
@[simp] theorem modStat_pawn (i : Nat) (f : LinkStat → LinkStat) : (modStat i f s).pawn = s.pawn := rfl
@[simp] theorem modStat_mem (i : Nat) (f : LinkStat → LinkStat) : (modStat i f s).mem = s.mem := rfl
@[simp] theorem modStat_sheet (i : Nat) (f : LinkStat → LinkStat) : (modStat i f s).sheet = s.sheet := rfl
@[simp] theorem modStat_hazard (i : Nat) (f : LinkStat → LinkStat) : (modStat i f s).hazard = s.hazard := rfl
@[simp] theorem modStat_tables (i : Nat) (f : LinkStat → LinkStat) : (modStat i f s).tables = s.tables := rfl
@[simp] theorem modStat_opening (i : Nat) (f : LinkStat → LinkStat) : (modStat i f s).opening = s.opening := rfl
@[simp] theorem modStat_feed (i : Nat) (f : LinkStat → LinkStat) : (modStat i f s).feed = s.feed := rfl
@[simp] theorem modStat_mu (i : Nat) (f : LinkStat → LinkStat) : (modStat i f s).mu = s.mu := rfl
@[simp] theorem modStat_mats (i : Nat) (f : LinkStat → LinkStat) : (modStat i f s).mats = s.mats := rfl
@[simp] theorem modStat_norm (i : Nat) (f : LinkStat → LinkStat) : (modStat i f s).norm = s.norm := rfl
@[simp] theorem modStat_pipes (i : Nat) (f : LinkStat → LinkStat) : (modStat i f s).pipes = s.pipes := rfl
@[simp] theorem modStat_dma (i : Nat) (f : LinkStat → LinkStat) : (modStat i f s).dma = s.dma := rfl
@[simp] theorem modStat_kunits (i : Nat) (f : LinkStat → LinkStat) : (modStat i f s).kunits = s.kunits := rfl
@[simp] theorem modStat_doubles (i : Nat) (f : LinkStat → LinkStat) : (modStat i f s).doubles = s.doubles := rfl
@[simp] theorem modStat_detachNum (i : Nat) (f : LinkStat → LinkStat) : (modStat i f s).detachNum = s.detachNum := rfl
@[simp] theorem modStat_targets (i : Nat) (f : LinkStat → LinkStat) : (modStat i f s).targets = s.targets := rfl
@[simp] theorem modStat_store (i : Nat) (f : LinkStat → LinkStat) : (modStat i f s).store = s.store := rfl
@[simp] theorem modStat_held (i : Nat) (f : LinkStat → LinkStat) : (modStat i f s).held = s.held := rfl
@[simp] theorem modStat_strayAll (i : Nat) (f : LinkStat → LinkStat) : (modStat i f s).strayAll = s.strayAll := rfl

/-! ### modTx -/

@[simp] theorem modTx_pending (i : Nat) (f : LinkTx → LinkTx) : (modTx i f s).pending = s.pending := rfl
@[simp] theorem modTx_out (i : Nat) (f : LinkTx → LinkTx) : (modTx i f s).out = s.out := rfl
@[simp] theorem modTx_free (i : Nat) (f : LinkTx → LinkTx) : (modTx i f s).free = s.free := rfl
@[simp] theorem modTx_pins (i : Nat) (f : LinkTx → LinkTx) : (modTx i f s).pins = s.pins := rfl
@[simp] theorem modTx_boot (i : Nat) (f : LinkTx → LinkTx) : (modTx i f s).boot = s.boot := rfl
@[simp] theorem modTx_power (i : Nat) (f : LinkTx → LinkTx) : (modTx i f s).power = s.power := rfl
@[simp] theorem modTx_alert (i : Nat) (f : LinkTx → LinkTx) : (modTx i f s).alert = s.alert := rfl
@[simp] theorem modTx_wd (i : Nat) (f : LinkTx → LinkTx) : (modTx i f s).wd = s.wd := rfl
@[simp] theorem modTx_time (i : Nat) (f : LinkTx → LinkTx) : (modTx i f s).time = s.time := rfl
@[simp] theorem modTx_ident (i : Nat) (f : LinkTx → LinkTx) : (modTx i f s).ident = s.ident := rfl
@[simp] theorem modTx_flash (i : Nat) (f : LinkTx → LinkTx) : (modTx i f s).flash = s.flash := rfl
@[simp] theorem modTx_mbox (i : Nat) (f : LinkTx → LinkTx) : (modTx i f s).mbox = s.mbox := rfl
@[simp] theorem modTx_gci (i : Nat) (f : LinkTx → LinkTx) : (modTx i f s).gci = s.gci := rfl
@[simp] theorem modTx_host (i : Nat) (f : LinkTx → LinkTx) : (modTx i f s).host = s.host := rfl
@[simp] theorem modTx_telem (i : Nat) (f : LinkTx → LinkTx) : (modTx i f s).telem = s.telem := rfl
@[simp] theorem modTx_ports (i : Nat) (f : LinkTx → LinkTx) : (modTx i f s).ports = s.ports := rfl
@[simp] theorem modTx_links (i : Nat) (f : LinkTx → LinkTx) : (modTx i f s).links = modAt s.links i (fun k => { k with tx := f k.tx }) := rfl
@[simp] theorem modTx_route (i : Nat) (f : LinkTx → LinkTx) : (modTx i f s).route = s.route := rfl
@[simp] theorem modTx_pot (i : Nat) (f : LinkTx → LinkTx) : (modTx i f s).pot = s.pot := rfl
@[simp] theorem modTx_sq (i : Nat) (f : LinkTx → LinkTx) : (modTx i f s).sq = s.sq := rfl
@[simp] theorem modTx_ladder (i : Nat) (f : LinkTx → LinkTx) : (modTx i f s).ladder = s.ladder := rfl
@[simp] theorem modTx_inbox (i : Nat) (f : LinkTx → LinkTx) : (modTx i f s).inbox = s.inbox := rfl
@[simp] theorem modTx_pawn (i : Nat) (f : LinkTx → LinkTx) : (modTx i f s).pawn = s.pawn := rfl
@[simp] theorem modTx_mem (i : Nat) (f : LinkTx → LinkTx) : (modTx i f s).mem = s.mem := rfl
@[simp] theorem modTx_sheet (i : Nat) (f : LinkTx → LinkTx) : (modTx i f s).sheet = s.sheet := rfl
@[simp] theorem modTx_hazard (i : Nat) (f : LinkTx → LinkTx) : (modTx i f s).hazard = s.hazard := rfl
@[simp] theorem modTx_tables (i : Nat) (f : LinkTx → LinkTx) : (modTx i f s).tables = s.tables := rfl
@[simp] theorem modTx_opening (i : Nat) (f : LinkTx → LinkTx) : (modTx i f s).opening = s.opening := rfl
@[simp] theorem modTx_feed (i : Nat) (f : LinkTx → LinkTx) : (modTx i f s).feed = s.feed := rfl
@[simp] theorem modTx_mu (i : Nat) (f : LinkTx → LinkTx) : (modTx i f s).mu = s.mu := rfl
@[simp] theorem modTx_mats (i : Nat) (f : LinkTx → LinkTx) : (modTx i f s).mats = s.mats := rfl
@[simp] theorem modTx_norm (i : Nat) (f : LinkTx → LinkTx) : (modTx i f s).norm = s.norm := rfl
@[simp] theorem modTx_pipes (i : Nat) (f : LinkTx → LinkTx) : (modTx i f s).pipes = s.pipes := rfl
@[simp] theorem modTx_dma (i : Nat) (f : LinkTx → LinkTx) : (modTx i f s).dma = s.dma := rfl
@[simp] theorem modTx_kunits (i : Nat) (f : LinkTx → LinkTx) : (modTx i f s).kunits = s.kunits := rfl
@[simp] theorem modTx_doubles (i : Nat) (f : LinkTx → LinkTx) : (modTx i f s).doubles = s.doubles := rfl
@[simp] theorem modTx_detachNum (i : Nat) (f : LinkTx → LinkTx) : (modTx i f s).detachNum = s.detachNum := rfl
@[simp] theorem modTx_targets (i : Nat) (f : LinkTx → LinkTx) : (modTx i f s).targets = s.targets := rfl
@[simp] theorem modTx_store (i : Nat) (f : LinkTx → LinkTx) : (modTx i f s).store = s.store := rfl
@[simp] theorem modTx_held (i : Nat) (f : LinkTx → LinkTx) : (modTx i f s).held = s.held := rfl
@[simp] theorem modTx_strayAll (i : Nat) (f : LinkTx → LinkTx) : (modTx i f s).strayAll = s.strayAll := rfl

/-! ### modRx -/

@[simp] theorem modRx_pending (i : Nat) (f : LinkRx → LinkRx) : (modRx i f s).pending = s.pending := rfl
@[simp] theorem modRx_out (i : Nat) (f : LinkRx → LinkRx) : (modRx i f s).out = s.out := rfl
@[simp] theorem modRx_free (i : Nat) (f : LinkRx → LinkRx) : (modRx i f s).free = s.free := rfl
@[simp] theorem modRx_pins (i : Nat) (f : LinkRx → LinkRx) : (modRx i f s).pins = s.pins := rfl
@[simp] theorem modRx_boot (i : Nat) (f : LinkRx → LinkRx) : (modRx i f s).boot = s.boot := rfl
@[simp] theorem modRx_power (i : Nat) (f : LinkRx → LinkRx) : (modRx i f s).power = s.power := rfl
@[simp] theorem modRx_alert (i : Nat) (f : LinkRx → LinkRx) : (modRx i f s).alert = s.alert := rfl
@[simp] theorem modRx_wd (i : Nat) (f : LinkRx → LinkRx) : (modRx i f s).wd = s.wd := rfl
@[simp] theorem modRx_time (i : Nat) (f : LinkRx → LinkRx) : (modRx i f s).time = s.time := rfl
@[simp] theorem modRx_ident (i : Nat) (f : LinkRx → LinkRx) : (modRx i f s).ident = s.ident := rfl
@[simp] theorem modRx_flash (i : Nat) (f : LinkRx → LinkRx) : (modRx i f s).flash = s.flash := rfl
@[simp] theorem modRx_mbox (i : Nat) (f : LinkRx → LinkRx) : (modRx i f s).mbox = s.mbox := rfl
@[simp] theorem modRx_gci (i : Nat) (f : LinkRx → LinkRx) : (modRx i f s).gci = s.gci := rfl
@[simp] theorem modRx_host (i : Nat) (f : LinkRx → LinkRx) : (modRx i f s).host = s.host := rfl
@[simp] theorem modRx_telem (i : Nat) (f : LinkRx → LinkRx) : (modRx i f s).telem = s.telem := rfl
@[simp] theorem modRx_ports (i : Nat) (f : LinkRx → LinkRx) : (modRx i f s).ports = s.ports := rfl
@[simp] theorem modRx_links (i : Nat) (f : LinkRx → LinkRx) : (modRx i f s).links = modAt s.links i (fun k => { k with rx := f k.rx }) := rfl
@[simp] theorem modRx_route (i : Nat) (f : LinkRx → LinkRx) : (modRx i f s).route = s.route := rfl
@[simp] theorem modRx_pot (i : Nat) (f : LinkRx → LinkRx) : (modRx i f s).pot = s.pot := rfl
@[simp] theorem modRx_sq (i : Nat) (f : LinkRx → LinkRx) : (modRx i f s).sq = s.sq := rfl
@[simp] theorem modRx_ladder (i : Nat) (f : LinkRx → LinkRx) : (modRx i f s).ladder = s.ladder := rfl
@[simp] theorem modRx_inbox (i : Nat) (f : LinkRx → LinkRx) : (modRx i f s).inbox = s.inbox := rfl
@[simp] theorem modRx_pawn (i : Nat) (f : LinkRx → LinkRx) : (modRx i f s).pawn = s.pawn := rfl
@[simp] theorem modRx_mem (i : Nat) (f : LinkRx → LinkRx) : (modRx i f s).mem = s.mem := rfl
@[simp] theorem modRx_sheet (i : Nat) (f : LinkRx → LinkRx) : (modRx i f s).sheet = s.sheet := rfl
@[simp] theorem modRx_hazard (i : Nat) (f : LinkRx → LinkRx) : (modRx i f s).hazard = s.hazard := rfl
@[simp] theorem modRx_tables (i : Nat) (f : LinkRx → LinkRx) : (modRx i f s).tables = s.tables := rfl
@[simp] theorem modRx_opening (i : Nat) (f : LinkRx → LinkRx) : (modRx i f s).opening = s.opening := rfl
@[simp] theorem modRx_feed (i : Nat) (f : LinkRx → LinkRx) : (modRx i f s).feed = s.feed := rfl
@[simp] theorem modRx_mu (i : Nat) (f : LinkRx → LinkRx) : (modRx i f s).mu = s.mu := rfl
@[simp] theorem modRx_mats (i : Nat) (f : LinkRx → LinkRx) : (modRx i f s).mats = s.mats := rfl
@[simp] theorem modRx_norm (i : Nat) (f : LinkRx → LinkRx) : (modRx i f s).norm = s.norm := rfl
@[simp] theorem modRx_pipes (i : Nat) (f : LinkRx → LinkRx) : (modRx i f s).pipes = s.pipes := rfl
@[simp] theorem modRx_dma (i : Nat) (f : LinkRx → LinkRx) : (modRx i f s).dma = s.dma := rfl
@[simp] theorem modRx_kunits (i : Nat) (f : LinkRx → LinkRx) : (modRx i f s).kunits = s.kunits := rfl
@[simp] theorem modRx_doubles (i : Nat) (f : LinkRx → LinkRx) : (modRx i f s).doubles = s.doubles := rfl
@[simp] theorem modRx_detachNum (i : Nat) (f : LinkRx → LinkRx) : (modRx i f s).detachNum = s.detachNum := rfl
@[simp] theorem modRx_targets (i : Nat) (f : LinkRx → LinkRx) : (modRx i f s).targets = s.targets := rfl
@[simp] theorem modRx_store (i : Nat) (f : LinkRx → LinkRx) : (modRx i f s).store = s.store := rfl
@[simp] theorem modRx_held (i : Nat) (f : LinkRx → LinkRx) : (modRx i f s).held = s.held := rfl
@[simp] theorem modRx_strayAll (i : Nat) (f : LinkRx → LinkRx) : (modRx i f s).strayAll = s.strayAll := rfl

/-! ### modTrain -/

@[simp] theorem modTrain_pending (i : Nat) (f : LinkTrain → LinkTrain) : (modTrain i f s).pending = s.pending := rfl
@[simp] theorem modTrain_out (i : Nat) (f : LinkTrain → LinkTrain) : (modTrain i f s).out = s.out := rfl
@[simp] theorem modTrain_free (i : Nat) (f : LinkTrain → LinkTrain) : (modTrain i f s).free = s.free := rfl
@[simp] theorem modTrain_pins (i : Nat) (f : LinkTrain → LinkTrain) : (modTrain i f s).pins = s.pins := rfl
@[simp] theorem modTrain_boot (i : Nat) (f : LinkTrain → LinkTrain) : (modTrain i f s).boot = s.boot := rfl
@[simp] theorem modTrain_power (i : Nat) (f : LinkTrain → LinkTrain) : (modTrain i f s).power = s.power := rfl
@[simp] theorem modTrain_alert (i : Nat) (f : LinkTrain → LinkTrain) : (modTrain i f s).alert = s.alert := rfl
@[simp] theorem modTrain_wd (i : Nat) (f : LinkTrain → LinkTrain) : (modTrain i f s).wd = s.wd := rfl
@[simp] theorem modTrain_time (i : Nat) (f : LinkTrain → LinkTrain) : (modTrain i f s).time = s.time := rfl
@[simp] theorem modTrain_ident (i : Nat) (f : LinkTrain → LinkTrain) : (modTrain i f s).ident = s.ident := rfl
@[simp] theorem modTrain_flash (i : Nat) (f : LinkTrain → LinkTrain) : (modTrain i f s).flash = s.flash := rfl
@[simp] theorem modTrain_mbox (i : Nat) (f : LinkTrain → LinkTrain) : (modTrain i f s).mbox = s.mbox := rfl
@[simp] theorem modTrain_gci (i : Nat) (f : LinkTrain → LinkTrain) : (modTrain i f s).gci = s.gci := rfl
@[simp] theorem modTrain_host (i : Nat) (f : LinkTrain → LinkTrain) : (modTrain i f s).host = s.host := rfl
@[simp] theorem modTrain_telem (i : Nat) (f : LinkTrain → LinkTrain) : (modTrain i f s).telem = s.telem := rfl
@[simp] theorem modTrain_ports (i : Nat) (f : LinkTrain → LinkTrain) : (modTrain i f s).ports = s.ports := rfl
@[simp] theorem modTrain_links (i : Nat) (f : LinkTrain → LinkTrain) : (modTrain i f s).links = modAt s.links i (fun k => { k with train := f k.train }) := rfl
@[simp] theorem modTrain_route (i : Nat) (f : LinkTrain → LinkTrain) : (modTrain i f s).route = s.route := rfl
@[simp] theorem modTrain_pot (i : Nat) (f : LinkTrain → LinkTrain) : (modTrain i f s).pot = s.pot := rfl
@[simp] theorem modTrain_sq (i : Nat) (f : LinkTrain → LinkTrain) : (modTrain i f s).sq = s.sq := rfl
@[simp] theorem modTrain_ladder (i : Nat) (f : LinkTrain → LinkTrain) : (modTrain i f s).ladder = s.ladder := rfl
@[simp] theorem modTrain_inbox (i : Nat) (f : LinkTrain → LinkTrain) : (modTrain i f s).inbox = s.inbox := rfl
@[simp] theorem modTrain_pawn (i : Nat) (f : LinkTrain → LinkTrain) : (modTrain i f s).pawn = s.pawn := rfl
@[simp] theorem modTrain_mem (i : Nat) (f : LinkTrain → LinkTrain) : (modTrain i f s).mem = s.mem := rfl
@[simp] theorem modTrain_sheet (i : Nat) (f : LinkTrain → LinkTrain) : (modTrain i f s).sheet = s.sheet := rfl
@[simp] theorem modTrain_hazard (i : Nat) (f : LinkTrain → LinkTrain) : (modTrain i f s).hazard = s.hazard := rfl
@[simp] theorem modTrain_tables (i : Nat) (f : LinkTrain → LinkTrain) : (modTrain i f s).tables = s.tables := rfl
@[simp] theorem modTrain_opening (i : Nat) (f : LinkTrain → LinkTrain) : (modTrain i f s).opening = s.opening := rfl
@[simp] theorem modTrain_feed (i : Nat) (f : LinkTrain → LinkTrain) : (modTrain i f s).feed = s.feed := rfl
@[simp] theorem modTrain_mu (i : Nat) (f : LinkTrain → LinkTrain) : (modTrain i f s).mu = s.mu := rfl
@[simp] theorem modTrain_mats (i : Nat) (f : LinkTrain → LinkTrain) : (modTrain i f s).mats = s.mats := rfl
@[simp] theorem modTrain_norm (i : Nat) (f : LinkTrain → LinkTrain) : (modTrain i f s).norm = s.norm := rfl
@[simp] theorem modTrain_pipes (i : Nat) (f : LinkTrain → LinkTrain) : (modTrain i f s).pipes = s.pipes := rfl
@[simp] theorem modTrain_dma (i : Nat) (f : LinkTrain → LinkTrain) : (modTrain i f s).dma = s.dma := rfl
@[simp] theorem modTrain_kunits (i : Nat) (f : LinkTrain → LinkTrain) : (modTrain i f s).kunits = s.kunits := rfl
@[simp] theorem modTrain_doubles (i : Nat) (f : LinkTrain → LinkTrain) : (modTrain i f s).doubles = s.doubles := rfl
@[simp] theorem modTrain_detachNum (i : Nat) (f : LinkTrain → LinkTrain) : (modTrain i f s).detachNum = s.detachNum := rfl
@[simp] theorem modTrain_targets (i : Nat) (f : LinkTrain → LinkTrain) : (modTrain i f s).targets = s.targets := rfl
@[simp] theorem modTrain_store (i : Nat) (f : LinkTrain → LinkTrain) : (modTrain i f s).store = s.store := rfl
@[simp] theorem modTrain_held (i : Nat) (f : LinkTrain → LinkTrain) : (modTrain i f s).held = s.held := rfl
@[simp] theorem modTrain_strayAll (i : Nat) (f : LinkTrain → LinkTrain) : (modTrain i f s).strayAll = s.strayAll := rfl

/-! ### modLoop -/

@[simp] theorem modLoop_pending (i : Nat) (f : Loopback → Loopback) : (modLoop i f s).pending = s.pending := rfl
@[simp] theorem modLoop_out (i : Nat) (f : Loopback → Loopback) : (modLoop i f s).out = s.out := rfl
@[simp] theorem modLoop_free (i : Nat) (f : Loopback → Loopback) : (modLoop i f s).free = s.free := rfl
@[simp] theorem modLoop_pins (i : Nat) (f : Loopback → Loopback) : (modLoop i f s).pins = s.pins := rfl
@[simp] theorem modLoop_boot (i : Nat) (f : Loopback → Loopback) : (modLoop i f s).boot = s.boot := rfl
@[simp] theorem modLoop_power (i : Nat) (f : Loopback → Loopback) : (modLoop i f s).power = s.power := rfl
@[simp] theorem modLoop_alert (i : Nat) (f : Loopback → Loopback) : (modLoop i f s).alert = s.alert := rfl
@[simp] theorem modLoop_wd (i : Nat) (f : Loopback → Loopback) : (modLoop i f s).wd = s.wd := rfl
@[simp] theorem modLoop_time (i : Nat) (f : Loopback → Loopback) : (modLoop i f s).time = s.time := rfl
@[simp] theorem modLoop_ident (i : Nat) (f : Loopback → Loopback) : (modLoop i f s).ident = s.ident := rfl
@[simp] theorem modLoop_flash (i : Nat) (f : Loopback → Loopback) : (modLoop i f s).flash = s.flash := rfl
@[simp] theorem modLoop_mbox (i : Nat) (f : Loopback → Loopback) : (modLoop i f s).mbox = s.mbox := rfl
@[simp] theorem modLoop_gci (i : Nat) (f : Loopback → Loopback) : (modLoop i f s).gci = s.gci := rfl
@[simp] theorem modLoop_host (i : Nat) (f : Loopback → Loopback) : (modLoop i f s).host = s.host := rfl
@[simp] theorem modLoop_telem (i : Nat) (f : Loopback → Loopback) : (modLoop i f s).telem = s.telem := rfl
@[simp] theorem modLoop_ports (i : Nat) (f : Loopback → Loopback) : (modLoop i f s).ports = s.ports := rfl
@[simp] theorem modLoop_links (i : Nat) (f : Loopback → Loopback) : (modLoop i f s).links = modAt s.links i (fun k => { k with loop := f k.loop }) := rfl
@[simp] theorem modLoop_route (i : Nat) (f : Loopback → Loopback) : (modLoop i f s).route = s.route := rfl
@[simp] theorem modLoop_pot (i : Nat) (f : Loopback → Loopback) : (modLoop i f s).pot = s.pot := rfl
@[simp] theorem modLoop_sq (i : Nat) (f : Loopback → Loopback) : (modLoop i f s).sq = s.sq := rfl
@[simp] theorem modLoop_ladder (i : Nat) (f : Loopback → Loopback) : (modLoop i f s).ladder = s.ladder := rfl
@[simp] theorem modLoop_inbox (i : Nat) (f : Loopback → Loopback) : (modLoop i f s).inbox = s.inbox := rfl
@[simp] theorem modLoop_pawn (i : Nat) (f : Loopback → Loopback) : (modLoop i f s).pawn = s.pawn := rfl
@[simp] theorem modLoop_mem (i : Nat) (f : Loopback → Loopback) : (modLoop i f s).mem = s.mem := rfl
@[simp] theorem modLoop_sheet (i : Nat) (f : Loopback → Loopback) : (modLoop i f s).sheet = s.sheet := rfl
@[simp] theorem modLoop_hazard (i : Nat) (f : Loopback → Loopback) : (modLoop i f s).hazard = s.hazard := rfl
@[simp] theorem modLoop_tables (i : Nat) (f : Loopback → Loopback) : (modLoop i f s).tables = s.tables := rfl
@[simp] theorem modLoop_opening (i : Nat) (f : Loopback → Loopback) : (modLoop i f s).opening = s.opening := rfl
@[simp] theorem modLoop_feed (i : Nat) (f : Loopback → Loopback) : (modLoop i f s).feed = s.feed := rfl
@[simp] theorem modLoop_mu (i : Nat) (f : Loopback → Loopback) : (modLoop i f s).mu = s.mu := rfl
@[simp] theorem modLoop_mats (i : Nat) (f : Loopback → Loopback) : (modLoop i f s).mats = s.mats := rfl
@[simp] theorem modLoop_norm (i : Nat) (f : Loopback → Loopback) : (modLoop i f s).norm = s.norm := rfl
@[simp] theorem modLoop_pipes (i : Nat) (f : Loopback → Loopback) : (modLoop i f s).pipes = s.pipes := rfl
@[simp] theorem modLoop_dma (i : Nat) (f : Loopback → Loopback) : (modLoop i f s).dma = s.dma := rfl
@[simp] theorem modLoop_kunits (i : Nat) (f : Loopback → Loopback) : (modLoop i f s).kunits = s.kunits := rfl
@[simp] theorem modLoop_doubles (i : Nat) (f : Loopback → Loopback) : (modLoop i f s).doubles = s.doubles := rfl
@[simp] theorem modLoop_detachNum (i : Nat) (f : Loopback → Loopback) : (modLoop i f s).detachNum = s.detachNum := rfl
@[simp] theorem modLoop_targets (i : Nat) (f : Loopback → Loopback) : (modLoop i f s).targets = s.targets := rfl
@[simp] theorem modLoop_store (i : Nat) (f : Loopback → Loopback) : (modLoop i f s).store = s.store := rfl
@[simp] theorem modLoop_held (i : Nat) (f : Loopback → Loopback) : (modLoop i f s).held = s.held := rfl
@[simp] theorem modLoop_strayAll (i : Nat) (f : Loopback → Loopback) : (modLoop i f s).strayAll = s.strayAll := rfl

/-! ### The elements of a list that an update touches -/

theorem getD_modAt_self {α : Type} (l : List α) (i : Nat) (f : α → α) (d : α) (h : i < l.length) :
    (modAt l i f).getD i d = f (l.getD i d) := by
  induction l generalizing i with
  | nil => cases h
  | cons x xs ih =>
    cases i with
    | zero => rfl
    | succ i => exact ih i (Nat.lt_of_succ_lt_succ h)

theorem getD_modAt_other {α : Type} (l : List α) (i j : Nat) (f : α → α) (d : α) (h : i ≠ j) :
    (modAt l i f).getD j d = l.getD j d := by
  induction l generalizing i j with
  | nil => rfl
  | cons x xs ih =>
    cases i with
    | zero => cases j with
      | zero => exact absurd rfl h
      | succ j => rfl
    | succ i => cases j with
      | zero => rfl
      | succ j => exact ih i j (fun e => h (congrArg _ e))

@[simp] theorem getLink_modLink_self (i : Nat) (f : Link → Link) (h : i < s.links.length) :
    getLink (modLink i f s) i = f (getLink s i) := getD_modAt_self _ _ _ _ h

@[simp] theorem getLink_modLink_other (i j : Nat) (f : Link → Link) (h : i ≠ j) :
    getLink (modLink i f s) j = getLink s j := getD_modAt_other _ _ _ _ _ h

@[simp] theorem getPort_modPort_self (i : Nat) (f : Port → Port) (h : i < s.ports.length) :
    getPort (modPort i f s) i = f (getPort s i) := getD_modAt_self _ _ _ _ h

@[simp] theorem getPort_modPort_other (i j : Nat) (f : Port → Port) (h : i ≠ j) :
    getPort (modPort i f s) j = getPort s j := getD_modAt_other _ _ _ _ _ h

@[simp] theorem getHost_modHost_self (i : Nat) (f : HostPort → HostPort) (h : i < s.host.length) :
    getHost (modHost i f s) i = f (getHost s i) := getD_modAt_self _ _ _ _ h

@[simp] theorem getHost_modHost_other (i j : Nat) (f : HostPort → HostPort) (h : i ≠ j) :
    getHost (modHost i f s) j = getHost s j := getD_modAt_other _ _ _ _ _ h

@[simp] theorem getMbox_modMbox_self (i : Nat) (f : Mailbox → Mailbox) (h : i < s.mbox.length) :
    getMbox (modMbox i f s) i = f (getMbox s i) := getD_modAt_self _ _ _ _ h

@[simp] theorem getMbox_modMbox_other (i j : Nat) (f : Mailbox → Mailbox) (h : i ≠ j) :
    getMbox (modMbox i f s) j = getMbox s j := getD_modAt_other _ _ _ _ _ h

/-! ### What is computed from fields that an update leaves alone -/

theorem now_of_time {s t : State} (h : t.time = s.time) : now t = now s := by unfold now; rw [h]

theorem live_of_boot {s t : State} (h : t.boot = s.boot) : live t = live s := by unfold live; rw [h]

theorem inService_of_boot {s t : State} (h : t.boot = s.boot) : inService t = inService s := by unfold inService; rw [h]

theorem getLink_of_links {s t : State} (h : t.links = s.links) (l : Nat) : getLink t l = getLink s l := by unfold getLink; rw [h]

theorem getPort_of_ports {s t : State} (h : t.ports = s.ports) (p : Nat) : getPort t p = getPort s p := by unfold getPort; rw [h]

theorem getHost_of_host {s t : State} (h : t.host = s.host) (p : Nat) : getHost t p = getHost s p := by unfold getHost; rw [h]

theorem getMbox_of_mbox {s t : State} (h : t.mbox = s.mbox) (m : Nat) : getMbox t m = getMbox s m := by unfold getMbox; rw [h]

theorem whenDo_true (f : State → State) : whenDo true f s = f s := rfl

theorem whenDo_false (f : State → State) : whenDo false f s = s := rfl

end Sys2Proof.Laws
end

