-- ==== Sys2Proof/Laws/Time.lean ====
section
/-! SUPPORT. What the passing of device time leaves alone, and where it gets to. -/

namespace Sys2Proof.Laws
open Sys2Proof Sys2Proof.Machine

variable (n t : Nat) (s : State)

@[simp] theorem advance_pending : (advance n s).pending = s.pending := by unfold advance; split <;> rfl
@[simp] theorem advance_out : (advance n s).out = s.out := by unfold advance; split <;> rfl
@[simp] theorem advance_free : (advance n s).free = s.free := by unfold advance; split <;> rfl
@[simp] theorem advance_pins : (advance n s).pins = s.pins := by unfold advance; split <;> rfl
@[simp] theorem advance_boot : (advance n s).boot = s.boot := by unfold advance; split <;> rfl
@[simp] theorem advance_alert : (advance n s).alert = s.alert := by unfold advance; split <;> rfl
@[simp] theorem advance_ident : (advance n s).ident = s.ident := by unfold advance; split <;> rfl
@[simp] theorem advance_flash : (advance n s).flash = s.flash := by unfold advance; split <;> rfl
@[simp] theorem advance_mbox : (advance n s).mbox = s.mbox := by unfold advance; split <;> rfl
@[simp] theorem advance_gci : (advance n s).gci = s.gci := by unfold advance; split <;> rfl
@[simp] theorem advance_host : (advance n s).host = s.host := by unfold advance; split <;> rfl
@[simp] theorem advance_telem : (advance n s).telem = s.telem := by unfold advance; split <;> rfl
@[simp] theorem advance_links : (advance n s).links = s.links := by unfold advance; split <;> rfl
@[simp] theorem advance_route : (advance n s).route = s.route := by unfold advance; split <;> rfl
@[simp] theorem advance_pot : (advance n s).pot = s.pot := by unfold advance; split <;> rfl
@[simp] theorem advance_sq : (advance n s).sq = s.sq := by unfold advance; split <;> rfl
@[simp] theorem advance_ladder : (advance n s).ladder = s.ladder := by unfold advance; split <;> rfl
@[simp] theorem advance_inbox : (advance n s).inbox = s.inbox := by unfold advance; split <;> rfl
@[simp] theorem advance_mem : (advance n s).mem = s.mem := by unfold advance; split <;> rfl
@[simp] theorem advance_sheet : (advance n s).sheet = s.sheet := by unfold advance; split <;> rfl
@[simp] theorem advance_hazard : (advance n s).hazard = s.hazard := by unfold advance; split <;> rfl
@[simp] theorem advance_opening : (advance n s).opening = s.opening := by unfold advance; split <;> rfl
@[simp] theorem advance_feed : (advance n s).feed = s.feed := by unfold advance; split <;> rfl
@[simp] theorem advance_mu : (advance n s).mu = s.mu := by unfold advance; split <;> rfl
@[simp] theorem advance_mats : (advance n s).mats = s.mats := by unfold advance; split <;> rfl
@[simp] theorem advance_norm : (advance n s).norm = s.norm := by unfold advance; split <;> rfl
@[simp] theorem advance_pipes : (advance n s).pipes = s.pipes := by unfold advance; split <;> rfl
@[simp] theorem advance_dma : (advance n s).dma = s.dma := by unfold advance; split <;> rfl
@[simp] theorem advance_kunits : (advance n s).kunits = s.kunits := by unfold advance; split <;> rfl
@[simp] theorem advance_doubles : (advance n s).doubles = s.doubles := by unfold advance; split <;> rfl
@[simp] theorem advance_detachNum : (advance n s).detachNum = s.detachNum := by unfold advance; split <;> rfl
@[simp] theorem advance_targets : (advance n s).targets = s.targets := by unfold advance; split <;> rfl
@[simp] theorem advance_store : (advance n s).store = s.store := by unfold advance; split <;> rfl
@[simp] theorem advance_held : (advance n s).held = s.held := by unfold advance; split <;> rfl
@[simp] theorem advance_strayAll : (advance n s).strayAll = s.strayAll := by unfold advance; split <;> rfl

@[simp] theorem advance_running : (advance n s).time.running = s.time.running := by unfold advance; split <;> rfl
@[simp] theorem advance_cause : (advance n s).pawn.cause = s.pawn.cause := by unfold advance; split <;> rfl
@[simp] theorem advance_armed : (advance n s).wd.armed = s.wd.armed := by unfold advance; split <;> rfl
@[simp] theorem advance_vcore : (advance n s).power.vcoreMv = s.power.vcoreMv := by unfold advance; split <;> rfl

/-- A clock that does not run does not pass. -/
theorem advance_stopped (h : s.time.running = false) : advance n s = s := by unfold advance; rw [h]; rfl

@[simp] theorem advanceTo_pending : (advanceTo t s).pending = s.pending := by
  unfold advanceTo
  split
  · dsimp only; split <;> exact advance_pending _ _
  · rfl
@[simp] theorem advanceTo_out : (advanceTo t s).out = s.out := by
  unfold advanceTo
  split
  · dsimp only; split <;> exact advance_out _ _
  · rfl
@[simp] theorem advanceTo_free : (advanceTo t s).free = s.free := by
  unfold advanceTo
  split
  · dsimp only; split <;> exact advance_free _ _
  · rfl
@[simp] theorem advanceTo_pins : (advanceTo t s).pins = s.pins := by
  unfold advanceTo
  split
  · dsimp only; split <;> exact advance_pins _ _
  · rfl
@[simp] theorem advanceTo_boot : (advanceTo t s).boot = s.boot := by
  unfold advanceTo
  split
  · dsimp only; split <;> exact advance_boot _ _
  · rfl
@[simp] theorem advanceTo_alert : (advanceTo t s).alert = s.alert := by
  unfold advanceTo
  split
  · dsimp only; split <;> exact advance_alert _ _
  · rfl
@[simp] theorem advanceTo_ident : (advanceTo t s).ident = s.ident := by
  unfold advanceTo
  split
  · dsimp only; split <;> exact advance_ident _ _
  · rfl
@[simp] theorem advanceTo_flash : (advanceTo t s).flash = s.flash := by
  unfold advanceTo
  split
  · dsimp only; split <;> exact advance_flash _ _
  · rfl
@[simp] theorem advanceTo_mbox : (advanceTo t s).mbox = s.mbox := by
  unfold advanceTo
  split
  · dsimp only; split <;> exact advance_mbox _ _
  · rfl
@[simp] theorem advanceTo_gci : (advanceTo t s).gci = s.gci := by
  unfold advanceTo
  split
  · dsimp only; split <;> exact advance_gci _ _
  · rfl
@[simp] theorem advanceTo_host : (advanceTo t s).host = s.host := by
  unfold advanceTo
  split
  · dsimp only; split <;> exact advance_host _ _
  · rfl
@[simp] theorem advanceTo_telem : (advanceTo t s).telem = s.telem := by
  unfold advanceTo
  split
  · dsimp only; split <;> exact advance_telem _ _
  · rfl
@[simp] theorem advanceTo_links : (advanceTo t s).links = s.links := by
  unfold advanceTo
  split
  · dsimp only; split <;> exact advance_links _ _
  · rfl
@[simp] theorem advanceTo_route : (advanceTo t s).route = s.route := by
  unfold advanceTo
  split
  · dsimp only; split <;> exact advance_route _ _
  · rfl
@[simp] theorem advanceTo_pot : (advanceTo t s).pot = s.pot := by
  unfold advanceTo
  split
  · dsimp only; split <;> exact advance_pot _ _
  · rfl
@[simp] theorem advanceTo_sq : (advanceTo t s).sq = s.sq := by
  unfold advanceTo
  split
  · dsimp only; split <;> exact advance_sq _ _
  · rfl
@[simp] theorem advanceTo_ladder : (advanceTo t s).ladder = s.ladder := by
  unfold advanceTo
  split
  · dsimp only; split <;> exact advance_ladder _ _
  · rfl
@[simp] theorem advanceTo_inbox : (advanceTo t s).inbox = s.inbox := by
  unfold advanceTo
  split
  · dsimp only; split <;> exact advance_inbox _ _
  · rfl
@[simp] theorem advanceTo_mem : (advanceTo t s).mem = s.mem := by
  unfold advanceTo
  split
  · dsimp only; split <;> exact advance_mem _ _
  · rfl
@[simp] theorem advanceTo_sheet : (advanceTo t s).sheet = s.sheet := by
  unfold advanceTo
  split
  · dsimp only; split <;> exact advance_sheet _ _
  · rfl
@[simp] theorem advanceTo_hazard : (advanceTo t s).hazard = s.hazard := by
  unfold advanceTo
  split
  · dsimp only; split <;> exact advance_hazard _ _
  · rfl
@[simp] theorem advanceTo_opening : (advanceTo t s).opening = s.opening := by
  unfold advanceTo
  split
  · dsimp only; split <;> exact advance_opening _ _
  · rfl
@[simp] theorem advanceTo_feed : (advanceTo t s).feed = s.feed := by
  unfold advanceTo
  split
  · dsimp only; split <;> exact advance_feed _ _
  · rfl
@[simp] theorem advanceTo_mu : (advanceTo t s).mu = s.mu := by
  unfold advanceTo
  split
  · dsimp only; split <;> exact advance_mu _ _
  · rfl
@[simp] theorem advanceTo_mats : (advanceTo t s).mats = s.mats := by
  unfold advanceTo
  split
  · dsimp only; split <;> exact advance_mats _ _
  · rfl
@[simp] theorem advanceTo_norm : (advanceTo t s).norm = s.norm := by
  unfold advanceTo
  split
  · dsimp only; split <;> exact advance_norm _ _
  · rfl
@[simp] theorem advanceTo_pipes : (advanceTo t s).pipes = s.pipes := by
  unfold advanceTo
  split
  · dsimp only; split <;> exact advance_pipes _ _
  · rfl
@[simp] theorem advanceTo_dma : (advanceTo t s).dma = s.dma := by
  unfold advanceTo
  split
  · dsimp only; split <;> exact advance_dma _ _
  · rfl
@[simp] theorem advanceTo_kunits : (advanceTo t s).kunits = s.kunits := by
  unfold advanceTo
  split
  · dsimp only; split <;> exact advance_kunits _ _
  · rfl
@[simp] theorem advanceTo_doubles : (advanceTo t s).doubles = s.doubles := by
  unfold advanceTo
  split
  · dsimp only; split <;> exact advance_doubles _ _
  · rfl
@[simp] theorem advanceTo_detachNum : (advanceTo t s).detachNum = s.detachNum := by
  unfold advanceTo
  split
  · dsimp only; split <;> exact advance_detachNum _ _
  · rfl
@[simp] theorem advanceTo_targets : (advanceTo t s).targets = s.targets := by
  unfold advanceTo
  split
  · dsimp only; split <;> exact advance_targets _ _
  · rfl
@[simp] theorem advanceTo_store : (advanceTo t s).store = s.store := by
  unfold advanceTo
  split
  · dsimp only; split <;> exact advance_store _ _
  · rfl
@[simp] theorem advanceTo_held : (advanceTo t s).held = s.held := by
  unfold advanceTo
  split
  · dsimp only; split <;> exact advance_held _ _
  · rfl
@[simp] theorem advanceTo_strayAll : (advanceTo t s).strayAll = s.strayAll := by
  unfold advanceTo
  split
  · dsimp only; split <;> exact advance_strayAll _ _
  · rfl

@[simp] theorem advanceTo_running : (advanceTo t s).time.running = s.time.running := by
  unfold advanceTo
  split
  · dsimp only; split <;> exact advance_running _ _
  · rfl
@[simp] theorem advanceTo_cause : (advanceTo t s).pawn.cause = s.pawn.cause := by
  unfold advanceTo
  split
  · dsimp only; split <;> exact advance_cause _ _
  · rfl

/-- Device time stands at the limit of a timer that it had not reached. -/
theorem now_advanceTo (h : s.time.running = true) (k : now s < t) : now (advanceTo t s) = t := by
  unfold advanceTo
  rw [if_pos k]
  dsimp only
  rw [advance_running, if_pos h]
  show t * 64 / 64 = t
  omega

/-- Device time never goes back. -/
theorem advanceTo_past (k : t ≤ now s) : advanceTo t s = s := by
  unfold advanceTo
  rw [if_neg (by omega)]

end Sys2Proof.Laws
end

