-- ==== Sys2Proof/WellFormed.lean ====
section
/-! DEFINITION. Well-formed commands: every operand within the range that the spec gives it. -/

namespace Sys2Proof

/-- Straps within their pins (Table 21-7). -/
def Straps.wf (s : Straps) : Bool := s.i2c < 8 && s.vrBase < 8 && s.vrCount < 4

/-- A link ID (R370). -/
def linkWf (l : Nat) : Bool := l < 512

/-- A host port, H0 to H7 (R451). -/
def hostWf (p : Nat) : Bool := p < 8

/-- A mailbox (Table 14-3). -/
def mailboxWf (m : Nat) : Bool := m < 64

/-- A TABLE_ID (Table 7-1). -/
def tableWf (t : Nat) : Bool := t < 1024

/-- A ROUND_ID (Table 7-6). -/
def roundWf (r : Nat) : Bool := r < 2 ^ 32

/-- An EID, 21 bits (R371). -/
def eidWf (e : Nat) : Bool := e < 2 ^ 21

/-- A flit of eight words (R417). -/
def flitWf (f : List W64) : Bool := f.length = 8

/-- A bulk packet's payload fits LENGTH (Table 13-5). -/
def payloadWf (p : List Byte) : Bool := p.length < 8192

def Packet.wf (p : Packet) : Bool := payloadWf p.payload

/-- A datagram fits a host frame (R457). -/
def datagramWf (d : List Byte) : Bool := d.length ≤ 9216

def Source.wf (s : Source) : Bool := hostWf s.port && s.mac < 2 ^ 48 && s.ip < 2 ^ 128 && s.udp < 65536

/-- A received lane frame (Table 13-3). -/
def LaneRx.wf (x : LaneRx) : Bool := x.content.length = 270

/-- A link frame has one lane frame on each logical lane (R418). -/
def lanesWf (xs : List LaneRx) : Bool := 1 ≤ xs.length && xs.length ≤ 8 && xs.all LaneRx.wf

/-- A received TS (R435). -/
def TsRx.wf (t : TsRx) : Bool := t.lane < 8 && t.words.length = 8

/-- A corrected bit is one of the 72 of the codeword (R516). -/
def WordRead.wf : WordRead → Bool
  | .corrected b => b < 72
  | _ => true

/-- A temperature in °C, two's complement in 8 bits (Table 20-6). -/
def tempWf (t : Int) : Bool := -128 ≤ t && t < 128

/-- A rate in M transfers/s (Table 20-6). -/
def rateWf (r : Nat) : Bool := r < 65536

/-- All 48 rate monitors (R602). -/
def ratesWf (rs : List Nat) : Bool := rs.length = 48 && rs.all rateWf

/-- Up to four regulators' PMBus words (R604). -/
def pmbusWf (ws : List Nat) : Bool := ws.length ≤ 4 && ws.all (fun w => w < 65536)

/-- PMBus addresses (R604). -/
def nacksWf (ns : List Nat) : Bool := ns.length ≤ 4 && ns.all (fun a => a < 128)

def MemFail.wf : MemFail → Bool
  | .hbm u => u < 8
  | .lpddr u => u < 9

/-- An entry of a route bank, by kind as WHAT of ROUTE_WRITE counts them and index (Table 15-7). -/
def routeEntryWf (e : Nat × Nat) : Bool :=
  e.1 < 4 && e.2 < if e.1 = 0 then 2097152 else if e.1 = 1 then 4096 else if e.1 = 2 then 65536 else 1048576

def SqReq.wf (r : SqReq) : Bool := r.square < 64 && r.port < 64

/-- The key of a reorder context (R377). -/
def contextWf (src dst tc : Nat) : Bool := eidWf src && eidWf dst && tc < 4

/-- Every operand of a command is in range. -/
def Instr.wf : Instr → Bool
  | .pwrGoodAssert st | .resetNRelease st | .extest st | .extestPulse st | .extestTrain st | .clamp st | .highz st
  | .samplePreload st | .testLogicReset st | .restartReset st => st.wf
  | .bypass op st => (6 ≤ op && op < 0x80 || op = 0xFF) && st.wf
  | .privateJtag op st => 0x80 ≤ op && op < 0xFF && st.wf
  | .pwrGoodDeassert | .resetNAssert | .flashVerify | .enterService | .refclkCoreLoss | .watchdogRestart | .watchdogExpire
  | .debugChallengeLapse | .telemetryPeriod | .ladderArbitration | .joinHoldExpire | .levelHoldExpire | .idleInterval => true
  | .pllLock modes k _ => modes.length ≤ 4 && modes.all (fun m => m < 256) && k < 2 ^ 256
  | .selfTestDone u => match u with
    | some n => n < 256
    | none => true
  | .memTrainDone f | .memClearDone f => match f with
    | some x => x.wf
    | none => true
  | .refclkSrdLoss d | .refclkSrdRestore d => d < 8
  | .throttleEnter a b | .throttleExit a b => tempWf a && tempWf b
  | .thermalPawnEnter a | .thermalTrip a => tempWf a
  | .avsReading rs ns => ratesWf rs && nacksWf ns
  | .avsStepDone ns => nacksWf ns
  | .avsPoll v i ns => pmbusWf v && pmbusWf i && nacksWf ns
  | .helperStallCheck _ => true
  | .pawnExit tj rs => tempWf tj && ratesWf rs
  | .pawnRoundTimeout t r | .roundInactivity t r | .readyTimeout t r => tableWf t && roundWf r
  | .pawnRequest s d | .mboxRequest s d | .bulkSegment s d | .storageReply s d => s.wf && datagramWf d
  | .debugScopeExpire n => n < 3
  | .debugChallenge m | .debugToken m | .debugRelock m | .sessionIdleExpire m | .sessionOpen m | .sessionClose m | .nop m
  | .bulkFetch m | .objRead m | .objWrite m | .squarePriorityWrite m | .portClassConfigWrite m | .portLinkConfigWrite m
  | .kibitzSpecWrite m | .routeControlWrite m | .checkpointTargetWrite m | .scrubControlWrite m | .errorInjectWrite m
  | .telemetrySpecWrite m | .alertControlWrite m | .tableOpen m | .tableClose m | .movesAppend m | .boardLoad m
  | .doubleOpen m | .doubleClose m | .doubleDetach m | .doubleMove m | .restore m | .routeWrite m
  | .routeAbort m | .routeCommit m | .fence m | .unfence m | .linkLoopback m | .fwStage m | .attestQuote m
  | .restart m => mailboxWf m
  | .routeBegin c => mailboxWf c.mailbox && c.failed.all routeEntryWf
  | .scoresheetRecordRead m w => mailboxWf m && w.wf
  | .arpRequest s v t | .neighbourSolicitation s v t => s.wf && v < 4096 && t < 2 ^ 128
  | .echoRequest s v t _ d => s.wf && v < 4096 && t < 2 ^ 128 && datagramWf d
  | .ptpMessage p v _ => hostWf p && v < 4096
  | .macControlFrame p | .frameDrop p _ | .hostPortDown p | .hostPortUp p => hostWf p
  | .arpReply p ip mac => hostWf p && ip < 2 ^ 128 && mac < 2 ^ 48
  | .storageRetry n | .storageTimeout n => n < 2 ^ 32
  | .linkFrameReceive l lanes => linkWf l && lanesWf lanes
  | .replayWaitTimeout l | .ackTimer l | .timeExchangeTimer l | .timeExchangeTimeout l | .stepUpStart l
  | .trainingAttemptTimeout l | .fallbackIdleEnd l | .fastRetrainTimeout l | .linkLeaveService l | .loopbackEnd l
  | .farEndLoopbackExit l | .electricalIdleDetected l | .laneFramePeriod l => linkWf l
  | .ack l f | .nak l f | .init l f | .genStep l f | .retrain l f | .discard l f | .pipRoundPacket l f | .pipSig l f
  | .join l f | .release l f | .halt l f | .ready l f | .digest l f | .verdict l f | .tiebreak l f | .hello l f
  | .accept l f | .close l f | .phase l f | .hazard l f | .shardDone l f | .slotRelease l f | .doubleQuery l f
  | .doubleHeld l f | .candidate l f | .loadReq l f | .loaded l f | .restoreGo l f => linkWf l && flitWf f
  | .timeReq l f t | .timeResp l f t => linkWf l && flitWf f && t < 2 ^ 64
  | .tsReceive l ts => linkWf l && ts.length ≤ 8 && ts.all TsRx.wf
  | .packetHeaderLookup l p w => linkWf l && p.wf && w.wf
  | .cellAdmit _ => true
  | .egressPacketStart l w => linkWf l && w.wf
  | .squareArbitration rs ws => rs.all SqReq.wf && ws.all (fun w => w.1 < 64)
  | .lockedSequence l w => l < 64 && w.wf
  | .pipOverflow q => q < 64
  | .orderPacket l p => linkWf l && p.wf
  | .reorderTimeout a b c | .reorderContextFree a b c => contextWf a b c
  | .drainTimerExpire b => b < 4
  | .fenceAck e | .fenceTimeout e => eidWf e
  | .contribReceive l p | .resultReceive l p | .signalReceive l p | .grad l p | .commit l p | .turnRecord l p | .load l p
  | .rebuild l p | .repair l p | .doublesyncTiebreak l p | .doublesyncRestore l p | .levelAdv l p | .levelUp l p
  | .levelSet l p => linkWf l && payloadWf p
  | .chunkSent t r _ | .chunkDeadline t r _ | .absenceLimit t r _ => tableWf t && roundWf r
  | .barrierRelease t | .barrierStall t | .turnBegin t | .barrier t | .waitRounds t | .phaseSet t | .roundOpen t
  | .residClear t | .keeperTurn t | .checkpoint t | .boardSwitch t | .endMove t | .verdictWaitTimeout t | .helloTimeout t
  | .manifestDurable t | .commitDurable t | .checkpointAbandonTimeout t | .candidateFormTimeout t | .loadTimeout t
  | .loadedTimeout t => tableWf t
  | .muQuantumGrant u => u < 2
  | .muTaskComplete u w => u < 2 && w.wf
  | .keeperQuantum u _ => u < 8
  | .shardMoveDone t a n r => tableWf t && a < 2 ^ 37 && n < 2 ^ 37 && r.digest.length = 32
  | .turnReplayDone p t | .shardWriteDone p t | .slotSelfRelease p t => eidWf p && tableWf t
  | .tiebreakReplayDone p t w => eidWf p && tableWf t && w.wf
  | .hazardFire n | .hazardWindow n => n < 6
  | .scrubRead tier _ _ w _ => tier < 4 && w.wf
  | .normPipeDone r => r.unit < 2 && r.word.wf
  | .dmaTransferDone c w => c < 16 && w.wf

end Sys2Proof
end

