-- ==== Sys2Proof/Tests/Slice0.lean ====
section
/-! SUPPORT. Tests: ill-formed commands are refused, the manual's worked examples come out, and states that meet the
hypotheses of the statements. A theorem witness_X_n names hypotheses of Obligations.X that its state and operands meet
together. A state that needs a configuration or a patch whose signature the device accepts has no witness here: the device
anchors are values of Config that nothing evaluates, and so is what a hash or a signature check answers. -/

namespace Sys2Proof.Tests
set_option Elab.async false
open Sys2Proof Sys2Proof.Machine Sys2Proof.Safety Sys2Proof.Laws

/-! ### Ill-formed commands -/

theorem test_wf_straps : (Instr.pwrGoodAssert { i2c := 8 }).wf = false ∧ (Instr.resetNRelease { vrBase := 8 }).wf = false ∧
    (Instr.extest { vrCount := 4 }).wf = false ∧ (Instr.pwrGoodAssert { i2c := 7, vrBase := 7, vrCount := 3, test := true }).wf = true := by decide
theorem test_wf_jtag : (Instr.bypass 5 {}).wf = false ∧ (Instr.bypass 0x80 {}).wf = false ∧ (Instr.bypass 0xFF {}).wf = true ∧
    (Instr.privateJtag 0x7F {}).wf = false ∧ (Instr.privateJtag 0xFF {}).wf = false ∧ (Instr.privateJtag 0xFE {}).wf = true := by decide
theorem test_wf_startup : (Instr.pllLock [0, 0, 0, 0, 0] 0 true).wf = false ∧ (Instr.pllLock [256] 0 true).wf = false ∧
    (Instr.pllLock [] (2 ^ 256) true).wf = false ∧ (Instr.selfTestDone (some 256)).wf = false ∧
    (Instr.memTrainDone (some (.hbm 8))).wf = false ∧ (Instr.memClearDone (some (.lpddr 9))).wf = false ∧
    (Instr.refclkSrdLoss 8).wf = false ∧ (Instr.refclkSrdRestore 7).wf = true := by decide +kernel
theorem test_wf_heat : (Instr.throttleEnter 128 0).wf = false ∧ (Instr.throttleExit 0 (-129)).wf = false ∧ (Instr.thermalTrip 127).wf = true ∧
    (Instr.avsReading (List.replicate 47 1800) []).wf = false ∧ (Instr.avsReading (List.replicate 48 65536) []).wf = false ∧
    (Instr.avsStepDone [128]).wf = false ∧ (Instr.avsPoll [65536] [] []).wf = false ∧ (Instr.pawnExit 200 []).wf = false := by decide +kernel
theorem test_wf_numbers : (Instr.nop 64).wf = false ∧ (Instr.scoresheetRecordRead 0 (.corrected 72)).wf = false ∧
    (Instr.debugScopeExpire 3).wf = false ∧ (Instr.hostPortUp 8).wf = false ∧ (Instr.turnBegin 1024).wf = false ∧
    (Instr.absenceLimit 0 (2 ^ 32) 0).wf = false ∧ (Instr.fenceAck (2 ^ 21)).wf = false ∧ (Instr.drainTimerExpire 4).wf = false ∧
    (Instr.muQuantumGrant 2).wf = false ∧ (Instr.keeperQuantum 8 none).wf = false ∧ (Instr.hazardFire 6).wf = false ∧
    (Instr.dmaTransferDone 16 .ok).wf = false ∧ (Instr.pipOverflow 64).wf = false ∧ (Instr.scrubRead 4 0 .other .ok true).wf = false ∧
    (Instr.reorderTimeout (2 ^ 21) 0 0).wf = false ∧ (Instr.reorderTimeout 0 0 4).wf = false ∧ (Instr.storageRetry (2 ^ 32)).wf = false := by
  decide +kernel
theorem test_wf_hosts : (Instr.mboxRequest ⟨8, 0, 0, 0⟩ []).wf = false ∧ (Instr.mboxRequest ⟨0, 2 ^ 48, 0, 0⟩ []).wf = false ∧
    (Instr.mboxRequest ⟨0, 0, 0, 65536⟩ []).wf = false ∧ (Instr.pawnRequest ⟨0, 0, 0, 0⟩ (List.replicate 9217 0)).wf = false ∧
    (Instr.arpRequest ⟨0, 0, 0, 0⟩ 4096 0).wf = false ∧ (Instr.echoRequest ⟨0, 0, 0, 0⟩ 0 (2 ^ 128) false []).wf = false ∧
    (Instr.arpReply 0 0 (2 ^ 48)).wf = false ∧ (Instr.ptpMessage 0 4096 (.announce 0 0 0)).wf = false := by decide +kernel
theorem test_wf_links : (Instr.ackTimer 512).wf = false ∧ (Instr.ack 0 []).wf = false ∧ (Instr.timeReq 0 (List.replicate 8 0) (2 ^ 64)).wf = false ∧
    (Instr.linkFrameReceive 0 []).wf = false ∧ (Instr.linkFrameReceive 0 [⟨[], false⟩]).wf = false ∧
    (Instr.tsReceive 0 [⟨8, List.replicate 8 0⟩]).wf = false ∧ (Instr.grad 0 (List.replicate 8192 0)).wf = false ∧
    (Instr.orderPacket 0 ⟨0, 0, List.replicate 8192 0⟩).wf = false ∧ (Instr.squareArbitration [⟨64, 0, .ingress, false, false, 0, 0, 0, false⟩] []).wf = false ∧
    (Instr.lockedSequence 64 .ok).wf = false ∧ (Instr.shardMoveDone 0 0 0 ⟨[], none⟩).wf = false ∧ (Instr.normPipeDone ⟨2, .ok⟩).wf = false ∧
    (Instr.routeBegin ⟨0, [(4, 0)]⟩).wf = false ∧ (Instr.turnReplayDone (2 ^ 21) 0).wf = false := by
  decide +kernel

/-! ### States -/

/-- A device in service whose time runs. -/
def up : State :=
  { State.reset with
    pins := { pwrGood := true, resetHigh := true }
    boot := { step := 10, transport := true, memCleared := true }
    time := { t64 := 64000000, running := true }
    wd := { armed := true }
    ident := { State.reset.ident with eid := 1 }
    power := { State.reset.power with avsOn := true } }

/-- The same at a step of start-up. -/
def atBoot (n : Nat) : State := { up with boot := { step := n } }

/-- The same in Pawn mode. -/
def inPawn (c : Nat) : State := { up with pawn := { up.pawn with cause := c } }

/-- Port 0 with an address and no VLAN tag. -/
def hosts : List HostPort :=
  { state := 2, cfg := { mac := 2, ipv4 := 0x0A000001, v4Prefix := 24, ipv6 := 5, v6Prefix := 64 } } :: List.replicate 7 {}

/-- A sender on port 0. -/
def peer : Source := ⟨0, 1, 0x0A000002, 1000⟩

/-- A datagram that carries a mailbox message of a kind. -/
def dgram (kind session seq : Nat) (msg : List Byte) : List Byte := mboxHdr kind 0 session seq msg.length ++ msg

/-- A leaf table of one member. -/
def tbl : Table :=
  { id := 5, moveFmt := 3, muWeight := 1, phase := 0, tier := 0, level := 0, keeperEn := false, member := 0
    deadline := 1000, absence := 1000, formats := 0xF3F, entries := [], openedAt := 0, board := {} }

/-- An open round of it. -/
def rnd : Round :=
  { spec := { round := 7 }, board := {}, epoch := false, turn := 0, phase := 0, pip := false, chunkLen := 1, seqr := 0, tOpen := 0 }

/-- The device with tables open. -/
def withTables (ts : List Table) : State := { up with tables := ts, host := hosts }

/-- A request of session 1 with a command's code and argument words. -/
def asks (cmd : Nat) (args : List W64) : Request :=
  { src := peer, session := 1, seq := 9, msg := bytesOf (mkW [(63, 48, cmd)] :: 0 :: args) }

/-- It waits in mailbox 0, whose session is 1. -/
def asked (b : State) (r : Request) : State :=
  { b with mbox := { session := some { id := 1, major := 3, minor := 0, idleS := 60, lastBegin := 0 }, ring := [r], inb := (getMbox b 0).inb } ::
      List.replicate 63 {} }

/-- The inbound buffer 7 of mailbox 0 holds bytes. -/
def withBulk (bs : List Byte) (b : State) : State := modMbox 0 (fun x => { x with inb := some { id := 7, data := bs.map some } }) b

/-- The words that name it. -/
def ref7 (bs : List Byte) : List W64 := [mkW [(63, 32, 7), (31, 0, bs.length)], crc64 bs]

/-- It executes. -/
def begun (b : State) (r : Request) : State := ((beginReq 0 anyMsg (asked b r)).map (·.2)).getD b

theorem asked_meets {sp : CmdSpec} {extra : List Byte → Bool} {r : Request} {b : State} {major : Nat} (h1 : cpRuns b = true)
    (h2 : (16 ≤ r.msg.length && cmdOf r.msg = sp.code && extra r.msg) = true) (h3 : (checkReq sp 0 r (begun b r)).toOption = some major) :
    Statement.Asked 0 sp extra r major (asked b r) (begun b r) := by
  have g : cpRuns (asked b r) = true := h1
  have e : ∀ names : List Byte → Bool, names r.msg = true → beginReq 0 names (asked b r) = some (r, modMbox 0 (fun x => { x with
      ring := [], exec := some r
      session := x.session.map fun x => if x.id = r.session then { x with lastBegin := now (asked b r) } else x }) (asked b r)) := by
    intro names hn
    have q : getMbox (asked b r) 0 = { session := some { id := 1, major := 3, minor := 0, idleS := 60, lastBegin := 0 }, ring := [r], inb := (getMbox b 0).inb } :=
      rfl
    unfold beginReq
    simp [g, q, hn]
  refine ⟨?_, ?_⟩
  · rw [e _ h2]
    rw [begun, e anyMsg rfl]
    rfl
  · cases k : checkReq sp 0 r (begun b r) with
    | ok x => rw [k] at h3; simpa [Except.toOption] using h3
    | error x => rw [k] at h3; cases h3

/-! ### Power, start-up, heat, Pawn mode, JTAG -/

theorem witness_PowerGoodAndResetBeginStartup_1 : State.reset.pins.pwrGood = false ∧ State.reset.pins.resetHigh = false ∧ State.reset.boot.tripped = false := by
  decide +kernel
theorem witness_PowerGoodAndResetBeginStartup_2 :
    let s := { State.reset with pins := { State.reset.pins with pwrGood := true }, boot := { State.reset.boot with clockLoss := true } }
    s.boot.tripped = false ∧ s.pins.resetHigh = false ∧ s.pins.pwrGood = true ∧ isBoundary s.pins.jtagIr = false ∧ s.boot.clockLoss = true ∧
      s.alert.causes.length = 7 := by decide +kernel
theorem witness_PowerGoodAndResetBeginStartup_3 :
    let s := { State.reset with pins := { State.reset.pins with pwrGood := true, jtagIr := 0 } }
    s.boot.tripped = false ∧ s.pins.resetHigh = false ∧ s.pins.pwrGood = true ∧ isBoundary s.pins.jtagIr = true := by decide +kernel
theorem witness_PowerGoodAndResetBeginStartup_4 :
    let s := { atBoot 2 with boot := { step := 2, restartAt := some 5 } }
    live s = true ∧ s.boot.restartAt = some 5 := by decide +kernel
/-- A trip that stands, RESET_N released before PWR_GOOD, RESET_N asserted after the trip or without PWR_GOOD. -/
theorem witness_PowerGoodAndResetBeginStartup_5 :
    let s := { State.reset with pins := { State.reset.pins with pwrGood := true }, boot := { State.reset.boot with tripped := true } }
    let h := { State.reset with pins := { State.reset.pins with resetHigh := true } }
    s.pins.resetHigh = false ∧ s.pins.pwrGood = true ∧ s.boot.tripped = true ∧ h.pins.pwrGood = false ∧ h.pins.resetHigh = true := by
  decide +kernel
/-- PWR_GOOD rises with RESET_N high, without and with a boundary instruction. -/
theorem witness_PowerGoodAndResetBeginStartup_6 :
    let s := { State.reset with pins := { State.reset.pins with resetHigh := true } }
    s.pins.pwrGood = false ∧ s.pins.resetHigh = true ∧ isBoundary s.pins.jtagIr = false ∧
      isBoundary ({ s.pins with jtagIr := 0 } : Pins).jtagIr = true := by decide +kernel
theorem witness_ResetPutsEverythingBack : up.pins.resetHigh = true ∧ up.pins.pwrGood = true ∧ up.boot.tripped = false ∧
    ({ up with boot := { up.boot with tripped := true } } : State).boot.tripped = true ∧
    ({ up with pins := { up.pins with pwrGood := false } } : State).pins.pwrGood = false ∧ State.reset.pins.resetHigh = false := by decide +kernel
theorem witness_LostClocksTakeTheirParts : up.boot.tripped = false ∧ up.boot.step ≠ 0 ∧ up.boot.srdClockOk.getD 7 true = true ∧
    ({ up with boot := { up.boot with srdClockOk := up.boot.srdClockOk.set 7 false } } : State).boot.srdClockOk.getD 7 true = false ∧
    ({ up with boot := { up.boot with srdClockOk := up.boot.srdClockOk.set 7 false } } : State).boot.srdClockOk.getD (511 / 64) true = false ∧
    511 < up.links.length := by decide +kernel
theorem witness_LostClocksTakeTheirParts_2 :
    let s := { up with ports := List.replicate 64 { enable := 1 }, boot := { up.boot with memCleared := true } }
    0 < s.links.length ∧ mayTrain s 0 = true := by decide +kernel
theorem witness_StartupRunsItsSteps : (atBoot 1).boot.tripped = false ∧ (atBoot 1).boot.stopped = false ∧ (atBoot 1).pawn.cause = 0 ∧
    (atBoot 1).pins.straps.test = false ∧ (atBoot 1).boot.coreClockOk = true ∧ (atBoot 9).boot.step = 9 := by decide +kernel
/-- Start-up without a valid configuration: the flash is blank. -/
theorem witness_StartupStopsOnFailure :
    let s := { atBoot 4 with flash := [] }
    s.boot.step = 4 ∧ s.boot.stopped = false ∧
      (loadConfig (modIdent (fun i => { i with ownerKey := none, patchFloor := 0 }) s)).isNone = true := by decide +kernel
theorem witness_HeatFollowsItsThresholds : 2 ≤ up.boot.step ∧ up.boot.tripped = false ∧ up.pins.pwrGood = true ∧ (100 : Int) ≤ 100 ∧ (99 : Int) < 100 ∧
    (94 : Int) < 95 ∧ (109 : Int) < 110 ∧ up.power.throttled = false ∧
    ({ up with power := { up.power with throttled := true, tjMax := 94 } } : State).power.throttled = true := by decide +kernel
theorem witness_RateReadingDecidesTheVoltageStep_1 : live up = true ∧ up.power.avsOn = true ∧ [1900].foldl min 1799 < 1800 ∧
    1800 ≤ [1800].foldl min 1900 ∧ [1853].foldl min 1900 < 1854 ∧ 1854 ≤ [1854].foldl min 1900 ∧ up.power.goodRun < 99 := by decide +kernel
theorem witness_RateReadingDecidesTheVoltageStep_2 :
    let s := { up with power := { up.power with goodRun := 99, vcoreMv := 900, inFlight := true, pendingStep := some 25 } }
    live s = true ∧ s.power.avsOn = true ∧ 99 ≤ s.power.goodRun ∧ s.power.vcoreMv = 900 ∧ s.power.inFlight = true ∧
      s.power.pendingStep = some 25 ∧ (-5 : Int) < 0 ∧ (0 : Int) < 25 := by decide +kernel
theorem witness_VoltageStepsStayWithinTheirLimits_1 : up.power.avsDead = false ∧ stepTo up.power.vcoreMv 25 ≠ up.power.vcoreMv ∧
    up.power.avsFault = false ∧ live up = true ∧ up.power.avsOn = true ∧ stepTo 900 25 = 900 ∧ stepTo 650 (-5) = 650 := by decide +kernel
theorem witness_VoltageStepsStayWithinTheirLimits_2 :
    let s := { up with power := { up.power with avsFault := true, regs := [{ addr := 0x20, exp := -9 }] } }
    s.power.avsFault = true ∧ (-5 : Int) < 0 ∧ (∀ r ∈ s.power.regs, r.addr ∉ [0x21]) := by decide +kernel
theorem witness_WatchdogGuardsTheCommandProcessor : live up = true ∧ up.wd.armed = true ∧ up.wd.cpStopped = false ∧ up.wd.stopRestart = false ∧
    up.pawn.cause ≠ 1 ∧ up.pawn.cause = 0 ∧ (⟨true, 10000000, false⟩ : HelperView) ∈ [(⟨true, 10000000, false⟩ : HelperView)] := by decide +kernel
theorem witness_PawnModeEndsAndAnswers_1 : live (inPawn 2) = true ∧ pawnAbsent 2 94 (List.replicate 48 1900) = true ∧
    live (inPawn 3) = true ∧ pawnAbsent 3 120 (List.replicate 48 1854) = true := by decide +kernel
theorem witness_PawnModeEndsAndAnswers_2 :
    let s := { inPawn 2 with tables := [{ tbl with rounds := [rnd] }], host := hosts }
    live s = true ∧ s.pawn.cause ≠ 0 ∧ findRound s 5 7 = some ({ tbl with rounds := [rnd] }, rnd) ∧ rnd.done = false ∧ hostUp s 0 = true ∧
      hasIp s 0 = true ∧ mboxOk 3 (dgram 0 1 1 (List.replicate 16 0)) = false ∧ mboxOk 0 (dgram 0 1 1 (List.replicate 16 0)) = true ∧
      s.host.length = 8 := by
  decide +kernel
/-- Step 9 of start-up was running when Pawn mode was entered. -/
theorem witness_PawnModeEndsAndAnswers_3 :
    let v := forAll ({ atBoot 9 with pawn := { up.pawn with cause := 0 } } : State).tables (fun tb => checkTurn tb.id) (atBoot 9)
    v.boot.step = 9 ∧ v.boot.stopped = false ∧ up.boot.step ≠ 9 := by decide +kernel
theorem witness_JtagInstructionsSelectAndHold_1 : up.boot.tripped = false ∧ up.pins.jtagHold = false ∧ scopeOpen up 0 = false := by decide +kernel
theorem witness_JtagInstructionsSelectAndHold_2 :
    let s := { up with pins := { up.pins with jtagHold := true, jtagIr := 0 } }
    s.boot.tripped = false ∧ s.pins.jtagHold = true ∧ s.pins.resetHigh = true ∧ isBoundary s.pins.jtagIr = true := by decide +kernel

/-! ### Mailboxes, sessions, security -/

theorem witness_MailboxKeepsRequestsOnce :
    let s := withTables []
    let d := dgram 0 1 1 (List.replicate 16 0)
    cpRuns s = true ∧ s.boot.transport = true ∧ hostUp s 0 = true ∧ hasIp s 0 = true ∧ mboxOk 0 d = true ∧ s.host.length = 8 ∧
      (getMbox s (mboxHdrOf d).mailbox).ring = [] ∧ (getMbox s (mboxHdrOf d).mailbox).exec = none ∧
      (getMbox s (mboxHdrOf d).mailbox).stored = [] := by decide +kernel
/-- The ring of mailbox 0 holds the request, then 255 others and it waits no more. -/
theorem witness_MailboxKeepsRequestsOnce_2 :
    let r : Request := { src := peer, session := 1, seq := 1, msg := List.replicate 16 0 }
    let s := { withTables [] with mbox := { ring := [r], stored := [{ session := 1, seq := 2, bytes := [] }] } :: List.replicate 63 {} }
    let t := { withTables [] with mbox := { ring := List.replicate 256 r } :: List.replicate 63 {} }
    ((getMbox s 0).ring.any fun x => x.session = 1 && x.seq = 1) = true ∧
      ((getMbox s 0).stored.any fun x => x.session = 1 && x.seq = 2) = true ∧
      ((getMbox t 0).ring.all fun x => !(x.session = 1 && x.seq = 3)) = true ∧ 256 ≤ (getMbox t 0).ring.length := by decide +kernel
theorem witness_BulkDataIsTakenAndFetched_1 :
    let s := asked (withTables []) (asks 3 [])
    let body : List Byte := bytesOf [mkW [(63, 32, 7), (31, 0, 8)], mkW [(63, 32, 0)]] ++ [1, 2, 3, 4, 5, 6, 7, 8]
    let d := dgram 3 1 1 body
    cpRuns s = true ∧ s.boot.transport = true ∧ hostUp s 0 = true ∧ hasIp s 0 = true ∧ mboxOk 0 d = false ∧ mboxOk 3 d = true ∧
      s.host.length = 8 ∧ d.drop 16 = body ∧ 16 ≤ body.length ∧ (getMbox s 0).session.map (·.id) = some (mboxHdrOf d).session ∧
      (getMbox s 0).exec = none ∧ leAt body 4 4 ≠ 0 ∧ leAt body 0 4 ≤ 16777216 ∧ leAt body 8 4 = 0 ∧ leAt body 12 4 < leAt body 0 4 ∧
      leAt body 12 4 + (body.length - 16) ≤ leAt body 0 4 ∧ (getMbox s 0).inb = none := by decide +kernel
theorem witness_BulkDataIsTakenAndFetched_2 :
    Statement.Asked 0 bulkFetchSpec anyMsg (asks 4 [mkW [(63, 32, 7)], mkW [(63, 32, 0), (31, 0, 4)]]) 3
      (asked up (asks 4 [mkW [(63, 32, 7)], mkW [(63, 32, 0), (31, 0, 4)]]))
      (begun up (asks 4 [mkW [(63, 32, 7)], mkW [(63, 32, 0), (31, 0, 4)]])) ∧
    (getMbox (begun up (asks 4 [mkW [(63, 32, 7)], mkW [(63, 32, 0), (31, 0, 4)]])) 0).outb = none :=
  ⟨asked_meets (by decide +kernel) (by decide +kernel) (by decide +kernel), by decide +kernel⟩
theorem witness_RequestsBeginOldestFirstAndAreAnswered :
    let s := asked (withTables []) (asks 3 [])
    let u := begun (withTables []) (asks 3 [])
    cpRuns s = true ∧ (getMbox s 0).exec = none ∧ (getMbox s 0).ring = [asks 3 []] ∧ anyMsg (asks 3 []).msg = true ∧
      (getMbox u 0).exec = some (asks 3 []) ∧ hostUp s 0 = true ∧ hostUp s 1 = false := by decide +kernel
def openArgs : List W64 := [mkW [(63, 56, 1), (55, 48, 3), (15, 0, 60)]]
theorem witness_SessionsOpenAndEnd_1 :
    Statement.Asked 0 sessionOpenSpec anyMsg (asks 1 openArgs) 3 (asked up (asks 1 openArgs)) (begun up (asks 1 openArgs)) ∧
    fld (argW (asks 1 openArgs).msg 0) 63 56 ≤ fld (argW (asks 1 openArgs).msg 0) 55 48 ∧ (asks 1 openArgs).session ≠ 0 ∧
    (curSession (begun up (asks 1 openArgs)) 0).map (·.id) = some 1 :=
  ⟨asked_meets (by decide +kernel) (by decide +kernel) (by decide +kernel), by decide +kernel⟩
theorem witness_SessionsOpenAndEnd_2 :
    let r : Request := { asks 1 openArgs with session := 2 }
    Statement.Asked 0 sessionOpenSpec anyMsg r 3 (asked up r) (begun up r) ∧ r.session ≠ 0 ∧ bitAt (argW r.msg 0) 47 = false ∧
    (curSession (begun up r) 0).map (·.id) = some 1 :=
  ⟨asked_meets (by decide +kernel) (by decide +kernel) (by decide +kernel), by decide +kernel⟩
theorem witness_SessionsOpenAndEnd_3 :
    let r : Request := { asks 1 openArgs with session := 0 }
    Statement.Asked 0 sessionOpenSpec anyMsg r 3 (asked up r) (begun up r) ∧ r.session = 0 ∧
    fld (argW r.msg 0) 63 56 ≤ fld (argW r.msg 0) 55 48 :=
  ⟨asked_meets (by decide +kernel) (by decide +kernel) (by decide +kernel), by decide +kernel⟩
theorem witness_SessionsOpenAndEnd_4 :
    Statement.Asked 0 { code := 2 } anyMsg (asks 2 []) 3 (asked up (asks 2 [])) (begun up (asks 2 [])) ∧
    (curSession (asked up (asks 2 [])) 0).isSome = true ∧ cpRuns (asked up (asks 2 [])) = true :=
  ⟨asked_meets (by decide +kernel) (by decide +kernel) (by decide +kernel), by decide +kernel⟩
theorem witness_SessionsOpenAndEnd_5 :
    nopNames (asks 3 []).msg = true ∧ 16 ≤ (asks 3 []).msg.length ∧ cmdOf (asks 3 []).msg = 3 ∧
    (beginReq 0 nopNames (asked up (asks 3 []))).isSome = true ∧
    (checkReq nopSpec 0 (asks 3 []) (begun up (asks 3 []))).toOption = some 3 := by decide +kernel
/-- A device with its key. -/
def keyed : State := { up with ident := { up.ident with key := some (1, 2, 3), challenge := some (List.replicate 32 0, 5), scopes := [some 9, none, none] } }
theorem witness_DebugScopesFollowTheirTokens_1 :
    Statement.Asked 0 debugSpec (fun msg => phaseOf msg = 0) (asks 0x62 [0]) 3 (asked keyed (asks 0x62 [0])) (begun keyed (asks 0x62 [0])) ∧
    (begun keyed (asks 0x62 [0])).ident.key ≠ none ∧ (begun up (asks 0x62 [0])).ident.key = none :=
  ⟨asked_meets (by decide +kernel) (by decide +kernel) (by decide +kernel), by decide +kernel⟩
def tokenArgs : List W64 := 1 :: List.replicate 17 0
theorem witness_DebugScopesFollowTheirTokens_2 :
    Statement.Asked 0 debugSpec (fun msg => phaseOf msg = 1) (asks 0x62 tokenArgs) 3 (asked keyed (asks 0x62 tokenArgs))
      (begun keyed (asks 0x62 tokenArgs)) ∧ tokenOk (slice (asks 0x62 tokenArgs).msg 24 136) (begun keyed (asks 0x62 tokenArgs)) = false :=
  ⟨asked_meets (by decide +kernel) (by decide +kernel) (by decide +kernel), by decide +kernel⟩
theorem witness_DebugScopesFollowTheirTokens_3 :
    Statement.Asked 0 debugSpec (fun msg => 2 ≤ phaseOf msg) (asks 0x62 [2]) 3 (asked keyed (asks 0x62 [2])) (begun keyed (asks 0x62 [2])) ∧
    live keyed = true ∧ keyed.ident.scopes.getD 0 none = some 9 ∧ keyed.ident.challenge.isSome = true :=
  ⟨asked_meets (by decide +kernel) (by decide +kernel) (by decide +kernel), by decide +kernel⟩
/-- FW_STAGE begins and passes the checks. -/
abbrev AskedFw (r : Request) (b : State) : Prop := Statement.Asked 0 fwSpec anyMsg r 3 (asked b r) (begun b r)
/-- FW_STAGE of an image that is not held, and of eight bytes that are no image. -/
def fwArgs : List W64 := [0, mkW [(63, 32, 8), (31, 0, 7)], 0]
theorem witness_ImagesAreStagedAndQuotesSigned_1 :
    Statement.Asked 0 fwSpec anyMsg (asks 0x60 fwArgs) 3 (asked up (asks 0x60 fwArgs)) (begun up (asks 0x60 fwArgs)) ∧
    (bulkRef 0 24 (asks 0x60 fwArgs).msg (begun up (asks 0x60 fwArgs))).toOption = none :=
  ⟨asked_meets (by decide +kernel) (by decide +kernel) (by decide +kernel), by decide +kernel⟩
/-- An image whose header has bit 0 set. -/
theorem witness_ImagesAreStagedAndQuotesSigned_3 :
    let bs : List Byte := [1]
    let r := asks 0x60 ([0] ++ ref7 bs)
    let b := withBulk bs up
    AskedFw r b ∧ (bulkRef 0 24 r.msg (begun b r)).toOption = some bs ∧ firstSet bs (imageResv bs) = some 0 ∧
      firstSet [0] (imageResv [0]) = none ∧ imageOf [0] 2 = none :=
  ⟨asked_meets (by decide +kernel) (by decide +kernel) (by decide +kernel), by decide +kernel⟩
theorem witness_ImagesAreStagedAndQuotesSigned_2 :
    let r := asks 0x61 [0, 0, 0, 0, 1]
    Statement.Asked 0 quoteSpec anyMsg r 3 (asked keyed r) (begun keyed r) ∧ (begun keyed r).ident.key = some (1, 2, 3) ∧
    (begun up r).ident.key = none :=
  ⟨asked_meets (by decide +kernel) (by decide +kernel) (by decide +kernel), by decide +kernel⟩
theorem witness_FlashAndTablesReadBackWhatIsWritten : Memory.wf [(1, 0), (5, 7)] = true ∧ (0 : Nat) < [1#8].length ∧
    ([(1, 2), (3, 4)] : List (Nat × Nat)).Pairwise (fun x y => x.1 < y.1) := by decide +kernel

/-! ### Objects -/

/-- OBJ_READ of an object, OBJ_WRITE of one. -/
def reads (num a : Nat) : Request := asks 0x10 [mkW [(63, 48, num)], mkW [(63, 32, a)]]
def writes (num a : Nat) (ws : List W64) : Request := asks 0x11 (mkW [(63, 48, num)] :: mkW [(63, 32, a)] :: ws)

theorem write_meets {num a : Nat} {extra : List Byte → Bool} {ws : List W64} {b : State} (h1 : cpRuns b = true)
    (h2 : (16 ≤ (writes num a ws).msg.length && cmdOf (writes num a ws).msg = (objWriteSpec 3).code && extra (writes num a ws).msg) = true)
    (h3 : (checkReq (objWriteSpec 3) 0 (writes num a ws) (begun b (writes num a ws))).toOption = some 3)
    (h4 : majorOf (asked b (writes num a ws)) 0 = 3) (h5 : argObj (writes num a ws).msg = num)
    (h6 : ((objInfo 3 num).map fun o => (keyCheck o (argKeyA (writes num a ws).msg) (argKeyB (writes num a ws).msg)).isNone) = some true)
    (h7 : wordsOf (((writes num a ws).msg.drop 32).length / 8) ((writes num a ws).msg.drop 32) = ws) :
    Statement.AskedWrite 0 num extra (writes num a ws) 3 ws (asked b (writes num a ws)) (begun b (writes num a ws)) := by
  refine ⟨?_, h5, ?_, h7.symm⟩
  · rw [h4]; exact asked_meets h1 h2 h3
  · cases k : objInfo 3 num with
    | none => rw [k] at h6; cases h6
    | some o => rw [k] at h6; exact ⟨o, rfl, by simpa [Option.isNone_iff_eq_none] using h6⟩

theorem witness_ObjectsAreReadAndWritten_1 :
    Statement.Asked 0 (objReadSpec 3) (fun msg => argObj msg ≠ 0x1101) (reads 0x0A02 0) 3 (asked up (reads 0x0A02 0)) (begun up (reads 0x0A02 0)) ∧
    majorOf (asked up (reads 0x0A02 0)) 0 = 3 ∧ (objInfo 3 0x0A02).isSome = true ∧ objInfo 3 0x0F99 = none ∧
    (objRead (begun up (reads 0x0A02 0)) 0x0A02 0 0).isSome = true ∧ (objRead up 0x0401 5 0).isNone = true :=
  ⟨asked_meets (by decide +kernel) (by decide +kernel) (by decide +kernel), by decide +kernel⟩
theorem witness_ObjectsAreReadAndWritten_2 :
    Statement.Asked 0 (objReadSpec 3) (fun msg => argObj msg = 0x1101) (reads 0x1101 67108863) 3 (asked up (reads 0x1101 67108863))
      (begun up (reads 0x1101 67108863)) ∧
    argKeyA (reads 0x1101 67108863).msg ≤ 67108863 ∧ (begun up (reads 0x1101 67108863)).boot.memCleared = true ∧ (objInfo 3 0x1101).isSome = true ∧
    (objRead (begun up (reads 0x1101 67108863)) 0x1101 67108863 0).isSome = true :=
  ⟨asked_meets (by decide +kernel) (by decide +kernel) (by decide +kernel), by decide +kernel⟩
theorem witness_ObjectsAreReadAndWritten_3 :
    let ws : List W64 := [0, 0, 0, 0]
    Statement.AskedWrite 0 0x0A02 (fun msg => !namedWrites.contains (argObj msg)) (writes 0x0A02 0 ws) 3 ws (asked up (writes 0x0A02 0 ws))
      (begun up (writes 0x0A02 0 ws)) ∧ (∀ i, i < 6 → hazOn (fld (wd ws (i / 2)) (32 * (i % 2) + 31) (32 * (i % 2))) = false) :=
  ⟨write_meets (by decide +kernel) (by decide +kernel) (by decide +kernel) (by decide +kernel) (by decide +kernel) (by decide +kernel)
    (by decide +kernel), by decide +kernel⟩
theorem witness_ObjectsAreReadAndWritten_4 :
    let ws : List W64 := List.replicate 8 0
    Statement.AskedWrite 0 0x0C02 (fun msg => !namedWrites.contains (argObj msg)) (writes 0x0C02 0 ws) 3 ws (asked up (writes 0x0C02 0 ws))
      (begun up (writes 0x0C02 0 ws)) ∧ (0x0C02 : Nat) ∉ namedWrites :=
  ⟨write_meets (by decide +kernel) (by decide +kernel) (by decide +kernel) (by decide +kernel) (by decide +kernel) (by decide +kernel)
    (by decide +kernel), by decide +kernel⟩

/-! ### Switch and service objects -/

/-- A write of an object begins and passes the checks. -/
abbrev WriteOk (num a : Nat) (ws : List W64) (b : State) : Prop :=
  Statement.AskedWrite 0 num (fun msg => argObj msg = num) (writes num a ws) 3 ws (asked b (writes num a ws)) (begun b (writes num a ws))

theorem witness_SwitchObjectsAreWritten_1 : WriteOk 0x0B02 0 [mkW [(17, 0, 0o543210)]] up :=
  write_meets (by decide +kernel) (by decide +kernel) (by decide +kernel) (by decide +kernel) (by decide +kernel) (by decide +kernel)
    (by decide +kernel)
/-- Class 7 of port 63 with its least guaranteed cells, the lowest ALPHA and the lowest QUANTUM. -/
theorem witness_SwitchObjectsAreWritten_2 :
    let w : W64 := mkW [(47, 40, 1), (35, 32, 12), (8, 0, 17)]
    let u := begun up (writes 0x0B01 511 [w])
    WriteOk 0x0B01 511 [w] up ∧ fld w 8 0 = 17 ∧ (17 : Nat) ≤ 256 ∧ (511 % 8 = 7 → 17 ≤ fld w 8 0) ∧
      qminTotal u - 8 * (u.pot.classes.getD 511 {}).qmin + 8 * 17 ≤ 262144 ∧
      ((u.pot.classes.getD 511 {}).qmin < 17 → 8 * (17 - (u.pot.classes.getD 511 {}).qmin) ≤ sharedFree u) ∧ fld w 35 32 = 12 ∧ fld w 47 40 ≠ 0 :=
  ⟨write_meets (by decide +kernel) (by decide +kernel) (by decide +kernel) (by decide +kernel) (by decide +kernel) (by decide +kernel)
    (by decide +kernel), by decide +kernel⟩
/-- Port 5 as two links, of which the first is enabled. -/
theorem witness_SwitchObjectsAreWritten_3 :
    let w : W64 := mkW [(33, 32, 1), (23, 16, 1), (15, 0, 3)]
    WriteOk 0x0D01 5 [w] up ∧
      (∀ j, j < 8 → j % splitLanes (fld w 33 32) = 0 → (fld w 23 16).testBit j = true → ((fld w 15 0) >>> (2 * j)) % 4 ≠ 0) ∧
      (∀ j, j < 8 → j % splitLanes (fld w 33 32) ≠ 0 → (fld w 23 16).testBit j = false ∧ ((fld w 15 0) >>> (2 * j)) % 4 = 0) :=
  ⟨write_meets (by decide +kernel) (by decide +kernel) (by decide +kernel) (by decide +kernel) (by decide +kernel) (by decide +kernel)
    (by decide +kernel), by decide +kernel⟩
theorem witness_SwitchObjectsAreWritten_4 :
    let w : W64 := mkW [(63, 61, 3), (20, 0, 0x1FFFFE)]
    WriteOk 0x0C03 7 [w, 0, 0, 0] up ∧ fld w 20 0 ≠ 0x1FFFFF ∧ fld w 20 0 ≠ (begun up (writes 0x0C03 7 [w, 0, 0, 0])).ident.eid ∧
      fld w 63 61 < 4 ∧ ¬ fld w 63 61 ≤ 1 :=
  ⟨write_meets (by decide +kernel) (by decide +kernel) (by decide +kernel) (by decide +kernel) (by decide +kernel) (by decide +kernel)
    (by decide +kernel), by decide +kernel⟩
theorem witness_SwitchObjectsAreWritten_5 :
    let w : W64 := mkW [(47, 40, 1), (63, 48, 1)]
    WriteOk 0x0C01 0 [w, 0, 0, 0] up ∧ fld w 47 40 ≠ 0 ∧ fld w 63 48 ≠ 0 :=
  ⟨write_meets (by decide +kernel) (by decide +kernel) (by decide +kernel) (by decide +kernel) (by decide +kernel) (by decide +kernel)
    (by decide +kernel), by decide +kernel⟩
theorem witness_ServiceObjectsAreWritten_1 :
    WriteOk 0x0A03 15 [0, 0, 0, 0] up ∧ fld (0 : W64) 45 44 ≠ 3 ∧ targetUsed (begun up (writes 0x0A03 15 [0, 0, 0, 0])) 15 = false :=
  ⟨write_meets (by decide +kernel) (by decide +kernel) (by decide +kernel) (by decide +kernel) (by decide +kernel) (by decide +kernel)
    (by decide +kernel), by decide +kernel⟩
theorem witness_ServiceObjectsAreWritten_2 :
    let w : W64 := mkW [(47, 32, 100), (55, 48, 168), (63, 56, 1)]
    WriteOk 0x1004 0 [w, 0] up ∧ 100 ≤ fld w 47 32 ∧ 1 ≤ fld w 55 48 ∧ fld w 55 48 ≤ 168 ∧ 1 ≤ fld w 63 56 ∧ fld w 63 56 ≤ 168 :=
  ⟨write_meets (by decide +kernel) (by decide +kernel) (by decide +kernel) (by decide +kernel) (by decide +kernel) (by decide +kernel)
    (by decide +kernel), by decide +kernel⟩
theorem witness_ServiceObjectsAreWritten_3 :
    let w : W64 := mkW [(61, 60, 2), (55, 49, 71)]
    let open_ : State := { up with ident := { up.ident with scopes := [none, some (2 ^ 40), none] } }
    WriteOk 0x1005 0 [w, 0] up ∧ WriteOk 0x1005 0 [w, 0] open_ ∧ fld w 55 49 ≤ 71 ∧ fld w 61 60 ≠ 3 ∧
      scopeOpen (begun open_ (writes 0x1005 0 [w, 0])) 1 = true ∧ scopeOpen (begun up (writes 0x1005 0 [w, 0])) 1 = false :=
  ⟨write_meets (by decide +kernel) (by decide +kernel) (by decide +kernel) (by decide +kernel) (by decide +kernel) (by decide +kernel)
    (by decide +kernel), write_meets (by decide +kernel) (by decide +kernel) (by decide +kernel) (by decide +kernel) (by decide +kernel)
    (by decide +kernel) (by decide +kernel), by decide +kernel⟩
/-- Telemetry on, one entry: DeviceInfo. -/
theorem witness_ServiceObjectsAreWritten_4 :
    let w : W64 := mkW [(63, 48, 1), (47, 47, 1), (45, 41, 1), (15, 0, 10)]
    let ws : List W64 := [w, 0, 0, 0, mkW [(63, 48, 0x0F01), (15, 0, 1)]] ++ List.replicate 23 0
    WriteOk 0x0F04 0 ws up ∧ 10 ≤ fld w 15 0 ∧ fld w 45 41 = 1 ∧ fld w 63 48 ≠ 0 ∧ fld (wd ws 4) 15 0 ≠ 0 ∧
      ((objInfo 3 (fld (wd ws 4) 63 48)).any fun o => o.keyB.isNone) = true ∧ (∀ i, i < 24 → 1 ≤ i → wd ws (4 + i) = 0) :=
  ⟨write_meets (by decide +kernel) (by decide +kernel) (by decide +kernel) (by decide +kernel) (by decide +kernel) (by decide +kernel)
    (by decide +kernel), by decide +kernel⟩
theorem witness_ServiceObjectsAreWritten_5 : WriteOk 0x1403 0 [mkW [(62, 56, 127), (55, 48, 5)]] up :=
  write_meets (by decide +kernel) (by decide +kernel) (by decide +kernel) (by decide +kernel) (by decide +kernel) (by decide +kernel)
    (by decide +kernel)

/-! ### Tables -/

/-- A request begins and passes the checks. -/
abbrev AskOk (sp : CmdSpec) (r : Request) (b : State) : Prop := Statement.Asked 0 sp anyMsg r 3 (asked b r) (begun b r)

/-- A TABLE_OPEN buffer: table 5, member 0 alone, a leaf and the crown, with its board, and a Keeper or none. -/
def tableBytes (k : List W64) : List Byte := bytesOf ([
  mkW [(63, 56, 3), (51, 48, 1), (44, 43, 3), (40, 40, if k.isEmpty then 0 else 1), (9, 0, 5)], mkW [(63, 48, 1000), (47, 32, 1000)],
  0xF3F, mkW [(9, 0, 1)],
  mkW [(63, 44, 0), (43, 23, 1), (22, 21, 3)],
  mkW [(63, 48, 1), (47, 41, 1), (40, 39, 0), (20, 0, 1)], 0, 0,
  mkW [(63, 44, 0), (43, 23, 9), (22, 3, 0)]] ++ k)

/-- The KeeperSpec: SGD, partner 77. -/
def spec77 (partner : Nat) : List W64 := [mkW [(60, 57, 1), (41, 21, partner)], 0, mkW [(31, 0, 0x3F800000)], 0, 0]

def served : State :=
  { up with time := { up.time with lockedOnce := true }, ident := { up.ident with key := some (1, 2, 3), rulesetCap := 3, eid := 1 }, host := hosts }

theorem witness_TablesOpenLoadAndClose_1 :
    let bs := tableBytes []
    let r := asks 0x20 (ref7 bs)
    let u := begun (withBulk bs served) r
    AskOk tableOpenSpec r (withBulk bs served) ∧ (bulkRef 0 16 r.msg u).toOption = some bs ∧ openCounts bs = none ∧ openResv bs = none ∧
      openValues u 3 bs = none ∧ openLate u (readTable u bs) = none ∧ (readTable u bs).keeper = none :=
  ⟨asked_meets (by decide +kernel) (by decide +kernel) (by decide +kernel), by decide +kernel⟩
set_option maxRecDepth 100000 in
theorem witness_TablesOpenLoadAndClose_2 :
    let bs := tableBytes (spec77 77)
    let r := asks 0x20 (ref7 bs)
    let u := begun (withBulk bs served) r
    AskOk tableOpenSpec r (withBulk bs served) ∧ (bulkRef 0 16 r.msg u).toOption = some bs ∧ openCounts bs = none ∧ openResv bs = none ∧
      openValues u 3 bs = none ∧ openLate u (readTable u bs) = none ∧ ((readTable u bs).keeper.map (·.spec.partner)) = some 77 ∧
      isCrown (readTable u bs) = true :=
  ⟨asked_meets (by decide +kernel) (by decide +kernel) (by decide +kernel), by decide +kernel⟩
/-- One byte too many, a reserved bit set, RULE 3. -/
theorem witness_TablesOpenLoadAndClose_3 :
    openCounts (tableBytes [] ++ [0]) = badMsg 128 ∧ openResv (bytesOf [0, 0, 0, mkW [(10, 10, 1), (9, 0, 1)]] ++ (tableBytes []).drop 32) ≠ none ∧
      openValues served 3 (tableBytes [mkW [(63, 62, 3), (60, 57, 1), (41, 21, 77)], 0, mkW [(31, 0, 0x3F800000)], 0, 0]) =
        badBuf (8 * 72 + 62) := by decide +kernel
theorem witness_TablesOpenLoadAndClose_4 :
    AskOk tableCloseSpec (asks 0x21 [5]) (withTables [tbl]) ∧ (findTable (begun (withTables [tbl]) (asks 0x21 [5])) 5).isSome = true ∧
      findTable (begun up (asks 0x21 [5])) 5 = none :=
  ⟨asked_meets (by decide +kernel) (by decide +kernel) (by decide +kernel), by decide +kernel⟩
def crown5 : Table := { tbl with tier := 3, entries := [{ member := 0, eid := 1, relation := 3 }] }
theorem witness_TablesOpenLoadAndClose_5 :
    let bs := slice (tableBytes []) 40 32
    let r := asks 0x23 (5 :: ref7 bs)
    let b := withBulk bs (withTables [crown5])
    AskOk boardLoadSpec r b ∧ (bulkRef 0 24 r.msg (begun b r)).toOption = some bs ∧ findTable (begun b r) (argTable r) = some crown5 ∧
      boardLoadCheck crown5 bs = none ∧ boardLoadCheck crown5 (bs ++ [0]) = badMsg 192 :=
  ⟨asked_meets (by decide +kernel) (by decide +kernel) (by decide +kernel), by decide +kernel⟩
/-- TURN_BEGIN 0, inline and in the buffer. -/
def turnMove : List W64 := [mkW [(63, 56, 1), (15, 0, 1)], 0, 0, 0]
theorem witness_MovesAppendInSequence_1 :
    let r := asks 0x22 ([mkW [(18, 16, 1), (9, 0, 5)], 0] ++ turnMove)
    Statement.Asked 0 (movesAppendSpec (asked (withTables [tbl]) r)) anyMsg r 3 (asked (withTables [tbl]) r) (begun (withTables [tbl]) r) ∧
      findTable (begun (withTables [tbl]) r) (argTable r) = some tbl ∧ inlineOf r.msg ≠ 0 ∧ (argW r.msg 1).toNat = tbl.appended ∧
      recordsOf (r.msg.drop 32) = [turnMove] ∧ (appendChecks tbl 0 (histOf tbl) [turnMove]).toOption.isSome = true ∧ tbl.moves.length + 1 ≤ 1048576 ∧
      (argW (asks 0x22 [5, 1]).msg 1).toNat ≠ tbl.appended ∧
      (appendChecks tbl 0 (histOf tbl) [[mkW [(63, 56, 5)], 0, 0, 0]]).toOption = none :=
  ⟨asked_meets (by decide +kernel) (by decide +kernel) (by decide +kernel), by decide +kernel⟩
theorem witness_MovesAppendInSequence_2 :
    let bs := bytesOf turnMove
    let r := asks 0x22 ([5, 0] ++ ref7 bs)
    let b := withBulk bs (withTables [tbl])
    Statement.Asked 0 (movesAppendSpec (asked b r)) anyMsg r 3 (asked b r) (begun b r) ∧ inlineOf r.msg = 0 ∧
      (bulkRef 0 32 r.msg (begun b r)).toOption = some bs ∧ bs.length % 32 = 0 ∧ resvBuf bs (recordsResv 3 0 bs) = none :=
  ⟨asked_meets (by decide +kernel) (by decide +kernel) (by decide +kernel), by decide +kernel⟩
/-- One move more than a list holds. -/
theorem moves_full (l : List (List W64)) (h : l.length = 1048576) : (appendChecks { tbl with moves := l } 0 (histOf { tbl with moves := l }) [turnMove]).toOption.isSome = true ∧
    1048576 < ({ tbl with moves := l } : Table).moves.length + 1 := ⟨rfl, by show _ < l.length + 1; omega⟩
theorem witness_MovesAppendInSequence_3 : ∃ tb : Table, (appendChecks tb 0 (histOf tb) [turnMove]).toOption.isSome = true ∧
    1048576 < tb.moves.length + 1 := ⟨_, moves_full (List.replicate 1048576 []) List.length_replicate⟩

/-! ### Doubles -/

def dbl : Double := { primary := 9, table := 5, spec := readKSpec (bytesOf (spec77 1)), room := 100, slots := [{}, {}] }
def withDouble (d : Double) : State := { served with doubles := [d] }
def openDbl (reuse : Nat) : Request := asks 0x30 (mkW [(63, 43, 8), (41, 21, reuse), (9, 0, 5)] :: spec77 1)
theorem witness_DoublesOpenDetachAndMove_1 :
    let r := openDbl 0x1FFFFF
    let u := begun served r
    let k := readKSpec (r.msg.drop 24)
    AskOk doubleOpenSpec r served ∧ 3 ≤ rulesetMax u ∧ inService u = true ∧ attachedOf u 8 5 = none ∧ k.partner = u.ident.eid ∧ kspecBad k = none ∧
      k.quota ≤ 32000 ∧ (u.doubles.map (·.spec.quota)).sum + k.quota ≤ 32000 ∧ doubleRegion u + doubleBytes k.quota k.rule ≤ 960000000000 :=
  ⟨asked_meets (by decide +kernel) (by decide +kernel) (by decide +kernel), by decide +kernel⟩
/-- A double is here already that leaves no quota, or no memory. -/
theorem witness_DoublesOpenDetachAndMove_5 :
    let r := asks 0x30 (mkW [(63, 43, 8), (41, 21, 0x1FFFFF), (9, 0, 5)] :: [mkW [(60, 57, 1), (41, 21, 1), (15, 0, 1)], 0, mkW [(31, 0, 0x3F800000)], 0, 0])
    let k := readKSpec (r.msg.drop 24)
    let full := begun (withDouble { dbl with spec := { dbl.spec with quota := 32000 } }) r
    let big := begun (withDouble { dbl with room := 100000 }) r
    AskOk doubleOpenSpec r (withDouble { dbl with spec := { dbl.spec with quota := 32000 } }) ∧ AskOk doubleOpenSpec r (withDouble { dbl with room := 100000 }) ∧
      attachedOf full 8 5 = none ∧ kspecBad k = none ∧ 32000 < (full.doubles.map (·.spec.quota)).sum + k.quota ∧
      960000000000 < doubleRegion big + doubleBytes k.quota k.rule :=
  ⟨asked_meets (by decide +kernel) (by decide +kernel) (by decide +kernel), asked_meets (by decide +kernel) (by decide +kernel) (by decide +kernel),
    by decide +kernel⟩
theorem witness_DoublesOpenDetachAndMove_2 :
    let r := openDbl 9
    let d := { dbl with state := 4 }
    let u := begun (withDouble d) r
    AskOk doubleOpenSpec r (withDouble d) ∧ detachedOf u 9 5 = some d ∧ d.spec.rule = (readKSpec (r.msg.drop 24)).rule ∧
      (readKSpec (r.msg.drop 24)).quota ≤ d.spec.quota ∧ detachedOf (begun served r) 9 5 = none :=
  ⟨asked_meets (by decide +kernel) (by decide +kernel) (by decide +kernel), by decide +kernel⟩
theorem witness_DoublesOpenDetachAndMove_3 :
    let arg : W64 := mkW [(63, 43, 9), (9, 0, 5)]
    AskOk (doubleKeySpec 0x31) (asks 0x31 [arg]) (withDouble dbl) ∧ AskOk (doubleKeySpec 0x32) (asks 0x32 [arg]) (withDouble dbl) ∧
      doubleOf (begun (withDouble dbl) (asks 0x31 [arg])) 9 5 = some dbl ∧ attachedOf (begun (withDouble dbl) (asks 0x32 [arg])) 9 5 = some dbl ∧
      doubleOf (begun served (asks 0x31 [arg])) 9 5 = none ∧ attachedOf (withDouble { dbl with state := 4 }) 9 5 = none ∧
      (detachedOf (withDouble { dbl with state := 4 }) 9 5).isSome = true :=
  ⟨asked_meets (by decide +kernel) (by decide +kernel) (by decide +kernel), asked_meets (by decide +kernel) (by decide +kernel) (by decide +kernel),
    by decide +kernel⟩
def keeping : Table :=
  { crown5 with keeperEn := true, keeper := some { spec := readKSpec (bytesOf (spec77 77)), step := 0, b1pow := 0, b2pow := 0 } }
theorem witness_DoublesOpenDetachAndMove_4 :
    let r := asks 0x33 [mkW [(63, 43, 9), (9, 0, 5)]]
    AskOk (doubleKeySpec 0x33) r (withTables [keeping]) ∧ findTable (begun (withTables [keeping]) r) 5 = some keeping ∧ isCrown keeping = true ∧
      keeping.keeper ≠ none ∧ 9 ≠ (begun (withTables [keeping]) r).ident.eid ∧ isCrown tbl = false :=
  ⟨asked_meets (by decide +kernel) (by decide +kernel) (by decide +kernel), by decide +kernel⟩

/-! ### Routes, fences, loopbacks, restart -/

/-- Bank 1 is being staged by the session. -/
def staging : State := { served with route := { served.route with banks := [{ state := 1 }, { state := 3 }, { state := 2 }, {}], owner := some (0, 1) } }
theorem witness_RouteBanksAreStagedAndCommitted_1 :
    AskOk { code := 0x40 } (asks 0x40 []) served ∧ stagingBank (begun served (asks 0x40 [])) = none ∧
      (getBank (begun served (asks 0x40 [])) ((served.route.cur + 1) % 4)).state = 0 ∧ (stagingBank staging).isSome = true :=
  ⟨asked_meets (by decide +kernel) (by decide +kernel) (by decide +kernel), by decide +kernel⟩
/-- The last EID's entry, empty; one entry too many. -/
theorem witness_RouteBanksAreStagedAndCommitted_2 :
    let r := asks 0x41 [mkW [(63, 62, 0), (61, 61, 1), (20, 0, 0x1FFFFF)], 1, 0]
    let u := begun staging r
    AskOk routeWriteSpec r staging ∧ (ownStaging 0 r u).toOption = some 1 ∧ writeInline r.msg = true ∧ fld (argW r.msg 0) 20 0 + 1 ≤ entryLimit 0 ∧
      (entriesOf (entrySize 0) 1 (r.msg.drop 32)) = [0] ∧ entryBad u 0 0x1FFFFF 256 0 = none ∧ (entryBad u 0 0x1FFFFF 256 (2 ^ 29)).isSome = true :=
  ⟨asked_meets (by decide +kernel) (by decide +kernel) (by decide +kernel), by decide +kernel⟩
theorem witness_RouteBanksAreStagedAndCommitted_3 :
    let bs : List Byte := List.replicate 4 0
    let r := asks 0x41 ([mkW [(63, 62, 0), (20, 0, 3)], 1] ++ ref7 bs)
    let b := withBulk bs staging
    AskOk routeWriteSpec r b ∧ (ownStaging 0 r (begun b r)).toOption = some 1 ∧ writeInline r.msg = false ∧
      (bulkRef 0 32 r.msg (begun b r)).toOption = some bs ∧ bs.length = writeCount r.msg * entrySize (writeWhat r.msg) ∧
      firstSet bs (entriesResv 0 0 (entriesOf 4 1 bs)) = none :=
  ⟨asked_meets (by decide +kernel) (by decide +kernel) (by decide +kernel), by decide +kernel⟩
theorem witness_RouteBanksAreStagedAndCommitted_4 :
    AskOk { code := 0x42 } (asks 0x42 []) staging ∧ AskOk { code := 0x43 } (asks 0x43 []) staging ∧
      (ownStaging 0 (asks 0x43 []) (begun staging (asks 0x43 []))).toOption = some 1 ∧ live staging = true ∧ (getBank staging 2).state = 2 ∧
      staging.route.banks.length = 4 :=
  ⟨asked_meets (by decide +kernel) (by decide +kernel) (by decide +kernel), asked_meets (by decide +kernel) (by decide +kernel) (by decide +kernel),
    by decide +kernel⟩
def withFence (f : Fence) : State := { served with route := { served.route with fences := [f] } }
def fence9 : Fence :=
  { eid := 9, time := 0, accepted := 0, timeoutUs := 10, mailbox := none, waitFor := [4], waited := 1, acked := false }
theorem witness_FencesLoopbacksAndRestartWaitForTheirTime_1 :
    let r := asks 0x44 [mkW [(63, 43, 9), (15, 0, 1)]]
    AskOk fenceSpec r served ∧ AskOk fenceSpec r (withFence fence9) ∧ argEid r ≠ (begun served r).ident.eid ∧ fenceOf (begun served r) 9 = none ∧
      (begun served r).route.fences.length < 256 ∧ fenceOf (begun (withFence fence9) r) 9 = some fence9 ∧
      256 ≤ (List.replicate 256 fence9).length ∧ live (withFence fence9) = true ∧ fenceOf (withFence fence9) 9 = some fence9 ∧
      (∀ p ∈ fence9.waitFor, unfinished (withFence fence9) fence9 p = false) :=
  ⟨asked_meets (by decide +kernel) (by decide +kernel) (by decide +kernel), asked_meets (by decide +kernel) (by decide +kernel) (by decide +kernel),
    by decide +kernel⟩
theorem witness_FencesLoopbacksAndRestartWaitForTheirTime_2 :
    let r := asks 0x45 [mkW [(63, 43, 9)]]
    let sp : CmdSpec := { code := 0x45, len := fun _ => 8, resv := fun _ => [(128, 43)] }
    AskOk sp r (withFence { fence9 with acked := true }) ∧ AskOk sp r (withFence fence9) ∧ AskOk sp r served ∧
      fenceOf (begun (withFence { fence9 with acked := true }) r) 9 = some { fence9 with acked := true } ∧ fenceOf (begun served r) 9 = none :=
  ⟨asked_meets (by decide +kernel) (by decide +kernel) (by decide +kernel), asked_meets (by decide +kernel) (by decide +kernel) (by decide +kernel),
    asked_meets (by decide +kernel) (by decide +kernel) (by decide +kernel), by decide +kernel⟩
/-- Every port one enabled link. -/
def linked : State := { served with ports := List.replicate 64 { enable := 1, genAllow := 3 } }
/-- A group of two legs by one link is at fault, whichever entries are written. -/
theorem witness_RouteBanksAreStagedAndCommitted_5 :
    let bank : RouteBank := { state := 3, groups := [(2, 2 * 2 ^ 34)], legs := [(0, 5), (1, 6)] }
    let es := entriesOf 4 1 [0, 0, 0, 0]
    legsBad linked 0 3 256 1 (writeEntries 0 3 es bank) = some 256 ∧
      legsBad linked 0 3 256 1 (writeEntries 0 3 es { bank with legs := [(0, 5), (1, 8 * 2 ^ 21 + 6)] }) = none := by decide +kernel
theorem witness_FencesLoopbacksAndRestartWaitForTheirTime_3 :
    let r := asks 0x50 [mkW [(13, 12, 1), (11, 10, 3), (8, 0, 8)], 1]
    let s := { linked with links := linked.links.set 8 { loop := { mode := 1, gen := 1, endAt := 5, mailbox := none } } }
    AskOk loopbackSpec r linked ∧ mayTrain (begun linked r) 8 = true ∧ (getLink (begun linked r) 8).loop.mode = 0 ∧ live s = true ∧
      (getLink s 8).loop.mode = 1 :=
  ⟨asked_meets (by decide +kernel) (by decide +kernel) (by decide +kernel), by decide +kernel⟩
theorem witness_FencesLoopbacksAndRestartWaitForTheirTime_4 : AskOk restartSpec (asks 0x70 [0x5A4E5253]) up :=
  asked_meets (by decide +kernel) (by decide +kernel) (by decide +kernel)

/-! ### Host ports, telemetry, links -/

theorem witness_HostFramesAreAnsweredOrDropped : live served = true ∧ hostUp served peer.port = true ∧ (getHost served 0).cfg.v4Prefix ≠ 0 ∧
    (getHost served 0).cfg.v6Prefix ≠ 0 ∧ (List.replicate 1472 (0 : Byte)).length ≤ 1472 ∧ (5 : Nat) ≠ (getHost served 0).cfg.vlan := by decide +kernel
/-- A root of time that follows master 3 of port 0. -/
def ptpOn : State := { served with time := { served.time with ptpEn := true, isRoot := true, ptpMaster := some (0, 3, 1) } }
theorem witness_HostPortsComeUpGoDownAndKeepTime : live ptpOn = true ∧ hostUp ptpOn 0 = true ∧ ptpOn.time.ptpEn = true ∧ ptpOn.time.isRoot = true ∧
    ptpOn.pawn.cause = 0 ∧ ptpOn.time.ptpMaster = some (0, 3, 1) ∧ ptpOn.time.ptpStepped = false ∧ noTableYet ptpOn = true ∧ cpRuns ptpOn = true ∧
    (getHost { served with host := [{ state := 1 }] } 0).state = 1 ∧ (0 : Int) ≤ 5 ∧ (-5 : Int) < 0 := by decide +kernel
theorem witness_HostPortsComeUpGoDownAndKeepTime_2 : let s := { ptpOn with time := { ptpOn.time with ptpStepped := true } }
    live s = true ∧ hostUp s 0 = true ∧ s.time.ptpMaster = some (0, 3, 1) ∧ s.time.ptpStepped = true := by decide +kernel
/-- Telemetry on, with no entry, to a collector by network 0. -/
def telling : State := { served with telem := { served.telem with spec := mkW [(63, 48, 7), (47, 47, 1), (15, 0, 10)] :: List.replicate 27 0 } }
/-- A datagram waits for a next hop on port 0, and another for another. -/
theorem witness_HostPortsComeUpGoDownAndKeepTime_3 :
    let s := { ptpOn with host := ptpOn.host.set 0 { getHost ptpOn 0 with held := [(0x0A000009, peer, 0xBA5F, [7])] } }
    cpRuns s = true ∧ s.boot.transport = true ∧ hostUp s 0 = true ∧
      ((getHost s 0).held.filter fun d => normIp d.1 = normIp 0x0A000009) ≠ [] ∧
      ((getHost s 0).held.filter fun d => normIp d.1 = normIp 0x0A000008) = [] := by decide +kernel
theorem witness_TelemetryPassesSendTheirRecords : cpRuns telling = true ∧ bitAt (telW telling 0) 47 = true ∧ telling.time.running = true ∧
    now telling < nextPeriod telling ∧
    telemPort (modTelem (fun t => { t with last := some (nextPeriod telling) }) (advanceTo (nextPeriod telling) telling)) = some 0 ∧
    telemPort { telling with host := [] } = none := by decide +kernel

/-- Link 0 as given. -/
def atLink (k : Link) : State := { linked with links := linked.links.set 0 k }
/-- A link in service at GEN 1 with a replay buffer of one frame, number 3. -/
def runLink : Link :=
  { stat := { state := 2, gen := 1, lanes := 8, peerGt64 := true, peerEid := 9, peerGens := 1 }, train := { step := 6, allow := 3 }
    tx := { nextSeq := 4, replay := [{ seq := 3, slots := [] }] }, rx := { replayWait := some 7 } }
def flitOf (fs : List (Nat × Nat × Nat)) : List W64 := mkW fs :: List.replicate 7 0
/-- A CTRL flit reaches it. -/
abbrev CtrlOk (type : Nat) (f : List W64) (s : State) : Prop := Statement.CtrlArrives 0 type f s (takeArrived (.flit 0 1 f) s)
theorem ctrl_meets {type : Nat} {f : List W64} {s : State}
    (h : (live s && isLink s 0 && decide ((getLink s 0).stat.state ≠ 0 ∧ (getLink s 0).stat.state ≠ 5) && ctrlOk f && decide (fld (wd f 0) 63 56 = type)) = true) :
    CtrlOk type f s := by
  simp only [Bool.and_eq_true, decide_eq_true_eq] at h
  exact ⟨h.1.1.1.1, h.1.1.1.2, h.1.1.2, h.1.2, h.2, rfl⟩
theorem witness_ReplayFollowsAcksAndNaks_1 :
    let f := fun (e : Nat) => flitOf [(63, 56, 2), (43, 32, e)]
    CtrlOk 2 (f 3) (atLink runLink) ∧ CtrlOk 2 (f 4) (atLink runLink) ∧ CtrlOk 2 (f 5) (atLink runLink) ∧
      (getLink (atLink runLink) 0).tx.replay.map (·.seq) = [3] ∧ (getLink (atLink runLink) 0).tx.nextSeq = 4 :=
  ⟨ctrl_meets (by decide +kernel), ctrl_meets (by decide +kernel), ctrl_meets (by decide +kernel), by decide +kernel⟩
theorem witness_ReplayFollowsAcksAndNaks_2 :
    CtrlOk 1 (flitOf [(63, 56, 1), (43, 32, 3), (0, 0, 1)]) (atLink runLink) ∧ 0 < (atLink runLink).links.length ∧
      linkRuns (atLink runLink) 0 = true ∧ (getLink (atLink runLink) 0).rx.replayWait = some 7 ∧
      (getLink (atLink { runLink with rx := { replayWait := some 8 } }) 0).rx.replayWait = some 8 :=
  ⟨ctrl_meets (by decide +kernel), by decide +kernel⟩
/-- The first ACK after a fast retrain counts as NAK(ACK_SEQ + 1): of a frame that the buffer holds, of the next one, of neither. -/
theorem witness_ReplayFollowsAcksAndNaks_3 :
    let s := atLink { runLink with tx := { runLink.tx with ackAsNak := true } }
    let f := fun (e : Nat) => flitOf [(63, 56, 1), (43, 32, e), (0, 0, 1)]
    let left := fun (e : Nat) => (ackUpTo e { (getLink s 0).tx with pools := takeFreed (poolCounts (f e)) (getLink s 0).tx.pools }).replay.map (·.seq)
    CtrlOk 1 (f 2) s ∧ CtrlOk 1 (f 3) s ∧ CtrlOk 1 (f 9) s ∧ (getLink s 0).tx.ackAsNak = true ∧ left 2 = [3] ∧ left 3 = [] ∧ left 9 ≠ [10] ∧
      (getLink s 0).tx.nextSeq = 4 :=
  ⟨ctrl_meets (by decide +kernel), ctrl_meets (by decide +kernel), ctrl_meets (by decide +kernel), by decide +kernel⟩
theorem witness_LinksTrainRetrainAndStepUp_1 :
    let s := atLink { runLink with stat := { runLink.stat with state := 1 } }
    CtrlOk 3 (flitOf [(63, 56, 3)]) s ∧ (getLink (takeArrived (.flit 0 1 (flitOf [(63, 56, 3)])) s) 0).stat.state = 1 ∧
      live s = true ∧ isEnabled s 0 = true :=
  ⟨ctrl_meets (by decide +kernel), by decide +kernel⟩
theorem witness_LinksTrainRetrainAndStepUp_2 :
    let s := atLink { runLink with stat := { runLink.stat with peerGens := 7 } }
    let f := flitOf [(63, 56, 6), (1, 0, 2)]
    let u := takeArrived (.flit 0 1 f) s
    CtrlOk 6 f s ∧ (getLink u 0).stat.state = 2 ∧ fld (wd f 0) 1 0 = (getLink u 0).stat.gen + 1 ∧ (getLink u 0).stat.gen < targetGen u 0 ∧
      CtrlOk 7 (flitOf [(63, 56, 7)]) s ∧ linkRuns s 0 = true :=
  ⟨ctrl_meets (by decide +kernel), by decide +kernel, by decide +kernel, by decide +kernel, ctrl_meets (by decide +kernel), by decide +kernel⟩
theorem witness_LinksTrainRetrainAndStepUp_3 :
    let s := atLink { runLink with train := { step := 6, genStepRecv := 2, genStepSent := 2, idleUntil := some 2000000, afterIdle := 1, fastSince := some 5 } }
    let a := atLink { runLink with stat := { state := 1, gen := 1 }, train := { step := 5, gen := 2 } }
    (getLink s 0).train.genStepRecv ≠ 0 ∧ (getLink s 0).train.genStepRecv = (getLink s 0).train.genStepSent ∧ (getLink s 0).stat.state = 2 ∧
      (getLink s 0).train.idleUntil = some 2000000 ∧ (getLink s 0).train.afterIdle ≠ 0 ∧ (getLink s 0).train.fastSince = some 5 ∧
      (getLink a 0).stat.state = 1 ∧ 1 ≤ (getLink a 0).train.step ∧ (getLink a 0).train.step < 6 ∧ isEnabled a 0 = true ∧
      (getLink (atLink { loop := { mode := 4 } }) 0).loop.mode = 4 ∧ (getLink (atLink { stat := { state := 3 } }) 0).stat.state = 3 := by decide +kernel
/-- Step 2 at a width and at none, at VL1 and above it, within its limit and past it; step 3; electrical idle in each state. -/
theorem witness_LinksTrainRetrainAndStepUp_5 :
    let k := fun (n step gen : Nat) (p : Option Nat) (good : Nat) => atLink { stat := { state := n, gen := 1 }, train := { step := step, gen := gen, peerTs := p, peerWidth := 8, goodTs := List.replicate 8 good, startedAt := 7 } }
    (getLink (k 1 1 1 (some 9) 3) 0).train.peerTs = some 9 ∧ 0 < widthNow 0 (k 1 1 1 (some 9) 3) ∧ widthNow 0 (k 1 1 2 (some 9) 0) = 0 ∧
      (9 : Nat) + 100000 ≤ 7 + 20000000 ∧ (7 : Nat) + 20000000 < 20000000 + 100000 ∧ (getLink (k 1 3 1 none 0) 0).train.step = 3 ∧
      live (k 1 1 1 none 0) = true ∧ isEnabled (k 1 1 1 none 0) 0 = true ∧ (getLink (k 3 1 1 none 0) 0).stat.state = 3 ∧
      stepAgreed (getLink (atLink runLink) 0) = false := by decide +kernel
/-- Lanes in an order that is neither, and straight ones. -/
theorem witness_LinksTrainRetrainAndStepUp_6 :
    let ts := fun (lane id : Nat) => ({ lane := lane, words := mkTs 1 id 0 7 1 false false 8 0 9 0 0 } : TsRx)
    let s := atLink { stat := { state := 1, gen := 1, lanes := 8 }, train := { step := 1, gen := 1, allow := 3 } }
    (getLink (lanesTs 0 [ts 0 0, ts 1 2, ts 2 1] s) 0).train.orderBad = true ∧ (getLink (lanesTs 0 [ts 0 0, ts 1 1] s) 0).train.orderBad = false := by
  decide +kernel
/-- A TS2 on one lane. -/
theorem witness_LinksTrainRetrainAndStepUp_4 :
    let w := mkTs 2 0 3 7 1 false false 8 0 9 0 0
    (∃ x ∈ [(⟨0, w⟩ : TsRx)], tsOk x.words = true ∧ fld (wd x.words 0) 63 60 = 2) ∧ live (atLink runLink) = true ∧
      (getLink (atLink runLink) 0).stat.state = 2 := by decide +kernel
theorem witness_TimeExchangesRunTheirCourse_1 :
    let f := flitOf [(63, 56, 4), (7, 0, 9)]
    CtrlOk 4 f (atLink runLink) ∧ linkRuns (takeArrived (.flit 0 1 f) (atLink runLink)) 0 = true ∧
      inService (takeArrived (.flit 0 1 f) (atLink runLink)) = true ∧ inService (atLink runLink) = true ∧ linkUp (atLink runLink) 0 = true ∧
      peerIsGt64 (atLink runLink) 0 = true ∧ inService { atLink runLink with boot := { step := 9 } } = false ∧
      linkRuns { atLink runLink with boot := { step := 9 } } 0 = true :=
  ⟨ctrl_meets (by decide +kernel), by decide +kernel⟩
theorem witness_TimeExchangesRunTheirCourse_2 :
    let f := flitOf [(63, 56, 5), (19, 16, 2), (7, 0, 9)]
    let s := fun (bad : Bool) => atLink { runLink with xchg := some { xid := 9, t1 := some 100, bad := bad } }
    CtrlOk 5 f (s true) ∧ CtrlOk 5 f (s false) ∧ (getLink (takeArrived (.flit 0 1 f) (s false)) 0).xchg = some { xid := 9, t1 := some 100, bad := false } ∧ fld (wd f 0) 7 0 = 9 :=
  ⟨ctrl_meets (by decide +kernel), ctrl_meets (by decide +kernel), by decide +kernel⟩
/-- T1 is not taken while the TIME_REQ waits; an answer comes within 10 µs, and later. -/
theorem witness_TimeExchangesRunTheirCourse_3 :
    let x : Xchg := { xid := 9 }
    let s := atLink { runLink with xchg := some x }
    (getLink s 0).xchg = some x ∧ x.t1 = none ∧ fld (wd (ctrlFlit 4 [(7, 0, 9)] 0 0 0) 0) 63 56 = 4 ∧ 0 < s.links.length ∧
      fld (wd (ctrlFlit 5 [] 0 0 0) 0) 63 56 = 5 ∧ 2 < (ctrlFlit 5 [] 0 0 0).length ∧ (100 : Nat) + 640000 < 640101 ∧ (640100 : Nat) ≤ 100 + 640000 := by
  decide +kernel
theorem witness_FramesArriveAndGoOut_1 :
    let k := fun (n mode : Nat) (p : Option Nat) => atLink { stat := { state := n, lanes := 8 }, loop := { mode := mode }, train := { peerSync := p } }
    live (k 4 4 none) = true ∧ isLink (k 4 4 none) 0 = true ∧ (getLink (k 4 4 none) 0).loop.mode = 4 ∧ (getLink (k 4 1 none) 0).loop.mode ≠ 4 ∧
      (getLink (k 4 1 none) 0).stat.state = 4 ∧ (getLink (k 2 0 (some 64)) 0).train.peerSync = some 64 ∧ (getLink (k 2 0 none) 0).stat.state = 2 ∧
      (getLink (k 1 0 (some 63)) 0).stat.state ≠ 4 ∧ (getLink (k 1 0 (some 63)) 0).train.peerSync = some 63 ∧
      (getLink (k 4 3 none) 0).loop.mode = 3 ∧ (getLink (k 4 2 none) 0).loop.mode < 3 ∧ (getLink (k 1 0 (some 63)) 0).stat.state = 1 ∧
      (getLink (k 1 0 (some 63)) 0).train.syncBad = false ∧ isSync (List.replicate 8 ⟨List.replicate 255 0 ++ [1], false⟩) = false := by decide +kernel
theorem witness_FramesArriveAndGoOut_2 : isSync (List.replicate 8 ⟨List.replicate 256 0, false⟩) = true := by decide +kernel
theorem witness_FramesArriveAndGoOut_3 :
    let k := fun (n step : Nat) => atLink { stat := { state := n, lanes := 8 }, train := { step := step, countdown := 1, syncSent := 62 } }
    isEnabled (k 1 1) 0 = true ∧ (getLink (k 1 1) 0).train.idleUntil = none ∧ (getLink (k 1 4) 0).train.countdown ≠ 0 ∧
      (getLink (k 1 5) 0).train.syncSent < 63 ∧ (getLink (k 2 6) 0).train.step = 6 ∧ linkRuns (k 2 6) 0 = true ∧ (k 2 6).inbox = [] ∧
      discardOk (flitOf [(7, 0, 3)]) = true ∧ discardOk (flitOf [(8, 8, 1)]) = false ∧ isEnabled (k 4 0) 0 = true ∧ (getLink (k 4 0) 0).stat.state = 4 ∧
      ctrlOk (flitOf [(63, 56, 8)]) = false ∧ ctrlOk (flitOf [(63, 56, 7), (0, 0, 1)]) = false ∧
      (getLink (atLink { train := { idleUntil := some 9 } }) 0).train.idleUntil ≠ none := by decide +kernel

/-! ### Restoring and storage -/

/-- A crown table with its Keeper: members 0 (here) and 4, at EIDs 1 and 44, in a ring; opened with INIT_PHASE p. -/
def crownTbl (ring : List Nat) (p : Nat) (r : Option Restore) : Table :=
  { tbl with
    tier := 3, phase := p, keeperEn := true, board := { ring := ring }
    entries := [{ member := 0, eid := 1, relation := 3 }, { member := 4, eid := 44, relation := 2 }]
    keeper := some { spec := readKSpec (bytesOf (spec77 77)), step := 0, b1pow := 0, b2pow := 0, restore := r } }
def cand9 : Cand := { turn := 9, source := 16, slot := 0 }
def load9 : Load := { num := 2, turn := 9, source := 16, slot := 0, start := 0, count := 1, since := 0 }
/-- RESTORE has come from mailbox 0. -/
def rest : Restore := { mailbox := 0, mask := 65536, formed := false, cur := some cand9, num := 2, load := some load9 }
theorem witness_RestoresTryTheirCandidates_1 :
    let r := asks 0x34 [mkW [(32, 16, 0x1FFFF), (9, 0, 5)], mkW [(63, 16, 2 ^ 48 - 1)]]
    let b := fun (ring : List Nat) (p : Nat) => withTables [crownTbl ring p none]
    AskOk restoreSpec r (b [0, 4] 3) ∧ AskOk restoreSpec r (b [4, 0] 3) ∧ AskOk restoreSpec r (b [0, 4] 2) ∧ AskOk restoreSpec r (withTables [tbl]) ∧
      findTable (begun (b [0, 4] 3) r) 5 = some (crownTbl [0, 4] 3 none) ∧ isCrown (crownTbl [0, 4] 3 none) = true ∧
      ownPos (crownTbl [0, 4] 3 none) { ring := [0, 4] } = 0 ∧ ownPos (crownTbl [4, 0] 3 none) { ring := [4, 0] } = 1 ∧ isCrown tbl = false :=
  ⟨asked_meets (by decide +kernel) (by decide +kernel) (by decide +kernel), asked_meets (by decide +kernel) (by decide +kernel) (by decide +kernel),
    asked_meets (by decide +kernel) (by decide +kernel) (by decide +kernel), asked_meets (by decide +kernel) (by decide +kernel) (by decide +kernel),
    by decide +kernel⟩
/-- A control flit arrives. -/
abbrev CtlOk (c : Ctl) (s : State) : Prop := Statement.CtlArrives 0 c.ctl (ctlWords c) c s (takeKFlit 0 (ctlWords c) s)
theorem ctl_meets {c : Ctl} {s : State} (h : (live (takeKFlit 0 (ctlWords c) s) && decide ((takeKFlit 0 (ctlWords c) s).pawn.cause = 0) &&
    ctlFlitOk (ctlWords c) && decide (ctlOf (ctlWords c) = c)) = true) : CtlOk c s := by
  simp only [Bool.and_eq_true, decide_eq_true_eq] at h
  exact ⟨rfl, h.1.1.1, h.1.1.2, h.1.2, h.2.symm, rfl⟩
def restoring (ring : List Nat) (r : Option Restore) : State := withTables [crownTbl ring 3 r]
def heldOwn : Ctl := { ctl := 13, table := 5, prim := 77, turn := 9, a := 1, b := 0 }
def heldEnd : Ctl := { ctl := 13, code := 1, table := 5, prim := 1 }
theorem witness_RestoresTryTheirCandidates_2 :
    CtlOk { ctl := 12, table := 5, prim := 9, turn := 9 } (withDouble { dbl with state := 4 }) ∧
      CtlOk heldOwn (restoring [0, 4] (some rest)) ∧ CtlOk heldEnd (restoring [0, 4] (some rest)) ∧ CtlOk heldOwn (restoring [4, 0] none) ∧
      CtlOk { heldEnd with prim := 44 } (restoring [4, 0] none) ∧
      (let u := takeKFlit 0 (ctlWords heldOwn) (restoring [0, 4] (some rest))
       findTable u 5 = some (crownTbl [0, 4] 3 (some rest)) ∧ heldOwn.prim ≠ u.ident.eid ∧
         (∀ m ∈ (crownTbl [0, 4] 3 (some rest)).board.ring, m ≠ 0 → eidOf (crownTbl [0, 4] 3 (some rest)) m ≠ heldOwn.prim) ∧
         heldEnd.prim = u.ident.eid ∧ eidOf (crownTbl [4, 0] 3 none) 4 = 44 ∧
         attached { dbl with state := 4 } = false) :=
  ⟨ctl_meets (by decide +kernel), ctl_meets (by decide +kernel), ctl_meets (by decide +kernel), ctl_meets (by decide +kernel),
    ctl_meets (by decide +kernel), by decide +kernel⟩
theorem witness_RestoresTryTheirCandidates_3 :
    let s := restoring [0, 4] (some rest)
    cpRuns s = true ∧ (restoreOf s 5).map (·.2.2) = some rest ∧ rest.formed = false ∧ rest.mailbox ≠ 64 ∧ rest.cur = some cand9 ∧
      ownPos (crownTbl [0, 4] 3 none) { ring := [0, 4] } = 0 ∧ rest.cands = [] := by decide +kernel
theorem witness_RestoresTryTheirCandidates_4 :
    let c14 : Ctl := { ctl := 14, table := 5, prim := 44, turn := 9, a := 2, b := 16 }
    let l8 : Ctl := { ctl := 8, table := 5, prim := 44, pos := 1, a := 2 }
    CtlOk c14 (restoring [4, 0] none) ∧ CtlOk l8 (restoring [4, 0] none) ∧ CtlOk l8 (restoring [0, 4] (some { rest with loaded := [(0, true)] })) ∧
      CtlOk l8 (restoring [0, 4] (some rest)) ∧ CtlOk { l8 with code := 1 } (restoring [0, 4] (some rest)) ∧ l8.a = rest.num ∧
      (∀ i < [0, 4].length, ∃ x ∈ (1, true) :: [(0, true)], x.1 = i) ∧ (∃ i < [0, 4].length, ∀ x ∈ [(1, true)], x.1 ≠ i) :=
  ⟨ctl_meets (by decide +kernel), ctl_meets (by decide +kernel), ctl_meets (by decide +kernel), ctl_meets (by decide +kernel),
    ctl_meets (by decide +kernel), by decide +kernel⟩
theorem witness_RestoresTryTheirCandidates_5 :
    let g : Ctl := { ctl := 9, table := 5, prim := 9, turn := 9, a := 2 }
    let d := { dbl with staged := [{ param := 0 }] }
    let s := { restoring [4, 0] none with doubles := [d] }
    CtlOk g s ∧ CtlOk { g with code := 1 } s ∧ attachedOf (takeKFlit 0 (ctlWords g) s) 9 5 = some d ∧ d.staged ≠ [] ∧
      restoreOf (takeKFlit 0 (ctlWords g) s) 5 = none ∧
      CtlOk { g with prim := 44 } (restoring [4, 0] (some rest)) ∧ attachedOf (restoring [4, 0] (some rest)) 44 5 = none ∧
      ownPos (crownTbl [4, 0] 3 none) { ring := [4, 0] } ≠ 0 ∧ rest.load = some load9 ∧ load9.num = g.a :=
  ⟨ctl_meets (by decide +kernel), ctl_meets (by decide +kernel), by decide +kernel, by decide +kernel, by decide +kernel,
    ctl_meets (by decide +kernel), by decide +kernel⟩
/-- A report that has gone round already, of the member at position 1; a double whose slots a RESTORE takes, and one that has its own. -/
theorem witness_RestoresTryTheirCandidates_6 :
    let h : Ctl := { heldOwn with prim := 44, pos := 1 }
    let u := takeKFlit 0 (ctlWords h) (restoring [0, 4] (some rest))
    CtlOk h (restoring [0, 4] (some rest)) ∧ h.prim ≠ u.ident.eid ∧ 0 < h.pos ∧ h.pos < (crownTbl [0, 4] 3 none).board.ring.length ∧
      eidOf (crownTbl [0, 4] 3 none) (ringAt (crownTbl [0, 4] 3 none).board h.pos) = h.prim ∧ freshDouble { dbl with reused := true } = true ∧
      freshDouble dbl = false :=
  ⟨ctl_meets (by decide +kernel), by decide +kernel⟩
theorem witness_LoadsFromDoublesFollowTheRing_1 :
    let q : Ctl := { ctl := 15, table := 5, prim := 44, turn := 9 }
    let v := sendHeld q (takeKFlit 0 (ctlWords q) (restoring [0, 4] none))
    CtlOk q served ∧ CtlOk q (restoring [0, 4] none) ∧ CtlOk { q with prim := 9 } (restoring [0, 4] none) ∧
      findTable (sendHeld q (takeKFlit 0 (ctlWords q) served)) 5 = none ∧ findTable v 5 = some (crownTbl [0, 4] 3 none) ∧ q.prim ≠ v.ident.eid ∧
      eidOf (crownTbl [0, 4] 3 none) (succOf (crownTbl [0, 4] 3 none) { ring := [0, 4] }) = q.prim :=
  ⟨ctl_meets (by decide +kernel), ctl_meets (by decide +kernel), ctl_meets (by decide +kernel), by decide +kernel⟩
/-- KIND 3 with one parameter, number 0. -/
def sync3 : List Byte := bytesOf [mkW [(63, 62, 3), (31, 22, 5), (20, 0, 9)], mkW [(63, 16, 9)], 0, 1, mkW [(31, 0, 7)]]
theorem witness_LoadsFromDoublesFollowTheRing_2 :
    let s := restoring [0, 4] (some rest)
    let u := (takeSelfFree 0 sync3 s).2
    live u = true ∧ u.pawn.cause = 0 ∧ (syncHdrOf sync3).kind = 3 ∧ (restoreOf u 5).map (·.2.2) = some rest ∧ syncOk 0 sync3 = true ∧
      load9.source = 16 ∧ load9.turn = (syncHdrOf sync3).turn ∧ load9.told = false ∧ cpRuns s = true ∧
      load9.count ≤ (putPs load9.got ((syncParams 0 sync3).filter fun p => load9.start ≤ p.param && p.param < load9.start + load9.count)).length ∧
      (putPs ({ load9 with count := 2 } : Load).got (syncParams 0 sync3)).length < 2 := by decide +kernel
/-- A target at the peer, and a get and a put sent to it. -/
def gate : Target := { w0 := mkW [(63, 48, 1000), (47, 47, 1)], w1 := 0, w2 := 0x0A000002, w3 := 0 }
def op (id oper : Nat) : StoreOp :=
  { reqId := id, target := 0, oper := oper, named := true, key := [1], port := some 0, sent := true, since := 0, last := 0, who := .candRec 5 0 0 }
def storing : State := { served with targets := served.targets.set 0 gate, store := { served.store with ops := [op 3 4, op 4 3] } }
/-- A reply to a REQ_ID with a status; DATA where there are bytes. -/
def reply (id st : Nat) (data : List Byte) : List Byte :=
  bytesOf [mkW [(63, 56, 1), (55, 52, if id = 3 then 6 else 5), (51, 48, st), (47, 47, 1), (31, 0, id)], 0, mkW [(63, 32, data.length)],
    mkW [(31, 0, data.length)]] ++ padTo 32 [1] ++ data
theorem witness_StorageOperationsEndOrAreSentAgain_1 :
    let u := frameIn 0 storing
    cpRuns storing = true ∧ storing.boot.transport = true ∧ hostUp storing 0 = true ∧ hasIp u 0 = true ∧ fromTarget u peer = true ∧
      fromTarget u { peer with udp := 1 } = false ∧ (∀ o ∈ u.store.ops, o.reqId ≠ 5 ∨ o.sent = false) ∧
      u.store.ops.find? (fun o => o.reqId = 3 && o.sent) = some (op 3 4) ∧ u.store.ops.find? (fun o => o.reqId = 4 && o.sent) = some (op 4 3) ∧
      (∀ st < 3, replyOk (reply 4 st []) = true ∧ replyOk (reply 3 st []) = true) ∧ replyOk (reply 3 0 [5]) = true ∧
      tgtIp gate = normIp peer.ip ∧ tgtUdp gate = peer.udp ∧ slice (reply 3 0 [5]) 32 32 = padTo 32 [1] ∧
      bitAt (payW (reply 3 0 [5]) 0) 47 = true ∧ (fld (payW (reply 3 0 [5]) 0) 55 52 = 6 ∧ fld (payW (reply 4 0 []) 0) 55 52 ≠ 6) := by decide +kernel
theorem witness_StorageOperationsEndOrAreSentAgain_2 :
    let d := reply 3 0 [5]
    let old : List (Option Byte) := List.replicate (payW d 3).toNat none
    old.length = (payW d 3).toNat ∧ (payW d 1).toNat + (d.drop 64).length ≤ (payW d 3).toNat ∧
      (overlay old (payW d 1).toNat (d.drop 64)).all Option.isSome = true ∧
      (overlay [none, none] 0 (d.drop 64)).all Option.isSome = false ∧ (op 3 4).port = some 0 ∧ (op 3 4).sent = true := by decide +kernel

/-! ### Packets, order, arbiters -/

/-- An empty data packet for an EID: class 0, 5 hops, one byte. -/
def pkt (dest : Nat) (more : List (Nat × Nat × Nat)) : Packet :=
  { w0 := mkW (more ++ [(53, 48, 5), (20, 0, dest)]), w1 := mkW [(63, 51, 1), (20, 0, 8)], payload := [7] }
/-- EID 9 by link 8, EID 10 by path set 0 (link 16), EID 1 is the device; group 2 has legs to link 0 and to link 8; EID 66 is fenced. -/
def routed : State :=
  { linked with route := { linked.route with
    banks := [{ state := 1, eids := [(1, 3 * 2 ^ 29), (9, 2 ^ 29 + 8 * 2 ^ 12), (10, 2 * 2 ^ 29), (66, 2 ^ 29 + 8 * 2 ^ 12)]
                pathSets := [(0, 2 ^ 16)], groups := [(2, 2 * 2 ^ 34), (3, 2 ^ 34)], legs := [(0, 5), (1, 8 * 2 ^ 21 + 6)] }, {}, {}, {}]
    fences := [{ fence9 with eid := 66, waitFor := [] }] } }
theorem witness_PacketsAreLookedUpAdmittedAndStarted_1 : live routed = true ∧
    packetBad false (pkt 9 []) = false ∧ packetBad false (pkt 9 [(63, 60, 6)]) = true ∧ pHops (pkt 9 []) ≠ 0 ∧ pHops { pkt 9 [] with w0 := 9 } = 0 ∧
    packetBad false { pkt 9 [] with w0 := 9 } = false ∧ pMc (pkt 9 []) = false ∧ eidKind (spGet (curBank routed).eids 1) = 3 ∧
    eidKind (spGet (curBank routed).eids 9) = 1 ∧ eidKind (spGet (curBank routed).eids 10) = 2 ∧ fenced routed 66 = true ∧ fenced routed 9 = false ∧
    fenced routed 10 = false ∧ eidKind (spGet (curBank routed).eids 66) = 1 ∧ pOrder (pkt 9 [(55, 55, 1)]) = true ∧ packetBad false (pkt 9 [(55, 55, 1)]) = false ∧
    pPtype (pkt 9 [(55, 55, 1)]) = 0 ∧ (unicastLeg 0 10 0 routed).1 = none := by decide +kernel
theorem witness_PacketsAreLookedUpAdmittedAndStarted_2 :
    let m := pkt 2 [(59, 59, 1)]
    packetBad false m = false ∧ pMc m = true ∧ groupLegs (curBank routed) 2 = [(0, 5), (8, 6)] ∧ groupLegs (curBank routed) 4 = [] ∧
      ((groupLegs (curBank routed) 2).filter fun z => z.1 ≠ 0).filter (fun z => !fenced routed z.2) = [(8, 6)] ∧
      (groupLegs (curBank routed) 3).filter (fun z => z.1 ≠ 0) = [] := by decide +kernel
/-- The links up: EID 10 finds its link. -/
def upLink : Link := { runLink with stat := { runLink.stat with gen := 3, peerGens := 7 } }
def flowing : State := { routed with links := List.replicate 512 upLink }
theorem witness_PacketsAreLookedUpAdmittedAndStarted_3 : (unicastLeg 0 10 0 flowing).1 = some 16 ∧ linkUp flowing 8 = true := by decide +kernel
/-- One packet in the Pot: two cells, one admitted. -/
def potPkt : QPkt :=
  { num := 4, pkt := pkt 9 [], cells := 2, admitted := 1, epoch := 0, ingress := some 0, tc := 0, legs := [{ link := 8, queue := queueNum flowing 8 0 9, eid := 9 }] }
def potted (p : QPkt) : State := { flowing with pot := { flowing.pot with pkts := [p], nextNum := 5 } }
theorem witness_PacketsAreLookedUpAdmittedAndStarted_4 :
    findPkt (potted potPkt) 4 = some potPkt ∧ potPkt.admitted < potPkt.cells ∧ behind (potted potPkt) potPkt = false ∧
      cellPasses (potted potPkt) potPkt = true ∧ potPkt.ingress = some 0 ∧ 0 < potPkt.admitted ∧
      (chooseEgress (potted potPkt) 8).1 = some potPkt ∧ (chooseEgress (potted potPkt) 0).1 = none ∧ linkUp (potted potPkt) 8 = true ∧
      linkUp { potted potPkt with links := [] } 8 = false := by decide +kernel
/-- Cells of one queue that take more of the shared pool than they leave. -/
theorem witness_PacketsAreLookedUpAdmittedAndStarted_5 :
    let s := { potted potPkt with pot := { (potted potPkt).pot with pkts := [{ potPkt with admitted := 500000, cells := 500001 }] } }
    cellPasses s { potPkt with admitted := 500000, cells := 500001 } = false := by decide +kernel
/-- The first flit of two of a packet for an EID, and the state in which it has arrived by link 0. -/
def headFlit (dest : Nat) : List W64 := [mkW [(53, 48, 5), (20, 0, dest)], mkW [(63, 51, 100), (20, 0, 8)], 1, 2, 3, 4, 5, 6]
def arriving (dest : Nat) : State := setPart 0 0 (some { left := 1, words := headFlit dest }) flowing
def early (dest : Nat) : State := headerLookup 0 (partPacket (headFlit dest)) .ok (arriving dest)
theorem witness_PacketsAreLookedUpAdmittedAndStarted_6 :
    inProgress routed 0 (pkt 9 []) = none ∧ cellHere potPkt = true ∧ cellHere { potPkt with missing := 1 } = false ∧
      inProgress (arriving 1) 0 (partPacket (headFlit 1)) = some (0, { left := 1, words := headFlit 1 }) ∧
      endsHere (arriving 1) (partPacket (headFlit 1)) = true ∧ endsHere (arriving 9) (partPacket (headFlit 9)) = false ∧
      (findPkt (early 9) 1).map (·.missing) = some 1 ∧ (findPkt (early 66) 1).isNone = true ∧
      linkRuns (early 9) 0 = true ∧ (early 9).inbox = [] ∧
      (getLink (early 9) 0).rx.parts.getD 0 none = some { left := 1, words := headFlit 9, pkt := some 1 } := by decide +kernel
/-- The first of the packets of a link and class, and one behind it. -/
theorem witness_PacketsAreLookedUpAdmittedAndStarted_7 :
    let s := { routed with inbox := [.pkt 0 0 (pkt 9 []), .pkt 0 0 (pkt 10 [])] }
    firstWhole s 0 (pClass (pkt 9 [])) = some (0, pkt 9 []) ∧ firstWhole s 0 (pClass (pkt 10 [])) = some (0, pkt 9 []) ∧ pkt 9 [] ≠ pkt 10 [] ∧
      firstWhole routed 0 (pClass (pkt 9 [])) = none ∧ firstWhole (arriving 9) 0 0 = none ∧ linkRuns (early 9) 0 = true ∧ discardOk (flitOf []) = true ∧
      Arrived.flit 0 4 (flitOf []) ∉ (early 9).inbox := by decide +kernel
/-- The first cell of a multicast packet with a leg to a fenced EID: with another leg, and with none. -/
theorem witness_PacketsAreLookedUpAdmittedAndStarted_8 :
    let leg := fun (link eid : Nat) => ({ link := link, queue := queueNum flowing link 0 eid, eid := eid } : PLeg)
    let p := fun (ls : List PLeg) => { potPkt with admitted := 0, mcast := true, legs := ls }
    let go := fun (q : QPkt) => forAll (q.legs.filter fun l => !l.done && unreplicated q && fenced (potted q) l.eid)
      (fun l s => legDone q.num l.link (fenceDrop s)) (potted q)
    unreplicated (p [leg 8 66]) = true ∧ fenced (potted (p [leg 8 66])) 66 = true ∧ cellPasses (potted (p [leg 8 66, leg 16 9])) (p [leg 8 66, leg 16 9]) = true ∧
      findPkt (go (p [leg 8 66, leg 16 9])) 4 ≠ none ∧ findPkt (go (p [leg 8 66])) 4 = none ∧ ({ potPkt with ingress := none } : QPkt).ingress = none := by
  decide +kernel
/-- A packet under way on a link whose queues give no other. -/
theorem witness_PacketsAreLookedUpAdmittedAndStarted_9 :
    let q := { potPkt with legs := potPkt.legs.map fun l => { l with started := true, sent := 1 } }
    let s := modPot (fun t => { t with egress := t.egress.set 8 { active := [(0, 4)] } }) (potted q)
    (chooseEgress s 8).1 = none ∧ underWay (modPot (fun t => { t with egress := t.egress.set 8 (chooseEgress s 8).2 }) s) 8 = some q ∧
      underWay (potted potPkt) 0 = none := by decide +kernel
/-- R343: what follows the head of a packet that has been looked up completes it. -/
theorem test_early_packet_grows :
    ((findPkt (recvBulk 0 0 [7, 8, 9, 10, 11, 12, 13, 14] (setPart 0 0 (some { left := 1, words := headFlit 9, pkt := some 1 })
        (modRx 0 (fun r => { r with pools := List.replicate 9 { credits := 4 } }) (early 9)))) 1).map fun q => (q.missing, q.pkt.payload)) =
      some (0, (bytesOf [1, 2, 3, 4, 5, 6, 7, 8, 9, 10, 11, 12, 13]).take 100) := by decide +kernel
/-- R347, R427: a packet that has started out on a link and does not arrive whole ends there with the discard marker. -/
theorem test_discard_ends_started_packet :
    let s := modPkt 1 (fun q => { q with admitted := 1, legs := q.legs.map fun l => { l with started := true, sent := 1 } }) (early 9)
    let t := recvDiscard 0 0 s
    (findPkt s 1).isSome = true ∧ (findPkt t 1).isNone = true ∧ ((getLink t 8).tx.queues.getD 0 []).map (·.tag) = [4] := by decide +kernel
def ctx (next : Option Nat) (held : List HeldPkt) : Reorder := { src := 8, dst := 9, tc := 0, next := next, held := held, lastUse := 0 }
def ordered (c : List Reorder) : State := { routed with route := { routed.route with contexts := c } }
def oPkt (seq : Nat) (first : Nat) : Packet := pkt 9 [(55, 55, 1), (54, 54, first), (47, 32, seq)]
theorem witness_OrderIsRestoredByContext_1 :
    let c := ctx (some 5) [{ pkt := 4, seq := 7, due := 9 }]
    live (ordered [c]) = true ∧ orderTag (ordered [c]) 0 (oPkt 5 0) = (0, 0, []) ∧ findCtx (ordered [c]) 8 9 0 = some c ∧
      findCtx (ordered []) 8 9 0 = none ∧ (ordered []).route.contexts.length < 65536 ∧ pFirst (oPkt 5 1) = true ∧ pFirst (oPkt 5 0) = false ∧
      pSrc (oPkt 5 0) = 8 ∧ pDest (oPkt 5 0) = 9 ∧ pClass (oPkt 5 0) = 0 ∧ fenced (ordered [c]) 9 = false ∧ fenced (ordered [c]) (pDest (pkt 66 [])) = true ∧
      c.next = some (pSeq (oPkt 5 0)) ∧ 32768 ≤ (pSeq (oPkt 4 0) + 65536 - 5) % 65536 ∧ (pSeq (oPkt 32772 0) + 65536 - 5) % 65536 < 32768 ∧
      32768 ≤ (pSeq (oPkt 32773 0) + 65536 - 5) % 65536 ∧ (ctx none []).next = none ∧ c.held.length < 64 ∧
      64 ≤ (ctx none (List.replicate 64 { pkt := 4, seq := 7, due := 9 })).held.length ∧
      (storeOrder 0 0 (oPkt 6 0) 0 [] true (ordered [c])).1 = some 1 := by decide +kernel
theorem witness_ArbitersGrantInTheirOrder_1 : live routed = true ∧ routed.sq.squares.length = 64 := by decide +kernel
/-- A COMPLETE that has waited 32 cycles, and a ROUND packet that has. -/
theorem witness_ArbitersGrantInTheirOrder_2 :
    let p : PipPkt := { num := 1, words := [0, 0, mkW [(63, 60, 1)]], links := [(8, 9)], waited := 32, epoch := 0 }
    let q : PipPkt := { p with words := [0, 0, 0] }
    ([q, p] : List PipPkt).find? (fun p => 32 ≤ p.waited) = some q ∧ ([p] : List PipPkt).find? (fun p => 32 ≤ p.waited) = some p ∧
      pipType p.words ≠ 0 ∧ pipType q.words = 0 := by decide +kernel

/-! ### Rounds -/

/-- A leaf table: member 3 here, its parent member 10, which is the crown; two seats. -/
def leafTbl : Table :=
  { tbl with
    member := 3, entries := [{ member := 3, eid := 1, relation := 3 }, { member := 10, eid := 90, relation := 0 }]
    board := { ring := [10], seats := [{ seat := 21, eid := 121, leaf := 3 }, { seat := 22, eid := 122, leaf := 3 }] } }
/-- A round of two FP32 elements, one chunk, of which seat 21 has sent one. -/
def sum2 : Round :=
  { rnd with
    spec := { round := 7, kind := 1, elems := 2 }, board := leafTbl.board, chunkLen := 2, accepted := some 0
    chunks := [{ index := 0, lo := 0, hi := 2, accs := [none, none], owed := [{ src := { id := 21 }, due := 2, got := 1 }, { src := { id := 22 }, due := 2 }] }] }
def running (r : Round) : State := { linked with tables := [{ leafTbl with rounds := [r] }] }
def hdr21 : RoundHdr := { round := 7, table := 5, phase := 0, source := 21, format := 0, count := 1, board := false, resv := 0, offset := 1 }
def contrib (h : RoundHdr) (data : List Byte) : List Byte := bytesOf (roundHdrWords h) ++ data
theorem witness_ContributionsAndResultsAreTaken_1 :
    let x := contribSrc leafTbl hdr21
    (findRound (running sum2) 5 7).map (·.2) = some sum2 ∧ findRound (running sum2) 5 8 = none ∧ sum2.done = false ∧
      (wireFmt leafTbl sum2 x).2.2 = 2 ∧ hdr21.offset + itemElems 0 * (1 - 1) < 2 ∧ 2 ≤ hdr21.offset + itemElems 0 * (2 - 1) ∧
      hdr21.board = sum2.epoch ∧ sum2.pip = false ∧ x = { id := 21 } := by decide +kernel
theorem witness_ContributionsAndResultsAreTaken_2 :
    let bs := contrib hdr21 [0, 0, 0x80, 0x3F]
    takeSelf 0 bs (running sum2) = (none, running sum2) ∧ live (running sum2) = true ∧ 16 ≤ bs.length ∧
      roundHdr (payW bs 0) (payW bs 1) = hdr21 ∧ (contribRound false 0 hdr21 (running sum2)).toOption.isSome = true ∧
      (contribRound false 0 { hdr21 with board := true } (running sum2)).toOption = none ∧
      (readData leafTbl sum2 { id := 21 } hdr21 (bs.drop 16)).isSome = true ∧ readData leafTbl sum2 { id := 21 } hdr21 [0] = none ∧
      (readData leafTbl sum2 { id := 21 } hdr21 (bs.drop 16)).map (fun d => overOwed leafTbl sum2 { id := 21 } d.1) = some none ∧
      foldFrom leafTbl sum2 { id := 21 } = none := by decide +kernel
/-- The failure time of a chunk that still misses elements has come: 1,000 ms after its clock. -/
theorem witness_ContributionsAndResultsAreTaken_7 :
    let s := { running sum2 with time := { up.time with t64 := 64000000000 } }
    overdue (running sum2) leafTbl sum2 = none ∧ overdue s leafTbl sum2 = some ({ id := 21 }, 0) ∧ sum2.done = false ∧
      (roundHdr (wd (roundHdrWords { hdr21 with phase := 3 }) 0) (wd (roundHdrWords { hdr21 with phase := 3 }) 1)).source ≠ 0 ∧
      lowestOwing (chunkAt leafTbl sum2 0) = some { id := 21 } := by decide +kernel
/-- Seat 21 has sent both elements already: one more is too many. -/
theorem witness_ContributionsAndResultsAreTaken_3 :
    let r := { sum2 with chunks := [{ index := 0, lo := 0, hi := 2, accs := [none, none], owed := [{ src := { id := 21 }, due := 2, got := 2 }] }] }
    (readData leafTbl r { id := 21 } hdr21 [0, 0, 0x80, 0x3F]).map (fun d => overOwed leafTbl r { id := 21 } d.1) = some (some 0) := by decide +kernel
def part21 : Part := { table := 5, round := 7, chunk := 0, src := { id := 21 }, elems := [(1, 0x3F800000)], unit := 0 }
theorem witness_ContributionsAndResultsAreTaken_4 :
    let s := { running sum2 with feed := { (running sum2).feed with lanes := (running sum2).feed.lanes.set 63 [part21] } }
    live s = true ∧ s.feed.lanes.getD 63 [] = [part21] ∧ (partChunk s part21).map (·.2.1) = some sum2 ∧ partChunk s { part21 with round := 8 } = none ∧
      part21.elems.length < ([none, none] : List (Option Nat)).length ∧ (∀ x ∈ ([none] : List (Option Nat)), x = none) ∧
      ([none] : List (Option Nat)).length ≤ part21.elems.length := by decide +kernel
theorem witness_ContributionsAndResultsAreTaken_5 :
    let h := { hdr21 with phase := 2, source := 10, count := 2, offset := 0 }
    let bs := contrib h [0, 0, 0x80, 0x3F, 0, 0, 0, 0]
    roundHdr (payW bs 0) (payW bs 1) = h ∧ live (takeSelfFree 0 bs (running sum2)).2 = true ∧
      (findRound (takeSelfFree 0 bs (running sum2)).2 5 7).map (·.2) = some sum2 ∧ h.offset + h.count ≤ sum2.spec.elems ∧ h.format = deliverFmt sum2.spec ∧
      readElems (elemBytes 0) 2 (bs.drop 16) = some [0x3F800000, 0] ∧ (getE sum2.results 0).isNone = true := by decide +kernel
/-- A Pip packet reaches the engine. -/
abbrev PipOk (type : Nat) (f : List W64) (s : State) : Prop := Statement.PipArrives 0 type f s (takeFlit 0 2 f s)
theorem pip_meets {type : Nat} {f : List W64} {s : State}
    (h : (live (takeFlit 0 2 f s) && decide (pipType f = type) && decide (type ≤ 4) && pipOk f) = true) : PipOk type f s := by
  simp only [Bool.and_eq_true, decide_eq_true_eq] at h
  exact ⟨rfl, h.1.1.1, h.1.1.2, h.1.2, h.2⟩
def pipSum : State := running { sum2 with pip := true }
theorem witness_ContributionsAndResultsAreTaken_6 :
    let f := roundHdrWords hdr21 ++ [0, 0, mkW [(31, 0, 0x3F800000)], 0, 0, 0]
    PipOk 0 f pipSum ∧ roundHdr (wd f 0) (wd f 1) = hdr21 ∧ (contribRound true 0 hdr21 (takeFlit 0 2 f pipSum)).toOption.isSome = true ∧
      (contribRound true 0 hdr21 (running sum2)).toOption = none ∧
      (readData leafTbl { sum2 with pip := true } { id := 21 } hdr21 (pipData hdr21 f)).isSome = true :=
  ⟨pip_meets (by decide +kernel), by decide +kernel⟩
/-- In Pawn mode, with no such round and with it open. -/
theorem witness_ContributionsAndResultsAreTaken_8 :
    let f := roundHdrWords hdr21 ++ [0, 0, mkW [(31, 0, 0x3F800000)], 0, 0, 0]
    let s := { pipSum with pawn := { up.pawn with cause := 2 } }
    let t := { s with tables := [] }
    PipOk 0 f s ∧ PipOk 0 f t ∧ (takeFlit 0 2 f s).pawn.cause ≠ 0 ∧ (findRound (takeFlit 0 2 f t) 5 7).isNone = true ∧
      ((findRound (takeFlit 0 2 f s) 5 7).any fun x => !x.2.done) = true :=
  ⟨pip_meets (by decide +kernel), pip_meets (by decide +kernel), by decide +kernel⟩
theorem witness_RoundsEndByTheirSignalsAndLimits_1 :
    let r := { sum2 with chunks := [{ index := 0, lo := 0, hi := 2, owed := [], state := 3 }], results := [(0, 0), (1, 0)] }
    let s := running r
    live s = true ∧ (findRound s 5 7).map (·.2) = some r ∧ 0 ∉ r.sent ∧ 0 < chunkCount leafTbl r ∧ chunkReady leafTbl r 0 = true ∧
      chunkGone s 5 7 0 = true := by decide +kernel
def abort7 : List W64 := roundSigWords { round := 7, table := 5, signal := 2, status := 3, source := 22 }
theorem witness_RoundsEndByTheirSignalsAndLimits_2 :
    let bs := bytesOf abort7
    (takeSelfFree 0 bs (running sum2)) = (none, running sum2) ∧ live (running sum2) = true ∧ bs.length = 32 ∧ roundSigOk (wordsOf 4 bs) = true ∧
      (roundSig (wordsOf 4 bs)).signal = 2 ∧ (findRound (running sum2) 5 7).isSome = true ∧ findRound up 5 7 = none ∧
      (openChunkOf (running sum2) 5 7 0).isSome = true ∧ (lowestOwing (chunkAt leafTbl sum2 0)).isSome = true ∧ sum2.accepted = some 0 ∧
      ((List.range (chunkCount leafTbl sum2)).map (chunkAt leafTbl sum2)).find? stillOwed = some (chunkAt leafTbl sum2 0) ∧
      ((List.range 1).map (chunkAt leafTbl { sum2 with chunks := [{ index := 0, lo := 0, hi := 2, owed := [] }] })).find? stillOwed = none := by decide +kernel
theorem witness_RoundsEndByTheirSignalsAndLimits_3 :
    let f : List W64 := [0, 0, mkW [(63, 60, 1)], 0] ++ abort7
    PipOk 1 f pipSum ∧ roundSigOk abort7 = true ∧ (findRound (takeFlit 0 2 f pipSum) 5 7).isSome = true :=
  ⟨pip_meets (by decide +kernel), by decide +kernel⟩

/-! ### Barriers, levels, moves, matrix units -/

/-- JOIN, RELEASE and HALT packets of table 5. -/
def joinOf (source : Nat) (member : Bool) (digest : Nat) : List W64 :=
  barrierWords { table := 5, source := source, isMember := member, turn := 1, type := 2, value := digest }
def joining (b : Barrier) : State := { linked with tables := [{ leafTbl with bar := b }] }
/-- The turn barrier of turn 1 is joined; seat 22's JOIN is held. -/
def bar1 : Barrier := { joined := true, turn := 1, joins := [{ src := { id := 22 }, turn := 1, seq := 0, digest := 0, board := 0 }] }
theorem witness_BarriersJoinReleaseAndHalt_1 :
    let f := joinOf 21 false 0
    PipOk 2 f linked ∧ PipOk 2 f (joining bar1) ∧ PipOk 2 (joinOf 22 false 0) (joining bar1) ∧ PipOk 2 (joinOf 23 false 0) (joining bar1) ∧
      findTable (takeFlit 0 2 f linked) 5 = none ∧ linked.held.length < 4096 ∧ isReleased bar1 1 0 = false ∧
      (({ id := 21 } : Src) ∈ joinSources leafTbl) ∧ (({ id := 23 } : Src) ∉ joinSources leafTbl) ∧
      isReleased { bar1 with released := some (1, 0), turned := true } 1 0 = true ∧ (∀ j ∈ bar1.joins, j.src = { id := 21 } → j.turn = 1 → j.seq ≠ 0) :=
  ⟨pip_meets (by decide +kernel), pip_meets (by decide +kernel), pip_meets (by decide +kernel), pip_meets (by decide +kernel), by decide +kernel⟩
/-- An inner table, of level 1: its child's JOIN says another window digest. -/
theorem witness_BarriersJoinReleaseAndHalt_2 :
    let j : BarrierJoin := { src := { isMember := true, id := 4 }, turn := 1, seq := 0, digest := 9, board := 0 }
    let tb := { crownTbl [0] 0 none with
      entries := [{ member := 0, eid := 1, relation := 3 }, { member := 4, eid := 44, relation := 1 }]
      bar := { bar1 with joins := [j] }, lvl := { set := true } }
    let ok := { tb with bar := { bar1 with joins := [{ j with digest := tb.window.toNat }] } }
    let s := { linked with tables := [tb] }
    findTable s 5 = some tb ∧ tb.bar.joined = true ∧ tb.bar.sent = false ∧ tb.halt = 0 ∧ pendingJoins tb = [j] ∧ j.src.isMember = true ∧
      j.digest ≠ tb.window.toNat ∧ (∀ k ∈ pendingJoins ok, k.digest = ok.window.toNat ∧ k.board = ok.board.digest) ∧
      joinSources ok = [] ∧ isCrown ok = true ∧ ownPos ok ok.board = 0 ∧ parentOf leafTbl = some 10 ∧ isCrown leafTbl = false ∧
      isCrown (crownTbl [4, 0] 0 none) = true ∧ ownPos (crownTbl [4, 0] 0 none) { ring := [4, 0] } ≠ 0 := by decide +kernel
theorem witness_BarriersJoinReleaseAndHalt_3 :
    let h := fun (c : Nat) => barrierWords { table := 5, type := 4, code := c, turn := 1 }
    PipOk 4 (h 1) linked ∧ PipOk 4 (h 0) (joining bar1) ∧ PipOk 4 (h 5) (joining bar1) ∧ PipOk 4 (h 1) (joining bar1) ∧ PipOk 4 (h 4) (joining bar1) ∧
      PipOk 4 (h 4) { linked with tables := [{ leafTbl with halt := 2 }] } ∧ (barrierPkt (h 4)).code = 4 :=
  ⟨pip_meets (by decide +kernel), pip_meets (by decide +kernel), pip_meets (by decide +kernel), pip_meets (by decide +kernel),
    pip_meets (by decide +kernel), pip_meets (by decide +kernel), by decide +kernel⟩
theorem witness_BarriersJoinReleaseAndHalt_4 :
    let tb := { leafTbl with bar := bar1 }
    let m : HeldMsg := { isJoin := true, table := 6, link := 0, since := 0, bytes := [], words := [] }
    live (joining bar1) = true ∧ findTable (joining bar1) 5 = some tb ∧
      argMin (fun (x : Src) => 2 * x.id + b2n x.isMember) ((joinSources tb).filter fun x => !((pendingJoins tb).any fun j => j.src = x)) = some { id := 21 } ∧
      ([m] : List HeldMsg).find? (·.isJoin) = some m := by decide +kernel
/-- LEVEL_ADV, LEVEL_UP and LEVEL_SET. -/
def mgmt (type level digest : Nat) : List Byte := mgmtPayload type level (if type = 1 then 0 else 5) (if type = 1 then 0 else 4) digest 0 0
theorem witness_LevelsAreAnnouncedGatheredAndSet_1 :
    (∀ t < 3, mgmtOk (mgmt (t + 1) 3 0) = true) ∧ mgmtOk (mgmt 2 0 0) = false ∧ (takeSelfFree 0 (mgmt 1 3 0) (atLink runLink)).1 = none ∧
      live (takeSelfFree 0 (mgmt 1 3 0) (atLink runLink)).2 = true ∧ (atLink runLink).pawn.cause = 0 ∧ linkRuns (atLink runLink) 0 = true ∧
      fld (payW (mgmt 1 3 0) 0) 63 60 = 1 ∧ live (inPawn 2) = true ∧ (inPawn 2).pawn.cause ≠ 0 ∧ findTable (atLink runLink) 5 = none ∧
      (atLink runLink).held.length < 4096 := by decide +kernel
theorem witness_LevelsAreAnnouncedGatheredAndSet_2 :
    let tb := { crownTbl [4, 0] 0 none with
      entries := [{ member := 0, eid := 1, relation := 3 }, { member := 4, eid := 44, relation := 2 }, { member := 6, eid := 46, relation := 1 }]
      lvl := { ring := [0, 4] } }
    let s := { linked with tables := [tb] }
    findTable s 5 = some tb ∧ (payW (mgmt 2 3 0) 1).toNat = tb.lvl.digest ∧ (payW (mgmt 2 3 9) 1).toNat ≠ tb.lvl.digest ∧
      fld (payW (mgmt 2 3 0) 0) 19 0 ∈ levelSources tb ∧ tb.lvl.set = false ∧ isCrown tb = true ∧ 1 < tb.lvl.ring.length ∧ isCrown leafTbl = false ∧
      firstPos tb = 0 ∧ tb.lvl.sent = false ∧ (∀ m ∈ levelSources tb, ∃ u ∈ [(4, 3), (6, 2)], u.1 = m) ∧
      levelSources leafTbl = [] ∧ parentOf leafTbl = some 10 ∧ firstPos { tb with lvl := { ring := [4, 0] } } ≠ 0 := by decide +kernel
/-- A move is the oldest of a table's list. -/
abbrev UpOk (op : Nat) (tb : Table) (m : List W64) : Prop := Statement.ComesUp 5 op { linked with tables := [{ tb with moves := [m] }] } { tb with moves := [m] } m
theorem up_meets {op : Nat} {tb : Table} {m : List W64} (h : (cpRuns { linked with tables := [{ tb with moves := [m] }] } &&
    decide (findTable { linked with tables := [{ tb with moves := [m] }] } 5 = some { tb with moves := [m] }) && decide (tb.halt = 0) &&
    decide (opcode m = op)) = true) : UpOk op tb m := by
  simp only [Bool.and_eq_true, decide_eq_true_eq] at h
  exact ⟨h.1.1.1, h.1.1.2, h.1.2, rfl, h.2⟩
def mv (op : Nat) (w0 : List (Nat × Nat × Nat)) (w1 w2 w3 : W64) : List W64 := [mkW ((63, 56, op) :: w0), w1, w2, w3]
/-- ROUND_OPEN: all-reduce of two FP32 elements. -/
def openMove (elems : Nat) : List W64 := mv 0x10 [(55, 53, 1)] (mkW [(63, 32, 8)]) (mkW [(34, 0, elems)]) 0
theorem witness_MovesExecuteWaitOrHalt_1 :
    UpOk 4 leafTbl (mv 4 [(2, 0, 2)] 0 0 0) ∧ UpOk 3 leafTbl (mv 3 [] 0 0 0) ∧ UpOk 3 { leafTbl with rounds := [sum2] } (mv 3 [] 0 0 0) ∧
      UpOk 0x3F leafTbl (mv 0x3F [] 0 0 0) ∧ UpOk 0x11 leafTbl (mv 0x11 [(43, 36, 1), (2, 0, 7)] 0 0 0) ∧
      UpOk 0x21 (crownTbl [0] 0 none) (mv 0x21 [(3, 0, 15)] 0 0 0) ∧ sum2.done = false :=
  ⟨up_meets (by decide +kernel), up_meets (by decide +kernel), up_meets (by decide +kernel), up_meets (by decide +kernel),
    up_meets (by decide +kernel), up_meets (by decide +kernel), by decide +kernel⟩
theorem witness_MovesExecuteWaitOrHalt_2 :
    let c := roundSpecOf (openMove 2)
    let s := { linked with tables := [leafTbl] }
    UpOk 0x10 leafTbl (openMove 2) ∧ UpOk 0x10 leafTbl (mv 0x10 [(55, 53, 2)] 0 1 0) ∧ roundInvalid leafTbl.board c = false ∧
      roundInvalid leafTbl.board (roundSpecOf (mv 0x10 [(55, 53, 2)] 0 1 0)) = true ∧
      upSpec leafTbl (newRound leafTbl c s) = none ∧ openRounds s < 16384 ∧ c.keeper = false ∧ (newRound leafTbl c s).clipped = false :=
  ⟨up_meets (by decide +kernel), up_meets (by decide +kernel), by decide +kernel⟩
/-- A narrowed round with feedback on a boundary that reserves nothing. -/
theorem witness_MovesExecuteWaitOrHalt_3 :
    let tb := { leafTbl with board := { leafTbl.board with nspecs := [{ boundary := 0, enable := true, format := 0x18, feedback := true, residCap := 0 }] } }
    let c := roundSpecOf (mv 0x10 [(55, 53, 1), (48, 48, 1)] (mkW [(63, 32, 8)]) 1048577 0)
    roundInvalid tb.board c = false ∧ (upSpec tb (newRound tb c linked)).any (fun n => extentPasses tb n c) = true := by decide +kernel
theorem witness_MovesExecuteWaitOrHalt_4 :
    UpOk 0x20 leafTbl (mv 0x20 [] 0 0 0) ∧ UpOk 0x20 (crownTbl [0] 0 none) (mv 0x20 [] 0 0 0) ∧ leafTbl.keeper = none ∧
      (crownTbl [0] 0 none).keeper.map (·.dbl.state) = some 0 ∧ isCrown (crownTbl [0] 0 none) = true :=
  ⟨up_meets (by decide +kernel), up_meets (by decide +kernel), by decide +kernel⟩
/-- The other board is ready, with serial 2. -/
def board2 : Table := { leafTbl with other := some ({ leafTbl.board with serial := 2 }, 2, false) }
theorem witness_MovesExecuteWaitOrHalt_5 :
    let m := fun (n : Nat) => mv 0x30 [(15, 0, n)] 0 0 0
    let v := closeGroup 5 { linked with tables := [{ board2 with moves := [m 2] }] }
    UpOk 0x30 board2 (m 2) ∧ UpOk 0x30 board2 (m 3) ∧ UpOk 0x30 leafTbl (m 2) ∧ leafTbl.other = none ∧ fld (wd (m 2) 0) 15 0 = 2 ∧
      hbmReserved v + residBytes board2 { leafTbl.board with serial := 2 } ≤ 664000000000 :=
  ⟨up_meets (by decide +kernel), up_meets (by decide +kernel), up_meets (by decide +kernel), by decide +kernel⟩
theorem witness_BarriersAreJoinedAndReleased_1 :
    let m := mv 1 [(15, 0, 65535)] 1 0 0
    let tb := { leafTbl with moves := [m] }
    let v := turnDue 5 (closeGroup 5 { linked with tables := [tb] })
    UpOk 1 leafTbl m ∧ UpOk 1 { leafTbl with other := some (leafTbl.board, 2, true) } m ∧ leafTbl.bar.joined = false ∧ (findTable v 5).isSome = true ∧
      (findTable v 5).map draining = some false ∧ (findTable v 5).map restoreDue = some false ∧ (findTable v 5).map (fun w => verdictDue w 1) = some false ∧
      draining { leafTbl with other := some (leafTbl.board, 2, true) } = true ∧ UpOk 2 leafTbl (mv 2 [(15, 0, 1)] 0 0 0) :=
  ⟨up_meets (by decide +kernel), up_meets (by decide +kernel), by decide +kernel, by decide +kernel, by decide +kernel, by decide +kernel,
    by decide +kernel, by decide +kernel, up_meets (by decide +kernel)⟩
/-- A crown table whose partner owes the verdict of turn 1. -/
def owing : Table :=
  { crownTbl [0] 0 none with
    bar := { turned := true }
    keeper := some { spec := {}, step := 0, b1pow := 0, b2pow := 0, turns := [{ vals := { turn := 1 } }], dbl := { waitSince := some 5 } } }
theorem witness_BarriersAreJoinedAndReleased_2 :
    let s := { linked with tables := [{ owing with moves := [mv 1 [(15, 0, 1)] 3 0 0] }] }
    UpOk 1 owing (mv 1 [(15, 0, 1)] 3 0 0) ∧ (findTable (turnDue 5 (closeGroup 5 s)) 5).map (fun w => verdictDue w 3) = some true ∧
      cpRuns s = true ∧ (findTable s 5).isSome = true ∧ owing.keeper.bind (·.dbl.waitSince) = some 5 :=
  ⟨up_meets (by decide +kernel), by decide +kernel⟩
/-- After the wait the double is LOST: TURN_BEGIN joins, and a table with no move stays. -/
theorem witness_BarriersAreJoinedAndReleased_5 :
    let lost := fun (ms : List (List W64)) => modPrim 5 (fun d => { d with state := 2, feed := [], waitSince := none })
      { linked with tables := [{ owing with moves := ms }] }
    let w := turnDue 5 (closeGroup 5 (lost [mv 1 [(15, 0, 1)] 3 0 0]))
    cpRuns (lost []) = true ∧ (findTable (lost [mv 1 [(15, 0, 1)] 3 0 0]) 5).map (fun t => (t.halt, t.bar.joined)) = some (0, false) ∧
      (findTable w 5).map draining = some false ∧ (findTable w 5).map restoreDue = some false ∧ (findTable w 5).map (fun t => verdictDue t 3) = some false ∧
      (findTable (lost []) 5).map (fun t => t.moves.head?.map opcode) = some none := by decide +kernel
theorem witness_BarriersAreJoinedAndReleased_3 :
    let f := fun (t : Nat) => barrierWords { table := 5, turn := 1, type := 3, value := t }
    PipOk 3 (f 0) linked ∧ PipOk 3 (f 0) (joining bar1) ∧ PipOk 3 (f (2 ^ 64 - 1)) (joining bar1) ∧ PipOk 3 (f 0) (joining {}) ∧
      bar1.releaseAt = none ∧ now (joining bar1) < (barrierPkt (f (2 ^ 64 - 1))).value ∧ (barrierPkt (f 0)).value ≤ now (joining bar1) :=
  ⟨pip_meets (by decide +kernel), pip_meets (by decide +kernel), pip_meets (by decide +kernel), pip_meets (by decide +kernel), by decide +kernel⟩
theorem witness_BarriersAreJoinedAndReleased_4 :
    let tb := { leafTbl with bar := { bar1 with releaseAt := some 9 }, moves := [mv 1 [] 1 0 0] }
    let s := { linked with tables := [tb] }
    findTable s 5 = some tb ∧ tb.bar.releaseAt = some 9 ∧ live s = true ∧ tb.halt = 0 ∧ tb.moves.head? = some (mv 1 [] 1 0 0) ∧
      opcode (mv 1 [] 1 0 0) = 1 ∧ opcode (mv 2 [] 0 0 0) ≠ 1 := by decide +kernel
/-- Array work of table 5: two tasks ready, and unit 0 in its quantum of it. -/
def job2 : MuJob := { round := 7, src := none, stage := 0, todo := [0, 1], tasks := 2, rank := 1 }
def folding (left : Nat) : State :=
  { linked with tables := [{ leafTbl with rounds := [sum2], jobs := [job2] }], mu := { linked.mu with units := [if left = 0 then none else some (5, left), none] }
                mats := if left = 0 then linked.mats else linked.mats.set 0 { operands := [some (5, 7), some (5, 7)], output := some (5, 7) } }
theorem witness_MatrixWorkIsSharedAndDone_1 :
    let sv : Serve := { units := [none, none], last := 5, share := 1, members := [5, 7] }
    let ready := [(5, 8), (6, 1), (7, 1)]
    (0 < sv.share ∧ ∃ x ∈ ready, x.1 = sv.last) ∧ ready.find? (fun x => sv.last < x.1 && sv.members.contains x.1) = some (7, 1) ∧
      (∀ x ∈ [(5, 8), (6, 1)], 5 < x.1 → x.1 ∉ sv.members) ∧ [(5, 8), (6, 1)].find? (fun x => sv.last < x.1) = some (6, 1) ∧
      (∀ x ∈ [(5, 8)], x.1 ≤ sv.last) := by decide +kernel
theorem witness_MatrixWorkIsSharedAndDone_2 :
    live (folding 0) = true ∧ (folding 0).mu.units.getD 0 (some (0, 0)) = none ∧ (rrNext (tableIds (folding 0)) (folding 0).mu (muReady (folding 0))).map (·.1) = some 5 ∧
      (folding 2).mu.units.getD 0 none = some (5, 2) ∧ (unitJob (folding 2) 0 5).map (·.2) = some job2 ∧
      job2.todo.erase ((jobReady { leafTbl with rounds := [sum2] } job2).headD 0) ≠ [] ∧ 0 < (folding 0).mats.length ∧
      (findTable (folding 2) 5).bind (pickRound (folding 2) 0) = some 7 ∧
      unitsOn (folding 2).mu 5 ≤ readyTasks { leafTbl with rounds := [sum2], jobs := [{ job2 with todo := [1] }] } ∧
      readyTasks { leafTbl with jobs := [] } < unitsOn (folding 2).mu 5 ∧ unitJob { folding 2 with mats := [] } 0 5 = none := by decide +kernel
/-- A table that has closed under a unit: what is left of the quantum goes to the next table with ready work. -/
theorem witness_MatrixWorkIsSharedAndDone_5 :
    let s := { folding 2 with mu := { (folding 2).mu with units := [some (9, 2), none] } }
    let v := { s with mu := { s.mu with units := s.mu.units.set 0 none } }
    s.mu.units.getD 0 none = some (9, 2) ∧ findTable s 9 = none ∧ (rrNext (tableIds v) v.mu (muReady v)).map (·.1) = some 5 ∧
      rrNext (tableIds linked) linked.mu (muReady linked) = none := by decide +kernel
theorem witness_MatrixWorkIsSharedAndDone_3 :
    let s := { linked with tables := [{ leafTbl with rounds := [sum2], jobs := [{ job2 with stage := 1 }] }], pipes := [some { table := 5, round := 7, ready := 0 }, none], dma := [(15, 5, 7, 0)] }
    s.pipes.getD 0 none = some { table := 5, round := 7, ready := 0 } ∧ ((findTable s 5).bind fun tb => tb.jobs.find? (fun j => j.round = 7 && j.src.isNone && j.stage = 1)).isSome = true ∧
      takeFirst (fun (d : Nat × Nat × Nat × Nat) => d.1 = 15) s.dma = (some (15, 5, 7, 0), []) ∧ (findRound s 5 7).isSome = true ∧
      findRound { s with tables := [] } 5 7 = none := by decide +kernel
theorem witness_MatrixWorkIsSharedAndDone_4 :
    let tb := { leafTbl with board := { leafTbl.board with nspecs := [{ boundary := 0, enable := true, format := 0x18, foldRank := 1 }] } }
    let r := { sum2 with board := tb.board, spec := { sum2.spec with narrow := true, foldRows := 1, foldCols := 2 } }
    (upSpec tb r).isSome = true ∧ job2.src = none ∧ job2.stage = 0 := by decide +kernel

/-! ### Keeper and doubles -/

/-- A KEEPER round of the crown table of two members, complete and waiting for READYs. -/
def keeperRound (ready : List ReadyHeld) : Round :=
  { rnd with spec := { round := 7, kind := 1, bank := true, keeper := true }, board := { ring := [0, 4] }, readyAt := some 9, ready := ready }
def committing (ready : List ReadyHeld) : State := { linked with tables := [{ crownTbl [0, 4] 0 none with rounds := [keeperRound ready] }] }
theorem witness_KeeperRoundsCommitRunAndMove_1 :
    let f := fun (p : Nat) => readyFlit 5 7 4 0 p true 0
    let own : ReadyHeld := { pos := 0, good := true, part := 0 }
    live (takeKFlit 0 (f 1) (committing [own])) = true ∧ readyOk (f 1) = true ∧ readyOk ((f 1).set 3 1) = false ∧
      (takeKFlit 0 (f 1) (committing [own])).pawn.cause = 0 ∧ (findRound (takeKFlit 0 (f 1) (committing [own])) 5 7).isSome = true ∧
      isCrown (crownTbl [0, 4] 0 none) = true ∧ (keeperRound []).spec.keeper = true ∧ fld (wd (f 1) 1) 13 8 = 1 ∧ ringAt (keeperRound []).board 1 = 4 ∧
      ringAt { ring := [0, 4, 6] } 2 ≠ succOf (crownTbl [0, 4, 6] 0 none) { ring := [0, 4, 6] } ∧
      succOf (crownTbl [0, 4] 0 none) (keeperRound []).board = 4 ∧ (∃ h ∈ [own], h.pos = 0) ∧ (keeperRound [own]).readyAt = some 9 ∧
      (List.range 2).find? (fun i => !([own].any fun h => h.pos = i)) = some 1 := by decide +kernel
/-- A READY comes before its round opens, from the ring successor and not; a word fails while a range moves. -/
theorem witness_KeeperRoundsCommitRunAndMove_4 :
    let tb := crownTbl [0, 4] 0 none
    let s := { linked with tables := [tb] }
    let f := readyFlit 5 7 4 0 1 true 0
    let g := readyFlit 5 7 4 0 1 true 3
    live (takeKFlit 0 f s) = true ∧ readyOk f = true ∧ findRound (takeKFlit 0 f s) 5 7 = none ∧ findTable (takeKFlit 0 f s) 5 = some tb ∧ tb.keeper ≠ none ∧
      tb.lastOpened.any (fun m => 7 ≤ m) = false ∧ ringAt tb.board 1 = succOf tb tb.board ∧ ringAt tb.board 0 ≠ succOf tb tb.board ∧
      1 < tb.board.ring.length ∧ readyOk g = true ∧ (keeperRound []).clipped = false ∧ (wd g 2).toNat ≠ 0 ∧ (wd f 2).toNat = 0 ∧
      (∀ p, some 6 = some p → 6 ≤ p ∧ p < 6 + 1) ∧ (∀ p, some 9 = some p → p < 6 ∨ 6 + 1 ≤ p) := by decide +kernel
/-- An update's work of table 5 waits. -/
def working : State := { linked with tables := [{ crownTbl [0] 0 none with
  rounds := [{ keeperRound [] with board := { ring := [0] } }]
  keeper := some { spec := {}, step := 0, b1pow := 0, b2pow := 0, work := [{ round := 7, c := 0, moved := true }] } }] }
theorem witness_KeeperRoundsCommitRunAndMove_2 : live working = true ∧ live up = true ∧ rrNext (tableIds up) up.kunits (keeperReady up) = none ∧
    keeperReady working = [(5, 1)] ∧ (rrNext (tableIds working) working.kunits (keeperReady working)).map (·.1) = some 5 := by decide +kernel
/-- A range of one parameter moves: to member 0 (here), from it to member 4. -/
def moving (dst : Nat) : State := { linked with tables := [{ crownTbl [0, 4] 0 none with
  keeper := some { spec := { quota := 1 }, step := 0, b1pow := 0, b2pow := 0, moves := [{ start := 6, count := 1, src := 4 - dst, dst := dst }] } }] }
theorem witness_KeeperRoundsCommitRunAndMove_3 :
    ((findTable (movesCheck 5 (moving 0)) 5).bind fun tb => tb.keeper.bind fun k => k.moves.find? (fun m => m.start = 6 && m.count = 1)) =
        some { start := 6, count := 1, src := 4, dst := 0 } ∧
      ((findTable (movesCheck 5 (moving 4)) 5).bind fun tb => tb.keeper.bind fun k => k.moves.find? (fun m => m.start = 6 && m.count = 1)) =
        some { start := 6, count := 1, src := 0, dst := 4 } ∧ heldBy [] 0 + 1 ≤ 1 * 1000000 ∧ (moving 0).pawn.cause ≠ 1 ∧ live (moving 0) = true := by
  decide +kernel
/-- An attached double of primary 9 whose slot 0 holds turn 4. -/
def slot4 : DSlot := { tag := 4, valid := true }
/-- A complete log of turn 5 that brings nothing. -/
def log5 : GradLog := { turn := 5, vals := some { turn := 5 }, fed := some 0, started := true }
def dblOf (log : Option GradLog) (state : Nat) : Double := { dbl with slots := [slot4, {}], log := log, state := state }
theorem witness_TurnsAreReplayedAndJudged_1 :
    let bytes := feedHdrBytes { table := 5, type := 2, member := 0, turn := 5 } ++ turnData {} 0
    let s := withDouble (dblOf none 0)
    takeSelfFree 0 bytes s = (none, s) ∧ live s = true ∧ s.pawn.cause = 0 ∧ feedOk bytes = true ∧ (feedHdrOf bytes).type = 2 ∧ findTable s 5 = none ∧
      recordOf s none 5 = some (dblOf none 0) ∧ recordOf up none 5 = none ∧ feedOk (bytes ++ [0]) = false ∧ live (inPawn 2) = true ∧
      (inPawn 2).pawn.cause ≠ 0 ∧ recordOf { inPawn 2 with doubles := [dbl] } none 5 = some dbl := by decide +kernel
/-- A record that comes back from the partner, EID 77, while a tiebreak runs at the primary. -/
theorem witness_TurnsAreReplayedAndJudged_2 :
    let bytes := feedHdrBytes { table := 5, type := 2, member := 0, turn := 5 } ++ turnData {} 0
    let q : Packet := { w0 := 0, w1 := mkW [(20, 0, 77)], payload := bytes }
    let s := { withTables [crownTbl [0] 0 none] with inbox := [.self 0 0 0 q] }
    (takeSelfFree 0 bytes s).1.map (·.payload) = some bytes ∧ live (takeSelfFree 0 bytes s).2 = true ∧ findTable (takeSelfFree 0 bytes s).2 5 = some (crownTbl [0] 0 none) ∧
      (crownTbl [0] 0 none).keeper.map (·.spec.partner) = some (pSrc q) ∧ (feedHdrOf bytes).member = (crownTbl [0] 0 none).member := by decide +kernel
theorem witness_TurnsAreReplayedAndJudged_3 :
    (∀ st < 3, attachedOf (withDouble (dblOf (some log5) st)) 9 5 = some (dblOf (some log5) st)) ∧ cpRuns (withDouble (dblOf (some log5) 0)) = true ∧
      sourceSlot (dblOf (some log5) 0) = some 0 ∧ logComplete log5 = true ∧ (dblOf (some log5) 0).dDbl = none := by decide +kernel
def judging (x y a b : Nat) (tie : Bool) : Double :=
  { dblOf (some log5) 0 with dDbl := some (5, x), dPrim := some (5, y), tie := tie, repOwn := if tie then some a else none, repPrim := if tie then some b else none }
theorem witness_TurnsAreReplayedAndJudged_4 :
    (∀ x < 2, ∀ y < 2, attachedOf (withDouble (judging x y 0 0 false)) 9 5 = some (judging x y 0 0 false)) ∧
      (∀ a < 3, ∀ b < 3, attachedOf (withDouble (judging 0 1 a b true)) 9 5 = some (judging 0 1 a b true)) ∧
      sourceSlot (judging 0 1 1 1 true) = some 0 := by decide +kernel
theorem witness_TurnsAreReplayedAndJudged_5 :
    let c : Ctl := { ctl := 2, table := 5, prim := 9, turn := 5, a := 7 }
    CtlOk c (withDouble (judging 0 1 0 0 true)) ∧ CtlOk c (withDouble (dblOf none 0)) ∧
      attachedOf (takeKFlit 0 (ctlWords c) (withDouble (dblOf none 0))) 9 5 = some (dblOf none 0) ∧
      attachedOf (takeKFlit 0 (ctlWords c) (withDouble (judging 0 1 0 0 true))) 9 5 = some (judging 0 1 0 0 true) :=
  ⟨ctl_meets (by decide +kernel), ctl_meets (by decide +kernel), by decide +kernel⟩
theorem witness_TurnsAreReplayedAndJudged_6 :
    let s := withTables [crownTbl [0] 0 none]
    let v : Ctl := { ctl := 3, table := 5, prim := 1, turn := 4 }
    CtlOk { v with ctl := 4, a := 8 } s ∧ CtlOk v s ∧ CtlOk { v with code := 1 } s ∧ CtlOk { v with code := 2 } s ∧ CtlOk { v with code := 3 } s ∧
      (findTable (takeKFlit 0 (ctlWords v) s) 5).bind (·.keeper) = (crownTbl [0] 0 none).keeper ∧ v.prim = (takeKFlit 0 (ctlWords v) s).ident.eid :=
  ⟨ctl_meets (by decide +kernel), ctl_meets (by decide +kernel), ctl_meets (by decide +kernel), ctl_meets (by decide +kernel),
    ctl_meets (by decide +kernel), by decide +kernel⟩
/-- A VERDICT of turn 4, and one of turn 3 that leaves the wait for turn 4 as it is. -/
theorem witness_TurnsAreReplayedAndJudged_8 :
    let tb := { crownTbl [0] 0 none with turn := 5, keeper := some { spec := {}, step := 0, b1pow := 0, b2pow := 0, turns := [{ vals := { turn := 4 } }] } }
    let after := fun (turn : Nat) => flushFeed 5 (modTurn 5 turn (fun q => { q with verdict := true }) (withTables [tb]))
    (findTable (after 3) 5).map (fun t => verdictDue t (t.turn + 1)) = some true ∧ (findTable (after 4) 5).map (fun t => verdictDue t (t.turn + 1)) = some false ∧
      (findTable (stopKeeper 5 (withTables [tb])) 5).map (fun t => verdictDue t (t.turn + 1)) = some false := by decide +kernel
/-- A DoubleSync packet of a KIND with parameter 0 for a primary. -/
def syncOf (kind prim : Nat) : List Byte := bytesOf [mkW [(63, 62, kind), (31, 22, 5), (20, 0, prim)], mkW [(63, 16, 4)], 0, 1, mkW [(31, 0, 7)]]
abbrev SyncOk (kind : Nat) (bytes : List Byte) (s : State) : Prop := Statement.SyncArrives 0 kind bytes (syncHdrOf bytes) s (takeSelfFree 0 bytes s).2
theorem sync_meets {kind : Nat} {bytes : List Byte} {s : State} (h : (live (takeSelfFree 0 bytes s).2 && decide ((takeSelfFree 0 bytes s).2.pawn.cause = 0) &&
    decide ((syncHdrOf bytes).kind = kind)) = true) : SyncOk kind bytes s := by
  simp only [Bool.and_eq_true, decide_eq_true_eq] at h
  exact ⟨rfl, h.1.1, h.1.2, rfl, h.2⟩
theorem witness_TurnsAreReplayedAndJudged_7 :
    let s := withTables [crownTbl [0] 0 none]
    SyncOk 2 (syncOf 2 1) s ∧ SyncOk 1 (syncOf 1 1) s ∧ (findTable (takeSelfFree 0 (syncOf 2 1) s).2 5).isSome = true ∧ (syncHdrOf (syncOf 2 1)).prim = s.ident.eid ∧
      syncOk 0 (syncOf 2 1) = true ∧ syncOk 0 (syncOf 1 1) = true :=
  ⟨sync_meets (by decide +kernel), sync_meets (by decide +kernel), by decide +kernel⟩
theorem witness_DoublesMeetAreRepairedAndHazardsFire_1 :
    let c : Ctl := { ctl := 0, table := 5, prim := 9, a := dbl.spec.crc }
    CtlOk c (withDouble dbl) ∧ CtlOk { c with a := 3 } (withDouble dbl) ∧ attachedOf (takeKFlit 0 (ctlWords c) (withDouble dbl)) 9 5 = some dbl ∧
      dbl.spec.crc ≠ 3 ∧ CtlOk { ctl := 6, table := 5, prim := 9 } (withDouble dbl) ∧ CtlOk { ctl := 6, table := 5, prim := 9 } served :=
  ⟨ctl_meets (by decide +kernel), ctl_meets (by decide +kernel), by decide +kernel, by decide +kernel, ctl_meets (by decide +kernel),
    ctl_meets (by decide +kernel)⟩
def opening5 : Opening := { mailbox := 0, table := crownTbl [0] 0 none, since := 0 }
theorem witness_DoublesMeetAreRepairedAndHazardsFire_2 :
    let s := { served with opening := [opening5] }
    let c : Ctl := { ctl := 1, table := 5, prim := 1 }
    CtlOk c s ∧ CtlOk { c with code := 1 } s ∧
      (takeKFlit 0 (ctlWords c) s).opening.find? (fun o => o.table.id = 5) = some opening5 ∧ c.prim = (takeKFlit 0 (ctlWords c) s).ident.eid ∧
      live s = true ∧ s.opening.find? (fun o => o.table.id = 5) = some opening5 :=
  ⟨ctl_meets (by decide +kernel), ctl_meets (by decide +kernel), by decide +kernel⟩
theorem witness_DoublesMeetAreRepairedAndHazardsFire_3 :
    let p : Ctl := { ctl := 7, code := 2, table := 5, prim := 9, turn := 6 }
    let h : Ctl := { ctl := 5, code := 5, table := 5, prim := 1, turn := 6, a := 100 }
    let s := withTables [crownTbl [0, 4] 0 none]
    CtlOk p s ∧ CtlOk p (withTables [{ leafTbl with phaseSeen := some (6, 2) }]) ∧ CtlOk h s ∧ CtlOk { h with prim := 44 } s ∧
      (findTable (takeKFlit 0 (ctlWords h) s) 5).isSome = true ∧ (crownTbl [0, 4] 0 none).phaseSeen ≠ some (p.turn, p.code) :=
  ⟨ctl_meets (by decide +kernel), ctl_meets (by decide +kernel), ctl_meets (by decide +kernel), ctl_meets (by decide +kernel), by decide +kernel⟩
theorem witness_DoublesMeetAreRepairedAndHazardsFire_4 :
    SyncOk 0 (syncOf 0 9) (withDouble (dblOf none 0)) ∧ attachedOf (takeSelfFree 0 (syncOf 0 9) (withDouble (dblOf none 0))).2 9 5 = some (dblOf none 0) ∧
      syncOk (dblOf none 0).spec.rule (syncOf 0 9) = true ∧ (rebuildIn (syncOf 0 9) (dblOf none 0)).isSome = true ∧
      rebuildIn (syncOf 0 9) { dblOf none 0 with slots := [{ slot4 with tag := 3 }, {}] } = none :=
  ⟨sync_meets (by decide +kernel), by decide +kernel⟩
/-- SRC5 on with threshold 2 and a window of 1 ms; it has counted 2. -/
def hazy : State := { served with hazard := { spec := [0, 0, mkW [(63, 32, 2 ^ 31 + 2 * 65536 + 1)], 0], src := List.replicate 5 {} ++ [{ count := 2, window := 1 }] } }
theorem witness_DoublesMeetAreRepairedAndHazardsFire_5 :
    cpRuns hazy = true ∧ hazOn (hazEntry hazy 5) = true ∧ (hazy.hazard.src.getD 5 {}).fired = false ∧ (hazy.hazard.src.getD 5 {}).window = hazWindowNow hazy 5 ∧
      hazThreshold (hazEntry hazy 5) ≤ (hazy.hazard.src.getD 5 {}).count ∧ live hazy = true ∧ hazWindow (hazEntry hazy 5) ≠ 0 ∧
      isCrown (crownTbl [0] 0 none) = true ∧ ([0] : List Nat).length ≤ 1 ∧ (crownTbl [0] 0 none).keeper.map (·.hazTurn) = some none ∧ isCrown leafTbl = false := by
  decide +kernel

/-! ### Checkpoints, words, idle time -/

def shardOut (stage : Nat) : ShardOut := { turn := 4, target := 0, slot := 1, since := 9, stage := stage }
theorem witness_CheckpointsCommitOrAreAbandoned_1 :
    let d := { dbl with out := some (shardOut 4) }
    outDouble (withDouble d) 9 5 = some d ∧ cpRuns (withDouble d) = true ∧ live (withDouble d) = true := by decide +kernel
def ckpt4 (stage : Nat) : Ckpt := { turn := 4, target := 0, hazard := false, since := some 9, stage := stage }
/-- A crown table that checkpoints turn 4. -/
def ckptTbl (ring : List Nat) (stage : Nat) : Table :=
  { crownTbl ring 0 none with keeper := some { spec := {}, step := 0, b1pow := 0, b2pow := 0, ckpt := some (ckpt4 stage) } }
theorem witness_CheckpointsCommitOrAreAbandoned_2 :
    let c : Ctl := { ctl := 10, table := 5, prim := 1, turn := 4 }
    CtlOk c (withTables [ckptTbl [0, 4] 0]) ∧ CtlOk { c with prim := 44, pos := 1 } (withTables [ckptTbl [0, 4] 0]) ∧ CtlOk c (withTables [ckptTbl [4, 0] 0]) ∧
      (findTable (takeKFlit 0 (ctlWords c) (withTables [ckptTbl [0, 4] 0])) 5).isSome = true ∧ c.prim = (takeKFlit 0 (ctlWords c) (withTables [ckptTbl [0, 4] 0])).ident.eid ∧
      ownPos (ckptTbl [0, 4] 0) { ring := [0, 4] } = 0 ∧ ownPos (ckptTbl [4, 0] 0) { ring := [4, 0] } ≠ 0 :=
  ⟨ctl_meets (by decide +kernel), ctl_meets (by decide +kernel), ctl_meets (by decide +kernel), by decide +kernel⟩
theorem witness_CheckpointsCommitOrAreAbandoned_3 :
    (ckptOf (withTables [ckptTbl [0, 4] 5]) 5).map (·.2.2) = some (ckpt4 5) ∧ (ckptOf (withTables [ckptTbl [0, 4] 7]) 5).map (·.2.2) = some (ckpt4 7) ∧
      cpRuns (withTables [ckptTbl [0, 4] 5]) = true ∧ findTable (withTables [ckptTbl [0, 4] 5]) 5 = some (ckptTbl [0, 4] 5) ∧
      ((ckptTbl [0, 4] 5).keeper.bind fun k => (k.ckpt.toList ++ k.ckptReq).find? (fun c => c.since.isSome)) = some (ckpt4 5) := by decide +kernel
/-- A STOP verdict on the turn of a checkpoint that waits, at ring position 0 and elsewhere. -/
theorem witness_CheckpointsCommitOrAreAbandoned_5 :
    let k : Keeper := { spec := {}, step := 0, b1pow := 0, b2pow := 0, ckptReq := [ckpt4 0] }
    k.ckptReq.find? (fun c => c.turn = 4) = some (ckpt4 0) ∧ isCrown (ckptTbl [0, 4] 0) = true ∧ ownPos (ckptTbl [0, 4] 0) { ring := [0, 4] } = 0 ∧
      ownPos (ckptTbl [4, 0] 0) { ring := [4, 0] } ≠ 0 ∧ findTable (withTables [{ ckptTbl [0, 4] 0 with keeper := some k }]) 5 =
        some { ckptTbl [0, 4] 0 with keeper := some k } := by decide +kernel
theorem witness_CheckpointsCommitOrAreAbandoned_4 :
    let c : Ctl := { ctl := 11, table := 5, prim := 9, turn := 4 }
    let d := { dbl with out := some (shardOut 6) }
    CtlOk c (withDouble d) ∧ attachedOf (takeKFlit 0 (ctlWords c) (withDouble d)) 9 5 = some d ∧
      findTable (releaseSlot { d with abandoned := d.abandoned } (takeKFlit 0 (ctlWords c) (withDouble d))) 5 = none ∧
      CtlOk { c with prim := 44 } (withTables [ckptTbl [4, 0] 0]) ∧ attachedOf (withTables [ckptTbl [4, 0] 0]) 44 5 = none ∧
      (ckptTbl [4, 0] 0).board.ring.head?.map (eidOf (ckptTbl [4, 0] 0)) = some 44 ∧ (ckptTbl [4, 0] 0).keeper.map (·.relSeen) = some none :=
  ⟨ctl_meets (by decide +kernel), by decide +kernel, by decide +kernel, ctl_meets (by decide +kernel), by decide +kernel⟩
theorem witness_WordsAreScrubbedAndIdleTimeIsCharged : scrubs up = true ∧ (up.mem.tiers.getD 3 {}).scrubAt = 0 ∧ live up = true ∧ up.pawn.cause = 0 ∧
    268435456 ≤ capacityOf 0 ∧ scrubs (inPawn 1) = false := by decide +kernel

/-! ### The general statements -/

theorem up_inv : Safety.Inv up := by
  refine ⟨?_, ?_, ?_, ?_, ?_, ?_, ?_, ?_, ?_, ?_, ?_, ?_, ?_, ?_, routeOk_first, ?_, ?_, ?_, ?_, ?_, ?_⟩ <;>
    first
    | decide +kernel
    | (simp only [bootOk, powerOk, alertOk, identOk, telemOk, pawnOk, potOk, sqOk, ladderOk, memOk, hazardOk, planeOk]; decide +kernel)
theorem witness_EveryStepKeepsTheInvariant : ∃ s t : State, Safety.Inv s ∧ step s = .next t := ⟨up, _, up_inv, rfl⟩
theorem witness_StepRunsTheFrontCommand : ({ up with pending := [.ladderArbitration, .idleInterval] } : State).pending = .ladderArbitration :: [.idleInterval] ∧
    up.pending = [] := ⟨rfl, rfl⟩
theorem witness_CommandsLeaveTheQueueAndOnlySend : ∃ t, exec .idleInterval up = .next t := ⟨_, rfl⟩
theorem witness_FlashOutsideTheSlotsNeverChanges : ∃ t, exec (.fwStage 0) up = .next t := ⟨_, rfl⟩
theorem witness_BankWordsTravelInTheirShortestForm : 4 + [2 ^ 64 - 1].length ≤ 5 ∧ (∀ x ∈ [2 ^ 64 - 1], x < 2 ^ 64) ∧ (2 ^ 320 - 1 : Nat) < 2 ^ 320 := by
  decide +kernel
theorem witness_ZBlocksDecodeToTheirSteps : (1 : Nat) ≤ 254 ∧ (15 : Nat) < 16 ∧ (List.replicate 32 15).length = 32 ∧ (∀ c ∈ List.replicate 32 15, c < 2 ^ 4) ∧
    (0x4001 : Nat).testBit 14 = true ∧ (0x4001 : Nat) ≠ 0x4000 := by decide +kernel

/-! ### The spec's worked examples -/

/-- 02: a Z4 block of header 0x27A8 whose first payload byte is 0x3C: -3.5 and 3.5 times 3 / 64. -/
theorem test_z4_decodes : (readZ 4 ([0xA8, 0x27, 0x3C] ++ List.replicate 15 0)).map (fun x => (x.1.take 2, x.2.1)) =
    some ([.num (-7 * 24) (-10), .num (7 * 24) (-10)], true) := by decide +kernel
/-- 02: conversions of FP32 accumulators. -/
theorem test_conversions : convF bf16 (decodeF fp32 0x3F808000) = ⟨0x3F80, false, false⟩ ∧ convF bf16 (decodeF fp32 0x3F818000) = ⟨0x3F82, false, false⟩ ∧
    convF e4m3 (decodeF fp32 0x43FA0000) = ⟨0x7E, true, false⟩ ∧ convF e4m3 (decodeF fp32 0xBA800000) = ⟨0, false, true⟩ := by decide +kernel
/-- 03: three BF16 values in Bank mode; leaf A sends the first two. -/
theorem test_bank_example :
    let a := bankAdd (bankOf (decodeF bf16 0x4B80)) (bankOf (decodeF bf16 0x3F80))
    let b := bankOf (decodeF bf16 0xCB80)
    bankRecord a = [0x0A, 0, 0, 0, 0, 1, 0, 0, 1] ∧ bankRecord b = [0x0A, 0, 0, 0, 0, 0, 0, 0, 0xFF] ∧
      (bankRound bf16 (bankAdd a b) 1).bits = 0x3F80 ∧ (bankRound bf16 (bankAdd a b) 3).bits = 0x3EAB := by decide +kernel
/-- 03: the same in Roll mode, by both trees. -/
theorem test_roll_example : fadd fp32 0x4B800000 0x3F800000 = 0x4B800000 ∧ fadd fp32 0x4B800000 0xCB800000 = 0 ∧
    fadd fp32 0x4B800000 (fadd fp32 0x3F800000 0xCB800000) = 0x3F800000 := by decide +kernel
/-- 04: one Z4 block that escalates: 0.75, -0.3125, 0.09375 and 29 times 0.046875. -/
theorem test_z4_escalates :
    let v := [0x3F400000, 0xBEA00000, 0x3DC00000] ++ List.replicate 29 0x3D400000
    let o := encodeZ { boundary := 0, enable := true, format := 0x18, feedback := true, escNum := 0x100 } 4 0 0 0 32 v
    o.bytes = [0x79, 0x87, 0x7A, 0xCC, 0x0F] ++ List.replicate 29 0x07 ∧ o.escalated = 32 ∧ o.eps = some 0 ∧
      o.resid.take 4 = [0x3B180000, 0x3AF00000, 0xBA600000, 0x3A900000] := by decide +kernel
/-- 04: without the escalation test the block is the one of header 0x07BA. -/
theorem test_z4_first_codes :
    (encodeZ { boundary := 0, enable := true, format := 0x18 } 4 0 0 0 32 ([0x3F400000, 0xBEA00000, 0x3DC00000] ++ List.replicate 29 0x3D400000)).bytes =
      [0xBA, 0x07, 0xC7] ++ List.replicate 15 0 := by decide +kernel
/-- 05: the array's order of addition. -/
theorem test_array_order : matMul 1 3 1 [0x3F800000, 0x4B800000, 0x3F800000] [0x3F800000, 0x3F800000, 0x3F800000] = [0x4B800000] := by decide +kernel
/-- 06: a ROUND_HDR. -/
theorem test_round_header :
    bytesOf (roundHdrWords { round := 4660, table := 677, phase := 0, source := 339, format := 1, count := 2040, board := true, resv := 0, offset := 130560 }) =
      [0x53, 0x01, 0x40, 0xA9, 0x34, 0x12, 0x00, 0x00, 0x00, 0xFE, 0x01, 0x00, 0x00, 0xC4, 0x3F, 0x01] := by decide +kernel
/-- 07: a ROUND_OPEN. -/
theorem test_round_open :
    let c := roundSpecOf (wordsOf 4 [0x00, 0x00, 0x10, 0x10, 0x30, 0x00, 0x27, 0x10, 0x00, 0x00, 0x00, 0x00, 0x35, 0x12, 0x00, 0x00,
      0x00, 0x00, 0x00, 0x04, 0x00, 0x00, 0x00, 0x00, 0x00, 0x00, 0x00, 0x20, 0x00, 0x00, 0x20, 0x00])
    c = { kind := 1, op := 1, bank := true, narrow := true, rslot := 3, resFmt := 1, inFmt := 1, round := 0x1235, elems := 67108864, foldRows := 8192, foldCols := 8192 } ∧
      roundInvalid { nspecs := [{ enable := true, foldRank := 32 }], seats := [{ seat := 0, eid := 0, leaf := 0 }] } c = false := by decide +kernel
/-- 09: a slice of 2,147,483,648 elements over a ring of 4. -/
theorem test_slice : sliceLen { crownTbl [0, 4] 0 none with board := { ring := [0, 1, 2, 3] } }
    { keeperRound [] with board := { ring := [0, 1, 2, 3] }, spec := { elems := 2147483648 } } = 536870912 := by decide +kernel
/-- 09: one AdamW update. -/
theorem test_adamw :
    let sp : KSpec := { rule := 1, beta1 := 0x3F600000, beta2 := 0x3F7C0000, eps := 0x35800000 }
    let tv := formVals sp false 1 0x3A800000 0x3E000000 0 0 0x3F800000 0x3F800000
    let p := (updateParam sp tv 0x3F800000 0x3E80 { param := 0, w := 0x3F000000 }).p
    [tv.step, tv.b1pow, tv.b2pow, tv.a, tv.alpha, tv.bc2, tv.o1, tv.o2] = [1, 0x3F600000, 0x3F7C0000, 0x39000000, 0x3C000000, 0x3C800000, 0x3E000000, 0x3C800000] ∧
      [p.w, p.m, p.v, p.copy, p.turn] = [0x3EFF7800, 0x3D000000, 0x3A800000, 0x3EFF, 1] := by
  decide +kernel
/-- 10: a correction stamped at a window's end opens the next one. -/
theorem test_hazard_window :
    let s := { hazy with
      time := { hazy.time with t64 := 64 * 1300000000 }
      hazard := { spec := [mkW [(63, 32, 2 ^ 31 + 64 * 65536 + 100)], 0, 0, 0], src := [{}, { count := 63, window := 12 }] ++ List.replicate 4 {} } }
    (hazardCount 1 s).hazard.src.getD 1 {} = { count := 1, window := 13 } := by decide +kernel
/-- 11: the queue of 22,235 cells. -/
theorem test_admission : belowAlpha (-1) 22202 44406 = true ∧ belowAlpha (-1) 22203 44405 = false := by decide +kernel
/-- 12: two EID entries. -/
theorem test_eid_entries : (eidKind 0x400000A3, eidPath 0x400000A3) = (2, 163) ∧ (eidKind 0x20064000, eidLink 0x20064000) = (1, 100) := by decide +kernel
/-- 13: a packet header; 14: a mailbox header. -/
theorem test_headers :
    let p : Packet := { w0 := 0x1420000000000123, w1 := 0x8000000000005A21, payload := List.replicate 4096 0 }
    (pPtype p, pTc p, pHops p, pDest p, pLength p, pSrc p, pClass p) = (1, 4, 32, 0x123, 4096, 0x5A21, 4) ∧ headerOk false p = true ∧
      mboxHdr 0 5 0x2A17 300 48 = [0x17, 0x2A, 0x00, 0x00, 0x00, 0x40, 0x01, 0x01, 0x00, 0x00, 0x00, 0x00, 0x30, 0x00, 0x2C, 0x01] := by decide +kernel
/-- 13: θ of 0.375 ns is too large twice in a row for a LOCKED device at VL3. -/
theorem test_time_offset :
    let k := { runLink with stat := { runLink.stat with gen := 3, peerGens := 7 }, xchg := some { xid := 0, t1 := some 64000000 } }
    let s := { atLink k with time := { up.time with t64 := 64000000, lockedOnce := true, state := 2, upLink := some 0, badRun := 1, hops := 2, running := true } }
    let f := [mkW [(63, 56, 5), (19, 16, 1)], 64001936, 64032000, 0, 0, 0, 0, 0]
    (timeRespIn 0 f 64033888 s).time.theta = 24 := by decide +kernel
/-- 15: OBJ_READ of LinkStatus with the link ID in KEY_B: BAD_RESERVED naming offset 192. -/
theorem test_bad_reserved :
    let r := asks 0x10 [0x0D02000000000000, 0x64]
    (match checkReq (objReadSpec 3) 0 r (begun up r) with
      | .error a => some (a.status, a.detail)
      | .ok _ => none) = some (6, 0xC0) ∧
      r.msg = [0, 0, 0, 0, 0, 0, 0x10, 0] ++ List.replicate 8 0 ++ [0, 0, 0, 0, 0, 0, 2, 0x0D, 0x64, 0, 0, 0, 0, 0, 0, 0] ∧
      responseBytes 2 { r with session := 0xC41, seq := 7 } { status := 6, detail := 0xC0 } =
        bytesOf [0x011080000000_0C41, 0x0007001000000000, 0x0010060000000000, 0xC0] := by decide +kernel
/-- 16: what the two tables reserve in HBM3E. -/
theorem test_reserved :
    let crown := { crownTbl [0, 4] 0 none with keeper := some { spec := { rule := 1, quota := 24000 }, step := 0, b1pow := 0, b2pow := 0 } }
    let leaf := { leafTbl with board := { leafTbl.board with nspecs := [{ boundary := 0, enable := true, format := 0x18, residCap := 0xC000 }] } }
    hbmReserved { up with tables := [crown, leaf] } = 384000000000 + 206158430208 := by decide +kernel
/-- 20: a VOUT_COMMAND write of 0.745 V. -/
theorem test_pmbus : voutBytes 745 { addr := 0x40, exp := -12 } = [0x80, 0x21, 0xEC, 0x0B, 0x97] := by decide +kernel

end Sys2Proof.Tests
end

section
/-! SUPPORT. Numbers as little-endian bytes (R9) and codes packed as one bit string (R41, R47) read back as they were. -/

namespace Sys2Proof.Proofs
open Sys2Proof Sys2Proof.Machine

/-! ### Little-endian bytes -/

@[simp] theorem length_leBytes (n v : Nat) : (leBytes n v).length = n := by
  induction n generalizing v with
  | zero => rfl
  | succ n ih => simp [leBytes, ih]

theorem leNat_leBytes (n v : Nat) : leNat (leBytes n v) = v % 256 ^ n := by
  induction n generalizing v with
  | zero => simp [leBytes, leNat, Nat.mod_one]
  | succ n ih => simp [leBytes, leNat, ih, Nat.pow_succ', Nat.mod_mul]

theorem leNat_leBytes_of_lt {n v : Nat} (h : v < 256 ^ n) : leNat (leBytes n v) = v := by
  rw [leNat_leBytes, Nat.mod_eq_of_lt h]

theorem slice_append_append (as bs cs : List Byte) : slice (as ++ (bs ++ cs)) as.length bs.length = bs := by
  simp [slice]

theorem leAt_leBytes_append {n v : Nat} (h : v < 256 ^ n) (rest : List Byte) : leAt (leBytes n v ++ rest) 0 n = v := by
  have hs : slice (leBytes n v ++ rest) 0 n = leBytes n v := by simpa using slice_append_append [] (leBytes n v) rest
  rw [leAt, hs, leNat_leBytes_of_lt h]

/-! ### Packed codes -/

@[simp] theorem length_packBits (w : Nat) (cs : List Nat) : (packBits w cs).length = w * cs.length / 8 :=
  length_leBytes ..

@[simp] theorem length_unpackBits (w n : Nat) (bs : List Byte) : (unpackBits w n bs).length = n := by simp [unpackBits]

/-- The bit string of packed codes is the number whose digits in base 2^w they are. -/
theorem packSum_eq_ofDigits (w : Nat) (cs : List Nat) (hcs : ∀ c ∈ cs, c < 2 ^ w) :
    (List.range cs.length).foldl (fun a i => a + cs.getD i 0 % 2 ^ w * 2 ^ (w * i)) 0 = Nat.ofDigits (2 ^ w) cs := by
  induction cs using List.reverseRecOn with
  | nil => rfl
  | append_singleton cs c ih =>
    have hc : c % 2 ^ w = c := Nat.mod_eq_of_lt (hcs c (by simp))
    have hinit : (List.range cs.length).foldl (fun a i => a + (cs ++ [c]).getD i 0 % 2 ^ w * 2 ^ (w * i)) 0 =
        (List.range cs.length).foldl (fun a i => a + cs.getD i 0 % 2 ^ w * 2 ^ (w * i)) 0 :=
      List.foldl_ext _ _ _ fun a i hi => by rw [List.getD_append _ _ _ _ (List.mem_range.mp hi)]
    rw [List.length_append, List.length_singleton, List.range_succ, List.foldl_append, hinit,
      ih fun x hx => hcs x (List.mem_append_left _ hx), Nat.ofDigits_append]
    simp [hc, Nat.pow_mul, Nat.mul_comm]

/-- Digit i of a number in base b. -/
theorem ofDigits_div_pow_mod {b : Nat} (cs : List Nat) (hcs : ∀ c ∈ cs, c < b) {i : Nat} (hi : i < cs.length) :
    Nat.ofDigits b cs / b ^ i % b = cs[i] := by
  have hlt : cs[i] < b := hcs _ (List.getElem_mem hi)
  rw [Nat.ofDigits_div_pow_eq_ofDigits_drop i (Nat.zero_lt_of_lt hlt) cs hcs, List.drop_eq_getElem_cons hi,
    Nat.ofDigits_cons, Nat.add_mul_mod_self_left, Nat.mod_eq_of_lt hlt]

/-- Codes that fill whole bytes are unpacked as they were packed (R47). -/
theorem unpackBits_packBits {w : Nat} {cs : List Nat} (hw : 0 < w) (hbytes : 8 ∣ w * cs.length) (hcs : ∀ c ∈ cs, c < 2 ^ w) :
    unpackBits w cs.length (packBits w cs) = cs := by
  have hfit : Nat.ofDigits (2 ^ w) cs < 256 ^ (w * cs.length / 8) := by
    rw [show 256 = 2 ^ 8 from rfl, ← Nat.pow_mul, Nat.mul_div_cancel' hbytes, Nat.pow_mul]
    exact Nat.ofDigits_lt_base_pow_length (Nat.one_lt_two_pow hw.ne') hcs
  have hval : leNat (packBits w cs) = Nat.ofDigits (2 ^ w) cs := by
    rw [packBits, packSum_eq_ofDigits w cs hcs, leNat_leBytes_of_lt hfit]
  refine List.ext_getElem (by simp [unpackBits]) fun i _ hi => ?_
  simp [unpackBits, hval, Nat.pow_mul, ofDigits_div_pow_mod cs hcs hi]

end Sys2Proof.Proofs
end

section
/-! SUPPORT. What a Z block's header says to its decoder (R45 to R50), what a block of zeros encodes to (R48), and
statement O8. -/

namespace Sys2Proof.Proofs
open Sys2Proof Sys2Proof.Machine

/-! ### Decoding by header -/

theorem map_getD_range {α : Type} (f : Nat → α) {cs : List Nat} {n : Nat} (hn : cs.length = n) :
    (List.range n).map (fun i => f (cs[i]?.getD 0)) = cs.map f :=
  List.ext_getElem (by simp [hn]) fun i _ hi => by
    rw [List.length_map] at hi
    simp [hi]

/-- R48, R50: the header 0x4000 alone makes a zero block; ZERO with any other bit is malformed. -/
theorem readZ_of_zeroBit (w : Nat) {h : Nat} (rest : List Byte) (hh : h < 2 ^ 16) (hz : h.testBit 14 = true) :
    readZ w (leBytes 2 h ++ rest) =
      if h = 0x4000 then some (List.replicate 32 (.num 0 0), false, rest) else none := by
  have hat : leAt (leBytes 2 h ++ rest) 0 2 = h := leAt_leBytes_append hh rest
  have hdrop : (leBytes 2 h ++ rest).drop 2 = rest := List.drop_left' (length_leBytes 2 h)
  have hlen : ¬ (leBytes 2 h ++ rest).length < 2 := by rw [List.length_append, length_leBytes]; omega
  simp only [readZ, if_neg hlen, hat, hz, hdrop, if_true]

/-- R46, R47: a block with ZERO = 0 and NF = 0 decodes code by code, with the step and the ROT of its header. -/
theorem readZ_of_finite (w : Nat) {h cw : Nat} (payload rest : List Byte) (hh : h < 2 ^ 16) (hz : h.testBit 14 = false)
    (hnf : h.testBit 12 = false) (hE : h / 16 % 256 ≠ 0) (hE' : h / 16 % 256 ≠ 255)
    (hcw : cw = if h.testBit 15 then 8 else w) (hlen : payload.length = 4 * cw) :
    readZ w (leBytes 2 h ++ (payload ++ rest)) =
      some ((unpackBits cw 32 payload).map (zValue cw (h / 16 % 256) (h % 16)), h.testBit 13, rest) := by
  have hat : leAt (leBytes 2 h ++ (payload ++ rest)) 0 2 = h := leAt_leBytes_append hh _
  have hslice : slice (leBytes 2 h ++ (payload ++ rest)) 2 (4 * cw) = payload := by
    simpa [hlen] using slice_append_append (leBytes 2 h) payload rest
  have hdrop : (leBytes 2 h ++ (payload ++ rest)).drop (2 + 4 * cw) = rest := by
    rw [← List.append_assoc]; exact List.drop_left' (by simp [hlen])
  have hfull : ¬ (leBytes 2 h ++ (payload ++ rest)).length < 2 + 4 * cw := by
    rw [← hlen, ← List.append_assoc, List.length_append, List.length_append, length_leBytes]; omega
  have hhead : ¬ (leBytes 2 h ++ (payload ++ rest)).length < 2 := fun hlt => hfull (by omega)
  simp only [readZ, if_neg hhead, hat, hz, hnf, ← hcw, Bool.false_eq_true, if_false, if_neg hfull, hslice, hdrop]
  simp [hE, hE', map_getD_range _ (length_unpackBits cw 32 payload)]

/-- The header of a finite block that is not rotated. -/
def finiteHeader (esc : Bool) (E M : Nat) : Nat := (if esc then 0x8000 else 0) + 16 * E + M

theorem finiteHeader_lt (esc : Bool) {E M : Nat} (hE : E ≤ 254) (hM : M < 16) : finiteHeader esc E M < 2 ^ 16 := by
  cases esc <;> simp [finiteHeader] <;> omega

/-- SCALE_E of the header. -/
theorem finiteHeader_div_mod (esc : Bool) {E M : Nat} (hE : E ≤ 254) (hM : M < 16) :
    finiteHeader esc E M / 16 % 256 = E := by
  cases esc <;> simp [finiteHeader] <;> omega

/-- SCALE_M of the header. -/
theorem finiteHeader_mod (esc : Bool) {E M : Nat} (hM : M < 16) : finiteHeader esc E M % 16 = M := by
  cases esc <;> simp [finiteHeader] <;> omega

/-- Above SCALE_E stand NF, ROT and ZERO, which are 0, and ESC. -/
theorem finiteHeader_testBit (esc : Bool) {E M : Nat} (hE : E ≤ 254) (hM : M < 16) (k : Nat) :
    (finiteHeader esc E M).testBit (12 + k) = (esc && decide (3 = k)) := by
  have hflags : finiteHeader esc E M / 2 ^ 12 = if esc then 2 ^ 3 else 0 := by
    cases esc <;> simp [finiteHeader] <;> omega
  rw [Nat.add_comm, ← Nat.testBit_div_two_pow, hflags]
  cases esc with
  | false => exact Nat.zero_testBit k
  | true => exact Nat.testBit_two_pow

/-- R46: packed codes decode to their steps. -/
theorem readZ_finiteHeader {w cw : Nat} {esc : Bool} {E M : Nat} {cs : List Nat} (rest : List Byte) (hE : 1 ≤ E)
    (hE' : E ≤ 254) (hM : M < 16) (h32 : cs.length = 32) (hcw : cw = if esc then 8 else w) (hpos : 0 < cw)
    (hcs : ∀ c ∈ cs, c < 2 ^ cw) :
    readZ w (leBytes 2 (finiteHeader esc E M) ++ (packBits cw cs ++ rest)) = some (cs.map (zValue cw E M), false, rest) := by
  have hunpack : unpackBits cw 32 (packBits cw cs) = cs := by
    simpa only [h32] using unpackBits_packBits hpos (by rw [h32]; omega) hcs
  have hscale := finiteHeader_div_mod esc hE' hM
  have hbit (k : Nat) := finiteHeader_testBit esc hE' hM k
  have hnf : (finiteHeader esc E M).testBit 12 = false := by simpa using hbit 0
  have hrot : (finiteHeader esc E M).testBit 13 = false := by simpa using hbit 1
  have hzero : (finiteHeader esc E M).testBit 14 = false := by simpa using hbit 2
  have hesc : (finiteHeader esc E M).testBit 15 = esc := by simpa using hbit 3
  rw [readZ_of_finite w (cw := cw) _ rest (finiteHeader_lt esc hE' hM) hzero hnf (by omega) (by omega) (by rwa [hesc])
    (by rw [length_packBits, h32]; omega), hscale, finiteHeader_mod esc hM, hunpack, hrot]

/-! ### Encoding zeros -/

theorem decodeF_fp32_zero {a : Nat} (ha : a = 0 ∨ a = 0x80000000) : decodeF fp32 a = .num 0 (-149) := by
  rcases ha with rfl | rfl <;> decide

theorem maxFix_eq_zero {ys : List FVal} (h : ∀ y ∈ ys, toFix y = 0) : maxFix ys = 0 := by
  unfold maxFix
  induction ys with
  | nil => rfl
  | cons y ys ih =>
    obtain ⟨hy, hys⟩ := List.forall_mem_cons.mp h
    simpa [hy] using ih hys

/-- A block whose values are finite and whose largest magnitude is 0 is sent as a zero block. -/
theorem encodeZ_of_maxFix_eq_zero (ns : NSpec) (w : Nat) (key : W64) (round k n : Nat) {v : List Nat}
    (hfin : ∀ a ∈ v, (decodeF fp32 a).isFinite = true) (hmax : maxFix (v.map (decodeF fp32)) = 0) :
    (encodeZ ns w key round k n v).bytes = leBytes 2 0x4000 := by
  have hany : (v.map (decodeF fp32)).any (fun x => !x.isFinite) = false := by
    simpa using hfin
  simp [encodeZ, hany, hmax]

theorem encodeZ_zeros (ns : NSpec) (w : Nat) (key : W64) (round k n : Nat) {v : List Nat}
    (hv : ∀ a ∈ v, a = 0 ∨ a = 0x80000000) : (encodeZ ns w key round k n v).bytes = leBytes 2 0x4000 := by
  refine encodeZ_of_maxFix_eq_zero ns w key round k n (fun a ha => by rw [decodeF_fp32_zero (hv a ha)]; rfl) (maxFix_eq_zero ?_)
  intro y hy
  obtain ⟨a, ha, rfl⟩ := List.mem_map.mp hy
  rw [decodeF_fp32_zero (hv a ha)]
  decide

/-- Settles O8, by what the decoder reads from a block's header and the round trip of packed codes. -/
theorem zBlocksDecodeToTheirSteps : Obligations.ZBlocksDecodeToTheirSteps := by
  unfold Obligations.ZBlocksDecodeToTheirSteps
  intro w rest hw
  have hzero : leBytes 2 0x4000 = [0x00#8, 0x40#8] := by decide
  refine ⟨fun esc E M cs hE hE' hM h32 hcs => ?_, ?_, fun h hh hz hne => ?_, fun ns key round k n v hv => ?_⟩
  · have hpos : 0 < if esc then 8 else w := by split <;> omega
    exact readZ_finiteHeader rest hE hE' hM h32 rfl hpos hcs
  · have hread := readZ_of_zeroBit w (h := 0x4000) rest (by decide) (by decide)
    rwa [hzero, if_pos rfl] at hread
  · rw [readZ_of_zeroBit w rest hh hz, if_neg hne]
  · rw [encodeZ_zeros ns w key round k n hv, hzero]

end Sys2Proof.Proofs
end

section
/-! SUPPORT. A bank word as the number that its five 64-bit limbs spell (R79, R81), records of limbs as their reader takes
them (R80), and statement O7. -/

namespace Sys2Proof.Proofs
open Sys2Proof Sys2Proof.Machine

/-! ### Bank words as limbs -/

theorem ofDigits_limbs (b n : Nat) : Nat.ofDigits (2 ^ 64) ((List.range n).map (limb b)) = b % 2 ^ (64 * n) := by
  induction n with
  | zero => simp [Nat.mod_one]
  | succ n ih =>
    rw [List.range_succ, List.map_append, Nat.ofDigits_append, ih, Nat.pow_mul, Nat.pow_mul, Nat.mod_pow_succ]
    simp [limb, Nat.pow_mul]

theorem ofDigits_bankLimbs {b : Nat} (hb : b < 2 ^ 320) : Nat.ofDigits (2 ^ 64) ((List.range 5).map (limb b)) = b := by
  rw [ofDigits_limbs, show 64 * 5 = 320 from rfl, Nat.mod_eq_of_lt hb]

/-- A bank word is given by its five limbs. -/
theorem eq_of_limb_eq {a b : Nat} (ha : a < 2 ^ 320) (hb : b < 2 ^ 320) (h : ∀ k, k < 5 → limb a k = limb b k) :
    a = b := by
  rw [← ofDigits_bankLimbs ha, ← ofDigits_bankLimbs hb, List.map_congr_left fun k hk => h k (List.mem_range.mp hk)]

@[simp] theorem limb_zero (k : Nat) : limb 0 k = 0 := by simp [limb]

theorem exists_limb_ne_zero {b : Nat} (hb : b < 2 ^ 320) (hne : b ≠ 0) : ∃ k, k < 5 ∧ limb b k ≠ 0 := by
  by_contra hnone
  push Not at hnone
  exact hne (eq_of_limb_eq hb (Nat.zero_lt_of_lt hb) fun k hk => by rw [hnone k hk, limb_zero])

theorem limb_lt (b k : Nat) : limb b k < 2 ^ 64 := Nat.mod_lt _ (by decide)

/-! ### What a record rebuilds (R81) -/

/-- A limb above the last limb sent: 64 copies of that limb's bit 63. -/
def signLimb (ls : List Nat) : Nat := if 2 ^ 63 ≤ ls.getD (ls.length - 1) 0 then 2 ^ 64 - 1 else 0

/-- The five limbs that R81 gives for START and the limbs sent. -/
def recordLimbs (st : Nat) (ls : List Nat) : List Nat :=
  List.replicate st 0 ++ ls ++ List.replicate (5 - (st + ls.length)) (signLimb ls)

theorem signLimb_lt (ls : List Nat) : signLimb ls < 2 ^ 64 := by
  unfold signLimb
  split <;> decide

theorem length_recordLimbs {st : Nat} {ls : List Nat} (hfit : st + ls.length ≤ 5) : (recordLimbs st ls).length = 5 := by
  simp [recordLimbs]
  omega

theorem recordLimbs_lt {st : Nat} {ls : List Nat} (hls : ∀ x ∈ ls, x < 2 ^ 64) :
    ∀ x ∈ recordLimbs st ls, x < 2 ^ 64 := by
  intro x hx
  rcases List.mem_append.mp hx with hx | hx
  · rcases List.mem_append.mp hx with hx | hx
    · rw [List.eq_of_mem_replicate hx]
      decide
    · exact hls x hx
  · rw [List.eq_of_mem_replicate hx]
    exact signLimb_lt ls

theorem getD_recordLimbs {st k : Nat} (ls : List Nat) (hk : k < 5) :
    (recordLimbs st ls).getD k 0 =
      if k < st then 0 else if k < st + ls.length then ls.getD (k - st) 0 else signLimb ls := by
  have hlow : (List.replicate st 0 ++ ls).length = st + ls.length := by simp
  unfold recordLimbs
  split_ifs with hbelow hsent
  · rw [List.getD_append _ _ _ _ (by omega), List.getD_append _ _ _ _ (by simpa using hbelow), List.getD_replicate _ hbelow]
  · rw [List.getD_append _ _ _ _ (by omega), List.getD_append_right _ _ _ _ (by simpa using hbelow), List.length_replicate]
  · rw [List.getD_append_right _ _ _ _ (by omega), List.getD_replicate _ (by omega)]

/-- The limbs sent, from START on, spell a number whose limbs below START are 0. -/
theorem limbSum_eq_ofDigits (st : Nat) (ls : List Nat) :
    (List.range ls.length).foldl (fun a i => a + ls.getD i 0 * 2 ^ (64 * (st + i))) 0 =
      Nat.ofDigits (2 ^ 64) (List.replicate st 0 ++ ls) := by
  induction ls using List.reverseRecOn with
  | nil => simp [Nat.ofDigits_replicate_zero]
  | append_singleton ls x ih =>
    have hinit : (List.range ls.length).foldl (fun a i => a + (ls ++ [x]).getD i 0 * 2 ^ (64 * (st + i))) 0 =
        (List.range ls.length).foldl (fun a i => a + ls.getD i 0 * 2 ^ (64 * (st + i))) 0 :=
      List.foldl_ext _ _ _ fun a i hi => by rw [List.getD_append _ _ _ _ (List.mem_range.mp hi)]
    rw [List.length_append, List.length_singleton, List.range_succ, List.foldl_append, hinit, ih, ← List.append_assoc,
      Nat.ofDigits_append (l2 := [x]), List.length_append, List.length_replicate, Nat.ofDigits_singleton, ← Nat.pow_mul]
    simp [Nat.mul_comm]

/-- Limbs of ones are a power of the base less 1. -/
theorem ofDigits_replicate_ones (m : Nat) : Nat.ofDigits (2 ^ 64) (List.replicate m (2 ^ 64 - 1)) = 2 ^ (64 * m) - 1 := by
  induction m with
  | zero => rfl
  | succ m ih =>
    have hpos : 0 < 2 ^ (64 * m) := Nat.two_pow_pos _
    rw [List.replicate_succ, Nat.ofDigits_cons, ih, Nat.mul_succ, Nat.pow_add]
    omega

/-- The sign limbs above n limbs weigh what fromLimbs adds for them. -/
theorem ofDigits_signLimbs {n : Nat} (hn : n ≤ 5) (ls : List Nat) :
    2 ^ (64 * n) * Nat.ofDigits (2 ^ 64) (List.replicate (5 - n) (signLimb ls)) =
      if 2 ^ 63 ≤ ls.getD (ls.length - 1) 0 then 2 ^ 320 - 2 ^ (64 * n) else 0 := by
  unfold signLimb
  split
  · rw [ofDigits_replicate_ones, Nat.mul_sub, Nat.mul_one, show 320 = 64 * n + 64 * (5 - n) by omega, Nat.pow_add]
  · rw [Nat.ofDigits_replicate_zero, Nat.mul_zero]

theorem fromLimbs_eq_ofDigits {st : Nat} {ls : List Nat} (hfit : st + ls.length ≤ 5) :
    fromLimbs st ls = Nat.ofDigits (2 ^ 64) (recordLimbs st ls) := by
  rw [recordLimbs, Nat.ofDigits_append, ← limbSum_eq_ofDigits, List.length_append, List.length_replicate, ← Nat.pow_mul,
    ofDigits_signLimbs hfit, fromLimbs]

theorem fromLimbs_lt {st : Nat} {ls : List Nat} (hfit : st + ls.length ≤ 5) (hls : ∀ x ∈ ls, x < 2 ^ 64) :
    fromLimbs st ls < 2 ^ 320 := by
  rw [fromLimbs_eq_ofDigits hfit, show 320 = 64 * 5 from rfl, Nat.pow_mul, ← length_recordLimbs hfit]
  exact Nat.ofDigits_lt_base_pow_length (by decide) (recordLimbs_lt hls)

/-- R81: what each limb of the word that a record rebuilds is. -/
theorem limb_fromLimbs {st : Nat} {ls : List Nat} (hfit : st + ls.length ≤ 5) (hls : ∀ x ∈ ls, x < 2 ^ 64) {k : Nat}
    (hk : k < 5) : limb (fromLimbs st ls) k =
      if k < st then 0 else if k < st + ls.length then ls.getD (k - st) 0 else signLimb ls := by
  have hk' : k < (recordLimbs st ls).length := by rwa [length_recordLimbs hfit]
  rw [← getD_recordLimbs ls hk, limb, fromLimbs_eq_ofDigits hfit, Nat.pow_mul,
    ofDigits_div_pow_mod _ (recordLimbs_lt hls) hk', List.getD_eq_getElem _ _ hk']

/-! ### Reading a record (R80) -/

@[simp] theorem length_flatMap_leBytes (n : Nat) (xs : List Nat) : (xs.flatMap (leBytes n)).length = n * xs.length := by
  induction xs with
  | nil => rfl
  | cons x xs ih =>
    rw [List.flatMap_cons, List.length_append, ih, length_leBytes, List.length_cons]
    ring

theorem leAt_append_add (as bs : List Byte) (i n : Nat) : leAt (as ++ bs) (as.length + i) n = leAt bs i n := by
  rw [leAt, slice, ← List.drop_drop, List.drop_left, leAt, slice]

/-- Numbers of n bytes sent one after another are read back one by one. -/
theorem leAt_flatMap_leBytes {n : Nat} {xs : List Nat} (hxs : ∀ x ∈ xs, x < 256 ^ n) (rest : List Byte) {i : Nat}
    (hi : i < xs.length) : leAt (xs.flatMap (leBytes n) ++ rest) (n * i) n = xs[i] := by
  induction xs generalizing i with
  | nil => exact absurd hi (Nat.not_lt_zero i)
  | cons x xs ih =>
    obtain ⟨hx, hxs⟩ := List.forall_mem_cons.mp hxs
    rw [List.flatMap_cons, List.append_assoc]
    cases i with
    | zero => exact leAt_leBytes_append hx _
    | succ i =>
      have htail := leAt_append_add (leBytes n x) (xs.flatMap (leBytes n) ++ rest) (n * i) n
      rw [length_leBytes, Nat.add_comm, ← Nat.mul_succ] at htail
      rw [htail, ih hxs (Nat.lt_of_succ_lt_succ hi), List.getElem_cons_succ]

theorem readRecord_wellFormed {st : Nat} {ls : List Nat} (hne : ls ≠ []) (hfit : st + ls.length ≤ 5)
    (hls : ∀ x ∈ ls, x < 2 ^ 64) (rest : List Byte) :
    readRecord (BitVec.ofNat 8 (8 * ls.length + st) :: (ls.flatMap (leBytes 8) ++ rest)) = some (fromLimbs st ls, rest) := by
  have hpos : 0 < ls.length := List.length_pos_iff.mpr hne
  have hhdr : (BitVec.ofNat 8 (8 * ls.length + st)).toNat = 8 * ls.length + st :=
    Nat.mod_eq_of_lt (by omega)
  have hcount : (8 * ls.length + st) / 8 = ls.length := by omega
  have hstart : (8 * ls.length + st) % 8 = st := by omega
  have hlimbs : (List.range ls.length).map (fun i => leAt (ls.flatMap (leBytes 8) ++ rest) (8 * i) 8) = ls :=
    List.ext_getElem (by simp) fun i _ hi => by simpa using leAt_flatMap_leBytes (n := 8) hls rest hi
  have hdrop : (ls.flatMap (leBytes 8) ++ rest).drop (8 * ls.length) = rest := List.drop_left' (length_flatMap_leBytes 8 ls)
  have hok : ¬ (ls.length = 0 ∨ 5 < ls.length ∨ 4 < st ∨ 5 < st + ls.length ∨
      (ls.flatMap (leBytes 8) ++ rest).length < 8 * ls.length) := by
    rw [List.length_append, length_flatMap_leBytes]
    omega
  simp only [readRecord, hhdr, hcount, hstart, hlimbs, hdrop, Bool.or_eq_true, decide_eq_true_eq, or_assoc, if_neg hok]

/-! ### The shortest form (R82) -/

/-- What a search below n answers when something is there: the least place that fits. -/
theorem find?_range_getD_least {p : Nat → Bool} {n : Nat} (d : Nat) (h : ∃ i, i < n ∧ p i = true) :
    let r := ((List.range n).find? p).getD d
    r < n ∧ p r = true ∧ ∀ i, i < r → p i = false := by
  cases hfind : (List.range n).find? p with
  | none =>
    obtain ⟨i, hi, hpi⟩ := h
    simpa [hpi] using List.find?_range_eq_none.mp hfind i hi
  | some r =>
    obtain ⟨hpr, hr, hleast⟩ := List.find?_range_eq_some.mp hfind
    exact ⟨List.mem_range.mp hr, hpr, by simpa using hleast⟩

/-- START of the shortest form. -/
def startOf (b : Nat) : Nat := ((List.range 5).find? fun k => limb b k ≠ 0).getD 0

/-- The n limbs of b from START on. -/
def limbsFrom (b st n : Nat) : List Nat := (List.range n).map fun i => limb b (st + i)

/-- COUNT of the shortest form from START on. -/
def countOf (b st : Nat) : Nat :=
  ((List.range 5).find? fun i => i + 1 + st ≤ 5 && fromLimbs st (limbsFrom b st (i + 1)) = b).getD 4 + 1

theorem shortest_eq (b : Nat) : shortest b = (startOf b, limbsFrom b (startOf b) (countOf b (startOf b))) := rfl

theorem bankRecord_eq {b st : Nat} {ls : List Nat} (h : shortest b = (st, ls)) :
    bankRecord b = BitVec.ofNat 8 (8 * ls.length + st) :: ls.flatMap (leBytes 8) := by
  rw [bankRecord, h]

theorem startOf_zero : startOf 0 = 0 := by decide

theorem startOf_least {b : Nat} (hb : b < 2 ^ 320) (hne : b ≠ 0) :
    startOf b < 5 ∧ limb b (startOf b) ≠ 0 ∧ ∀ k, k < startOf b → limb b k = 0 := by
  simpa [startOf] using find?_range_getD_least (p := fun k => limb b k ≠ 0) 0 (by simpa using exists_limb_ne_zero hb hne)

theorem startOf_lt {b : Nat} (hb : b < 2 ^ 320) : startOf b < 5 := by
  by_cases hz : b = 0
  · rw [hz, startOf_zero]
    decide
  · exact (startOf_least hb hz).1

theorem limb_startOf {b : Nat} (hb : b < 2 ^ 320) : limb b (startOf b) ≠ 0 ∨ b = 0 ∧ startOf b = 0 := by
  by_cases hz : b = 0
  · exact .inr ⟨hz, by rw [hz, startOf_zero]⟩
  · exact .inl (startOf_least hb hz).2.1

theorem limb_of_lt_startOf {b k : Nat} (hb : b < 2 ^ 320) (hk : k < startOf b) : limb b k = 0 := by
  by_cases hz : b = 0
  · rw [hz, limb_zero]
  · exact (startOf_least hb hz).2.2 k hk

@[simp] theorem length_limbsFrom (b st n : Nat) : (limbsFrom b st n).length = n := by simp [limbsFrom]

theorem limbsFrom_lt (b st n : Nat) : ∀ x ∈ limbsFrom b st n, x < 2 ^ 64 := by
  simpa [limbsFrom] using fun i _ => limb_lt b (st + i)

theorem getD_limbsFrom {b st n i : Nat} (hi : i < n) : (limbsFrom b st n).getD i 0 = limb b (st + i) := by
  simp [limbsFrom, hi]

/-- All the limbs from one that has only zeros below it rebuild the word. -/
theorem fromLimbs_all {b st n : Nat} (hb : b < 2 ^ 320) (hlow : ∀ k, k < st → limb b k = 0) (hn : st + n = 5) :
    fromLimbs st (limbsFrom b st n) = b := by
  have hfit : st + (limbsFrom b st n).length ≤ 5 := by rw [length_limbsFrom, hn]
  have hls := limbsFrom_lt b st n
  refine eq_of_limb_eq (fromLimbs_lt hfit hls) hb fun k hk => ?_
  rw [limb_fromLimbs hfit hls hk, length_limbsFrom, hn, if_pos hk]
  split_ifs with hbelow
  · exact (hlow k hbelow).symm
  · rw [getD_limbsFrom (by omega), Nat.add_sub_cancel' (Nat.le_of_not_lt hbelow)]

/-- COUNT is the smallest count that rebuilds the word. -/
theorem countOf_least {b st : Nat} (hb : b < 2 ^ 320) (hst : st < 5) (hlow : ∀ k, k < st → limb b k = 0) :
    st + countOf b st ≤ 5 ∧ fromLimbs st (limbsFrom b st (countOf b st)) = b ∧
      ∀ n, 0 < n → st + n ≤ 5 → fromLimbs st (limbsFrom b st n) = b → countOf b st ≤ n := by
  have hall : fromLimbs st (limbsFrom b st (4 - st + 1)) = b := fromLimbs_all hb hlow (by omega)
  obtain ⟨-, hfits, hleast⟩ := find?_range_getD_least
    (p := fun i => i + 1 + st ≤ 5 && fromLimbs st (limbsFrom b st (i + 1)) = b) (n := 5) 4
    ⟨4 - st, by omega, by simpa [hall] using by omega⟩
  rw [Bool.and_eq_true, decide_eq_true_eq, decide_eq_true_eq] at hfits
  obtain ⟨hfit, hrebuilds⟩ := hfits
  refine ⟨by rwa [Nat.add_comm], hrebuilds, fun n hpos hn hbuild => ?_⟩
  by_contra hlt
  have hno := hleast (n - 1) (by rw [countOf] at hlt; omega)
  rw [Nat.sub_add_cancel hpos] at hno
  simp [hbuild] at hno
  omega

/-- Settles O7, by the five limbs that a record rebuilds and the least START and COUNT that the sender's searches find. -/
theorem bankWordsTravelInTheirShortestForm : Obligations.BankWordsTravelInTheirShortestForm := by
  unfold Obligations.BankWordsTravelInTheirShortestForm
  refine ⟨fun st ls hne hfit hls => ⟨fun k hk => limb_fromLimbs hfit hls hk, readRecord_wellFormed hne hfit hls⟩,
    fun b hb => ?_⟩
  have hlow : ∀ k, k < startOf b → limb b k = 0 := fun k => limb_of_lt_startOf hb
  obtain ⟨hfit, hrebuilds, hleast⟩ := countOf_least hb (startOf_lt hb) hlow
  have hrecord := bankRecord_eq (shortest_eq b)
  have hlen := length_limbsFrom b (startOf b) (countOf b (startOf b))
  have hne : limbsFrom b (startOf b) (countOf b (startOf b)) ≠ [] := by
    rw [← List.length_pos_iff, hlen]
    exact Nat.succ_pos _
  refine ⟨startOf b, _, shortest_eq b, hrecord, hlow, limb_startOf hb, hne, hlen.symm ▸ hfit, hrebuilds, hlen.symm ▸ hleast,
    fun rest => ?_⟩
  rw [hrecord, List.cons_append, readRecord_wellFormed hne (hlen.symm ▸ hfit) (limbsFrom_lt b _ _) rest, hrebuilds]

end Sys2Proof.Proofs
end

section
/-! SUPPORT. The front of a list (R206, R212), a Pip packet's way to the Pip engine (R227, R356), what TURN_BEGIN, the wait
for a VERDICT and RELEASE do in each case, and statement O54. -/

namespace Sys2Proof.Proofs
open Sys2Proof Sys2Proof.Machine

/-! ### The front of a list -/

/-- The front move of a table is the one that comes up, in a table that runs. -/
theorem frontMove_eq_some_iff {t op : Nat} {s : State} {tb : Table} {m : List W64} :
    frontMove t op s = some (tb, m) ↔ Statement.ComesUp t op s tb m := by
  constructor
  · intro h
    simp only [frontMove] at h
    split at h
    · cases h
    next hruns =>
    split at h
    · cases h
    next tb' hfind =>
    split at h
    · cases h
    next hhalt =>
    split at h
    · cases h
    next m' ms hmoves =>
    split at h
    next hop =>
      cases h
      exact ⟨by simpa using hruns, hfind, not_not.mp hhalt, by rw [hmoves, List.head?_cons], hop⟩
    · cases h
  · rintro ⟨hruns, hfind, hhalt, hfront, hop⟩
    obtain ⟨ms, hmoves⟩ := List.head?_eq_some_iff.mp hfront
    simp [frontMove, hruns, hfind, hhalt, hmoves, hop]

/-! ### TURN_BEGIN, BARRIER and the wait for a VERDICT -/

theorem turnBegin_of_comesUp {t : Nat} {s : State} {tb : Table} {m : List W64} (hup : Statement.ComesUp t 1 s tb m)
    (hfree : tb.bar.joined = false) {v : State} {w : Table} {x : State} (hv : v = turnDue t (closeGroup t s))
    (hw : findTable v t = some w) (hx : Statement.TurnBegun t m w v x) : turnBegin t s = x := by
  subst hv
  simp only [turnBegin, frontMove_eq_some_iff.mpr hup, hfree, hw]
  rcases hx with ⟨hwait, rfl⟩ | ⟨hdrained, hrestored, hdue, rfl⟩ | ⟨hdrained, hrestored, hgiven, rfl⟩
  · simp [hwait]
  · simp [hdrained, hrestored, hdue]
  · simp only [hdrained, hrestored, hgiven]
    rfl

/-- TURN_BEGIN does nothing where it does not come up, and once it has joined its barrier. -/
theorem turnBegin_of_not_due {t : Nat} {s : State} {tb : Table} (hfind : findTable s t = some tb)
    (h : cpRuns s = false ∨ tb.halt ≠ 0 ∨ tb.moves.head?.map opcode ≠ some 1 ∨ tb.bar.joined = true) :
    turnBegin t s = s := by
  cases hfront : frontMove t 1 s with
  | none => simp only [turnBegin, hfront]
  | some p =>
    obtain ⟨tb', m⟩ := p
    obtain ⟨hruns, hfind', hhalt, hfirst, hop⟩ := frontMove_eq_some_iff.mp hfront
    obtain rfl : tb' = tb := Option.some.inj (hfind'.symm.trans hfind)
    have hjoined : tb'.bar.joined = true := by simpa [hruns, hhalt, hfirst, hop] using h
    simp only [turnBegin, hfront, if_pos hjoined]

theorem barrierMove_of_comesUp {t : Nat} {s : State} {tb : Table} {m : List W64} (hup : Statement.ComesUp t 2 s tb m)
    (hfree : tb.bar.joined = false) :
    barrierMove t s = joinMove t tb.turn (tb.barrierSeq + 1) (fld (wd m 0) 15 0) (closeGroup t s) := by
  simp [barrierMove, frontMove_eq_some_iff.mpr hup, hfree]

theorem verdictTimeout_of_waiting {t a : Nat} {s : State} {tb : Table} {k : Keeper} (hfind : findTable s t = some tb)
    (hkeeper : tb.keeper = some k) (hwait : k.dbl.waitSince = some a) :
    verdictTimeout t s = turnBegin t (modPrim t (fun d => { d with state := 2, feed := [], waitSince := none })
      (advanceTo (a + absenceNs tb) s)) := by
  simp [verdictTimeout, hfind, hkeeper, hwait]

/-! ### RELEASE -/

/-- A well-formed Pip packet of the type that a command takes reaches the Pip engine. -/
theorem pipArrive_of_pipArrives {l type : Nat} {f : List W64} {s u : State} (h : Statement.PipArrives l type f s u)
    (g : State → State) : pipArrive l type f g s = g u := by
  obtain ⟨rfl, hlive, htype, hknown, hgood⟩ := h
  have hbad : pipBad f = false := by simpa [pipBad, htype, hgood] using Nat.lt_succ_of_le hknown
  simp [pipArrive, hlive, hbad, htype, hgood]

theorem releaseIn_of_unknown {l : Nat} {f : List W64} {s : State} (hfind : findTable s (barrierPkt f).table = none) :
    releaseIn l f s = pipDrop l s := by
  simp only [releaseIn, hfind]

/-- R254, R256: a halted table drops a RELEASE, and so does one that holds it already or has not
joined its barrier (DESIGN CHOICE, log 21). -/
theorem releaseIn_of_dropped {l : Nat} {f : List W64} {s : State} {tb : Table}
    (hfind : findTable s (barrierPkt f).table = some tb)
    (h : tb.halt ≠ 0 ∨ tb.bar.joined = false ∨ tb.bar.releaseAt ≠ none ∨ tb.bar.turn ≠ (barrierPkt f).turn ∨
      tb.bar.seq ≠ (barrierPkt f).seq) : releaseIn l f s = s := by
  simp only [releaseIn, hfind]
  exact if_pos (by simpa [Option.isSome_iff_ne_none, or_assoc] using h)

/-- R254, R255: a RELEASE of the barrier joined is noted and passed on, and a late one releases at once. -/
theorem releaseIn_of_taken {l : Nat} {f : List W64} {s : State} {tb : Table}
    (hfind : findTable s (barrierPkt f).table = some tb) (hhalt : tb.halt = 0) (hjoined : tb.bar.joined = true)
    (hnew : tb.bar.releaseAt = none) (hturn : tb.bar.turn = (barrierPkt f).turn) (hseq : tb.bar.seq = (barrierPkt f).seq)
    {v w : State}
    (hv : v = modBar (barrierPkt f).table (fun q => { q with releaseAt := some (barrierPkt f).value, lastAt := (barrierPkt f).value }) s)
    (hw : w = pipSend (portOf l) ((passRing tb (neighbourOn tb tb.board l v)).map (eidOf tb) ++ below tb) f v) :
    releaseIn l f s = if (barrierPkt f).value ≤ now w then releaseBarrier (barrierPkt f).table w else w := by
  subst hv hw
  simp [releaseIn, hfind, hhalt, hjoined, hnew, hturn, hseq]

theorem barrierRelease_of_releaseAt {t a : Nat} {s : State} {tb : Table} (hfind : findTable s t = some tb)
    (hat : tb.bar.releaseAt = some a) : barrierRelease t s = releaseBarrier t (advanceTo a s) := by
  simp [barrierRelease, hfind, hat]

/-- R256: a table that has halted does not release its barrier. -/
theorem releaseBarrier_of_halted {t : Nat} {s : State} {tb : Table} (hfind : findTable s t = some tb) (hhalt : tb.halt ≠ 0) :
    releaseBarrier t s = s := by
  simp only [releaseBarrier, hfind]
  split
  · exact if_pos hhalt
  · rfl

/-- Settles O54, by the front of the table's list and the case in which a RELEASE reaches its barrier. -/
theorem barriersAreJoinedAndReleased : Obligations.BarriersAreJoinedAndReleased := by
  unfold Obligations.BarriersAreJoinedAndReleased
  refine ⟨fun t s tb m hfree => ⟨fun hup v w x hv hw hx => ?_, ?_⟩, fun t a s tb k hruns hfind hkeeper hwait u hu => ?_,
    fun l f s u harr => ?_, fun t a s tb m hfind hat => ⟨fun hlive => ?_, releaseBarrier_of_halted hfind, ?_⟩⟩
  · exact congrArg Host.Outcome.next (turnBegin_of_comesUp hup hfree hv hw hx)
  · rintro hup v rfl
    exact congrArg Host.Outcome.next (barrierMove_of_comesUp hup hfree)
  · have hexec : exec (.verdictWaitTimeout t) s = .next (turnBegin t u) := by
      rw [exec, execVerdictWaitTimeout, if_pos hruns, verdictTimeout_of_waiting hfind hkeeper hwait, hu, absenceNs]
    rw [hexec]
    refine ⟨fun m tb' hup hfree v w x hv hw hx => ?_, fun tb' hfind' hno => ?_⟩
    · rw [turnBegin_of_comesUp hup hfree hv hw hx]
    · rw [turnBegin_of_not_due hfind' hno]
  · have hexec : exec (.release l f) s = .next (releaseIn l f u) :=
      congrArg Host.Outcome.next (pipArrive_of_pipArrives harr _)
    rw [hexec]
    refine ⟨fun hnone => ?_, fun tb hfind => ⟨fun hdrop => ?_, fun hhalt hjoined hnew hturn hseq w hw => ?_⟩⟩
    · rw [releaseIn_of_unknown hnone]
      rfl
    · rw [releaseIn_of_dropped hfind hdrop]
    · rw [releaseIn_of_taken hfind hhalt hjoined hnew hturn hseq rfl hw]
      exact ⟨fun hearly => by rw [if_neg (Nat.not_le.mpr hearly)], fun hlate => by rw [if_pos hlate]⟩
  · rw [exec, execBarrierRelease, if_pos hlive, barrierRelease_of_releaseAt hfind hat]
  · intro hfront hhalt
    obtain ⟨ms, hmoves⟩ := List.head?_eq_some_iff.mp hfront
    refine ⟨fun hother => ?_, fun hturn => ?_⟩
    · simp only [releaseBarrier, hfind, hat, hmoves, hhalt, hother]
      rfl
    · simp only [releaseBarrier, hfind, hat, hmoves, hhalt, hturn]
      rfl

end Sys2Proof.Proofs
end

section
/-! SUPPORT. What a command that its row's checks let pass answers (R484), the cases of SESSION_OPEN (R479, R481), the end
of a session (R480) and NOP; statement O24. -/

namespace Sys2Proof.Proofs
open Sys2Proof Sys2Proof.Machine

/-! ### A request that passes its checks -/

section
variable {m major : Nat} {sp : CmdSpec} {extra : List Byte → Bool} {r : Request} {s u : State}
  {body : Request → Nat → State → Reply}

theorem runCmd_of_asked (h : Statement.Asked m sp extra r major s u) {a : Answer} {v : State}
    (hbody : body r major u = (some a, v)) :
    runCmd m sp extra body s = respond m a (if a.status = 0 then v else u) := by
  simp only [runCmd, h.begins, h.passes, hbody]

theorem runCmd_of_asked_okWith (h : Statement.Asked m sp extra r major s u) {data : List Byte} {v : State}
    (hbody : body r major u = okWith data v) : runCmd m sp extra body s = respond m { data := data } v :=
  runCmd_of_asked h hbody

/-- A command that its body rejects changes nothing (R17). -/
theorem runCmd_of_asked_reject (h : Statement.Asked m sp extra r major s u) {status detail : Nat} {v : State}
    (hbody : body r major u = reject status detail v) (hstatus : status ≠ 0) :
    runCmd m sp extra body s = respond m { status := status, detail := detail } u := by
  rw [runCmd_of_asked h hbody, if_neg hstatus]

end

/-! ### SESSION_OPEN -/

/-- The session that SESSION_OPEN of a request opens (R479, R481). -/
def openedSession (r : Request) (s : State) : Session :=
  let major := fld (argW r.msg 0) 55 48
  { id := r.session, major := major, minor := minorOf s major, idleS := fld (argW r.msg 0) 15 0, lastBegin := now s }

/-- What SESSION_OPEN answers with: the session's major and minor, and the versions of the device (R481). -/
def versionData (x : Session) (s : State) : List Byte :=
  bytesOf [mkW [(63, 56, x.major), (55, 48, x.minor), (47, 40, rulesetMax s)], mkW [(63, 32, romVer), (31, 0, patchVer s)]]

section
variable {m major : Nat} {r : Request} {s : State}

theorem sessionOpenBody_of_session_zero (hrange : fld (argW r.msg 0) 63 56 ≤ fld (argW r.msg 0) 55 48)
    (hzero : r.session = 0) : sessionOpenBody m r major s = reject gValue 0 s := by
  simp only [sessionOpenBody, if_neg (Nat.not_lt.mpr hrange), if_pos hzero]

theorem sessionOpenBody_of_busy {x : Session} (hrange : fld (argW r.msg 0) 63 56 ≤ fld (argW r.msg 0) 55 48)
    (hne : r.session ≠ 0) (hkeep : bitAt (argW r.msg 0) 47 = false) (hcur : curSession s m = some x)
    (hother : x.id ≠ r.session) : sessionOpenBody m r major s = reject gSessionBusy x.id s := by
  simp [sessionOpenBody, Nat.not_lt.mpr hrange, hne, hkeep, hcur, hother]

/-- R479: the three cases in which a session opens are no current session, the current session itself, and a takeover. -/
theorem sessionOpenBody_of_free (hrange : fld (argW r.msg 0) 63 56 ≤ fld (argW r.msg 0) 55 48) (hne : r.session ≠ 0)
    (hfree : ∀ x, curSession s m = some x → x.id = r.session ∨ bitAt (argW r.msg 0) 47 = true) :
    let v := endSession m s
    sessionOpenBody m r major s = okWith (versionData (openedSession r v) v)
      (modMbox m (fun b => { b with session := some (openedSession r v) }) v) := by
  have hnot : ((curSession s m).any (fun x => x.id ≠ r.session) && !bitAt (argW r.msg 0) 47) = false := by
    cases hcur : curSession s m with
    | none => rfl
    | some x =>
      rcases hfree x hcur with hsame | htake
      · simp [hsame]
      · simp [htake]
  simp only [sessionOpenBody, if_neg (Nat.not_lt.mpr hrange), if_neg hne, hnot]
  rfl

end

/-! ### The end of a session, and NOP -/

/-- R480: stored responses and bulk buffers go with the session, and so does the route staging that it owns. -/
theorem endSession_of_session {m : Nat} {s : State} {x : Session} (hcur : curSession s m = some x) :
    let t := modMbox m (fun b => { b with session := none, stored := [], inb := none, outb := none }) s
    endSession m s = if s.route.owner = some (m, x.id) then freeStaging t else t := by
  simp only [endSession, hcur]
  rfl

theorem idleExpire_of_session {m : Nat} {s : State} {x : Session} (hcur : curSession s m = some x) :
    idleExpire m s = endSession m (advanceTo (x.lastBegin + x.idleS * 1000000000) s) := by
  simp only [idleExpire, hcur]

theorem nopRun_of_nop {m major : Nat} {s u : State} {r : Request} (hbegin : beginReq m nopNames s = some (r, u))
    (hnop : cmdOf r.msg = 3) (hpass : checkReq nopSpec m r u = .ok major) :
    nopRun m s = respond m { data := r.msg.drop 16 } u := by
  simp [nopRun, hbegin, hnop, hpass]

/-- Settles O24, by the answer of each body of SESSION_OPEN, SESSION_CLOSE and NOP, and what the end of a session takes. -/
theorem sessionsOpenAndEnd : Obligations.SessionsOpenAndEnd := by
  unfold Obligations.SessionsOpenAndEnd
  intro m s u r major
  refine ⟨fun hasked hrange hne hfree => ?_, fun hasked hrange hne hkeep x hcur hother => ?_,
    fun hasked hrange hzero => ?_, fun hasked => ?_, fun hruns x hcur => ?_, fun x hcur => endSession_of_session hcur,
    fun hbegin _ hnop hpass => congrArg Host.Outcome.next (nopRun_of_nop hbegin hnop hpass)⟩
  · exact congrArg Host.Outcome.next (runCmd_of_asked_okWith hasked (sessionOpenBody_of_free hrange hne hfree))
  · exact congrArg Host.Outcome.next
      (runCmd_of_asked_reject hasked (sessionOpenBody_of_busy hrange hne hkeep hcur hother) (by decide))
  · exact congrArg Host.Outcome.next
      (runCmd_of_asked_reject hasked (sessionOpenBody_of_session_zero hrange hzero) (by decide))
  · exact congrArg Host.Outcome.next (runCmd_of_asked_okWith hasked rfl)
  · rw [exec, execSessionIdleExpire, if_pos hruns, idleExpire_of_session hcur]

end Sys2Proof.Proofs
end

section
/-! SUPPORT. Every command answers a next state, and from the state before to that one the queue, the flash outside the
slots, the parts it does not name and the invariant are kept; statements O1 to O6. -/

namespace Sys2Proof.Proofs
open Sys2Proof Sys2Proof.Machine Sys2Proof.Safety Sys2Proof.Laws

/-- A part is one of those listed. -/
def listed (ps : List StatePart) (p : StatePart) : Bool := ps.contains p

theorem may_head (p : StatePart) (ps : List StatePart) : May (listed (p :: ps)) p := ⟨by simp [listed]⟩

theorem may_tail (p q : StatePart) (ps : List StatePart) [h : May (listed ps) p] : May (listed (q :: ps)) p :=
  ⟨by have := h.ok; simp_all [listed]⟩

theorem keeps_ite {T : StatePart → Bool} {c : Prop} [Decidable c] {a s t : State} (h : Keeps T a s) (k : Keeps T a t) :
    Keeps T a (if c then s else t) := by split <;> assumption

/-- Every command answers a next state and keeps all but its parts, by what its meaning keeps (Laws). That a part of the
list may change is found along the list by `head` and `tail`. -/
theorem exec_keeps (c : Instr) (s : State) : ∃ t, exec c s = .next t ∧ Keeps (listed (Statement.touched c)) s t := by
  have head := may_head
  have tail := may_tail
  have start {T : StatePart → Bool} : Keeps T s s := Keeps.refl s
  cases c <;> refine ⟨_, rfl, ?_⟩ <;>
    simp only [Statement.touched, Statement.timePasses, Statement.answers, Statement.arrives, Statement.objects, Statement.resets,
      List.cons_append, List.nil_append]
  case pwrGoodAssert => exact keeps_powerOn _ start
  case pwrGoodDeassert => exact keeps_powerOff start
  case resetNAssert => exact keeps_resetOn start
  case resetNRelease => exact keeps_resetOff _ start
  case pllLock => exact keeps_pllLock _ _ _ start
  case flashVerify => exact keeps_flashVerify start
  case selfTestDone => exact keeps_selfTest _ start
  case memTrainDone => exact keeps_memTrain _ start
  case memClearDone => exact keeps_memClear _ start
  case enterService => exact keeps_enterService start
  case refclkCoreLoss => exact keeps_coreClockLost start
  case refclkSrdLoss => exact keeps_srdClockLost _ start
  case refclkSrdRestore => exact keeps_srdClockBack _ start
  case throttleEnter => exact keeps_throttleOn _ _ start
  case throttleExit => exact keeps_throttleOff _ _ start
  case thermalPawnEnter => exact keeps_thermalPawn _ start
  case thermalTrip => exact keeps_thermalTrip _ start
  case avsReading => exact keeps_avsReading _ _ start
  case avsStepDone => exact keeps_avsStepDone _ start
  case avsPoll => exact keeps_avsPoll _ _ _ start
  case watchdogRestart => exact keeps_wdRestart start
  case watchdogExpire => exact keeps_wdExpire start
  case helperStallCheck => exact keeps_stallCheck _ start
  case pawnExit => exact keeps_pawnExit _ _ start
  case pawnRoundTimeout => exact keeps_pawnRoundEnds _ _ start
  case pawnRequest => exact keeps_pawnRequest _ _ start
  case extest => exact keeps_boundaryIr _ _ start
  case extestPulse => exact keeps_boundaryIr _ _ start
  case extestTrain => exact keeps_boundaryIr _ _ start
  case clamp => exact keeps_boundaryIr _ _ start
  case highz => exact keeps_boundaryIr _ _ start
  case samplePreload => exact keeps_loadIr _ _ start
  case bypass => exact keeps_loadIr _ _ start
  case privateJtag => exact keeps_loadIr _ _ start
  case testLogicReset => exact keeps_loadIr _ _ start
  case debugChallenge => exact keeps_runCmd _ _ _ _ (fun _ _ _ k => keeps_challengeBody _ _ k) start
  case debugToken => exact keeps_runCmd _ _ _ _ (fun _ _ _ k => keeps_tokenBody _ _ _ k) start
  case debugRelock => exact keeps_runCmd _ _ _ _ (fun _ _ _ k => keeps_relockBody _ _ k) start
  case debugScopeExpire => exact keeps_scopeExpire _ start
  case debugChallengeLapse => exact keeps_challengeLapse start
  case mboxRequest => exact keeps_mailboxIn _ _ start
  case bulkSegment => exact keeps_mailboxIn _ _ start
  case sessionIdleExpire => exact keeps_ite (keeps_idleExpire _ start) start
  case sessionOpen => exact keeps_runCmd _ _ _ _ (fun _ _ _ k => keeps_sessionOpenBody _ _ _ k) start
  case sessionClose => exact keeps_runCmd _ _ _ _ (fun _ _ _ k => keeps_sessionCloseBody _ _ _ k) start
  case nop => exact keeps_nopRun _ start
  case bulkFetch => exact keeps_bulkFetchRun _ start
  case objRead => exact keeps_runCmd _ _ _ _ (fun _ _ _ k => keeps_objReadBody _ _ k) start
  case scoresheetRecordRead => exact keeps_runCmd _ _ _ _ (fun _ _ _ k => keeps_sheetReadBody _ _ _ k) start
  case objWrite => exact keeps_writeRun _ _ start
  case squarePriorityWrite => exact keeps_writeRun _ _ start
  case portClassConfigWrite => exact keeps_writeRun _ _ start
  case portLinkConfigWrite => exact keeps_writeRun _ _ start
  case kibitzSpecWrite => exact keeps_writeRun _ _ start
  case routeControlWrite => exact keeps_writeRun _ _ start
  case checkpointTargetWrite => exact keeps_writeRun _ _ start
  case scrubControlWrite => exact keeps_writeRun _ _ start
  case errorInjectWrite => exact keeps_writeRun _ _ start
  case telemetrySpecWrite => exact keeps_writeRun _ _ start
  case alertControlWrite => exact keeps_writeRun _ _ start
  case tableOpen => exact keeps_runCmd _ _ _ _ (fun _ _ _ k => keeps_tableOpenBody _ _ _ k) start
  case tableClose => exact keeps_runCmd _ _ _ _ (fun _ _ _ k => keeps_tableCloseBody _ _ k) start
  case movesAppend => exact keeps_runCmd _ _ _ _ (fun _ _ _ k => keeps_movesAppendBody _ _ _ k) start
  case boardLoad => exact keeps_runCmd _ _ _ _ (fun _ _ _ k => keeps_boardLoadBody _ _ _ k) start
  case doubleOpen => exact keeps_runCmd _ _ _ _ (fun _ _ _ k => keeps_doubleOpenBody _ _ k) start
  case doubleClose => exact keeps_runCmd _ _ _ _ (fun _ _ _ k => keeps_doubleCloseBody _ _ k) start
  case doubleDetach => exact keeps_runCmd _ _ _ _ (fun _ _ _ k => keeps_doubleDetachBody _ _ k) start
  case doubleMove => exact keeps_runCmd _ _ _ _ (fun _ _ _ k => keeps_doubleMoveBody _ _ k) start
  case restore => exact keeps_runCmd _ _ _ _ (fun _ _ _ k => keeps_restoreBody _ _ _ k) start
  case routeBegin => exact keeps_runCmd _ _ _ _ (fun _ _ _ k => keeps_routeBeginBody _ _ _ _ k) start
  case routeWrite => exact keeps_runCmd _ _ _ _ (fun _ _ _ k => keeps_routeWriteBody _ _ _ k) start
  case routeAbort => exact keeps_runCmd _ _ _ _ (fun _ _ _ k => keeps_routeAbortBody _ _ _ k) start
  case routeCommit => exact keeps_runCmd _ _ _ _ (fun _ _ _ k => keeps_routeCommitBody _ _ _ k) start
  case fence => exact keeps_runCmd _ _ _ _ (fun _ _ _ k => keeps_fenceBody _ _ _ k) start
  case unfence => exact keeps_runCmd _ _ _ _ (fun _ _ _ k => keeps_unfenceBody _ _ k) start
  case linkLoopback => exact keeps_runCmd _ _ _ _ (fun _ _ _ k => keeps_loopbackBody _ _ _ k) start
  case fwStage => exact keeps_runCmd _ _ _ _ (fun _ _ _ k => keeps_fwStageBody _ _ _ k) start
  case attestQuote => exact keeps_runCmd _ _ _ _ (fun _ _ _ k => keeps_quoteBody _ _ _ k) start
  case restart => exact keeps_runCmd _ _ _ _ (fun _ _ _ k => keeps_restartBody _ _ k) start
  case restartReset => exact keeps_restartNow _ start
  case arpRequest => exact keeps_frameFor _ _ _ _ start
  case neighbourSolicitation => exact keeps_frameFor _ _ _ _ start
  case echoRequest => exact keeps_frameFor _ _ _ _ start
  case ptpMessage => exact keeps_ptpIn _ _ _ start
  case macControlFrame => exact keeps_macControl _ start
  case frameDrop => exact keeps_frameBad _ _ start
  case storageReply => exact keeps_storageReply _ _ start
  case storageRetry => exact keeps_ite (keeps_retryOp _ start) start
  case storageTimeout => exact keeps_ite (keeps_storageTimeout _ start) start
  case hostPortDown => exact keeps_portDown _ start
  case telemetryPeriod => exact keeps_telemetry start
  case linkFrameReceive => exact keeps_linkFrameIn _ _ start
  case replayWaitTimeout => exact keeps_replayTimeout _ start
  case ack => exact keeps_ctrlIn _ _ _ _ (fun _ k => keeps_ackIn _ _ k) start
  case ackTimer => exact keeps_ite (keeps_sendAck _ start) start
  case nak => exact keeps_ctrlIn _ _ _ _ (fun _ k => keeps_nakIn _ _ k) start
  case init => exact keeps_ctrlIn _ _ _ _ (fun _ k => keeps_initIn _ _ k) start
  case timeReq => exact keeps_ctrlIn _ _ _ _ (fun _ k => keeps_ite (keeps_timeReqIn _ _ _ k) k) start
  case timeResp => exact keeps_ctrlIn _ _ _ _ (fun _ k => keeps_timeRespIn _ _ _ k) start
  case timeExchangeTimer => exact keeps_timeRequest _ start
  case timeExchangeTimeout => exact keeps_timeTimeout _ start
  case genStep => exact keeps_ctrlIn _ _ _ _ (fun _ k => keeps_genStepIn _ _ k) start
  case stepUpStart => exact keeps_stepUp _ start
  case retrain => exact keeps_ctrlIn _ _ _ _ (fun _ k => keeps_ite (keeps_startFast _ k) k) start
  case tsReceive => exact keeps_tsIn _ _ start
  case trainingAttemptTimeout => exact keeps_attemptTimeout _ start
  case fallbackIdleEnd => exact keeps_idleEnd _ start
  case fastRetrainTimeout => exact keeps_fastTimeout _ start
  case linkLeaveService => exact keeps_ite (keeps_trainFromStart _ (keeps_leaveService _ start)) start
  case loopbackEnd => exact keeps_loopbackEnd _ start
  case farEndLoopbackExit => exact keeps_farExit _ start
  case discard => exact keeps_discardIn _ _ start
  case packetHeaderLookup => exact keeps_headerLookup _ _ _ start
  case cellAdmit => exact keeps_cellAdmit _ start
  case egressPacketStart => exact keeps_egressStart _ _ start
  case squareArbitration => exact keeps_squareSlot _ _ start
  case lockedSequence => exact keeps_lockedSeq _ _ start
  case ladderArbitration => exact keeps_ladderStep start
  case pipOverflow => exact keeps_pipOverflow _ start
  case orderPacket => exact keeps_orderIn _ _ start
  case reorderTimeout => exact keeps_reorderTimeout _ _ _ start
  case reorderContextFree => exact keeps_reorderFree _ _ _ start
  case drainTimerExpire => exact keeps_drainExpire _ start
  case fenceAck => exact keeps_fenceAck _ start
  case fenceTimeout => exact keeps_fenceTimeout _ start
  case contribReceive => exact keeps_contribIn _ _ start
  case resultReceive => exact keeps_resultIn _ _ start
  case chunkSent => exact keeps_ite (keeps_drain (keeps_sentChunk _ _ _ start)) start
  case signalReceive => exact keeps_signalIn _ _ start
  case chunkDeadline => exact keeps_ite (keeps_chunkLate _ _ _ start) start
  case absenceLimit => exact keeps_ite (keeps_chunkAbsent _ _ _ start) start
  case roundInactivity => exact keeps_ite (keeps_roundInactive _ _ start) start
  case pipRoundPacket => exact keeps_pipArrive _ _ _ _ (fun _ k => keeps_pipRoundIn _ _ k) start
  case pipSig => exact keeps_pipArrive _ _ _ _ (fun _ k => keeps_pipSigIn _ _ k) start
  case join => exact keeps_pipArrive _ _ _ _ (fun _ k => keeps_joinArrive _ _ k) start
  case release => exact keeps_pipArrive _ _ _ _ (fun _ k => keeps_releaseIn _ _ k) start
  case halt => exact keeps_pipArrive _ _ _ _ (fun _ k => keeps_haltIn _ _ k) start
  case barrierRelease => exact keeps_ite (keeps_barrierRelease _ start) start
  case barrierStall => exact keeps_ite (keeps_barrierStall _ start) start
  case joinHoldExpire => exact keeps_ite (keeps_joinExpire start) start
  case turnBegin => exact keeps_turnBegin _ start
  case barrier => exact keeps_barrierMove _ start
  case waitRounds => exact keeps_waitRounds _ start
  case phaseSet => exact keeps_phaseSet _ start
  case roundOpen => exact keeps_roundOpen _ start
  case residClear => exact keeps_residClear _ start
  case keeperTurn => exact keeps_keeperTurn _ start
  case checkpoint => exact keeps_checkpointMove _ start
  case boardSwitch => exact keeps_boardSwitch _ start
  case endMove => exact keeps_endMove _ start
  case muQuantumGrant => exact keeps_ite (keeps_muGrant _ start) start
  case muTaskComplete => exact keeps_ite (keeps_muTask _ _ start) start
  case ready => exact keeps_readyIn _ _ start
  case readyTimeout => exact keeps_ite (keeps_readyTimeout _ _ start) start
  case keeperQuantum => exact keeps_ite (keeps_keeperQuantum _ _ start) start
  case shardMoveDone => exact keeps_ite (keeps_moveDone _ _ _ _ _ start) start
  case grad => exact keeps_feedArrive _ _ _ start
  case commit => exact keeps_feedArrive _ _ _ start
  case turnRecord => exact keeps_feedArrive _ _ _ start
  case load => exact keeps_feedArrive _ _ _ start
  case turnReplayDone => exact keeps_ite (keeps_replayDone _ _ start) start
  case digest => exact keeps_ctlArrive _ _ _ _ (fun _ _ k => keeps_digestIn _ k) start
  case verdict => exact keeps_ctlArrive _ _ _ _ (fun _ _ k => keeps_verdictIn _ k) start
  case verdictWaitTimeout => exact keeps_ite (keeps_verdictTimeout _ start) start
  case tiebreak => exact keeps_ctlArrive _ _ _ _ (fun _ _ k => keeps_tiebreakIn _ k) start
  case tiebreakReplayDone => exact keeps_ite (keeps_tieReplayDone _ _ _ start) start
  case hello => exact keeps_ctlArrive _ _ _ _ (fun _ _ k => keeps_helloIn _ k) start
  case accept => exact keeps_ctlArrive _ _ _ _ (fun _ _ k => keeps_acceptIn _ k) start
  case helloTimeout => exact keeps_ite (keeps_helloTimeout _ start) start
  case close => exact keeps_ctlArrive _ _ _ _ (fun _ _ k => keeps_closeIn _ k) start
  case phase => exact keeps_ctlArrive _ _ _ _ (fun _ _ k => keeps_phaseIn _ _ k) start
  case hazardFire => exact keeps_ite (keeps_hazardFire _ start) start
  case hazardWindow => exact keeps_ite (keeps_hazardNext _ start) start
  case hazard => exact keeps_ctlArrive _ _ _ _ (fun _ _ k => keeps_hazardIn _ _ k) start
  case shardWriteDone => exact keeps_ite (keeps_shardWritten _ _ start) start
  case shardDone => exact keeps_ctlArrive _ _ _ _ (fun _ _ k => keeps_shardDoneIn _ k) start
  case manifestDurable => exact keeps_ite (keeps_manifestDurable _ start) start
  case commitDurable => exact keeps_ite (keeps_commitDurable _ start) start
  case slotRelease => exact keeps_ctlArrive _ _ _ _ (fun _ _ k => keeps_slotReleaseIn _ k) start
  case checkpointAbandonTimeout => exact keeps_ite (keeps_ckptTimeout _ start) start
  case slotSelfRelease => exact keeps_ite (keeps_selfRelease _ _ start) start
  case rebuild => exact keeps_syncArrive _ _ _ _ (fun _ _ k => keeps_rebuildPkt _ _ k) start
  case repair => exact keeps_syncArrive _ _ _ _ (fun _ _ k => keeps_repairPkt _ _ k) start
  case doublesyncTiebreak => exact keeps_syncArrive _ _ _ _ (fun _ _ k => keeps_tieState _ _ k) start
  case doublesyncRestore => exact keeps_syncArrive _ _ _ _ (fun _ _ k => keeps_restorePkt _ _ k) start
  case doubleQuery => exact keeps_ctlArrive _ _ _ _ (fun _ _ k => keeps_queryIn _ k) start
  case doubleHeld => exact keeps_ctlArrive _ _ _ _ (fun _ _ k => keeps_heldIn _ k) start
  case candidateFormTimeout => exact keeps_ite (keeps_formTimeout _ start) start
  case candidate => exact keeps_ctlArrive _ _ _ _ (fun _ _ k => keeps_candidateIn _ k) start
  case loadReq => exact keeps_ctlArrive _ _ _ _ (fun _ _ k => keeps_loadReqIn _ k) start
  case loadTimeout => exact keeps_ite (keeps_loadTimeout _ start) start
  case loaded => exact keeps_ctlArrive _ _ _ _ (fun _ _ k => keeps_loadedIn _ k) start
  case loadedTimeout => exact keeps_ite (keeps_loadedTimeout _ start) start
  case restoreGo => exact keeps_ctlArrive _ _ _ _ (fun _ _ k => keeps_goIn _ k) start
  case scrubRead => exact keeps_scrubRead _ _ _ _ _ start
  case levelAdv => exact keeps_mgmtArrive _ _ _ _ (fun _ _ k => keeps_levelAdvIn _ _ _ k) start
  case levelUp => exact keeps_mgmtArrive _ _ _ _ (fun _ _ k => keeps_levelArrive _ _ k) start
  case levelSet => exact keeps_mgmtArrive _ _ _ _ (fun _ _ k => keeps_levelArrive _ _ k) start
  case levelHoldExpire => exact keeps_ite (keeps_levelExpire start) start
  case idleInterval => exact keeps_idleStep start
  case hostPortUp => exact keeps_portUp _ start
  case electricalIdleDetected => exact keeps_idleSeen _ start
  case laneFramePeriod => exact keeps_framePeriod _ start
  case normPipeDone => exact keeps_ite (keeps_normDone _ _ start) start
  case dmaTransferDone => exact keeps_ite (keeps_dmaDone _ _ start) start
  case arpReply => exact keeps_hopKnown _ _ _ start

theorem keeps_of_exec {c : Instr} {s t : State} (h : exec c s = .next t) : Keeps (listed (Statement.touched c)) s t := by
  obtain ⟨u, hu, k⟩ := exec_keeps c s
  cases hu.symm.trans h
  exact k

theorem same_of_not_touched {c : Instr} {s t : State} (k : Keeps (listed (Statement.touched c)) s t) {p : StatePart}
    (hp : p ∉ Statement.touched c) : p.same s t := k.same_ p (by simpa [listed] using hp)

/-- Settles O1, by the parts that each command keeps. -/
theorem everyCommandCompletesInItsFrame : Obligations.EveryCommandCompletesInItsFrame := by
  unfold Obligations.EveryCommandCompletesInItsFrame
  intro c s
  obtain ⟨t, ht, k⟩ := exec_keeps c s
  exact ⟨t, ht, fun p hp => same_of_not_touched k hp⟩

theorem step_of_empty {s : State} (h : s.pending = []) : step s = .next (advance 1 s) := by rw [step, h]; rfl

theorem step_of_cons {c : Instr} {rest : List Instr} {s : State} (h : s.pending = c :: rest) :
    step s = exec c { s with pending := rest } := by rw [step, h]

/-- Settles O2, by the two forms of the queue. -/
theorem stepRunsTheFrontCommand : Obligations.StepRunsTheFrontCommand := by
  unfold Obligations.StepRunsTheFrontCommand
  exact ⟨fun _ _ _ h => step_of_cons h, fun _ h => step_of_empty h⟩

/-- Settles O3: what a reset leaves of a state keeps the invariant; each group has its size at reset. -/
theorem resetMeetsTheInvariant : Obligations.ResetMeetsTheInvariant := by
  unfold Obligations.ResetMeetsTheInvariant
  exact
    { flash := by decide +kernel, mbox := by decide +kernel, host := by decide +kernel, ports := by decide +kernel
      links := by decide +kernel, targets := by decide +kernel, mu := by decide +kernel, kunits := by decide +kernel
      boot := by unfold bootOk; decide +kernel
      power := by unfold powerOk; decide +kernel
      alert := by unfold alertOk; decide +kernel
      ident := by unfold identOk; decide +kernel
      telem := by unfold telemOk; decide +kernel
      pawn := by unfold pawnOk; decide +kernel
      route := routeOk_first
      pot := by unfold potOk; decide +kernel
      sq := by unfold sqOk; decide +kernel
      ladder := by unfold ladderOk; decide +kernel
      mem := by unfold memOk; decide +kernel
      hazard := by unfold hazardOk; decide +kernel
      feed := by unfold planeOk; decide +kernel }

theorem inv_with_pending {s : State} (q : List Instr) (h : Inv s) : Inv { s with pending := q } := by
  cases h
  constructor <;> assumption

/-- The invariant is kept by time passing as by every command. -/
theorem inv_advance {s : State} (n : Nat) (h : Inv s) : Inv (advance n s) := by
  have : ∀ p, May (fun _ => true) p := fun _ => ⟨rfl⟩
  exact (keeps_advance (T := fun _ => true) n (Keeps.refl s)).inv h

/-- Settles O4, by what every command keeps, and time passing on an empty queue. -/
theorem everyStepKeepsTheInvariant : Obligations.EveryStepKeepsTheInvariant := by
  unfold Obligations.EveryStepKeepsTheInvariant
  intro s t hinv hstep
  cases hq : s.pending with
  | nil =>
    rw [step_of_empty hq] at hstep
    cases hstep
    exact inv_advance 1 hinv
  | cons c rest =>
    rw [step_of_cons hq] at hstep
    exact (keeps_of_exec hstep).inv (inv_with_pending rest hinv)

/-- Settles O5, by what every command keeps. -/
theorem commandsLeaveTheQueueAndOnlySend : Obligations.CommandsLeaveTheQueueAndOnlySend := by
  unfold Obligations.CommandsLeaveTheQueueAndOnlySend
  intro c s t h
  have k := keeps_of_exec h
  exact ⟨k.pending, k.out, k.free⟩

theorem flash_not_touched {c : Instr} (h : ∀ m, c ≠ .fwStage m) : StatePart.flash ∉ Statement.touched c := by
  cases c with
  | fwStage m => exact absurd rfl (h m)
  | _ =>
    simp [Statement.touched, Statement.timePasses, Statement.answers, Statement.arrives, Statement.objects, Statement.resets]

/-- Settles O6: FW_STAGE writes within the slots, and no other command names the flash among its parts. -/
theorem flashOutsideTheSlotsNeverChanges : Obligations.FlashOutsideTheSlotsNeverChanges := by
  unfold Obligations.FlashOutsideTheSlotsNeverChanges
  intro c s t h
  have k := keeps_of_exec h
  exact ⟨k.flash, fun hc => same_of_not_touched k (flash_not_touched hc)⟩

end Sys2Proof.Proofs
end

section
/-! SUPPORT. Power, reset and the steps of start-up (R601 to R622); statements O9 to O13. -/

namespace Sys2Proof.Proofs
open Sys2Proof Sys2Proof.Machine Sys2Proof.Safety Sys2Proof.Laws

theorem exec_next {c : Instr} {s t u : State} (h : exec c s = .next t) (e : t = u) : exec c s = .next u := by rw [h, e]

/-! ### Reset and the beginning of start-up -/

theorem startUp_eq_begun (st : Straps) (u : State) : startUp st u = Statement.begun st u := by
  unfold startUp Statement.begun whenDo
  simp only [driveSpi, modBoot, modPins, setCause, modAlert]
  split <;> rename_i h <;> simp [h]

theorem afterReset_eq_backAtReset (u : State) : afterReset u = Statement.backAtReset u := rfl

section
variable {s : State} {st : Straps}

theorem powerOn_of_good (h : s.pins.pwrGood = true) : powerOn st s = s := by rw [powerOn, if_pos h]

theorem powerOn_of_off (h : s.pins.pwrGood = false) :
    let u := { s with pins := { s.pins with pwrGood := true, i2cOn := true, i2cAddr := 0x60 + st.i2c } }
    powerOn st s = if !s.pins.resetHigh then u
      else if isBoundary s.pins.jtagIr then { u with pins := { u.pins with jtagHold := true } } else startUp st u := by
  rw [powerOn, h] <;> rfl

theorem powerOff_of_off (h : s.pins.pwrGood = false) : powerOff s = s := by rw [powerOff, h]; rfl

theorem powerOff_of_good (h : s.pins.pwrGood = true) : powerOff s = Statement.backAtReset { s with
    pins := { s.pins with pwrGood := false, i2cOn := false, thermtrip := false }
    boot := { s.boot with tripped := false, clockLoss := false, clockHold := false } } := by
  rw [powerOff, h]
  exact afterReset_eq_backAtReset _

theorem resetOn_of_low (h : s.pins.resetHigh = false) : resetOn s = s := by rw [resetOn, h]; rfl

theorem resetOn_of_high (h : s.pins.resetHigh = true) :
    let u := floatSpi { s with pins := { s.pins with resetHigh := false } }
    resetOn s = if s.pins.pwrGood && !s.boot.tripped then Statement.backAtReset u else u := by
  rw [resetOn, h] <;> rfl

theorem resetOff_of_low (h : s.pins.resetHigh = false) :
    let u := { s with pins := { s.pins with resetHigh := true } }
    resetOff st s = if !s.pins.pwrGood then u else if s.boot.tripped then driveSpi u
      else if isBoundary s.pins.jtagIr then { u with pins := { u.pins with jtagHold := true } } else startUp st u := by
  rw [resetOff, h] <;> rfl

theorem restartNow_of_due {a : Nat} (hlive : live s = true) (hdue : s.boot.restartAt = some a) :
    restartNow st s = startUp st (afterReset (advanceTo a s)) := by
  simp [restartNow, hlive, hdue]

end

/-- Settles O9, by what PWR_GOOD, RESET_N and RESTART_RESET do in each of their cases. -/
theorem powerGoodAndResetBeginStartup : Obligations.PowerGoodAndResetBeginStartup := by
  unfold Obligations.PowerGoodAndResetBeginStartup
  simp only [← startUp_eq_begun]
  refine ⟨fun st s hoff => ⟨fun hlow => ?_, fun hhigh hir => ?_, fun hhigh hir => ?_⟩,
    fun st s hgood => exec_next rfl (powerOn_of_good hgood),
    fun st s hlow => ⟨fun hgood htrip hir => ?_, fun hgood htrip hir => ?_, fun hgood htrip => ?_, fun hoff => ?_⟩,
    fun st s a hlive hdue => exec_next rfl (restartNow_of_due hlive hdue)⟩
  · exact exec_next rfl (by simp [powerOn_of_off hoff, hlow])
  · exact exec_next rfl (by simp [powerOn_of_off hoff, hhigh, hir])
  · exact exec_next rfl (by simp [powerOn_of_off hoff, hhigh, hir])
  · exact exec_next rfl (by simp [resetOff_of_low hlow, hgood, htrip, hir])
  · exact exec_next rfl (by simp [resetOff_of_low hlow, hgood, htrip, hir])
  · exact exec_next rfl (by simp [resetOff_of_low hlow, hgood, htrip, driveSpi, modPins])
  · exact exec_next rfl (by simp [resetOff_of_low hlow, hoff])

/-- Settles O10, by what RESET_N and PWR_GOOD do in each of their cases. -/
theorem resetPutsEverythingBack : Obligations.ResetPutsEverythingBack := by
  unfold Obligations.ResetPutsEverythingBack
  refine ⟨fun s hhigh => ⟨fun hgood htrip => ?_, fun hoff => ?_⟩, fun s hgood => exec_next rfl (powerOff_of_good hgood),
    fun s => ⟨fun hlow => exec_next rfl (resetOn_of_low hlow), fun hoff => exec_next rfl (powerOff_of_off hoff)⟩, fun u => rfl⟩
  · refine exec_next rfl ?_
    rw [resetOn_of_high hhigh, if_pos (by simp [hgood, htrip])] <;> rfl
  · refine exec_next rfl ?_
    rw [resetOn_of_high hhigh, if_neg (by rcases hoff with h | h <;> simp [h])] <;> rfl

/-! ### Reference clocks -/

theorem coreClockLost_of_running {s : State} (hstep : s.boot.step ≠ 0) (htrip : s.boot.tripped = false) :
    coreClockLost s = afterReset (modBoot (fun b => { b with clockLoss := true, clockHold := true, coreClockOk := false }) s) := by
  simp [coreClockLost, hstep, htrip]

theorem trainFromStart_of_barred {l : Nat} {s : State} (hl : l < s.links.length) (hmay : mayTrain s l = false) :
    (getLink (trainFromStart l s) l).stat.state = if isEnabled s l then 0 else 5 := by
  rw [trainFromStart, hmay, if_neg (by decide), getLink_modLink_self _ _ _ hl]

theorem trainFromStart_of_may {l : Nat} {s : State} (hl : l < s.links.length) (hmay : mayTrain s l = true) :
    (getLink (trainFromStart l s) l).stat.state = 1 ∧ (getLink (trainFromStart l s) l).train.gen = 1 := by
  have hl' : l < (modTrain l (fun t => { t with failedGens := [], fellBack := false, failedVl1 := false }) s).links.length := by
    simpa [modTrain, modLink] using hl
  rw [trainFromStart, if_pos hmay, startTraining, getLink_modLink_self _ _ _ hl']
  exact ⟨rfl, rfl⟩

theorem mayTrain_of_unclocked {l : Nat} {s : State} (h : s.boot.srdClockOk.getD (l / 64) true = false) : mayTrain s l = false := by
  simp [mayTrain, h, -List.getD_eq_getElem?_getD]

theorem isLink_of_ports {s t : State} (h : t.ports = s.ports) : isLink t = isLink s := by
  funext l
  unfold isLink
  rw [getPort_of_ports h]

theorem dieLinks_of_ports {s t : State} (h : t.ports = s.ports) (k : Nat) : dieLinks t k = dieLinks s k := by
  simp only [dieLinks, allLinks, isLink_of_ports h]

section
variable {s : State} {k : Nat}

theorem srdClockLost_of_clocked (hstep : s.boot.step ≠ 0) (htrip : s.boot.tripped = false) (hk : k < 8)
    (hok : s.boot.srdClockOk.getD k true = true) :
    let u := { s with boot := { s.boot with srdClockOk := s.boot.srdClockOk.set k false, clockLoss := true } }
    srdClockLost k s = forAll (dieLinks s k) (fun l v => trainFromStart l (takeDown l v)) (setCause 3 u) := by
  rw [srdClockLost, if_neg (by simp [hstep, htrip, hok, Nat.not_le.mpr hk, -List.getD_eq_getElem?_getD])]
  dsimp only
  rw [dieLinks_of_ports (s := s) rfl] <;> rfl

theorem srdClockBack_of_lost (htrip : s.boot.tripped = false) (hk : k < 8) (hlost : s.boot.srdClockOk.getD k true = false) :
    let u := { s with boot := { s.boot with srdClockOk := s.boot.srdClockOk.set k true } }
    srdClockBack k s = forAll (dieLinks s k) trainFromStart u := by
  rw [srdClockBack, if_neg (by simp [htrip, hlost, Nat.not_le.mpr hk, -List.getD_eq_getElem?_getD])]
  dsimp only
  rw [dieLinks_of_ports (s := s) rfl] <;> rfl

end

/-- Settles O11, by what the loss and the return of each clock do, and how a link trains with and without its clock. -/
theorem lostClocksTakeTheirParts : Obligations.LostClocksTakeTheirParts := by
  unfold Obligations.LostClocksTakeTheirParts
  intro s htrip
  refine ⟨fun hstep => ⟨_, exec_next rfl (coreClockLost_of_running hstep htrip), rfl, rfl, rfl, rfl, rfl, rfl, rfl, rfl⟩,
    fun k hk hstep hok => ⟨exec_next rfl (srdClockLost_of_clocked hstep htrip hk hok), fun l v hl hclock => ?_⟩,
    fun k hk hlost => ⟨exec_next rfl (srdClockBack_of_lost htrip hk hlost), fun l v hl hmay => trainFromStart_of_may hl hmay⟩⟩
  exact trainFromStart_of_barred hl (mayTrain_of_unclocked hclock)

/-! ### The steps of start-up -/

theorem atStep_of {n : Nat} {s : State} (hstep : s.boot.step = n) (hstop : s.boot.stopped = false) (hpawn : s.pawn.cause = 0)
    (htrip : s.boot.tripped = false) : atStep n s = true := by simp [atStep, hstep, hstop, hpawn, htrip]

section
variable {s : State}

theorem flashVerify_of_config (h : atStep 4 s = true) {u : State}
    (hload : loadConfig (modIdent (fun i => { i with ownerKey := ownerKeyOf s.flash, patchFloor := Config.romPatchFloor }) s) = some u) :
    let v := startHosts (loadPatch u)
    flashVerify s = if v.power.avsDead then startFail 6 0 (modBoot (fun b => { b with step := 5 }) v)
      else modBoot (fun b => { b with step := 6 }) v := by
  simp [flashVerify, h, hload]

theorem flashVerify_of_no_config (h : atStep 4 s = true)
    (hload : loadConfig (modIdent (fun i => { i with ownerKey := ownerKeyOf s.flash, patchFloor := Config.romPatchFloor }) s) = none) :
    flashVerify s =
      startFail 2 0 (loadPatch (modIdent (fun i => { i with ownerKey := ownerKeyOf s.flash, patchFloor := Config.romPatchFloor }) s)) := by
  simp [flashVerify, h, hload]

theorem selfTest_at (h : atStep 6 s = true) :
    selfTest none s = modBoot (fun b => { b with step := 7 }) s ∧ ∀ n, selfTest (some n) s = startFail 3 n s := by
  simp [selfTest, h]

theorem memTrain_at (h : atStep 7 s = true) :
    memTrain none s = modBoot (fun b => { b with step := 8 }) s ∧ ∀ f, memTrain (some f) s = memFail f s := by
  simp [memTrain, h]

theorem memClear_at (h : atStep 8 s = true) :
    memClear none s = beginLinks (modBoot (fun b => { b with step := 9, memCleared := true }) s) ∧
      ∀ f, memClear (some f) s = memFail f s := by
  simp [memClear, h]

theorem enterService_at (h : atStep 9 s = true) :
    let u := if linksSettled s then s else advanceTo (s.boot.tMailbox + 5000000000) s
    enterService s = elect (modBoot (fun b => { b with
      step := 10, tService := now u
      linksUp := ((enabledLinks u).filter (linkUp u)).length
      linksFailed := ((enabledLinks u).filter fun l => (getLink u l).train.failedVl1).length }) u) := by
  simp [enterService, h]

/-- The identity once the PUF has given its value, and once it has failed to (R578, R579). -/
def keyedIdent (puf : Nat) (i : Ident) : Ident :=
  { i with
    pufZero := true, kPuf := puf, key := deviceKey puf
    keyId := match deviceKey puf with
      | some (_, x, y) => keyId (beBytes 32 x ++ beBytes 32 y)
      | none => i.keyId }

theorem pllLock_at (modes : List Nat) (puf : Nat) (good : Bool) (hstep : s.boot.step = 1) (htrip : s.boot.tripped = false)
    (htest : s.pins.straps.test = false) (hclock : s.boot.coreClockOk = true) :
    pllLock modes puf good s = { s with
      boot := { s.boot with step := 4 }
      time := { s.time with running := true, t64 := 0, rateAcc := 0 }
      wd := { s.wd with armed := true, ticks := 0 }
      power := { s.power with
        avsOn := true, regs := regsOf s.pins.straps modes
        avsDead := s.pins.straps.vrBase = 7 || !((List.range (s.pins.straps.vrCount + 1)).all fun i => voutOk (modes.getD i 256)) }
      ident := if good then keyedIdent puf s.ident else { s.ident with pufZero := true, noKey := true } } := by
  rw [pllLock, if_neg (by simp [hstep, htrip, htest, hclock])]
  cases good <;> simp only [modTime, modWd, modPower, modIdent, modBoot, keyedIdent] <;> generalize deviceKey puf = key <;> rfl

end

/-- Settles O12, by what each step of start-up does when it is the running one. -/
theorem startupRunsItsSteps : Obligations.StartupRunsItsSteps := by
  unfold Obligations.StartupRunsItsSteps
  intro s htrip hstop hpawn
  refine ⟨fun hstep htest hclock modes puf good => ?_, fun hstep u hload halive => ?_, fun hstep => ?_, fun hstep => ?_,
    fun hstep => ?_, fun hstep => exec_next rfl (enterService_at (atStep_of hstep hstop hpawn htrip))⟩
  · refine ⟨_, exec_next rfl (pllLock_at modes puf good hstep htrip htest hclock), rfl, rfl, rfl, rfl, rfl, ?_, ?_, ?_, rfl⟩
    · simp
    · rintro rfl
      simp [keyedIdent]
    · rintro rfl
      simp
  · refine exec_next rfl ((flashVerify_of_config (atStep_of hstep hstop hpawn htrip) hload).trans (if_neg ?_))
    simp [halive]
  · exact exec_next rfl (selfTest_at (atStep_of hstep hstop hpawn htrip)).1
  · exact exec_next rfl (memTrain_at (atStep_of hstep hstop hpawn htrip)).1
  · exact exec_next rfl (memClear_at (atStep_of hstep hstop hpawn htrip)).1

/-- Settles O13, by what each step of start-up does when it fails. -/
theorem startupStopsOnFailure : Obligations.StartupStopsOnFailure := by
  unfold Obligations.StartupStopsOnFailure
  intro s htrip hstop hpawn
  have running {n : Nat} (hstep : s.boot.step = n) : atStep n s = true := atStep_of hstep hstop hpawn htrip
  refine ⟨fun hstep hload => exec_next rfl (flashVerify_of_no_config (running hstep) hload), fun hstep v hload hdead => ?_,
    fun hstep n => exec_next rfl ((selfTest_at (running hstep)).2 n), fun hstep n => ⟨?_, ?_⟩, fun hstep n => ⟨?_, ?_⟩⟩
  · exact exec_next rfl ((flashVerify_of_config (running hstep) hload).trans (if_pos hdead))
  · exact exec_next rfl ((memTrain_at (running hstep)).2 (.hbm n))
  · exact exec_next rfl ((memTrain_at (running hstep)).2 (.lpddr n))
  · exact exec_next rfl ((memClear_at (running hstep)).2 (.hbm n))
  · exact exec_next rfl ((memClear_at (running hstep)).2 (.lpddr n))

end Sys2Proof.Proofs
end

section
/-! SUPPORT. Heat, the AVS controller, the watchdog, Pawn mode and the test access port (R504, R556 to R564, R602 to R605,
R618 to R620, R641, R642); statements O14, O16, O17, O18 and O20. -/

namespace Sys2Proof.Proofs
open Sys2Proof Sys2Proof.Machine Sys2Proof.Safety Sys2Proof.Laws

/-! ### Heat -/

theorem live_of_step {s : State} (hstep : 2 ≤ s.boot.step) (htrip : s.boot.tripped = false) : live s = true := by
  simp [live, hstep, htrip]

section
variable {s : State} {tj hbm : Int}

theorem throttleOn_of_live (hlive : live s = true) :
    throttleOn tj hbm s = if tj < 100 ∧ hbm < 95 then readTemps tj hbm s else
      setCause 0 (modPower (fun p => { p with throttled := true, throttledAt := if p.throttled then p.throttledAt else now s })
        (readTemps tj hbm s)) := by
  simp only [throttleOn, hlive, Bool.and_eq_true, decide_eq_true_eq] <;> rfl

theorem throttleOff_of_live (hlive : live s = true) :
    throttleOff tj hbm s = if tj < 95 ∧ hbm < 90 ∧ s.power.throttled = true then
        modPower (fun p => { p with throttled := false }) (advanceTo (s.power.throttledAt + 1000000000) (readTemps tj hbm s))
      else readTemps tj hbm s := by
  simp only [throttleOff, hlive, Bool.and_eq_true, decide_eq_true_eq, and_assoc] <;> rfl

theorem thermalPawn_of_live (hlive : live s = true) :
    thermalPawn tj s = if tj < 110 then modPower (fun p => { p with tjMax := tj }) s
      else enterPawn 2 (modPower (fun p => { p with tjMax := tj }) s) := by
  simp [thermalPawn, hlive]

theorem thermalTrip_of_hot (hgood : s.pins.pwrGood = true) (htrip : s.boot.tripped = false) (hhot : 125 ≤ tj) :
    thermalTrip tj s = modPower (fun x => { x with
        vcoreMv := s.power.vcoreMv, vcoreMinMv := s.power.vcoreMinMv, vcoreMaxMv := s.power.vcoreMaxMv, coreW := s.power.coreW })
      (afterReset (modPins (fun x => { x with thermtrip := true }) (modBoot (fun b => { b with tripped := true }) s))) := by
  simp [thermalTrip, hgood, htrip, Int.not_lt.mpr hhot]

end

/-- Settles O14, by each reading's two sides of its threshold. -/
theorem heatFollowsItsThresholds : Obligations.HeatFollowsItsThresholds := by
  unfold Obligations.HeatFollowsItsThresholds
  intro s tj hbm hstep htrip
  have hlive := live_of_step hstep htrip
  refine ⟨fun hhot => exec_next rfl ?_, fun htj hh => exec_next rfl ?_, fun htj hh hthr => exec_next rfl ?_,
    fun hcold => exec_next rfl ?_, fun hhot => exec_next rfl ?_, fun hcold => exec_next rfl ?_,
    fun hhot hgood => ⟨_, exec_next rfl (thermalTrip_of_hot hgood htrip hhot), rfl, rfl, rfl, rfl, rfl, rfl, rfl, rfl, rfl, rfl, rfl⟩⟩
  · exact (throttleOn_of_live hlive).trans (if_neg (by omega))
  · exact (throttleOn_of_live hlive).trans (if_pos ⟨htj, hh⟩)
  · exact (throttleOff_of_live hlive).trans (if_pos ⟨htj, hh, hthr⟩)
  · refine (throttleOff_of_live hlive).trans (if_neg fun ⟨h1, h2, h3⟩ => ?_)
    rcases hcold with h | h | h
    · omega
    · omega
    · exact absurd h3 (by simp [show s.power.throttled = false from h])
  · exact (thermalPawn_of_live hlive).trans (if_neg (by omega))
  · exact (thermalPawn_of_live hlive).trans (if_pos hcold)

/-! ### The AVS controller -/

section
variable {s : State} {d : Int} {nacks : List Nat}

theorem sendStep_of_nothing
    (h : s.power.avsDead = true ∨ stepTo s.power.vcoreMv d = s.power.vcoreMv ∨ (s.power.avsFault = true ∧ d < 0)) :
    sendStep d nacks s = s := by
  rw [sendStep, if_pos]
  simpa [or_assoc] using h

/-- The power controller after a step to a voltage has been sent (R602 to R605). -/
def stepped (d : Int) (nacks : List Nat) (p : Power) : Power :=
  let regs := p.regs.map (ackReg nacks)
  { p with
    vcoreMv := stepTo p.vcoreMv d, vcoreMinMv := min p.vcoreMinMv (stepTo p.vcoreMv d)
    vcoreMaxMv := max p.vcoreMaxMv (stepTo p.vcoreMv d), regs := regs, inFlight := true
    avsFault := p.avsFault || regs.any fun r => 3 ≤ r.nacks
    pmbusErrors := p.pmbusErrors + (regs.filter fun r => nacks.contains r.addr).length
    stepsUp := p.stepsUp + b2n (0 < d), stepsDown := p.stepsDown + b2n (d < 0) }

theorem sendStep_of_step (hdead : s.power.avsDead = false) (hne : stepTo s.power.vcoreMv d ≠ s.power.vcoreMv)
    (hok : s.power.avsFault = false ∨ 0 < d) :
    sendStep d nacks s = whenDo (0 < d) (hazardCount 4) (whenDo ((s.power.regs.map (ackReg nacks)).any fun r => 3 ≤ r.nacks) (setCause 4)
      { s with
        out := s.out ++ s.power.regs.map fun r => .pmbus (voutBytes (stepTo s.power.vcoreMv d) r)
        power := stepped d nacks s.power }) := by
  rw [sendStep, if_neg]
  · rfl
  · rcases hok with h | h
    · simp [hdead, hne, h]
    · simp [hdead, hne, Int.le_of_lt h]

/-- Counting a hazard and setting a cause change the hazards and the alerts alone. -/
theorem whenDo_hazardCount (b c : Bool) (i j : Nat) (u : State) :
    ∃ h a, whenDo b (hazardCount i) (whenDo c (setCause j) u) = { u with hazard := h, alert := a } := by
  cases b <;> cases c <;> exact ⟨_, _, rfl⟩

theorem avsPoll_of_answers (vout iout : List Nat) (hlive : live s = true) (hon : s.power.avsOn = true)
    (hdead : s.power.avsDead = false) (hans : ∀ r ∈ s.power.regs, r.addr ∉ nacks) :
    avsPoll vout iout nacks s = modPower (fun p => { p with coreW := coreWatts p.regs vout iout }) s := by
  have hany : (s.power.regs.any fun r => nacks.contains r.addr) = false := by simpa using hans
  simp only [avsPoll, hlive, hon, hdead, hany] <;> rfl

end

/-- Settles O16, by the step that is sent and the steps that are not. -/
theorem voltageStepsStayWithinTheirLimits : Obligations.VoltageStepsStayWithinTheirLimits := by
  unfold Obligations.VoltageStepsStayWithinTheirLimits
  intro s d nacks
  refine ⟨(stepTo_range _ d).1, (stepTo_range _ d).2, sendStep_of_nothing, fun hdead hne hok => ?_,
    fun vout iout hlive hon hdead hans => exec_next rfl (avsPoll_of_answers vout iout hlive hon hdead hans)⟩
  obtain ⟨h, a, e⟩ := whenDo_hazardCount (0 < d) ((s.power.regs.map (ackReg nacks)).any fun r => 3 ≤ r.nacks) 4 4 { s with
    out := s.out ++ s.power.regs.map fun r => .pmbus (voutBytes (stepTo s.power.vcoreMv d) r)
    power := stepped d nacks s.power }
  rw [sendStep_of_step hdead hne hok, e]
  exact ⟨rfl, rfl, rfl, rfl, rfl, rfl, rfl, rfl⟩

/-! ### The watchdog -/

section
variable {s : State}

theorem wdRestart_of_armed (hlive : live s = true) (harmed : s.wd.armed = true) (hstop : s.wd.cpStopped = false)
    (hrestart : s.wd.stopRestart = false) (hcause : s.pawn.cause ≠ 1) :
    wdRestart s = modWd (fun w => { w with maxGapUs := max w.maxGapUs (min wdLimit w.ticks / 1000), ticks := 0 }) s := by
  simp [wdRestart, hlive, harmed, hstop, hrestart, hcause]

theorem wdExpire_of_armed (hlive : live s = true) (harmed : s.wd.armed = true) (hcause : s.pawn.cause ≠ 1) :
    wdExpire s = enterPawn 1 (advance (wdLimit - s.wd.ticks) s) := by
  simp [wdExpire, hlive, harmed, hcause]

theorem cpRuns_of (hlive : live s = true) (hcause : s.pawn.cause = 0) (hstop : s.wd.cpStopped = false) : cpRuns s = true := by
  simp [cpRuns, hlive, hcause, hstop]

theorem stallCheck_of_stalled {hs : List HelperView} (hruns : cpRuns s = true) (hstalled : hs.any stalledHelper = true) :
    stallCheck hs s = modWd (fun w => { w with stopRestart := true }) s := by
  simp only [stallCheck, hruns, hstalled] <;> rfl

end

/-- Settles O17, by what the watchdog's restart and limit and the check of the helpers do. -/
theorem watchdogGuardsTheCommandProcessor : Obligations.WatchdogGuardsTheCommandProcessor := by
  unfold Obligations.WatchdogGuardsTheCommandProcessor
  intro s hlive
  refine ⟨fun harmed hstop hrestart hcause => exec_next rfl (wdRestart_of_armed hlive harmed hstop hrestart hcause),
    fun harmed hcause => exec_next rfl (wdExpire_of_armed hlive harmed hcause), fun hs h hcause hstop hmem hwork hsilent hwait => ?_⟩
  refine exec_next rfl (stallCheck_of_stalled (cpRuns_of hlive hcause hstop) (List.any_eq_true.mpr ⟨h, hmem, ?_⟩))
  simp [stalledHelper, hwork, hsilent, hwait]

/-! ### JTAG -/

section
variable {s : State} {st : Straps}

theorem loadIr_of_other {op : Nat} (htrip : s.boot.tripped = false) (hother : s.pins.jtagHold = true → op ≠ s.pins.jtagIr) :
    loadIr op st s =
      let u := { s with pins := { s.pins with jtagIr := op } }
      if s.pins.jtagHold then startUp st u else u := by
  rw [loadIr, if_neg]
  · rfl
  · simpa [htrip] using hother

theorem boundaryIr_of_no_hold (op : Nat) (hhold : s.pins.jtagHold = false) :
    boundaryIr op st s = loadIr (if s.pins.resetHigh then 0xFF else op) st s := by
  simp [boundaryIr, hhold]

theorem boundaryIr_of_same (op : Nat) (hhold : s.pins.jtagHold = true) (hop : op = s.pins.jtagIr) : boundaryIr op st s = s := by
  simp [boundaryIr, hhold, hop]

theorem boundaryIr_of_other {op : Nat} (hop : op ≠ s.pins.jtagIr) :
    boundaryIr op st s = loadIr (if s.pins.resetHigh then 0xFF else op) st s := by
  simp [boundaryIr, hop]

theorem not_boundary_of_ne {op ir : Nat} (hir : isBoundary ir = true) (hop : isBoundary op = false) : op ≠ ir := by
  rintro rfl
  simp [hir] at hop

end

/-- Settles O20, by what loading an instruction does, and which one each command loads. -/
theorem jtagInstructionsSelectAndHold : Obligations.JtagInstructionsSelectAndHold := by
  unfold Obligations.JtagInstructionsSelectAndHold
  intro s st htrip
  have load {op : Nat} (h : s.pins.jtagHold = true → op ≠ s.pins.jtagIr) := loadIr_of_other (st := st) htrip h
  refine ⟨fun hhold => ?_, fun hhold hhigh hir => ?_, fun hhold => ?_⟩
  · have free {op : Nat} : s.pins.jtagHold = true → op ≠ s.pins.jtagIr := by simp [hhold]
    have bound (op : Nat) := (boundaryIr_of_no_hold (st := st) op hhold).trans (load free)
    exact ⟨exec_next rfl (bound 0), exec_next rfl (bound 4), exec_next rfl (bound 5), exec_next rfl (bound 2), exec_next rfl (bound 3)⟩
  · have other {op : Nat} (hop : isBoundary op = false) := load fun _ => not_boundary_of_ne hir hop
    refine ⟨exec_next rfl (other (by decide)), exec_next rfl (other (by decide)), exec_next rfl (other (by decide)),
      fun hzero => exec_next rfl (boundaryIr_of_same _ hhold hzero.symm), fun hne => exec_next rfl ?_⟩
    rw [boundaryIr_of_other (Ne.symm hne), if_pos hhigh]
    exact other (by decide)
  · have free {op : Nat} : s.pins.jtagHold = true → op ≠ s.pins.jtagIr := by simp [hhold]
    refine ⟨exec_next rfl (load free), exec_next rfl (load free), fun op h1 h2 => exec_next rfl ?_, fun op h => exec_next rfl ?_,
      fun op hopen h1 h2 => exec_next rfl ?_, fun op hshut => exec_next rfl ?_⟩
    · rw [if_pos (by simp [h1, h2])]
      exact load free
    · rw [if_neg (by simp; omega)]
      exact load free
    · rw [if_pos (by simp [hopen, h1, h2])]
      exact load free
    · rw [if_neg (by simp [hshut])]
      exact load free

end Sys2Proof.Proofs
end

section
/-! SUPPORT. What leaving Pawn mode does, rounds in Pawn mode, and the minimal responder (R506, R556 to R564); statement O18. -/

namespace Sys2Proof.Proofs
open Sys2Proof Sys2Proof.Machine Sys2Proof.Safety Sys2Proof.Laws

/-! ### Host ports -/

theorem getHost_modHost (p q : Nat) (f : HostPort → HostPort) (s : State) :
    getHost (modHost p f s) q = if p = q ∧ q < s.host.length then f (getHost s q) else getHost s q := modAt_getD _ _ _ _ _

/-- Counting on a port leaves which ports are up. -/
theorem hostUp_modHost {p : Nat} {f : HostPort → HostPort} (hf : ∀ h, (f h).state = h.state) (q : Nat) (s : State) :
    hostUp (modHost p f s) q = hostUp s q := by
  unfold hostUp
  rw [getHost_modHost]
  split
  · rw [hf]
  · rfl

@[simp] theorem hostUp_frameIn (p q : Nat) (s : State) : hostUp (frameIn p s) q = hostUp s q :=
  hostUp_modHost (f := fun h => { h with framesRx := h.framesRx + 1 }) (fun _ => rfl) q s

theorem hasIp_modHost {p : Nat} {f : HostPort → HostPort} (hf : ∀ h, (f h).cfg = h.cfg) (q : Nat) (s : State) :
    hasIp (modHost p f s) q = hasIp s q := by
  unfold hasIp
  rw [getHost_modHost]
  split
  · rw [hf]
  · rfl

@[simp] theorem hasIp_frameIn (p q : Nat) (s : State) : hasIp (frameIn p s) q = hasIp s q :=
  hasIp_modHost (f := fun h => { h with framesRx := h.framesRx + 1 }) (fun _ => rfl) q s

theorem lt_of_hostUp {s : State} {p : Nat} (h : hostUp s p = true) : p < 8 := by
  simp only [hostUp, Bool.and_eq_true, decide_eq_true_eq] at h
  exact h.1

theorem sendOn_of_up {s : State} {p : Nat} (e : Emission) (h : hostUp s p = true) :
    sendOn p e s = emit e (modHost p (fun h => { h with framesTx := h.framesTx + 1 }) s) := by rw [sendOn, if_pos h]

theorem sendOn_of_down {s : State} {p : Nat} (e : Emission) (h : hostUp s p = false) : sendOn p e s = s := by simp [sendOn, h]

/-! ### The end of Pawn mode -/

section
variable {s : State}

theorem pawnExit_of_absent {tj : Int} {rates : List Nat} (hlive : live s = true) (habsent : pawnAbsent s.pawn.cause tj rates = true) :
    pawnExit tj rates s = pawnLeave (advanceTo (s.pawn.tEnter + 1000000000) s) := by
  simp [pawnExit, hlive, habsent]

theorem stepAgain_of_other (h : s.boot.step ≠ 9 ∨ s.boot.stopped = true) : stepAgain s = s := by
  rw [stepAgain, if_neg]
  rcases h with h | h <;> simp [h]

theorem stepAgain_of_training (hstep : s.boot.step = 9) (hstop : s.boot.stopped = false) :
    stepAgain s = beginLinks (forAll (allLinks s) takeDown s) := by
  simp [stepAgain, hstep, hstop]

theorem pawnRoundEnds_of_open {t r : Nat} {tb : Table} {x : Round} (hlive : live s = true) (hcause : s.pawn.cause ≠ 0)
    (hround : findRound s t r = some (tb, x)) (hdone : x.done = false) :
    pawnRoundEnds t r s = drain (failRound t r stAborted tb.member true 0 none (advanceTo (s.pawn.tEnter + absenceNs tb) s)) := by
  simp [pawnRoundEnds, hlive, hcause, hround, hdone]

/-! ### The minimal responder -/

theorem pawnRequest_of_request {src : Source} {d : List Byte} (hlive : live s = true) (hcause : s.pawn.cause ≠ 0)
    (hup : hostUp s src.port = true) (hip : hasIp s src.port = true) (hbulk : mboxOk 3 d = false) (hreq : mboxOk 0 d = true) :
    pawnRequest src d s = sendOn src.port (.datagram src 47710 (responseBytes (mboxHdrOf d).mailbox
      { src := src, session := (mboxHdrOf d).session, seq := (mboxHdrOf d).seq, msg := d.drop 16 } (pawnAnswer (d.drop 16) s)))
      (frameIn src.port s) := by
  simp only [pawnRequest, hlive, hcause, hup, hasIp_frameIn, hip, hbulk, hreq] <;> rfl

end

/-- Settles O18, by the end of Pawn mode, what leaving it does with and without step 9, and the responder's answer. -/
theorem pawnModeEndsAndAnswers : Obligations.PawnModeEndsAndAnswers := by
  unfold Obligations.PawnModeEndsAndAnswers
  intro s hlive
  refine ⟨fun tj rates habsent => exec_next rfl (pawnExit_of_absent hlive habsent),
    fun w => ⟨fun hother => stepAgain_of_other hother, fun hstep hstop => ?_⟩,
    fun t r tb x hcause hround hdone => exec_next rfl (pawnRoundEnds_of_open hlive hcause hround hdone),
    fun src d hcause hup hip hbulk hreq hlen => ?_⟩
  · unfold pawnLeave modPawn modPower
    dsimp only
    rw [stepAgain_of_training hstep hstop, beginLinks, modBoot]
  have hp : src.port < s.host.length := hlen ▸ lt_of_hostUp hup
  refine ⟨_, exec_next rfl ((pawnRequest_of_request hlive hcause hup hip hbulk hreq).trans
    (sendOn_of_up _ ((hostUp_frameIn _ _ _).trans hup))), rfl, rfl, ?_, ?_, rfl⟩
  · exact (congrArg HostPort.framesRx (getHost_modHost_self _ _ _ (by simpa [frameIn, modHost] using hp))).trans
      (congrArg HostPort.framesRx (getHost_modHost_self s src.port _ hp))
  · exact (congrArg HostPort.framesTx (getHost_modHost_self _ _ _ (by simpa [frameIn, modHost] using hp))).trans
      (congrArg (fun h => h.framesTx + 1) (getHost_modHost_self s src.port _ hp))

end Sys2Proof.Proofs
end

section
/-! SUPPORT. Requests and bulk data that arrive in a mailbox (R460 to R464, R487, R489), requests that begin and their
answers (R462, R464, R480, R486), and BULK_FETCH (R490); statements O21, O22 and O23. -/

namespace Sys2Proof.Proofs
open Sys2Proof Sys2Proof.Machine Sys2Proof.Safety Sys2Proof.Laws

/-! ### Datagrams that arrive -/

section
variable {src : Source} {d : List Byte} {s : State}

theorem cause_of_cpRuns (h : cpRuns s = true) : s.pawn.cause = 0 := by
  simp only [cpRuns, Bool.and_eq_true, decide_eq_true_eq] at h
  exact h.1.2

theorem live_of_cpRuns (h : cpRuns s = true) : live s = true := by
  simp only [cpRuns, Bool.and_eq_true] at h
  exact h.1.1

theorem mailboxIn_of_open (hruns : cpRuns s = true) (hopen : s.boot.transport = true) (hup : hostUp s src.port = true)
    (hip : hasIp s src.port = true) :
    mailboxIn src d s =
      if mboxOk 0 d then requestIn src (mboxHdrOf d) (d.drop 16) (frameIn src.port s)
      else if mboxOk 3 d then segmentIn (mboxHdrOf d).mailbox (mboxHdrOf d).session (d.drop 16) (frameIn src.port s)
      else dropFrame src.port (frameIn src.port s) := by
  simp [mailboxIn, cause_of_cpRuns hruns, hruns, hopen, hup, hip]

/-- A request of a session and number waits or executes in a mailbox already. -/
def Waits (b : Mailbox) (h : MboxHdr) : Prop :=
  (∃ x ∈ b.ring, x.session = h.session ∧ x.seq = h.seq) ∨ (∃ x, b.exec = some x ∧ x.session = h.session ∧ x.seq = h.seq)

/-- R461, R463: the cases of a request that arrives, by what its mailbox holds. -/
theorem requestIn_of_waiting {h : MboxHdr} {msg : List Byte} (hwait : Waits (getMbox s h.mailbox) h) :
    requestIn src h msg s = countDup s := by
  rw [requestIn, if_pos]
  rcases hwait with ⟨x, hx, e⟩ | ⟨x, hx, e⟩
  · exact Bool.or_eq_true_iff.mpr (.inl (List.any_eq_true.mpr ⟨x, hx, by simp [e]⟩))
  · exact Bool.or_eq_true_iff.mpr (.inr (by simp [hx, e]))

theorem requestIn_of_new {h : MboxHdr} {msg : List Byte} (hnew : ¬ Waits (getMbox s h.mailbox) h) :
    requestIn src h msg s = match (getMbox s h.mailbox).stored.find? fun x => x.session = h.session && x.seq = h.seq with
      | some x => sendOn src.port (.datagram src 47710 x.bytes) (countDup s)
      | none =>
        if 256 ≤ (getMbox s h.mailbox).ring.length then
          sendOn src.port (.datagram src 47710 (mboxHdr 2 h.mailbox h.session h.seq 0))
            (modHost src.port (fun p => { p with ringFull := p.ringFull + 1 }) s)
        else modMbox h.mailbox (fun b => { b with
          ring := b.ring ++ [{ src := src, session := h.session, seq := h.seq, msg := msg }] }) s := by
  unfold requestIn
  dsimp only
  refine (if_neg ?_).trans ?_
  · intro hany
    rcases Bool.or_eq_true_iff.mp hany with hring | hexec
    · obtain ⟨x, hx, e⟩ := List.any_eq_true.mp hring
      exact hnew (.inl ⟨x, hx, by simpa using e⟩)
    · obtain ⟨x, hx, e⟩ := Option.any_eq_true _ _ |>.mp hexec
      exact hnew (.inr ⟨x, hx, by simpa using e⟩)
  · rfl

end

/-- Settles O21, by the cases of a request that arrives. -/
theorem mailboxKeepsRequestsOnce : Obligations.MailboxKeepsRequestsOnce := by
  unfold Obligations.MailboxKeepsRequestsOnce
  intro src d s hruns hopen hup hip hreq _
  have arrives : mailboxIn src d s = requestIn src (mboxHdrOf d) (d.drop 16) (frameIn src.port s) :=
    (mailboxIn_of_open hruns hopen hup hip).trans (if_pos hreq)
  refine ⟨fun hwait => exec_next rfl (arrives.trans (requestIn_of_waiting hwait)), fun hring hexec => ?_⟩
  have hnew : ¬ Waits (getMbox s (mboxHdrOf d).mailbox) (mboxHdrOf d) := by
    rintro (⟨x, hx, e⟩ | ⟨x, hx, e⟩)
    · exact hring x hx e
    · exact hexec x hx e
  have new := arrives.trans (requestIn_of_new hnew)
  refine ⟨fun x hx => exec_next rfl (new.trans ?_), fun hnone => ⟨fun hroom => exec_next rfl (new.trans ?_),
    fun hfull => exec_next rfl (new.trans ?_)⟩⟩
  · rw [show (getMbox (frameIn src.port s) _).stored.find? _ = some x from hx] <;> rfl
  · rw [show (getMbox (frameIn src.port s) _).stored.find? _ = none from hnone]
    exact if_neg (Nat.not_le.mpr hroom)
  · rw [show (getMbox (frameIn src.port s) _).stored.find? _ = none from hnone]
    exact if_pos hfull

/-! ### Bulk segments -/

section
variable {m session : Nat} {body : List Byte} {s : State}

/-- What keeps a BULK segment out (R487, R489). -/
def SegmentBad (m session : Nat) (body : List Byte) (s : State) : Prop :=
  body.length < 16 ∨ (∀ x, (getMbox s m).session = some x → x.id ≠ session) ∨
    (∃ r, (getMbox s m).exec = some r ∧ namesBulk r.msg = true) ∨ leAt body 4 4 = 0 ∨ leAt body 0 4 = 0 ∨
    16777216 < leAt body 0 4 ∨ leAt body 8 4 ≠ 0 ∨ leAt body 0 4 ≤ leAt body 12 4 ∨
    leAt body 0 4 < leAt body 12 4 + (body.drop 16).length ∨
    (∃ x, (getMbox s m).inb = some x ∧ x.id = leAt body 4 4 ∧ x.data.length ≠ leAt body 0 4)

theorem segmentBad_iff :
    (body.length < 16 || !((getMbox s m).session.any fun x => x.id = session) || (getMbox s m).exec.any (fun r => namesBulk r.msg) ||
      leAt body 4 4 = 0 || leAt body 0 4 = 0 || 16777216 < leAt body 0 4 || leAt body 8 4 ≠ 0 || leAt body 0 4 ≤ leAt body 12 4 ||
      leAt body 0 4 < leAt body 12 4 + (body.drop 16).length ||
      (getMbox s m).inb.any (fun x => x.id = leAt body 4 4 && x.data.length ≠ leAt body 0 4) : Bool) = true ↔
    SegmentBad m session body s := by
  simp only [SegmentBad, Bool.or_eq_true, decide_eq_true_eq, Bool.not_eq_true', Option.any_eq_true, Option.any_eq_false,
    Bool.and_eq_true, decide_eq_false_iff_not, or_assoc]

theorem segmentIn_of_bad (h : SegmentBad m session body s) : segmentIn m session body s = dropSegment s :=
  if_pos (segmentBad_iff.mpr h)

theorem segmentIn_of_good (h : ¬ SegmentBad m session body s) :
    segmentIn m session body s =
      let old := match (getMbox s m).inb with
        | some x => if x.id = leAt body 4 4 then x.data else List.replicate (leAt body 0 4) none
        | none => List.replicate (leAt body 0 4) none
      modMbox m (fun b => { b with inb := some { id := leAt body 4 4, data := overlay old (leAt body 12 4) (body.drop 16) } }) s :=
  (if_neg (mt segmentBad_iff.mp h)).trans rfl

end

/-! ### BULK_FETCH -/

section
variable {m major : Nat} {r : Request} {s u : State}

theorem bulkFetchRun_of_asked (h : Statement.Asked m bulkFetchSpec anyMsg r major s u) :
    bulkFetchRun m s = match (getMbox u m).outb with
      | none => respond m { status := gValue, detail := 160 } u
      | some o =>
        if o.id ≠ fld (argW r.msg 0) 63 32 then respond m { status := gValue, detail := 160 } u
        else if o.data.length < fld (argW r.msg 1) 63 32 + fld (argW r.msg 1) 31 0 then respond m { status := gValue, detail := 192 } u
        else sendSegments m r.session r.src o (fld (argW r.msg 1) 63 32) (fld (argW r.msg 1) 31 0) (respond m {} u) := by
  have hnames : (fun msg : List Byte => 16 ≤ msg.length && cmdOf msg = bulkFetchSpec.code && anyMsg msg : List Byte → Bool) =
      fun msg => 16 ≤ msg.length && cmdOf msg = 4 := funext fun _ => Bool.and_true _
  have hbegin : beginReq m (fun msg => 16 ≤ msg.length && cmdOf msg = 4) s = some (r, u) := hnames ▸ h.begins
  unfold bulkFetchRun
  rw [hbegin]
  dsimp only
  rw [h.passes] <;> rfl

end

/-- Settles O22, by what keeps a segment out, and the three cases of BULK_FETCH. -/
theorem bulkDataIsTakenAndFetched : Obligations.BulkDataIsTakenAndFetched := by
  unfold Obligations.BulkDataIsTakenAndFetched
  refine ⟨fun src d s hruns hopen hup hip hnot hseg _ => ?_, fun m s u r major hasked => ?_⟩
  · have arrives : mailboxIn src d s = segmentIn (mboxHdrOf d).mailbox (mboxHdrOf d).session (d.drop 16) (frameIn src.port s) :=
      (mailboxIn_of_open hruns hopen hup hip).trans ((if_neg (by simp [hnot])).trans (if_pos hseg))
    refine ⟨fun hlen hsession hexec hid htotal hzero hoff hfit hheld => ?_, fun hbad => ?_⟩
    · refine exec_next rfl (arrives.trans (segmentIn_of_good ?_))
      obtain ⟨x, hx, hxid⟩ := hsession
      rintro (h | h | ⟨q, hq, h⟩ | h | h | h | h | h | h | ⟨y, hy, hyid, h⟩)
      · omega
      · exact h x hx hxid
      · simp [hexec q hq] at h
      · exact hid h
      · omega
      · omega
      · exact h hzero
      · omega
      · simp only [List.length_drop] at h hfit hlen
        omega
      · exact h (hheld y hy hyid)
    · refine exec_next rfl (arrives.trans (segmentIn_of_bad ?_))
      rcases hbad with h | h | h | h | h | h | h
      · exact .inl h
      · exact .inr (.inl fun x hx => absurd (h.symm.trans hx) (by simp))
      · exact .inr (.inr (.inl h))
      · exact .inr (.inr (.inr (.inl h)))
      · exact .inr (.inr (.inr (.inr (.inr (.inl h)))))
      · exact .inr (.inr (.inr (.inr (.inr (.inr (.inl h))))))
      · exact .inr (.inr (.inr (.inr (.inr (.inr (.inr (.inl h)))))))
  · have fetch := bulkFetchRun_of_asked hasked
    refine ⟨fun o ho hid hfit => exec_next rfl (fetch.trans ?_), fun o ho hid hlong => exec_next rfl (fetch.trans ?_),
      fun hnone => exec_next rfl (fetch.trans ?_)⟩
    · simp [ho, hid, Nat.not_lt.mpr hfit]
    · simp [ho, hid, hlong]
    · rcases hnone with h | ⟨o, ho, hid⟩
      · simp [h]
      · simp [ho, hid]

/-! ### Requests that begin, and answers -/

section
variable {m : Nat} {names : List Byte → Bool} {s : State}

theorem beginReq_of_named (hruns : cpRuns s = true) (hm : m < 64) (hexec : (getMbox s m).exec = none) {r : Request}
    {rest : List Request} (hring : (getMbox s m).ring = r :: rest) (hname : names r.msg = true) :
    beginReq m names s = some (r, modMbox m (fun b => { b with
      ring := rest, exec := some r
      session := b.session.map fun x => if x.id = r.session then { x with lastBegin := now s } else x }) s) := by
  simp [beginReq, hruns, Nat.not_le.mpr hm, hexec, hring, hname]

theorem beginReq_eq_none (h : cpRuns s = false ∨ 64 ≤ m ∨ (getMbox s m).exec ≠ none ∨ (getMbox s m).ring = [] ∨
    (∃ r rest, (getMbox s m).ring = r :: rest ∧ names r.msg = false)) : beginReq m names s = none := by
  unfold beginReq
  rcases h with h | h | h | h | ⟨r, rest, hring, hname⟩
  · simp [h]
  · simp [h]
  · simp [Option.isSome_iff_ne_none.mpr h]
  · simp [h]
  · simp [hring, hname]

theorem respond_of_idle {a : Answer} (h : (getMbox s m).exec = none) : respond m a s = s := by simp [respond, h]

theorem respond_of_exec {a : Answer} {r : Request} (h : (getMbox s m).exec = some r) :
    respond m a s = sendOn r.src.port (.datagram r.src 47710 (responseBytes m r a))
      (modGci (fun g => { g with requests := g.requests + 1, errors := g.errors + b2n (a.status ≠ 0) })
        (modMbox m (fun b => { b with
          exec := none
          stored := if isCurrent s m r then ({ session := r.session, seq := r.seq, bytes := responseBytes m r a } :: b.stored).take 256
            else b.stored }) s)) := by
  simp only [respond, h]

end

/-- Settles O23, by when a request begins, what an answer does, and what goes out on a port. -/
theorem requestsBeginOldestFirstAndAreAnswered : Obligations.RequestsBeginOldestFirstAndAreAnswered := by
  unfold Obligations.RequestsBeginOldestFirstAndAreAnswered
  exact ⟨fun m names s => ⟨fun hruns hm hexec r rest hring hname => beginReq_of_named hruns hm hexec hring hname, beginReq_eq_none⟩,
    fun m a s => ⟨respond_of_idle, fun r hr => respond_of_exec hr, fun p e hup => sendOn_of_up e hup,
      fun p e hdown => sendOn_of_down e hdown⟩⟩

end Sys2Proof.Proofs
end

section
/-! SUPPORT. Debug tokens (R594), images that are staged and quotes (R590, R591, R593), and what the flash and the sparse
tables read back (R584); statements O25, O26 and O27. -/

namespace Sys2Proof.Proofs
open Sys2Proof Sys2Proof.Machine Sys2Proof.Safety Sys2Proof.Laws

/-- A command whose body answers by itself, or waits, leaves what its body leaves (R492). -/
theorem runCmd_of_asked_waits {m major : Nat} {sp : CmdSpec} {extra : List Byte → Bool} {r : Request} {s u v : State}
    {body : Request → Nat → State → Reply} (h : Statement.Asked m sp extra r major s u) (hbody : body r major u = waits v) :
    runCmd m sp extra body s = v := by
  simp only [runCmd, h.begins, h.passes, hbody] <;> rfl

/-! ### DEBUG_UNLOCK -/

section
variable {m major : Nat} {r : Request} {s : State}

theorem challengeBody_of_key (h : s.ident.key ≠ none) :
    let c := sm3 (Config.challengeInput s.ident.kPuf (now s) s.ident.challenges)
    challengeBody r major s =
      okWith c (modIdent (fun i => { i with challenge := some (c, now s), challenges := i.challenges + 1 }) s) := by
  rw [challengeBody, if_neg (by simpa using h)]

theorem challengeBody_of_no_key (h : s.ident.key = none) : challengeBody r major s = reject gAuth 0 s := by
  simp [challengeBody, h]

theorem tokenBody_of_good (h : s.ident.key ≠ none) (hok : tokenOk (slice r.msg 24 136) s = true) :
    let tok := slice r.msg 24 136
    tokenBody m r major s = okay (modIdent (fun i => { i with
      challenge := none
      scopes := (List.range 3).map fun k => if (fld (payW tok 0) 55 48).testBit k
        then some (now s + fld (payW tok 0) 31 0 * 1000000000) else i.scopes.getD k none }) s) := by
  rw [tokenBody, if_neg (by simpa using h)]
  dsimp only
  rw [hok] <;> rfl

theorem tokenBody_of_bad (h : s.ident.key ≠ none) (hok : tokenOk (slice r.msg 24 136) s = false) :
    tokenBody m r major s = waits (respond m { status := gAuth } (modIdent (fun i => { i with challenge := none }) s)) := by
  rw [tokenBody, if_neg (by simpa using h)]
  dsimp only
  rw [hok] <;> rfl

theorem tokenBody_of_no_key (h : s.ident.key = none) : tokenBody m r major s = reject gAuth 0 s := by
  simp [tokenBody, h]

theorem relockBody_of_key (h : s.ident.key ≠ none) :
    relockBody r major s = okay (modIdent (fun i => { i with scopes := [none, none, none] }) s) := by
  rw [relockBody, if_neg (by simpa using h)]

theorem relockBody_of_no_key (h : s.ident.key = none) : relockBody r major s = reject gAuth 0 s := by
  simp [relockBody, h]

theorem scopeExpire_of_open {i t : Nat} (hlive : live s = true) (hopen : s.ident.scopes.getD i none = some t) :
    scopeExpire i s = modIdent (fun d => { d with scopes := d.scopes.set i none }) (advanceTo t s) := by
  unfold scopeExpire
  rw [hlive, hopen] <;> rfl

theorem challengeLapse_of_held {c : List Byte} {t : Nat} (hlive : live s = true) (hheld : s.ident.challenge = some (c, t)) :
    challengeLapse s = modIdent (fun d => { d with challenge := none }) (advanceTo (t + 60000000000) s) := by
  simp [challengeLapse, hlive, hheld]

end

/-- Settles O25, by the answer of each phase with and without a device key, and the two limits. -/
theorem debugScopesFollowTheirTokens : Obligations.DebugScopesFollowTheirTokens := by
  unfold Obligations.DebugScopesFollowTheirTokens
  intro m s u r major
  refine ⟨fun hasked => ⟨fun hkey => ?_, fun hkey => ?_⟩, fun hasked => ⟨fun hkey hok => ?_, fun hkey hok => ?_, fun hkey => ?_⟩,
    fun hasked => ⟨fun hkey => ?_, fun hkey => ?_⟩, fun hlive i t hopen => exec_next rfl (scopeExpire_of_open hlive hopen),
    fun hlive c t hheld => exec_next rfl (challengeLapse_of_held hlive hheld)⟩
  · exact exec_next rfl (runCmd_of_asked_okWith hasked (challengeBody_of_key hkey))
  · exact exec_next rfl (runCmd_of_asked_reject hasked (challengeBody_of_no_key hkey) (by decide))
  · exact exec_next rfl (runCmd_of_asked_okWith hasked (tokenBody_of_good hkey hok))
  · exact exec_next rfl (runCmd_of_asked_waits hasked (tokenBody_of_bad hkey hok))
  · exact exec_next rfl (runCmd_of_asked_reject hasked (tokenBody_of_no_key hkey) (by decide))
  · exact exec_next rfl (runCmd_of_asked_okWith hasked (relockBody_of_key hkey))
  · exact exec_next rfl (runCmd_of_asked_reject hasked (relockBody_of_no_key hkey) (by decide))

/-! ### FW_STAGE and ATTEST_QUOTE -/

section
variable {m major : Nat} {r : Request} {s : State} {bs : List Byte}

/-- An image of a kind verifies for staging (R590, R591). -/
def stageGood (config : Bool) (bs : List Byte) (s : State) : Bool :=
  match imageOf bs (if config then 3 else 2) with
  | none => false
  | some i => if config then (configOk s.ident.ownerKey i State.reset).isSome else patchOk s.ident.patchFloor i

theorem fwStageBody_of_error {a : Answer} (hbulk : bulkRef m 24 r.msg s = .error a) : fwStageBody m r major s = (some a, s) := by
  simp only [fwStageBody, hbulk]

theorem fwStageBody_of_reserved {i : Nat} (hbulk : bulkRef m 24 r.msg s = .ok bs) (hresv : firstSet bs (imageResv bs) = some i) :
    fwStageBody m r major s = reject gReserved (2 ^ 63 + i) s := by
  simp only [fwStageBody, hbulk, hresv]

theorem fwStageBody_of_header (hbulk : bulkRef m 24 r.msg s = .ok bs) (hresv : firstSet bs (imageResv bs) = none) :
    let config : Bool := fld (argW r.msg 0) 63 62 = 1
    fwStageBody m r major s =
      if !stageGood config bs s then reject gAuth 0 s
      else okay { s with flash := flashWrite s.flash (slotAt config (stageSlot s config)) bs } := by
  simp only [fwStageBody, hbulk, hresv, stageGood, decide_eq_true_eq] <;> rfl

theorem quoteBody_of_key {d x y : Nat} (hkey : s.ident.key = some (d, x, y)) :
    let q := quoteBytes (slice r.msg 16 32) s
    quoteBody m r major s =
      waits (respondBulk m {} (q ++ sm2Sign d q ++ if bitAt (argW r.msg 4) 0 then ownCert s else []) s) := by
  simp only [quoteBody, hkey]

theorem quoteBody_of_no_key (hkey : s.ident.key = none) : quoteBody m r major s = (some (failedAns 0x61 s), s) := by
  simp only [quoteBody, hkey]

end

/-- Settles O26, by what FW_STAGE makes of a buffer, and ATTEST_QUOTE with and without a device key. -/
theorem imagesAreStagedAndQuotesSigned : Obligations.ImagesAreStagedAndQuotesSigned := by
  unfold Obligations.ImagesAreStagedAndQuotesSigned
  intro m s u r major
  refine ⟨fun hasked bs hbulk => ?_, fun hasked a hbulk ha => ?_, fun hasked d x y hkey => ?_, fun hasked hkey => ?_⟩
  · have header (hresv) := fwStageBody_of_header (major := major) hbulk hresv
    have same : ∀ b : Bool, stageGood (fld (argW r.msg 0) 63 62 = 1) bs u = b ↔
        (match imageOf bs (if fld (argW r.msg 0) 63 62 = 1 then 3 else 2) with
          | none => false
          | some i => if fld (argW r.msg 0) 63 62 = 1 then (configOk u.ident.ownerKey i State.reset).isSome
            else patchOk u.ident.patchFloor i : Bool) = b := fun b => by
      simp only [stageGood, decide_eq_true_eq]
    refine ⟨fun i hresv => ?_, fun hresv hgood => ?_, fun hresv hbad => ?_⟩
    · exact exec_next rfl (runCmd_of_asked_reject hasked (fwStageBody_of_reserved hbulk hresv) (by decide))
    · refine exec_next rfl (runCmd_of_asked_okWith hasked ((header hresv).trans (if_neg ?_)))
      simp only [(same true).mpr hgood]
      decide
    · refine exec_next rfl (runCmd_of_asked_reject hasked ((header hresv).trans (if_pos ?_)) (by decide))
      simp only [(same false).mpr hbad]
      decide
  · exact exec_next rfl ((runCmd_of_asked hasked (fwStageBody_of_error hbulk)).trans (by rw [if_neg ha]))
  · exact exec_next rfl (runCmd_of_asked_waits hasked (quoteBody_of_key hkey))
  · exact exec_next rfl ((runCmd_of_asked hasked (quoteBody_of_no_key hkey)).trans (by rw [ite_self]; rfl))

/-! ### Flash and sparse tables -/

theorem flashGet_of_below (m : List Host.Cell) (a : Nat) (h : ∀ e ∈ m, a < e.1) : flashGet m a = 0xFF := by
  have hnone : m.find? (fun e => e.1 = a) = none := List.find?_eq_none.mpr fun e he => by
    have := h e he
    simp only [decide_eq_true_eq]
    omega
  rw [flashGet, hnone] <;> rfl

/-- The addresses of flash in its canonical form rise from the first on. -/
theorem lt_of_wf (e : Host.Cell) (m : List Host.Cell) (h : Memory.wf (e :: m) = true) : Memory.wf m = true ∧ ∀ f ∈ m, e.1 < f.1 := by
  induction m generalizing e with
  | nil => exact ⟨rfl, fun f hf => absurd hf (by simp)⟩
  | cons g m ih =>
    simp only [Memory.wf, Bool.and_eq_true, decide_eq_true_eq] at h
    obtain ⟨⟨hlt, -⟩, hwf⟩ := h
    refine ⟨hwf, fun f hf => ?_⟩
    rcases List.mem_cons.mp hf with rfl | hf
    · exact hlt
    · exact Nat.lt_trans hlt ((ih g hwf).2 f hf)

theorem flashGet_flashSet_same (m : List Host.Cell) (a : Nat) (b : Byte) (h : Memory.wf m = true) :
    flashGet (flashSet m a b) a = b := by
  induction m with
  | nil =>
    unfold flashSet
    split
    · rename_i hb; rw [hb]; rfl
    · simp [flashGet]
  | cons e m ih =>
    obtain ⟨hwf, hlt⟩ := lt_of_wf e m h
    have gone (hb : b = 0xFF) (k : List Host.Cell) (hk : ∀ f ∈ k, a < f.1) : flashGet k a = b :=
      (flashGet_of_below k a hk).trans hb.symm
    unfold flashSet
    split
    · rename_i hea
      rw [flashGet, List.find?_cons_of_neg (by simp only [decide_eq_true_eq]; omega)]
      exact ih hwf
    · split
      · rename_i _ hea
        split
        · rename_i hb
          exact gone hb m fun f hf => hea ▸ hlt f hf
        · simp [flashGet]
      · rename_i h1 h2
        have hae : a < e.1 := by omega
        split
        · rename_i hb
          exact gone hb (e :: m) fun f hf => (List.mem_cons.mp hf).elim (fun he => he ▸ hae) fun hf => Nat.lt_trans hae (hlt f hf)
        · simp [flashGet]

theorem flashGet_flashWrite (bs : List Byte) (m : List Host.Cell) (a i : Nat) (h : Memory.wf m = true) (hi : i < bs.length) :
    flashGet (flashWrite m a bs) (a + i) = bs.getD i 0 := by
  induction bs generalizing m a i with
  | nil => cases hi
  | cons b bs ih =>
    cases i with
    | zero =>
      rw [flashWrite, flashGet_flashWrite_ne _ _ (.inl (by omega)), Nat.add_zero, flashGet_flashSet_same m a b h] <;> rfl
    | succ i =>
      rw [flashWrite, show a + (i + 1) = a + 1 + i by omega, ih _ _ _ (wf_flashSet m a b h) (Nat.lt_of_succ_lt_succ hi)] <;> rfl

theorem spGet_cons (e : Nat × Nat) (m : List (Nat × Nat)) (i : Nat) : spGet (e :: m) i = if e.1 = i then e.2 else spGet m i := by
  unfold spGet
  by_cases h : e.1 = i
  · rw [if_pos h, List.find?_cons_of_pos (by simpa using h)] <;> rfl
  · rw [if_neg h, List.find?_cons_of_neg (by simpa using h)]

theorem spGet_spSet_other (t : List (Nat × Nat)) (i j v : Nat) (h : i ≠ j) : spGet (spSet t i v) j = spGet t j := by
  induction t with
  | nil =>
    unfold spSet
    split
    · rfl
    · rw [spGet_cons, if_neg h]
  | cons e m ih =>
    unfold spSet
    split
    · rw [spGet_cons, spGet_cons, ih]
    · split
      · rename_i hei
        split
        · rw [spGet_cons, if_neg (hei ▸ h)]
        · rw [spGet_cons, spGet_cons, if_neg h, if_neg (hei ▸ h)]
      · split
        · rfl
        · rw [spGet_cons, if_neg h]

theorem spGet_spSet_same (t : List (Nat × Nat)) (i v : Nat) (h : v ≠ 0) : spGet (spSet t i v) i = v := by
  induction t with
  | nil =>
    unfold spSet
    rw [if_neg h, spGet_cons, if_pos rfl]
  | cons e m ih =>
    unfold spSet
    split
    · rename_i hlt
      rw [spGet_cons, if_neg (by omega), ih]
    · split
      · rw [spGet_cons, if_pos rfl]
      · rw [spGet_cons, if_pos rfl]

theorem spGet_of_above (t : List (Nat × Nat)) (i : Nat) (h : ∀ e ∈ t, i < e.1) : spGet t i = 0 := by
  have hnone : t.find? (fun e => e.1 = i) = none := List.find?_eq_none.mpr fun e he => by
    have := h e he
    simp only [decide_eq_true_eq]
    omega
  rw [spGet, hnone] <;> rfl

theorem spGet_spSet_zero (t : List (Nat × Nat)) (i : Nat) (h : t.Pairwise fun x y => x.1 < y.1) : spGet (spSet t i 0) i = 0 := by
  induction t with
  | nil => rfl
  | cons e m ih =>
    obtain ⟨hlt, hm⟩ := List.pairwise_cons.mp h
    unfold spSet
    split
    · rename_i hei
      rw [spGet_cons, if_neg (by omega), ih hm]
    · split
      · rename_i _ hei
        rw [if_pos rfl]
        exact spGet_of_above m i fun f hf => hei ▸ hlt f hf
      · rename_i h1 h2
        have hie : i < e.1 := by omega
        rw [if_pos rfl]
        exact spGet_of_above (e :: m) i fun f hf =>
          (List.mem_cons.mp hf).elim (fun he => he ▸ hie) fun hf => Nat.lt_trans hie (hlt f hf)

/-- Settles O27, by induction on the bytes written and on the entries of a table. -/
theorem flashAndTablesReadBackWhatIsWritten : Obligations.FlashAndTablesReadBackWhatIsWritten := by
  unfold Obligations.FlashAndTablesReadBackWhatIsWritten
  exact ⟨fun f a b bs h => flashGet_flashWrite_ne bs f h, fun f a i bs h hi => flashGet_flashWrite bs f a i h hi,
    fun f a bs h => wf_flashWrite bs f a h, fun _ => rfl, fun t i j v h => spGet_spSet_other t i j v h,
    fun t i v h => spGet_spSet_same t i v h, fun t i h => spGet_spSet_zero t i h⟩

end Sys2Proof.Proofs
end

section
/-! SUPPORT. OBJ_READ and OBJ_WRITE and what each writable object's write does (R350 to R361, R398, R403, R406, R496 to
R503, R533, R534, R543, R621); statements O28, O29 and O30. -/

namespace Sys2Proof.Proofs
open Sys2Proof Sys2Proof.Machine Sys2Proof.Safety Sys2Proof.Laws

/-! ### Checks -/

@[simp] theorem failIf_false (c : Check) : failIf false c = none := rfl
@[simp] theorem failIf_true (c : Check) : failIf true c = c := rfl

theorem failIf_of_not {b : Bool} (c : Check) (h : b = false) : failIf b c = none := by rw [h]; rfl

theorem firstFail_of_none {cs : List Check} (h : ∀ c ∈ cs, c = none) : firstFail cs = none := by
  induction cs with
  | nil => rfl
  | cons c cs ih =>
    rw [h c (by simp)]
    exact ih fun x hx => h x (by simp [hx])

theorem written_of_none {cs : List Check} {s : State} (h : ∀ c ∈ cs, c = none) : written cs s = .ok s := by
  rw [written, firstFail_of_none h]

/-! ### OBJ_READ -/

section
variable {m major : Nat} {r : Request} {s : State}

theorem objReadBody_of_unknown (h : objInfo major (argObj r.msg) = none) : objReadBody r major s = reject gValue 176 s := by
  simp only [objReadBody, h]

theorem objReadBody_of_known {o : ObjInfo} (hinfo : objInfo major (argObj r.msg) = some o)
    (hkeys : keyCheck o (argKeyA r.msg) (argKeyB r.msg) = none) :
    objReadBody r major s = match objRead s (argObj r.msg) (argKeyA r.msg) (argKeyB r.msg) with
      | none => reject gNoObject 0 s
      | some bs => okWith (padWords bs) s := by
  simp only [objReadBody, hinfo, hkeys] <;> rfl

theorem sheetReadBody_of_failed (hkey : argKeyA r.msg ≤ 67108863) (hclear : s.boot.memCleared = true) :
    sheetReadBody .failed r major s =
      okWith (bytesOf [wNat (sheetSeq s (argKeyA r.msg)), mkW [(63, 60, 15)], 0, 0, 0, 0, 0, 0])
        (modSheet (fun t => { t with unreadable := t.unreadable + 1 }) (readWord 2 (.scoresheet (argKeyA r.msg)) .failed s)) := by
  simp only [sheetReadBody]
  rw [if_neg (by simp [hclear, hkey])]

theorem sheetReadBody_of_read {w : WordRead} (hw : w ≠ .failed) (hkey : argKeyA r.msg ≤ 67108863)
    (hclear : s.boot.memCleared = true) :
    sheetReadBody w r major s = objReadBody r major (readWord 2 (.scoresheet (argKeyA r.msg)) w s) := by
  cases w with
  | failed => exact absurd rfl hw
  | ok => simp [sheetReadBody, hkey, hclear]
  | corrected bit => simp [sheetReadBody, hkey, hclear]

end

/-! ### OBJ_WRITE -/

section
variable {m num major : Nat} {extra : List Byte → Bool} {r : Request} {ws : List W64} {s u v : State}

theorem objWriteBody_of_keys (h : Statement.AskedWrite m num extra r major ws s u) :
    objWriteBody r major u = match objWrite major num (argKeyA r.msg) 256 (r.msg.drop 32) u with
      | .error x => (some x, u)
      | .ok s' => okay s' := by
  obtain ⟨o, hinfo, hkeys⟩ := h.keys
  simp only [objWriteBody, h.obj, hinfo, hkeys] <;> rfl

theorem writeRun_of_written (h : Statement.AskedWrite m num extra r major ws s u)
    (hw : objWrite major num (argKeyA r.msg) 256 (r.msg.drop 32) u = .ok v) : writeRun m extra s = respond m {} v :=
  runCmd_of_asked_okWith h.asked ((objWriteBody_of_keys h).trans (by rw [hw]; rfl))

theorem writeRun_of_error (h : Statement.AskedWrite m num extra r major ws s u) {x : Answer} (hx : x.status ≠ 0)
    (hw : objWrite major num (argKeyA r.msg) 256 (r.msg.drop 32) u = .error x) : writeRun m extra s = respond m x u := by
  have hbody : objWriteBody r major u = (some x, u) := (objWriteBody_of_keys h).trans (by rw [hw])
  exact (runCmd_of_asked h.asked hbody).trans (by rw [if_neg hx])

theorem objWrite_of_unnamed (hnum : num ≠ 0x0A02) (hnamed : num ∉ namedWrites) (a lo : Nat) (bs : List Byte) :
    objWrite major num a lo bs s = .error { status := gReadOnly } := by
  simp only [namedWrites, List.mem_cons, List.not_mem_nil, or_false, not_or] at hnamed
  simp [objWrite, hnum, hnamed]

theorem writeHazard_of_good (lo : Nat)
    (hgood : ∀ i, i < 6 → hazOn (fld (wd ws (i / 2)) (32 * (i % 2) + 31) (32 * (i % 2))) = true →
      hazThreshold (fld (wd ws (i / 2)) (32 * (i % 2) + 31) (32 * (i % 2))) ≠ 0 ∧
      hazWindow (fld (wd ws (i / 2)) (32 * (i % 2) + 31) (32 * (i % 2))) ≠ 0) :
    writeHazard lo ws s = .ok { s with hazard := {
      spec := (List.range 4).map (wd ws)
      src := (List.range 6).map fun i =>
        if fld (wd ws (i / 2)) (32 * (i % 2) + 31) (32 * (i % 2)) = hazEntry s i then s.hazard.src.getD i {} else {} } } := by
  refine (written_of_none fun c hc => ?_).trans rfl
  obtain ⟨i, hi, rfl⟩ := List.mem_map.mp hc
  refine failIf_of_not _ ?_
  simp only [Bool.and_eq_false_iff, Bool.or_eq_false_iff, decide_eq_false_iff_not]
  cases hon : hazOn (fld (wd ws (i / 2)) (32 * (i % 2) + 31) (32 * (i % 2))) with
  | false => exact .inl rfl
  | true => exact .inr (hgood i (List.mem_range.mp hi) hon)

end

/-- Settles O28, by what a read answers in each of its cases, and what a write stores. -/
theorem objectsAreReadAndWritten : Obligations.ObjectsAreReadAndWritten := by
  unfold Obligations.ObjectsAreReadAndWritten
  intro m s u r major
  refine ⟨fun hasked o hinfo hkeys => ⟨fun bs hread => ?_, fun hread => ?_⟩, fun hasked hinfo => ?_, fun hasked hkey hclear => ?_,
    fun hasked hobj o hinfo hkeys hkey hclear w hw bs hread => ?_, fun ws hasked hgood => ?_, fun num ws hasked hnum hnamed => ?_⟩
  · exact exec_next rfl (runCmd_of_asked_okWith hasked ((objReadBody_of_known hinfo hkeys).trans (by rw [hread])))
  · exact exec_next rfl (runCmd_of_asked_reject hasked ((objReadBody_of_known hinfo hkeys).trans (by rw [hread])) (by decide))
  · exact exec_next rfl (runCmd_of_asked_reject hasked (objReadBody_of_unknown hinfo) (by decide))
  · exact exec_next rfl (runCmd_of_asked_okWith hasked (sheetReadBody_of_failed hkey hclear))
  · refine exec_next rfl (runCmd_of_asked_okWith hasked ((sheetReadBody_of_read hw hkey hclear).trans ?_))
    rw [objReadBody_of_known (hobj.symm ▸ hinfo) hkeys, hobj, hread]
  · refine exec_next rfl (writeRun_of_written hasked (Eq.trans ?_ (writeHazard_of_good 256 hgood)))
    rw [hasked.words] <;> rfl
  · exact exec_next rfl (writeRun_of_error hasked (show gReadOnly ≠ 0 by decide) (objWrite_of_unnamed hnum hnamed _ _ _))

/-! ### Switch objects -/

section
variable {lo a : Nat} {w : W64} {ws : List W64} {s : State}

theorem writeClass_of_good
    (hq : fld w 8 0 ≤ 256) (h7 : a % 8 = 7 → 17 ≤ fld w 8 0) (h6 : a % 8 = 6 → 4 ≤ fld w 8 0)
    (htotal : qminTotal s - 8 * (s.pot.classes.getD a {}).qmin + 8 * fld w 8 0 ≤ 262144)
    (hfree : (s.pot.classes.getD a {}).qmin < fld w 8 0 → 8 * (fld w 8 0 - (s.pot.classes.getD a {}).qmin) ≤ sharedFree s)
    (hlow : -4 ≤ (if fld w 35 32 < 8 then (fld w 35 32 : Int) else (fld w 35 32 : Int) - 16))
    (hhigh : (if fld w 35 32 < 8 then (fld w 35 32 : Int) else (fld w 35 32 : Int) - 16) ≤ 3) (hquantum : fld w 47 40 ≠ 0) :
    writeClass lo a w s = .ok (modPot (fun p => { p with classes := p.classes.set a {
      quantum := fld w 47 40, alpha := if fld w 35 32 < 8 then (fld w 35 32 : Int) else (fld w 35 32 : Int) - 16
      qmin := fld w 8 0 } }) s) := by
  refine written_of_none fun c hc => ?_
  simp only [List.mem_cons, List.not_mem_nil, or_false] at hc
  rcases hc with rfl | rfl | rfl | rfl
  · refine failIf_of_not _ ?_
    simp only [Bool.or_eq_false_iff, Bool.and_eq_false_iff, decide_eq_false_iff_not]
    omega
  · refine failIf_of_not _ ?_
    simp only [Bool.or_eq_false_iff, Bool.and_eq_false_iff, decide_eq_false_iff_not]
    omega
  · refine failIf_of_not _ ?_
    simp only [Bool.or_eq_false_iff, decide_eq_false_iff_not]
    omega
  · exact failIf_of_not _ (by simpa using hquantum)

theorem writePort_of_good
    (hgen : ∀ j, j < 8 → j % splitLanes (fld w 33 32) = 0 → (fld w 23 16).testBit j = true → (fld w 15 0 >>> (2 * j)) % 4 ≠ 0)
    (hoff : ∀ j, j < 8 → j % splitLanes (fld w 33 32) ≠ 0 → (fld w 23 16).testBit j = false ∧ (fld w 15 0 >>> (2 * j)) % 4 = 0) :
    let old := getPort s a
    let ls := (if old.split ≠ fld w 33 32 then List.range 8
      else (List.range 8).filter fun j => old.enable.testBit j ≠ (fld w 23 16).testBit j).map fun j => 8 * a + j
    writePort lo a w s = .ok (forAll ls trainFromStart
      (modPort a (fun x => { x with split := fld w 33 32, enable := fld w 23 16, genAllow := fld w 15 0 }) (forAll ls takeDown s))) := by
  refine written_of_none fun c hc => ?_
  simp only [List.mem_cons, List.not_mem_nil, or_false] at hc
  rcases hc with rfl | rfl
  · refine failIf_of_not _ (List.any_eq_false.mpr fun j hj => ?_)
    have hj8 := List.mem_range.mp hj
    split
    · rename_i hfirst
      simp only [Bool.and_eq_true, decide_eq_true_eq, not_and]
      exact hgen j hj8 hfirst
    · rename_i hother
      simpa using (hoff j hj8 hother).2
  · refine failIf_of_not _ (List.any_eq_false.mpr fun j hj => ?_)
    by_cases hfirst : j % splitLanes (fld w 33 32) = 0
    · simp [hfirst]
    · simp [(hoff j (List.mem_range.mp hj) hfirst).1]

theorem writeKibitz_of_good (hnone : fld (wd ws 0) 20 0 ≠ 0x1FFFFF) (hown : fld (wd ws 0) 20 0 ≠ s.ident.eid)
    (hmatch : fld (wd ws 0) 63 61 < 4) (hport : fld (wd ws 0) 63 61 ≤ 1 → (getPort s (fld (wd ws 0) 47 42)).enable ≠ 0) :
    writeKibitz lo a ws s = .ok (modRoute (fun r => { r with kibitz := modAt r.kibitz a (fun k =>
      if bitAt (wd ws 0) 60 then { w0 := wd ws 0, w1 := wd ws 1 } else { k with w0 := wd ws 0, w1 := wd ws 1 }) }) s) := by
  refine written_of_none fun c hc => ?_
  simp only [List.mem_cons, List.not_mem_nil, or_false] at hc
  rcases hc with rfl | rfl | rfl
  · exact failIf_of_not _ (by simp [hnone, hown])
  · refine failIf_of_not _ ?_
    simpa using hport
  · exact failIf_of_not _ (by simpa using hmatch)

theorem writeRoute_of_good (hreorder : fld w 47 40 ≠ 0) (hdrain : fld w 63 48 ≠ 0) :
    writeRoute lo w s = .ok (modRoute (fun r => { r with drainUs := fld w 63 48, reorderUs := fld w 47 40 }) s) := by
  refine written_of_none fun c hc => ?_
  simp only [List.mem_cons, List.not_mem_nil, or_false] at hc
  rcases hc with rfl | rfl
  · exact failIf_of_not _ (by simpa using hreorder)
  · exact failIf_of_not _ (by simpa using hdrain)

end

/-- Settles O29, by what the write of each switch object stores. -/
theorem switchObjectsAreWritten : Obligations.SwitchObjectsAreWritten := by
  unfold Obligations.SwitchObjectsAreWritten
  intro m s u r major ws
  refine ⟨fun hasked => ?_, fun hasked hq h7 h6 htotal hfree hlow hhigh hquantum => ?_, fun hasked hgen hoff => ?_,
    fun hasked hnone hown hmatch hport => ?_, fun hasked hreorder hdrain => ?_⟩ <;>
    refine exec_next rfl (writeRun_of_written hasked ?_)
  · rw [hasked.words] <;> rfl
  · refine Eq.trans ?_ (writeClass_of_good (lo := 256) hq h7 h6 htotal hfree hlow hhigh hquantum)
    rw [hasked.words] <;> rfl
  · refine Eq.trans ?_ (writePort_of_good (lo := 256) hgen hoff)
    rw [hasked.words] <;> rfl
  · refine Eq.trans ?_ (writeKibitz_of_good (lo := 256) hnone hown hmatch hport)
    rw [hasked.words] <;> rfl
  · refine Eq.trans ?_ (writeRoute_of_good (lo := 256) hreorder hdrain)
    rw [hasked.words] <;> rfl

/-! ### Service objects -/

section
variable {lo a major : Nat} {w : W64} {ws : List W64} {s : State}

theorem writeTarget_of_free (hkind : fld (wd ws 0) 45 44 ≠ 3) (hfree : targetUsed s a = false) :
    writeTarget lo a ws s =
      .ok { s with targets := s.targets.set a { w0 := wd ws 0, w1 := wd ws 1, w2 := wd ws 2, w3 := wd ws 3 } } := by
  refine written_of_none fun c hc => ?_
  simp only [List.mem_cons, List.not_mem_nil, or_false] at hc
  rcases hc with rfl | rfl
  · exact failIf_of_not _ (by simpa using hkind)
  · exact failIf_of_not _ hfree

theorem writeTarget_of_used (hkind : fld (wd ws 0) 45 44 ≠ 3) (hused : targetUsed s a = true) :
    writeTarget lo a ws s = .error { status := gBusy } := by
  simp [writeTarget, written, firstFail, hkind, hused]

theorem writeScrub_of_good (hpot : 100 ≤ fld w 47 32) (hlp : 1 ≤ fld w 55 48) (hlp' : fld w 55 48 ≤ 168)
    (hhbm : 1 ≤ fld w 63 56) (hhbm' : fld w 63 56 ≤ 168) :
    writeScrub lo w s = .ok (modMem (fun m => { m with
      hbmPassH := fld w 63 56, lpPassH := fld w 55 48, potPassMs := fld w 47 32, scrubOn := bitAt w 0
      tiers := if bitAt w 0 then m.tiers else m.tiers.map stopPass }) s) := by
  refine written_of_none fun c hc => ?_
  simp only [List.mem_cons, List.not_mem_nil, or_false] at hc
  rcases hc with rfl | rfl | rfl <;> refine failIf_of_not _ ?_ <;>
    simp only [Bool.or_eq_false_iff, decide_eq_false_iff_not] <;> omega

theorem writeInject_of_open (hbit : fld w 55 49 ≤ 71) (hkind : fld w 61 60 ≠ 3) (hopen : scopeOpen s 1 = true) :
    writeInject lo w s = .ok (wroteWord 3 14 (modMem (fun m => { m with inject := w }) s)) := by
  refine written_of_none fun c hc => ?_
  simp only [List.mem_cons, List.not_mem_nil, or_false] at hc
  rcases hc with rfl | rfl | rfl
  · exact failIf_of_not _ (by simp [hopen])
  · exact failIf_of_not _ (by simpa using hbit)
  · exact failIf_of_not _ (by simpa using hkind)

theorem writeInject_of_locked (hlocked : scopeOpen s 1 = false) : writeInject lo w s = .error { status := gAuth } := by
  simp [writeInject, written, firstFail, hlocked]

theorem writeTelemetry_of_good (hperiod : 10 ≤ fld (wd ws 0) 15 0) (hcount : fld (wd ws 0) 45 41 ≤ 24)
    (hon : bitAt (wd ws 0) 47 = true → fld (wd ws 0) 45 41 ≠ 0 ∧ fld (wd ws 0) 63 48 ≠ 0)
    (hentry : ∀ i, i < fld (wd ws 0) 45 41 → fld (wd ws (4 + i)) 15 0 ≠ 0 ∧
      ∃ o, objInfo major (fld (wd ws (4 + i)) 63 48) = some o ∧ o.keyB = none)
    (hrest : ∀ i, fld (wd ws 0) 45 41 ≤ i → i < 24 → wd ws (4 + i) = 0) :
    writeTelemetry major lo ws s = .ok (modTelem (fun t => { t with spec := (List.range 28).map (wd ws) }) s) := by
  refine written_of_none fun c hc => ?_
  rcases List.mem_append.mp hc with hc | hc
  · simp only [List.mem_cons, List.not_mem_nil, or_false] at hc
    rcases hc with rfl | rfl | rfl
    · exact failIf_of_not _ (by simpa using hperiod)
    · refine failIf_of_not _ ?_
      cases hb : bitAt (wd ws 0) 47 with
      | false => simpa using hcount
      | true => simpa using ⟨hcount, (hon hb).1⟩
    · refine failIf_of_not _ ?_
      cases hb : bitAt (wd ws 0) 47 with
      | false => rfl
      | true => simpa using (hon hb).2
  · obtain ⟨i, hi, rfl⟩ := List.mem_map.mp hc
    by_cases hlt : i < fld (wd ws 0) 45 41
    · obtain ⟨hcells, o, hinfo, hkey⟩ := hentry i hlt
      simp [hlt, firstFail, hcells, hinfo, hkey]
    · simp [hlt, hrest i (Nat.not_lt.mp hlt) (List.mem_range.mp hi)]

theorem writeAlert_of_good (hresv : bitAt w 63 = false) :
    writeAlert lo w s = .ok (modAlert (fun a => {
      mask := fld w 55 48 ||| 4
      causes := (List.range 7).map fun i => a.causes.getD i false && (!bitAt w (56 + i) || causeHolds s i) }) s) := by
  refine written_of_none fun c hc => ?_
  rw [List.mem_singleton.mp hc]
  exact failIf_of_not _ hresv

end

/-- Settles O30, by what the write of each service object stores, and the writes that are refused. -/
theorem serviceObjectsAreWritten : Obligations.ServiceObjectsAreWritten := by
  unfold Obligations.ServiceObjectsAreWritten
  intro m s u r major ws
  refine ⟨fun hasked hkind => ⟨fun hfree => exec_next rfl (writeRun_of_written hasked ?_), fun hused => exec_next rfl
      (writeRun_of_error hasked (show gBusy ≠ 0 by decide) ?_)⟩,
    fun hasked hpot hlp hlp' hhbm hhbm' => exec_next rfl (writeRun_of_written hasked ?_),
    fun hasked hbit hkind => ⟨fun hopen => exec_next rfl (writeRun_of_written hasked ?_), fun hlocked => exec_next rfl
      (writeRun_of_error hasked (show gAuth ≠ 0 by decide) ?_)⟩,
    fun hasked hperiod hcount hon hentry hrest => exec_next rfl (writeRun_of_written hasked ?_),
    fun hasked hresv => exec_next rfl (writeRun_of_written hasked ?_)⟩
  · refine Eq.trans ?_ (writeTarget_of_free (lo := 256) hkind hfree)
    rw [hasked.words] <;> rfl
  · refine Eq.trans ?_ (writeTarget_of_used (lo := 256) hkind hused)
    rw [hasked.words] <;> rfl
  · refine Eq.trans ?_ (writeScrub_of_good (lo := 256) hpot hlp hlp' hhbm hhbm')
    rw [hasked.words] <;> rfl
  · refine Eq.trans ?_ (writeInject_of_open (lo := 256) hbit hkind hopen)
    rw [hasked.words] <;> rfl
  · refine Eq.trans ?_ (writeInject_of_locked (lo := 256) (w := wd ws 0) hlocked)
    rw [hasked.words] <;> rfl
  · refine Eq.trans ?_ (writeTelemetry_of_good (lo := 256) hperiod hcount hon hentry hrest)
    rw [hasked.words] <;> rfl
  · refine Eq.trans ?_ (writeAlert_of_good (lo := 256) hresv)
    rw [hasked.words] <;> rfl

end Sys2Proof.Proofs
end

section
/-! SUPPORT. Tables that open, load boards and close (R192, R198, R220, R650), moves that are appended (R201, R204, R205)
and doubles that open, detach and move (R295, R296, R298, R312, R655); statements O31, O32 and O33. -/

namespace Sys2Proof.Proofs
open Sys2Proof Sys2Proof.Machine Sys2Proof.Safety Sys2Proof.Laws

/-! ### TABLE_OPEN, TABLE_CLOSE and BOARD_LOAD -/

section
variable {m major : Nat} {r : Request} {s : State} {bs : List Byte}

theorem tableOpenBody_of_passed (hbulk : bulkRef m 16 r.msg s = .ok bs) (hcounts : openCounts bs = none)
    (hresv : openResv bs = none) (hvalues : openValues s major bs = none) (hlate : openLate s (readTable s bs) = none) :
    let tb := readTable s bs
    tableOpenBody m r major s = match tb.keeper with
      | some k =>
        if isCrown tb then
          waits (sendCtl k.spec.partner { ctl := 0, table := tb.id, prim := s.ident.eid, a := k.spec.crc }
            { s with opening := s.opening ++ [{ mailbox := m, table := tb, since := now s }] })
        else okWith (leBytes 8 tb.board.digest) (openNow tb s)
      | none => okWith (leBytes 8 tb.board.digest) (openNow tb s) := by
  simp only [tableOpenBody, hbulk, hcounts, hresv, hvalues, hlate] <;> rfl

theorem tableOpenBody_alone (hbulk : bulkRef m 16 r.msg s = .ok bs) (hcounts : openCounts bs = none)
    (hresv : openResv bs = none) (hvalues : openValues s major bs = none) (hlate : openLate s (readTable s bs) = none)
    (halone : (readTable s bs).keeper = none ∨ isCrown (readTable s bs) = false) :
    tableOpenBody m r major s = okWith (leBytes 8 (readTable s bs).board.digest) (openNow (readTable s bs) s) := by
  rw [tableOpenBody_of_passed hbulk hcounts hresv hvalues hlate]
  cases hk : (readTable s bs).keeper with
  | none => rfl
  | some k =>
    rcases halone with h | h
    · rw [h] at hk
      cases hk
    · dsimp only
      rw [h, if_neg Bool.false_ne_true]

theorem tableOpenBody_partnered {k : Keeper} (hbulk : bulkRef m 16 r.msg s = .ok bs) (hcounts : openCounts bs = none)
    (hresv : openResv bs = none) (hvalues : openValues s major bs = none) (hlate : openLate s (readTable s bs) = none)
    (hkeeper : (readTable s bs).keeper = some k) (hcrown : isCrown (readTable s bs) = true) :
    tableOpenBody m r major s =
      waits (sendCtl k.spec.partner { ctl := 0, table := (readTable s bs).id, prim := s.ident.eid, a := k.spec.crc }
        { s with opening := s.opening ++ [{ mailbox := m, table := readTable s bs, since := now s }] }) := by
  rw [tableOpenBody_of_passed hbulk hcounts hresv hvalues hlate, hkeeper]
  dsimp only
  rw [if_pos hcrown]

theorem tableOpenBody_of_fault {a : Answer} (hbulk : bulkRef m 16 r.msg s = .ok bs)
    (hfault : openCounts bs = some a ∨ (openCounts bs = none ∧ openResv bs = some a) ∨
      (openCounts bs = none ∧ openResv bs = none ∧ openValues s major bs = some a)) :
    tableOpenBody m r major s = (some a, s) := by
  rcases hfault with hcounts | ⟨hcounts, hresv⟩ | ⟨hcounts, hresv, hvalues⟩
  · simp only [tableOpenBody, hbulk, hcounts, Option.some_or]
  · simp only [tableOpenBody, hbulk, hcounts, hresv, Option.none_or, Option.some_or]
  · simp only [tableOpenBody, hbulk, hcounts, hresv, hvalues, Option.none_or, Option.some_or]

theorem tableCloseBody_of_open (h : (findTable s (argTable r)).isSome = true) :
    tableCloseBody r major s = okay (closeTable (argTable r) s) := by
  rw [tableCloseBody, if_neg (by simpa [Option.isSome_iff_ne_none] using h)]

theorem tableCloseBody_of_absent (h : findTable s (argTable r) = none) : tableCloseBody r major s = reject gNoObject 0 s := by
  simp [tableCloseBody, h]

theorem boardLoadBody_of_open {tb : Table} (hopen : findTable s (argTable r) = some tb) (hbulk : bulkRef m 24 r.msg s = .ok bs) :
    boardLoadBody m r major s = match boardLoadCheck tb bs with
      | some a => (some a, s)
      | none => okay (modTable tb.id (fun tb => { tb with other := some (readBoard bs (boardAt bs 0), tb.boardNum + 1, false) }) s) := by
  simp only [boardLoadBody, hopen, hbulk] <;> rfl

end

/-- Settles O31, by the outcome of each command's checks. -/
theorem tablesOpenLoadAndClose : Obligations.TablesOpenLoadAndClose := by
  unfold Obligations.TablesOpenLoadAndClose
  intro m s u r major
  refine ⟨fun hasked bs hbulk => ?_, fun hasked bs hbulk a ha hfault => ?_, fun hasked => ⟨fun hopen => ?_, fun hnone => ?_⟩,
    fun hasked tb bs hopen hbulk => ⟨fun hcheck => ?_, fun a hcheck ha => ?_⟩⟩
  · intro tb hcounts hresv hvalues hlate
    refine ⟨fun halone => ?_, fun k hkeeper hcrown => ?_⟩
    · exact exec_next rfl (runCmd_of_asked_okWith hasked (tableOpenBody_alone hbulk hcounts hresv hvalues hlate halone))
    · exact exec_next rfl (runCmd_of_asked_waits hasked
        (tableOpenBody_partnered hbulk hcounts hresv hvalues hlate hkeeper hcrown))
  · exact exec_next rfl ((runCmd_of_asked hasked (tableOpenBody_of_fault hbulk hfault)).trans (by rw [if_neg ha]))
  · exact exec_next rfl (runCmd_of_asked_okWith hasked (tableCloseBody_of_open hopen))
  · exact exec_next rfl (runCmd_of_asked_reject hasked (tableCloseBody_of_absent hnone) (by decide))
  · have hbody := boardLoadBody_of_open (major := major) hopen hbulk
    rw [hcheck] at hbody
    exact exec_next rfl (runCmd_of_asked_okWith hasked hbody)
  · have hbody := boardLoadBody_of_open (major := major) hopen hbulk
    rw [hcheck] at hbody
    exact exec_next rfl ((runCmd_of_asked hasked hbody).trans (by rw [if_neg ha]))

/-! ### MOVES_APPEND -/

section
variable {m major first base b : Nat} {r : Request} {s : State} {bs : List Byte} {tb : Table} {h : Hist}

/-- The records of MOVES_APPEND, with what DETAIL counts from: inline, or from the inbound buffer (R201). -/
def MovesGiven (m : Nat) (tb : Table) (r : Request) (s : State) (base : Nat) (bs : List Byte) : Prop :=
  (inlineOf r.msg ≠ 0 ∧ base = 256 ∧ bs = r.msg.drop 32) ∨
    (inlineOf r.msg = 0 ∧ base = 2 ^ 63 ∧ bulkRef m 32 r.msg s = .ok bs ∧ bs.length % 32 = 0 ∧
      resvBuf bs (recordsResv tb.moveFmt 0 bs) = none)

theorem movesAppendBody_of_given (hopen : findTable s (argTable r) = some tb) (hgiven : MovesGiven m tb r s base bs) :
    movesAppendBody m r major s = appendMoves tb (argW r.msg 1).toNat base bs s := by
  unfold movesAppendBody
  rw [hopen]
  rcases hgiven with ⟨hin, rfl, rfl⟩ | ⟨hin, rfl, hbulk, hlen, hresv⟩
  · exact if_pos hin
  · dsimp only
    rw [if_neg (by simpa using hin), hbulk]
    dsimp only
    rw [if_neg (by simpa using hlen), hresv]

theorem appendMoves_of_room (hfirst : first = tb.appended) (hchecks : appendChecks tb 0 (histOf tb) (recordsOf bs) = .ok h)
    (hroom : tb.moves.length + (recordsOf bs).length ≤ 1048576) :
    appendMoves tb first base bs s =
      okWith (leBytes 8 (tb.appended + (recordsOf bs).length)) (wroteWord 1 12 (modTable tb.id (fun tb => { tb with
        moves := tb.moves ++ recordsOf bs, appended := tb.appended + (recordsOf bs).length, lastRound := h.round
        lastTurn := h.turn, seenKt := h.kt, seenCk := h.ck, lastOp := h.op }) s)) := by
  simp only [appendMoves, if_neg (not_not_intro hfirst), hchecks, if_neg (Nat.not_lt.mpr hroom)]

theorem appendMoves_of_full (hfirst : first = tb.appended) (hchecks : appendChecks tb 0 (histOf tb) (recordsOf bs) = .ok h)
    (hfull : 1048576 < tb.moves.length + (recordsOf bs).length) : appendMoves tb first base bs s = reject gResource 0 s := by
  simp only [appendMoves, if_neg (not_not_intro hfirst), hchecks, if_pos hfull]

theorem appendMoves_of_bad (hfirst : first = tb.appended)
    (hchecks : appendChecks tb 0 (histOf tb) (recordsOf bs) = .error b) :
    appendMoves tb first base bs s = reject gValue (base + b) s := by
  simp only [appendMoves, if_neg (not_not_intro hfirst), hchecks]

theorem appendMoves_of_gap (hfirst : first ≠ tb.appended) : appendMoves tb first base bs s = reject gSequence tb.appended s :=
  if_pos hfirst

end

/-- Settles O32, by the outcomes of the append checks. -/
theorem movesAppendInSequence : Obligations.MovesAppendInSequence := by
  unfold Obligations.MovesAppendInSequence
  intro m s u r major tb hasked hopen first base bs hgiven ms
  have hbody : movesAppendBody m r major u = appendMoves tb first base bs u := movesAppendBody_of_given hopen hgiven
  refine ⟨fun h hfirst hchecks hroom => ?_, fun hfirst => ?_, fun b hfirst hchecks => ?_, fun h hfirst hchecks hfull => ?_⟩
  · exact exec_next rfl (runCmd_of_asked_okWith hasked (hbody.trans (appendMoves_of_room hfirst hchecks hroom)))
  · exact exec_next rfl (runCmd_of_asked_reject hasked (hbody.trans (appendMoves_of_gap hfirst)) (by decide))
  · exact exec_next rfl (runCmd_of_asked_reject hasked (hbody.trans (appendMoves_of_bad hfirst hchecks)) (by decide))
  · exact exec_next rfl (runCmd_of_asked_reject hasked (hbody.trans (appendMoves_of_full hfirst hchecks hfull)) (by decide))

/-! ### DOUBLE_OPEN, DOUBLE_CLOSE, DOUBLE_DETACH and DOUBLE_MOVE -/

section
variable {major : Nat} {r : Request} {s : State}

theorem doubleOpenBody_of_passed (hlevel : 3 ≤ rulesetMax s) (hserv : inService s = true)
    (hfree : attachedOf s (argPrim r) (argTable r) = none) (hpartner : (readKSpec (r.msg.drop 24)).partner = s.ident.eid)
    (hspec : kspecBad (readKSpec (r.msg.drop 24)) = none) (hquota : (readKSpec (r.msg.drop 24)).quota ≤ 32000) :
    let prim := argPrim r
    let t := argTable r
    let reuse := fld (argW r.msg 0) 41 21
    let k := readKSpec (r.msg.drop 24)
    doubleOpenBody r major s =
      if reuse = 0x1FFFFF then
        if 32000 < (s.doubles.map (·.spec.quota)).sum + k.quota || 960000000000 < doubleRegion s + doubleBytes k.quota k.rule then
          reject gResource 0 s
        else okay (wroteWord 2 8 { s with doubles := s.doubles ++ [newDouble prim t k] })
      else match detachedOf s reuse t with
        | none => reject gNoObject 0 s
        | some d =>
          if d.spec.rule ≠ k.rule then reject gValue 149 s
          else if d.spec.quota < k.quota then reject gResource 0 s
          else okay { closeDouble d s with doubles := (closeDouble d s).doubles ++ [takeOver prim t k d] } := by
  dsimp only
  unfold doubleOpenBody
  dsimp only
  generalize hbad : firstFail _ = bad
  have hnone : bad = none := by
    rw [← hbad]
    refine firstFail_of_none fun c hc => ?_
    simp only [List.mem_cons, List.not_mem_nil, or_false] at hc
    rcases hc with rfl | rfl | rfl | rfl | rfl | rfl
    · exact failIf_of_not _ (decide_eq_false (Nat.not_lt.mpr hlevel))
    · exact failIf_of_not _ (by rw [hserv]; rfl)
    · exact failIf_of_not _ (by rw [hfree]; rfl)
    · exact failIf_of_not _ (decide_eq_false (not_not_intro hpartner))
    · rw [hspec] <;> rfl
    · exact failIf_of_not _ (decide_eq_false (Nat.not_lt.mpr hquota))
  rw [hnone] <;> rfl

theorem doubleCloseBody_of_held {d : Double} (h : doubleOf s (argPrim r) (argTable r) = some d) :
    doubleCloseBody r major s = okay (closeDouble d s) := by
  simp only [doubleCloseBody, h]

theorem doubleCloseBody_of_absent (h : doubleOf s (argPrim r) (argTable r) = none) :
    doubleCloseBody r major s = reject gNoObject 0 s := by
  simp only [doubleCloseBody, h]

theorem doubleDetachBody_of_attached {d : Double} (h : attachedOf s (argPrim r) (argTable r) = some d) :
    doubleDetachBody r major s = okay { modThis d (freeze s.detachNum) s with detachNum := s.detachNum + 1 } := by
  simp only [doubleDetachBody, h]

theorem doubleDetachBody_of_detached (h : attachedOf s (argPrim r) (argTable r) = none)
    (hheld : (detachedOf s (argPrim r) (argTable r)).isSome = true) : doubleDetachBody r major s = reject gState 0 s := by
  simp only [doubleDetachBody, h, if_pos hheld]

theorem doubleMoveBody_of_crown {tb : Table} (hopen : findTable s (argTable r) = some tb) (hcrown : isCrown tb = true)
    (hkeeper : tb.keeper ≠ none) (hother : argPrim r ≠ s.ident.eid) :
    doubleMoveBody r major s = okay (modPrim tb.id (fun d => { d with moveTo := some (argPrim r) }) s) := by
  simp only [doubleMoveBody, hopen]
  rw [if_neg (by simp [hcrown]), if_neg (by simpa using hkeeper), if_neg hother]

theorem doubleMoveBody_of_outside {tb : Table} (hopen : findTable s (argTable r) = some tb) (hcrown : isCrown tb = false) :
    doubleMoveBody r major s = reject gRole 0 s := by
  simp only [doubleMoveBody, hopen]
  rw [if_pos (by simp [hcrown])]

end

/-- Settles O33, by what each command's body answers. -/
theorem doublesOpenDetachAndMove : Obligations.DoublesOpenDetachAndMove := by
  unfold Obligations.DoublesOpenDetachAndMove
  intro m s u r major prim t
  refine ⟨fun hasked => ?_, fun hasked => ⟨fun d hd => ?_, fun hnone => ?_⟩, fun hasked => ⟨fun d hd => ?_, fun hnone hheld => ?_⟩,
    fun hasked tb hopen => ⟨fun hcrown hkeeper hother => ?_, fun hout => ?_⟩⟩
  · intro k reuse hlevel hserv hfree hpartner hspec hquota
    have hbody := doubleOpenBody_of_passed (major := major) hlevel hserv hfree hpartner hspec hquota
    dsimp only at hbody
    refine ⟨fun hnew hq hmem => ?_, fun hnew hover => ?_, fun hre d hd hrule hfits => ?_, fun hre hnone => ?_⟩
    · rw [if_pos hnew, if_neg (by simpa using ⟨hq, hmem⟩)] at hbody
      exact exec_next rfl (runCmd_of_asked_okWith hasked hbody)
    · rw [if_pos hnew, if_pos (by simpa using hover)] at hbody
      exact exec_next rfl (runCmd_of_asked_reject hasked hbody (by decide))
    · rw [if_neg hre, hd] at hbody
      dsimp only at hbody
      rw [if_neg (not_not_intro hrule), if_neg (Nat.not_lt.mpr hfits)] at hbody
      exact exec_next rfl (runCmd_of_asked_okWith hasked hbody)
    · rw [if_neg hre, hnone] at hbody
      exact exec_next rfl (runCmd_of_asked_reject hasked hbody (by decide))
  · exact exec_next rfl (runCmd_of_asked_okWith hasked (doubleCloseBody_of_held hd))
  · exact exec_next rfl (runCmd_of_asked_reject hasked (doubleCloseBody_of_absent hnone) (by decide))
  · exact exec_next rfl (runCmd_of_asked_okWith hasked (doubleDetachBody_of_attached hd))
  · exact exec_next rfl (runCmd_of_asked_reject hasked (doubleDetachBody_of_detached hnone hheld) (by decide))
  · exact exec_next rfl (runCmd_of_asked_okWith hasked (doubleMoveBody_of_crown hopen hcrown hkeeper hother))
  · exact exec_next rfl (runCmd_of_asked_reject hasked (doubleMoveBody_of_outside hopen hout) (by decide))

end Sys2Proof.Proofs
end

section
/-! SUPPORT. Fences (R392 to R397), loopback tests of a link (R449) and RESTART (R494); statement O35. -/

namespace Sys2Proof.Proofs
open Sys2Proof Sys2Proof.Machine Sys2Proof.Safety Sys2Proof.Laws

/-! ### FENCE and UNFENCE -/

section
variable {m major eid : Nat} {r : Request} {s : State} {f : Fence}

theorem fenceBody_of_fenced (hother : argEid r ≠ s.ident.eid) (hf : fenceOf s (argEid r) = some f) :
    fenceBody m r major s = (some (fenceReply f 0 false), s) := by
  simp only [fenceBody, if_neg hother, hf]

theorem fenceBody_of_free (hother : argEid r ≠ s.ident.eid) (hnone : fenceOf s (argEid r) = none)
    (hroom : s.route.fences.length < 256) :
    fenceBody m r major s = waits (modRoute (fun t => { t with fences := t.fences ++ [
      { eid := argEid r, time := now s, accepted := now s, timeoutUs := fld (argW r.msg 0) 15 0, mailbox := some m
        waitFor := packetsFor s (argEid r), waited := (packetsFor s (argEid r)).length }] }) s) := by
  simp only [fenceBody, if_neg hother, hnone, if_neg (Nat.not_le.mpr hroom)]

theorem fenceBody_of_full (hother : argEid r ≠ s.ident.eid) (hnone : fenceOf s (argEid r) = none)
    (hfull : 256 ≤ s.route.fences.length) : fenceBody m r major s = reject gBusy 0 s := by
  simp only [fenceBody, if_neg hother, hnone, if_pos hfull]

theorem unfenceBody_of_acked (hf : fenceOf s (argEid r) = some f) (hacked : f.acked = true) :
    unfenceBody r major s = okay (modRoute (fun t => { t with fences := t.fences.filter fun x => x.eid ≠ f.eid }) s) := by
  simp only [unfenceBody, hf]
  rw [if_neg (by simp [hacked])]

theorem unfenceBody_of_waiting (hf : fenceOf s (argEid r) = some f) (hacked : f.acked = false) :
    unfenceBody r major s = reject gBusy 0 s := by
  simp only [unfenceBody, hf]
  rw [if_pos (by simp [hacked])]

theorem unfenceBody_of_absent (hnone : fenceOf s (argEid r) = none) : unfenceBody r major s = reject gState 0 s := by
  simp only [unfenceBody, hnone]

theorem fenceAck_of_finished (hlive : live s = true) (hf : fenceOf s eid = some f) (hacked : f.acked = false)
    (hdone : ∀ p ∈ f.waitFor, unfinished s f p = false) : fenceAck eid s = ackFence f false s := by
  have hany : f.waitFor.any (unfinished s f) = false := List.any_eq_false.mpr fun p hp => by simp [hdone p hp]
  simp only [fenceAck, hf]
  rw [if_neg (by simp [hlive, hacked, hany])]

theorem fenceTimeout_of_waiting (hlive : live s = true) (hf : fenceOf s eid = some f) (hacked : f.acked = false) :
    fenceTimeout eid s = ackFence f true (endFenced f (advanceTo (f.accepted + f.timeoutUs * 1000) s)) := by
  simp only [fenceTimeout, hf]
  rw [if_neg (by simp [hlive, hacked])]

end

/-! ### LINK_LOOPBACK and RESTART -/

section
variable {m major l : Nat} {r : Request} {s : State}

theorem isLink_of_mayTrain (h : mayTrain s l = true) : isLink s l = true := by
  simp only [mayTrain, isEnabled, Bool.and_eq_true] at h
  exact h.1.1.1.1

theorem loopbackBody_of_free (htrain : mayTrain s (fld (argW r.msg 0) 8 0) = true)
    (hfree : (getLink s (fld (argW r.msg 0) 8 0)).loop.mode = 0) :
    let w := argW r.msg 0
    let l := fld w 8 0
    let loop : Loopback := { mode := fld w 11 10, gen := fld w 13 12, endAt := now s + fld (argW r.msg 1) 31 0 * 1000000, mailbox := some m }
    let v := if linkRuns s l then leaveService l s else s
    loopbackBody m r major s = waits (if fld w 11 10 = 3 then modLoop l (fun _ => loop) (trainFromStart l v)
      else modLink l (fun k => { k with
        stat := { k.stat with state := 4, gen := fld w 13 12, lanes := offered v l }, train := {}, rx := {}, loop := loop
        tx := { scr := (List.range 8).map scrambleInit } }) v) := by
  dsimp only
  unfold loopbackBody
  dsimp only
  rw [if_neg (by simp [isLink_of_mayTrain htrain]), if_neg (by simp [htrain, hfree])]

theorem loopbackEnd_of_testing (hlive : live s = true) (hmode : (getLink s l).loop.mode ≠ 0) (hmode' : (getLink s l).loop.mode ≠ 4) :
    let k := getLink s l
    let t := advanceTo k.loop.endAt s
    let a : Answer := if k.stat.state ≠ 4 then failedAns 0x50 t else
      { data := bytesOf [mkW [(63, 0, k.loop.raw)], mkW [(63, 32, k.loop.corr), (31, 0, k.loop.uncorr)]] }
    loopbackEnd l s = match k.loop.mailbox with
      | some m => respond m a (endLoop l t)
      | none => endLoop l t := by
  dsimp only
  unfold loopbackEnd
  dsimp only
  rw [if_neg (by simp [hlive, hmode, hmode'])] <;> rfl

end

/-- Settles O35, by what each command's body does and by the ends of a fence and of a loopback test. -/
theorem fencesLoopbacksAndRestartWaitForTheirTime : Obligations.FencesLoopbacksAndRestartWaitForTheirTime := by
  unfold Obligations.FencesLoopbacksAndRestartWaitForTheirTime
  intro m s u r major
  refine ⟨fun hasked hother => ⟨fun f hf => ?_, fun hnone hroom => ?_, fun hnone hfull => ?_⟩,
    fun hasked => ⟨fun f hf hacked => ?_, fun f hf hacked => ?_, fun hnone => ?_⟩,
    fun hlive e f hf hacked => ⟨fun hdone => ?_, ?_⟩, fun f forced => rfl, fun hasked => ?_,
    fun hlive l hmode hmode' => ?_, fun hasked => ?_⟩
  · exact exec_next rfl ((runCmd_of_asked hasked (fenceBody_of_fenced hother hf)).trans (by rw [ite_self]))
  · exact exec_next rfl (runCmd_of_asked_waits hasked (fenceBody_of_free hother hnone hroom))
  · exact exec_next rfl (runCmd_of_asked_reject hasked (fenceBody_of_full hother hnone hfull) (by decide))
  · exact exec_next rfl (runCmd_of_asked_okWith hasked (unfenceBody_of_acked hf hacked))
  · exact exec_next rfl (runCmd_of_asked_reject hasked (unfenceBody_of_waiting hf hacked) (by decide))
  · exact exec_next rfl (runCmd_of_asked_reject hasked (unfenceBody_of_absent hnone) (by decide))
  · exact exec_next rfl (fenceAck_of_finished hlive hf hacked hdone)
  · exact exec_next rfl (fenceTimeout_of_waiting hlive hf hacked)
  · intro w l htrain hfree
    exact exec_next rfl (runCmd_of_asked_waits hasked (loopbackBody_of_free htrain hfree))
  · intro k t ht
    subst ht
    exact exec_next rfl (loopbackEnd_of_testing hlive hmode hmode')
  · exact exec_next rfl (runCmd_of_asked_okWith hasked rfl)

end Sys2Proof.Proofs
end

section
/-! SUPPORT. Host frames that are answered or dropped (R454, R456, R457), host ports and 1588 (R244, R458, R459, R469), and
telemetry (R470, R471); statements O36, O37 and O38. -/

namespace Sys2Proof.Proofs
open Sys2Proof Sys2Proof.Machine Sys2Proof.Safety Sys2Proof.Laws

/-! ### Frames -/

section
variable {p vlan : Nat} {mine : HostCfg → Bool} {answer : HostCfg → Emission} {s : State}

theorem frameFor_of_mine (hlive : live s = true) (hup : hostUp s p = true) (hvlan : vlan = (getHost s p).cfg.vlan)
    (hmine : mine (getHost s p).cfg = true) :
    frameFor p vlan mine answer s = sendOn p (answer (getHost s p).cfg) (frameIn p s) := by
  simp only [frameFor, hlive, hup, hvlan, hmine] <;> rfl

theorem frameFor_of_vlan (hlive : live s = true) (hup : hostUp s p = true) (hvlan : vlan ≠ (getHost s p).cfg.vlan) :
    frameFor p vlan mine answer s = dropFrame p (frameIn p s) := by
  simp [frameFor, hlive, hup, hvlan]

theorem macControl_of_up (hlive : live s = true) (hup : hostUp s p = true) :
    macControl p s = modHost p (fun h => { h with framesRx := h.framesRx + 1, pauseRx := h.pauseRx + 1 }) s := by
  simp [macControl, hlive, hup]

theorem frameBad_of_fcs (hlive : live s = true) (hup : hostUp s p = true) :
    frameBad p .fcs s = modHost p (fun h => { h with fcsErrors := h.fcsErrors + 1 }) s := by
  simp [frameBad, hlive, hup]

theorem frameBad_of_other {why : DropReason} (hlive : live s = true) (hup : hostUp s p = true) (hwhy : why ≠ .fcs) :
    frameBad p why s = dropFrame p (frameIn p s) := by
  cases why with
  | fcs => exact absurd rfl hwhy
  | _ => simp [frameBad, hlive, hup]

end

/-- Settles O36, by what a frame for the port and one that is not for it do. -/
theorem hostFramesAreAnsweredOrDropped : Obligations.HostFramesAreAnsweredOrDropped := by
  unfold Obligations.HostFramesAreAnsweredOrDropped
  intro s src vlan target hlive hup p c
  refine ⟨fun hvlan hpre hip => ?_, fun hvlan hpre hip => ?_, fun data hvlan hpre hip hlen => ?_,
    fun data hvlan hpre hip hlen => ?_, fun hvlan v6 data => ⟨?_, ?_, ?_⟩, ?_, ?_, fun why hwhy => ?_⟩
  · exact exec_next rfl (frameFor_of_mine hlive hup hvlan (by simpa using ⟨hpre, hip⟩))
  · exact exec_next rfl (frameFor_of_mine hlive hup hvlan (by simpa using ⟨hpre, hip⟩))
  · exact exec_next rfl (frameFor_of_mine hlive hup hvlan (by simpa using ⟨⟨hpre, hip⟩, by omega⟩))
  · exact exec_next rfl (frameFor_of_mine hlive hup hvlan (by simpa using ⟨⟨hpre, hip⟩, by omega⟩))
  · exact exec_next rfl (frameFor_of_vlan hlive hup hvlan)
  · exact exec_next rfl (frameFor_of_vlan hlive hup hvlan)
  · exact exec_next rfl (frameFor_of_vlan hlive hup hvlan)
  · exact exec_next rfl (macControl_of_up hlive hup)
  · exact exec_next rfl (frameBad_of_fcs hlive hup)
  · exact exec_next rfl (frameBad_of_other hlive hup hwhy)

/-! ### 1588 -/

section
variable {p dom id : Nat} {off : Int} {s : State}

/-- A PTP message that the selected master's rules read: the root with 1588 on, out of Pawn mode (R244, R459). -/
theorem ptpIn_of_heard (hlive : live s = true) (hup : hostUp s p = true) (hopen : s.boot.transport = true)
    (hen : s.time.ptpEn = true) (hroot : s.time.isRoot = true) (hcause : s.pawn.cause = 0) (m : PtpMessage) :
    ptpIn p (getHost s p).cfg.vlan m s = match m with
      | .announce dom id rank =>
        if dom ≠ s.time.ptpDomain then frameIn p s
        else selectMaster (modTime (fun t => { t with
          ptpHeard := (p, id, rank) :: t.ptpHeard.filter fun x => !(x.1 = p && x.2.1 = id) }) (frameIn p s))
      | .sync dom id offset =>
        if dom = s.time.ptpDomain && s.time.ptpMaster.any (fun x => x.1 = p && x.2.1 = id) then ptpSync offset (frameIn p s)
        else frameIn p s := by
  unfold ptpIn
  rw [if_neg (by simp [hlive, hup]), if_neg (by simp [hopen])]
  dsimp only
  rw [if_neg (by simp), if_neg (by simp [hen, hroot, hcause])] <;> rfl

theorem ptpIn_announce {rank : Nat} (hlive : live s = true) (hup : hostUp s p = true) (hopen : s.boot.transport = true)
    (hen : s.time.ptpEn = true) (hroot : s.time.isRoot = true) (hcause : s.pawn.cause = 0) (hdom : dom = s.time.ptpDomain) :
    ptpIn p (getHost s p).cfg.vlan (.announce dom id rank) s = selectMaster (modTime (fun t => { t with
      ptpHeard := (p, id, rank) :: t.ptpHeard.filter fun x => !(x.1 = p && x.2.1 = id) }) (frameIn p s)) := by
  rw [ptpIn_of_heard hlive hup hopen hen hroot hcause]
  dsimp only
  rw [if_neg (not_not_intro hdom)]

theorem ptpIn_sync {rank : Nat} (hlive : live s = true) (hup : hostUp s p = true) (hopen : s.boot.transport = true)
    (hen : s.time.ptpEn = true) (hroot : s.time.isRoot = true) (hcause : s.pawn.cause = 0) (hdom : dom = s.time.ptpDomain)
    (hmaster : s.time.ptpMaster = some (p, id, rank)) :
    ptpIn p (getHost s p).cfg.vlan (.sync dom id off) s = ptpSync off (frameIn p s) := by
  rw [ptpIn_of_heard hlive hup hopen hen hroot hcause]
  dsimp only
  rw [if_pos (by simp [hdom, hmaster])]

theorem ptpSync_of_first (hfirst : s.time.ptpStepped = false) (hyet : noTableYet s = true) (hoff : 0 ≤ off) :
    ptpSync off s =
      modTime (fun t => { t with t64 := ((t.t64 : Int) + 64 * off).toNat, ptpOffset := off, ptpStepped := true }) s := by
  rw [ptpSync, if_pos (by simp [hfirst, hyet, hoff])]

theorem ptpSync_of_later (hlater : s.time.ptpStepped = true ∨ noTableYet s = false ∨ off < 0) :
    ptpSync off s = freeNext (modTime (fun t => { t with ptpOffset := off, ratePpm := slewRate s off }) s) := by
  rw [ptpSync, if_neg]
  simp only [Bool.and_eq_true, Bool.not_eq_true', decide_eq_true_eq, not_and]
  rintro ⟨hfirst, hyet⟩
  rcases hlater with h | h | h
  · rw [hfirst] at h
    cases h
  · rw [hyet] at h
    cases h
  · omega

/-- The slew is at most 10 ppm, towards the master's time (R244). -/
theorem slewRate_bounds (s : State) (off : Int) : -10 ≤ slewRate s off ∧ slewRate s off ≤ 10 ∧
    (off = 0 → slewRate s off = 0) ∧ (0 < off → 0 ≤ slewRate s off) ∧ (off < 0 → slewRate s off ≤ 0) := by
  have hlt : freeVal s % 11 < 11 := Nat.mod_lt _ (by decide)
  unfold slewRate
  dsimp only
  split
  · omega
  · split <;> omega

end

/-! ### Host ports -/

section
variable {p ip mac : Nat} {s : State}

theorem portUp_of_trained (hlive : live s = true) (hp : p < 8) (hstate : (getHost s p).state = 1) :
    portUp p s = pump (modHost p (fun h => { h with state := 2 }) s) := by
  rw [portUp, if_neg (by simp [hlive, hstate, Nat.not_le.mpr hp])]

theorem portDown_of_up (hlive : live s = true) (hup : hostUp s p = true) :
    let u := modTime (fun t => { t with ptpHeard := t.ptpHeard.filter fun m => m.1 ≠ p })
      (modHost p (fun h => { h with state := 1, neighbours := [], held := [] }) s)
    portDown p s = replaceOps p (if u.time.ptpMaster.any (fun m => m.1 = p) then selectMaster u else u) := by
  dsimp only
  rw [portDown, if_neg (by simp [hlive, hup])]

theorem hopKnown_of_up (hruns : cpRuns s = true) (hopen : s.boot.transport = true) (hup : hostUp s p = true) :
    let u := modHost p (fun h => { h with
      framesRx := h.framesRx + 1, neighbours := (ip, mac) :: h.neighbours.filter fun n => normIp n.1 ≠ normIp ip
      held := h.held.filter fun d => normIp d.1 ≠ normIp ip }) s
    let mine := u.store.ops.filter fun o => o.port = some p && nextHop u p (tgtIp (getTarget u o.target)) = some (normIp ip)
    hopKnown p ip mac s = forAll (heldFor s p ip) (fun d => sendOn p (.datagram { d.2.1 with mac := mac } d.2.2.1 d.2.2.2))
      (if (heldFor s p ip).isEmpty then u else forAll mine (fun o v => modOp o.reqId (fun o => { o with last := now u }) v) u) := by
  dsimp only
  rw [hopKnown, if_neg (by simp [hruns, hopen, hup])]

end

/-- Settles O37, by what each message and each change of a port does. -/
theorem hostPortsComeUpGoDownAndKeepTime : Obligations.HostPortsComeUpGoDownAndKeepTime := by
  unfold Obligations.HostPortsComeUpGoDownAndKeepTime
  intro s p hlive
  refine ⟨fun hup hopen dom id rank hen hroot hcause hdom => ?_, fun hup hopen dom id off rank hen hroot hcause hdom hmaster => ?_,
    fun hp hstate => ?_, fun hup => ?_, fun hruns hopen hup ip mac => ?_⟩
  · exact exec_next rfl (ptpIn_announce hlive hup hopen hen hroot hcause hdom)
  · have hsync := ptpIn_sync (off := off) hlive hup hopen hen hroot hcause hdom hmaster
    refine ⟨fun hfirst hyet hoff => ?_, fun hlater => ⟨_, exec_next rfl (hsync.trans (ptpSync_of_later hlater)), ?_⟩⟩
    · exact exec_next rfl (hsync.trans (ptpSync_of_first hfirst hyet hoff))
    · exact ⟨rfl, rfl, slewRate_bounds (frameIn p s) off⟩
  · exact exec_next rfl (portUp_of_trained hlive hp hstate)
  · exact exec_next rfl (portDown_of_up hlive hup)
  · intro waits u mine
    have hhop := hopKnown_of_up (ip := ip) (mac := mac) hruns hopen hup
    have hheld : heldFor s p ip = waits := rfl
    refine ⟨fun hnone => ?_, fun hsome => ?_⟩
    · rw [hheld, hnone] at hhop
      exact exec_next rfl hhop
    · rw [hheld] at hhop
      dsimp only at hhop
      rw [if_neg (by simpa using hsome)] at hhop
      exact exec_next rfl hhop

/-! ### Telemetry -/

/-- A telemetry pass at the moment of a state (R470, R471). -/
def telemPass (u : State) : State :=
  match telemPort u with
  | none => u
  | some p =>
    let rs := ((List.range (fld (telW u 0) 45 41)).map fun k => entryRecords u (telW u (4 + k))).flatMap id
    let ip := normIp ((telW u 2).toNat + 2 ^ 64 * (telW u 3).toNat)
    forAll (fillDatagrams rs [] 32) (fun d v =>
      modTelem (fun t => { t with seq := t.seq + 1 }) (sendUdp p ip (fld (telW v 0) 63 48) 47712 (telemDatagram v d) v)) u

section
variable {s : State}

theorem telemetry_of_on {n : Nat} (hruns : cpRuns s = true) (hon : bitAt (telW s 0) 47 = true) (hn : n = nextPeriod s) :
    telemetry s = telemPass (modTelem (fun t => { t with last := some (now (advanceTo n s)) }) (advanceTo n s)) := by
  rw [telemetry, if_neg (by simp [hruns, hon]), ← hn]
  extract_lets t u
  change _ = telemPass u
  clear_value u
  unfold telemPass
  cases telemPort u <;> rfl

theorem telemPass_of_none (h : telemPort s = none) : telemPass s = s := by rw [telemPass, h]

theorem telemPass_of_some {p : Nat} (h : telemPort s = some p) :
    telemPass s =
      let rs := ((List.range (fld (telW s 0) 45 41)).map fun k => entryRecords s (telW s (4 + k))).flatMap id
      let ip := normIp ((telW s 2).toNat + 2 ^ 64 * (telW s 3).toNat)
      forAll (fillDatagrams rs [] 32) (fun d v =>
        modTelem (fun t => { t with seq := t.seq + 1 }) (sendUdp p ip (fld (telW v 0) 63 48) 47712 (telemDatagram v d) v)) s := by
  rw [telemPass, h]

end

/-- Settles O38, by the pass with and without a port to the collector. -/
theorem telemetryPassesSendTheirRecords : Obligations.TelemetryPassesSendTheirRecords := by
  unfold Obligations.TelemetryPassesSendTheirRecords
  intro s hruns hon u hu hrunning hnext
  have hpass : telemetry s = telemPass u := by
    rw [telemetry_of_on hruns hon rfl, now_advanceTo _ _ hrunning hnext, hu]
  exact ⟨fun hnone => exec_next rfl (hpass.trans (telemPass_of_none hnone)),
    fun p hport => exec_next rfl (hpass.trans (telemPass_of_some hport))⟩

end Sys2Proof.Proofs
end

section
/-! SUPPORT. CTRL flits that reach a link (R432), and acknowledgement and replay (R422 to R424, R430, R441); statement
O39. -/

namespace Sys2Proof.Proofs
open Sys2Proof Sys2Proof.Machine Sys2Proof.Safety Sys2Proof.Laws

/-! ### One entry of a list, changed twice -/

theorem modAt_modAt {α : Type} (xs : List α) (i : Nat) (f g : α → α) :
    modAt (modAt xs i f) i g = modAt xs i (fun x => g (f x)) := by
  induction xs generalizing i with
  | nil => rfl
  | cons x xs ih =>
    cases i with
    | zero => rfl
    | succ i => exact congrArg (x :: ·) (ih i)

theorem modAt_congr {α : Type} {xs : List α} {i : Nat} {f g : α → α} (d : α) (h : f (xs.getD i d) = g (xs.getD i d)) :
    modAt xs i f = modAt xs i g := by
  induction xs generalizing i with
  | nil => rfl
  | cons x xs ih =>
    cases i with
    | zero => exact congrArg (· :: xs) h
    | succ i => exact congrArg (x :: ·) (ih h)

section
variable {l : Nat} {s : State}

theorem modLink_modLink (f g : Link → Link) : modLink l g (modLink l f s) = modLink l (fun k => g (f k)) s := by
  simp only [modLink, modAt_modAt]

theorem modTx_modTx (f g : LinkTx → LinkTx) : modTx l g (modTx l f s) = modTx l (fun t => g (f t)) s := modLink_modLink _ _

theorem modTx_congr {f g : LinkTx → LinkTx} (h : f (getLink s l).tx = g (getLink s l).tx) : modTx l f s = modTx l g s := by
  have heq : modAt s.links l (fun k => { k with tx := f k.tx }) = modAt s.links l (fun k => { k with tx := g k.tx }) :=
    modAt_congr {} (by rw [show s.links.getD l {} = getLink s l from rfl, h])
  exact congrArg (fun x => { s with links := x }) heq

theorem getLink_modTx (f : LinkTx → LinkTx) (h : l < s.links.length) : (getLink (modTx l f s) l).tx = f (getLink s l).tx := by
  rw [modTx, getLink_modLink_self _ _ _ h]

end

/-! ### A CTRL flit that arrives -/

section
variable {l type : Nat} {f : List W64} {s u : State} {g : State → State}

theorem ctrlIn_of_arrives (h : Statement.CtrlArrives l type f s u) : ctrlIn l type f g s = g u := by
  obtain ⟨hlive, hlink, ⟨hnot0, hnot5⟩, hgood, htype, rfl⟩ := h
  rw [ctrlIn, if_neg (by simp [hlive, hlink, hnot0, hnot5]), if_pos (by simp [hgood, htype])]
  rfl

theorem ctrlIn_of_bad (hlive : live s = true) (hlink : isLink s l = true) (hruns : (getLink s l).stat.state ≠ 0)
    (hruns' : (getLink s l).stat.state ≠ 5) (hbad : ctrlOk f = false) :
    ctrlIn l type f g s = protoError l (takeArrived (.flit l 1 f) s) := by
  rw [ctrlIn, if_neg (by simp [hlive, hlink, hruns, hruns']), if_neg (by simp [hbad])]
  rfl

end

/-! ### NAK and ACK -/

section
variable {l e : Nat} {f : List W64} {s : State}

theorem nakTo_of_held (h : ∃ x ∈ (getLink s l).tx.replay, x.seq = e) : nakTo l e s = modTx l (replayFrom e) s := by
  obtain ⟨x, hx, hseq⟩ := h
  exact if_pos (List.any_eq_true.mpr ⟨x, hx, by simpa using hseq⟩)

theorem not_any_seq (h : ∀ x ∈ (getLink s l).tx.replay, x.seq ≠ e) : ¬ ((getLink s l).tx.replay.any fun f => f.seq = e) = true := by
  simpa using h

theorem nakTo_of_next (h : ∀ x ∈ (getLink s l).tx.replay, x.seq ≠ e) (hnext : e = (getLink s l).tx.nextSeq) :
    nakTo l e s = modTx l (fun t => { t with replay := [], resend := [] }) s := by
  rw [nakTo, if_neg (not_any_seq h), if_pos hnext]

theorem nakTo_of_unknown (h : ∀ x ∈ (getLink s l).tx.replay, x.seq ≠ e) (hnext : e ≠ (getLink s l).tx.nextSeq) :
    nakTo l e s = protoError l s := by
  rw [nakTo, if_neg (not_any_seq h), if_neg hnext]

/-- What an ACK does to a transmitter: the credits it names are free, the frames it acknowledges forgotten (R423, R424). -/
def ackTx (f : List W64) (x : LinkTx) : LinkTx :=
  let p := { x with pools := takeFreed (poolCounts f) x.pools }
  if bitAt (wd f 0) 0 then ackUpTo (fld (wd f 0) 43 32) p else p

theorem ackTx_freed : (let v := modTx l (fun t => { t with pools := takeFreed (poolCounts f) t.pools }) s
    if bitAt (wd f 0) 0 then modTx l (ackUpTo (fld (wd f 0) 43 32)) v else v) = modTx l (ackTx f) s := by
  unfold ackTx
  cases hbit : bitAt (wd f 0) 0 with
  | true => exact modTx_modTx _ _
  | false => rfl

theorem ackIn_eq : ackIn l f s =
    if (getLink s l).tx.ackAsNak then
      nakTo l (if bitAt (wd f 0) 0 then (fld (wd f 0) 43 32 + 1) % 4096 else 0)
        (modTx l (fun _ => { ackTx f (getLink s l).tx with ackAsNak := false }) s)
    else modTx l (fun _ => ackTx f (getLink s l).tx) s := by
  have hplain : modTx l (ackTx f) s = modTx l (fun _ => ackTx f (getLink s l).tx) s := modTx_congr rfl
  have hnak : modTx l (fun t => { t with ackAsNak := false }) (modTx l (ackTx f) s) =
      modTx l (fun _ => { ackTx f (getLink s l).tx with ackAsNak := false }) s := (modTx_modTx _ _).trans (modTx_congr rfl)
  rw [← hnak, ← hplain, ← ackTx_freed]
  rfl

end

/-! ### Timers -/

section
variable {l n : Nat} {s : State}

theorem replayTimeout_of_waiting (hruns : linkRuns s l = true) (hn : (getLink s l).rx.replayWait = some n) :
    let v := advanceTo ((getLink s l).rx.waitSince + replayNs (getLink s l).stat.gen) s
    replayTimeout l s = if n < 8 then sendNak l (n + 1) v else startFast l (modRx l (fun r => { r with replayWait := none }) v) := by
  dsimp only
  unfold replayTimeout
  rw [hn]
  dsimp only
  rw [if_neg (by simp [hruns])]

end

/-- Settles O39, by what NAK and ACK find in the replay buffer, and the two timers. -/
theorem replayFollowsAcksAndNaks : Obligations.ReplayFollowsAcksAndNaks := by
  unfold Obligations.ReplayFollowsAcksAndNaks
  intro l f s u
  refine ⟨fun harr => ?_, fun harr hl => ?_, fun hruns n hn => ?_, fun hruns => exec_next rfl (if_pos hruns)⟩
  · intro e v
    refine ⟨fun h => ?_, fun h hnext => ?_, fun h hnext => ?_⟩
    · exact exec_next rfl ((ctrlIn_of_arrives harr).trans (nakTo_of_held h))
    · exact exec_next rfl ((ctrlIn_of_arrives harr).trans (nakTo_of_next h hnext))
    · exact exec_next rfl ((ctrlIn_of_arrives harr).trans (nakTo_of_unknown h hnext))
  · intro seq x p y e rest
    have hack : exec (.ack l f) s = .next (ackIn l f u) := exec_next rfl (ctrlIn_of_arrives harr)
    have hy : ackTx f (getLink u l).tx = y := rfl
    rw [ackIn_eq, hy] at hack
    refine ⟨fun hplain => ?_, fun hnak => ?_⟩
    · rwa [if_neg (by rw [show (getLink u l).tx.ackAsNak = false from hplain]; decide)] at hack
    · rw [if_pos hnak] at hack
      have htx : (getLink (modTx l (fun _ => { y with ackAsNak := false }) u) l).tx = { y with ackAsNak := false } :=
        getLink_modTx _ hl
      refine ⟨fun h => ?_, fun h hnext => ?_, fun h hnext => ?_⟩
      · rw [nakTo_of_held (by rw [htx]; exact h), modTx_modTx] at hack
        exact hack
      · rw [nakTo_of_next (by rw [htx]; exact h) (by rw [htx]; exact hnext), modTx_modTx] at hack
        exact hack
      · rw [nakTo_of_unknown (by rw [htx]; exact h) (by rw [htx]; exact hnext)] at hack
        exact hack
  · intro ns v hv
    have htime : replayTimeout l s =
        if n < 8 then sendNak l (n + 1) v else startFast l (modRx l (fun r => { r with replayWait := none }) v) := by
      rw [hv]
      exact replayTimeout_of_waiting hruns hn
    exact ⟨fun h => exec_next rfl (htime.trans (if_pos h)), fun h => exec_next rfl (htime.trans (if_neg (Nat.not_lt.mpr h)))⟩

end Sys2Proof.Proofs
end

section
/-! SUPPORT. Training, retraining and step-up of a link (R420, R430, R436 to R442, R448), time exchanges (R239 to R243,
R443 to R446) and the frames that arrive and go out (R413 to R421, R427, R447); statements O40, O41 and O42. -/

namespace Sys2Proof.Proofs
open Sys2Proof Sys2Proof.Machine Sys2Proof.Safety Sys2Proof.Laws

/-! ### Training -/

section
variable {l next a : Nat} {f : List W64} {lanes : List TsRx} {s : State}

theorem initIn_of_training (h : (getLink s l).stat.state = 1) :
    initIn l f s = checkTrained l (modLink l (fun k => { k with
      tx := { k.tx with pools := (poolCounts f).map fun c => { credits := c }, nextSeq := 0, replay := [], resend := [] }
      train := { k.train with initRecv := true } }) s) := by
  rw [initIn, if_pos h]

theorem genStepIn_of_next (hup : (getLink s l).stat.state = 2) (hnext : next = (getLink s l).stat.gen + 1)
    (hbelow : (getLink s l).stat.gen < targetGen s l) :
    genStepIn l next s = modTrain l (fun t => { t with
      genStepRecv := next, stepLeft := if t.genStepSent = next && t.stepLeft.isNone then some 8 else t.stepLeft }) s := by
  rw [genStepIn, if_pos (by simp [hup, hnext, hbelow])]

theorem stepUp_of_agreed (hrecv : (getLink s l).train.genStepRecv ≠ 0)
    (hsent : (getLink s l).train.genStepRecv = (getLink s l).train.genStepSent) (hup : (getLink s l).stat.state = 2)
    (hidle : (getLink s l).train.idleUntil = some a) :
    stepUp l s = startTraining l (getLink s l).train.genStepRecv (advanceTo a s) := by
  have hagreed : stepAgreed (getLink s l) = true := by simpa [stepAgreed, hup, ← hsent] using hrecv
  simp only [stepUp, hidle, if_pos hagreed]

theorem tsIn_of_up (hlive : live s = true) (hen : isEnabled s l = true) (hup : (getLink s l).stat.state = 2)
    (hts2 : ∃ x ∈ lanes, tsOk x.words = true ∧ fld (wd x.words 0) 63 60 = 2) :
    tsIn l lanes s = lanesTs l lanes (startFast l s) := by
  have hany : (lanes.any fun x => tsOk x.words && fld (wd x.words 0) 63 60 = 2) = true := by simpa using hts2
  simp only [tsIn, hlive, hen, hup, hany, Bool.not_true, Bool.or_self, Bool.false_eq_true, if_false, if_true]

theorem tsIn_of_training (hlive : live s = true) (hen : isEnabled s l = true)
    (hstate : (getLink s l).stat.state = 1 ∨ (getLink s l).stat.state = 3) :
    let v := lanesTs l lanes s
    tsIn l lanes s = if (getLink s l).stat.state = 1 && (getLink v l).train.orderBad then failAttempt l v else checkSteps l (ownEq l v) := by
  dsimp only
  unfold tsIn
  dsimp only
  rw [if_neg (by simp [hlive, hen]), if_neg (by rcases hstate with h | h <;> simp [h]), if_pos (by simpa using hstate)]

/-- An attempt that has begun and has not yet passed step 5 (R437). -/
theorem attemptTimeout_of_begun (hstate : (getLink s l).stat.state = 1) (hfirst : 1 ≤ (getLink s l).train.step)
    (hlast : (getLink s l).train.step < 6) :
    let t := (getLink s l).train
    let last := t.startedAt + 20000000
    attemptTimeout l s = match stepLimit t with
      | some u =>
        if t.step = 1 && 0 < widthNow l s && (t.gen ≤ 1 || u ≤ last) then formLink l (widthNow l s) (advanceTo u s)
        else failAttempt l (advanceTo (if t.gen ≤ 1 then u else last) s)
      | none => if t.gen ≤ 1 then s else failAttempt l (advanceTo last s) := by
  dsimp only
  unfold attemptTimeout
  dsimp only
  rw [if_neg (by simp only [hstate, Bool.or_eq_true, decide_eq_true_eq]; omega)] <;> rfl

theorem attemptTimeout_forms (hstate : (getLink s l).stat.state = 1) (hstep : (getLink s l).train.step = 1)
    (hpeer : (getLink s l).train.peerTs = some a) (hwidth : 0 < widthNow l s)
    (htime : (getLink s l).train.gen ≤ 1 ∨ a + 100000 ≤ (getLink s l).train.startedAt + 20000000) :
    attemptTimeout l s = formLink l (widthNow l s) (advanceTo (a + 100000) s) := by
  have hlimit : stepLimit (getLink s l).train = some (a + 100000) := by simp [stepLimit, hstep, hpeer]
  rw [attemptTimeout_of_begun hstate (by omega) (by omega), hlimit]
  dsimp only
  rw [if_pos (by simpa only [hstep, hwidth, decide_true, Bool.true_and, Bool.or_eq_true, decide_eq_true_eq] using htime)]

theorem attemptTimeout_first (hstate : (getLink s l).stat.state = 1) (hgen : (getLink s l).train.gen ≤ 1)
    (hlimit : (getLink s l).train.step = 1 ∧ widthNow l s = 0 ∧ (getLink s l).train.peerTs.map (· + 100000) = some a ∨
      (getLink s l).train.step = 3 ∧ a = (getLink s l).train.stepAt + 2000000) :
    attemptTimeout l s = failAttempt l (advanceTo a s) := by
  have hsome : stepLimit (getLink s l).train = some a := by
    rcases hlimit with ⟨hstep, -, hpeer⟩ | ⟨hstep, ha⟩
    · rw [stepLimit, if_pos hstep, hpeer]
    · rw [stepLimit, if_neg (by omega), if_pos hstep, ha]
  have hno : ¬ ((getLink s l).train.step = 1 ∧ 0 < widthNow l s) := by
    rcases hlimit with ⟨-, hwidth, -⟩ | ⟨hstep, -⟩ <;> omega
  rw [attemptTimeout_of_begun hstate (by omega) (by omega), hsome]
  dsimp only
  rw [if_neg (by simp only [Bool.and_eq_true, decide_eq_true_eq]; exact fun h => hno h.1), if_pos hgen]

theorem attemptTimeout_later (hstate : (getLink s l).stat.state = 1) (hfirst : 1 ≤ (getLink s l).train.step)
    (hlast : (getLink s l).train.step < 6) (hgen : 2 ≤ (getLink s l).train.gen)
    (hno : (getLink s l).train.step ≠ 1 ∨ widthNow l s = 0 ∨
      ∀ a, (getLink s l).train.peerTs = some a → (getLink s l).train.startedAt + 20000000 < a + 100000) :
    attemptTimeout l s = failAttempt l (advanceTo ((getLink s l).train.startedAt + 20000000) s) := by
  rw [attemptTimeout_of_begun hstate hfirst hlast]
  have hgen' : ¬ (getLink s l).train.gen ≤ 1 := by omega
  cases hlimit : stepLimit (getLink s l).train with
  | none => exact if_neg hgen'
  | some u =>
    have hlate : ¬ ((getLink s l).train.step = 1 ∧ 0 < widthNow l s ∧ u ≤ (getLink s l).train.startedAt + 20000000) := by
      rintro ⟨hstep, hwidth, hu⟩
      rw [stepLimit, if_pos hstep] at hlimit
      obtain ⟨a, ha, rfl⟩ := Option.map_eq_some_iff.mp hlimit
      rcases hno with h | h | h
      · exact h hstep
      · omega
      · have := h a ha
        omega
    dsimp only
    rw [if_neg (by simp only [Bool.and_eq_true, Bool.or_eq_true, decide_eq_true_eq]
                   exact fun h => hlate ⟨h.1.1, h.1.2, h.2.resolve_left hgen'⟩), if_neg hgen']

theorem idleEnd_of_over (hidle : (getLink s l).train.idleUntil = some a) (hafter : (getLink s l).train.afterIdle ≠ 0) :
    idleEnd l s = startTraining l (getLink s l).train.afterIdle (advanceTo a s) := by
  simp only [idleEnd, hidle, if_neg hafter]

theorem fastTimeout_of_fast (hfast : (getLink s l).train.fastSince = some a) :
    fastTimeout l s = trainFromStart l (leaveService l (advanceTo (a + 200000) s)) := by
  simp only [fastTimeout, hfast]

theorem idleSeen_of_attempt (hlive : live s = true) (hen : isEnabled s l = true) (hstate : (getLink s l).stat.state = 1)
    (hstep : 1 ≤ (getLink s l).train.step) : idleSeen l s = failAttempt l s := by
  simp [idleSeen, hlive, hen, hstate, hstep]

theorem idleSeen_of_lost (hlive : live s = true) (hen : isEnabled s l = true)
    (hstate : (getLink s l).stat.state = 3 ∨ (getLink s l).stat.state = 2 ∧ stepAgreed (getLink s l) = false) :
    idleSeen l s = trainFromStart l (leaveService l s) := by
  have hagreed : stepAgreed (getLink s l) = false := by
    rcases hstate with h | h
    · simp [stepAgreed, h]
    · exact h.2
  have hstate' : (getLink s l).stat.state = 2 ∨ (getLink s l).stat.state = 3 := hstate.symm.imp_left And.left
  have hnot : (getLink s l).stat.state ≠ 1 := by omega
  simp [idleSeen, hlive, hen, hagreed, hnot, hstate']

end

/-- Settles O40, by what each message, reading and limit of a link does in the states that it is for. -/
theorem linksTrainRetrainAndStepUp : Obligations.LinksTrainRetrainAndStepUp := by
  unfold Obligations.LinksTrainRetrainAndStepUp
  intro l f s u
  refine ⟨fun harr hstate => ?_, fun harr => ?_, ?_, fun harr hup => ?_, fun hlive hen lanes => ⟨fun hup hts2 => ?_,
    fun hstate v hv => ⟨fun hone hbad => ?_, fun hgood => ?_⟩⟩, fun hstate hfirst hlast => ?_, fun t hidle hafter => ?_, fun t hfast => ?_,
    fun hlive hruns => ?_, fun hlive hen => ⟨fun hstate hstep => ?_, fun hstate => ?_⟩, fun hmode => ?_⟩
  · exact exec_next rfl ((ctrlIn_of_arrives harr).trans (initIn_of_training hstate))
  · intro next hup hnext hbelow
    exact exec_next rfl ((ctrlIn_of_arrives harr).trans (genStepIn_of_next hup hnext hbelow))
  · intro t hrecv hsent hup a hidle
    exact exec_next rfl (stepUp_of_agreed hrecv hsent hup hidle)
  · exact exec_next rfl ((ctrlIn_of_arrives harr).trans (if_pos hup))
  · exact exec_next rfl (tsIn_of_up hlive hen hup hts2)
  · subst hv
    exact exec_next rfl ((tsIn_of_training hlive hen hstate).trans (if_pos (by simp [hone, hbad])))
  · subst hv
    exact exec_next rfl ((tsIn_of_training hlive hen hstate).trans (if_neg (by rcases hgood with h | h <;> simp [h])))
  · intro t last
    exact ⟨fun a hstep hpeer hwidth htime => exec_next rfl (attemptTimeout_forms hstate hstep hpeer hwidth htime),
      fun a hgen hlimit => exec_next rfl (attemptTimeout_first hstate hgen hlimit),
      fun hgen hno => exec_next rfl (attemptTimeout_later hstate hfirst hlast hgen hno)⟩
  · exact exec_next rfl (idleEnd_of_over hidle hafter)
  · exact exec_next rfl (fastTimeout_of_fast hfast)
  · exact exec_next rfl (if_pos (by simp [hlive, hruns]))
  · exact exec_next rfl (idleSeen_of_attempt hlive hen hstate hstep)
  · exact exec_next rfl (idleSeen_of_lost hlive hen hstate)
  · exact exec_next rfl (if_pos hmode)

/-! ### Time exchanges -/

section
variable {l t2 t4 t1 : Nat} {f : List W64} {x : Xchg} {s : State}

theorem timeReqIn_of_service (h : inService s = true) :
    timeReqIn l f t2 s = sendCtrl l (ctrlFlit 5
      [(7, 0, fld (wd f 0) 7 0), (15, 8, s.time.rootPriority), (19, 16, s.time.hops), (21, 20, s.time.state)] (mkW [(63, 0, t2)]) 0
      (mkW [(63, 32, s.time.pathBound), (20, 0, if s.time.isRoot || s.time.upLink.isSome then s.time.rootEid else 0x1FFFFF)])) s := by
  simp only [timeReqIn, h, if_true, Bool.true_and]

theorem timeReqIn_of_startup (h : inService s = false) :
    timeReqIn l f t2 s = sendCtrl l (ctrlFlit 5 [(7, 0, fld (wd f 0) 7 0), (15, 8, 255), (19, 16, 8), (21, 20, 0)] (mkW [(63, 0, t2)]) 0
      (mkW [(63, 32, 0), (20, 0, 0x1FFFFF)])) s := by
  simp only [timeReqIn, h, Bool.false_eq_true, if_false, Bool.false_and]

theorem stampCtrl_resp (t : Nat) (c : List W64) (htype : fld (wd c 0) 63 56 = 5) (hlen : 2 < c.length) :
    wd (stampCtrl t c) 2 = mkW [(63, 0, t)] := by
  rw [stampCtrl, if_pos htype]
  simp [wd, hlen]

theorem ctrlGone_timeReq {c : List W64} (hl : l < s.links.length) (htype : fld (wd c 0) 63 56 = 4)
    (hx : (getLink s l).xchg = some x) (hnone : x.t1 = none) :
    (getLink (ctrlGone l [c] s) l).xchg = some { x with t1 := some s.time.t64 } := by
  simp [ctrlGone, htype, getLink_modLink_self _ _ _ hl, hx, hnone]

theorem timeRespIn_of_late (hx : (getLink s l).xchg = some x) (ht1 : x.t1 = some t1) (hxid : x.xid = fld (wd f 0) 7 0)
    (hlate : x.bad = true ∨ t1 + 640000 < t4) :
    timeRespIn l f t4 s = modStat l (fun t => { t with timeDiscards := t.timeDiscards + 1 }) (modLink l (fun k => { k with xchg := none }) s) := by
  have hbind : ((getLink s l).xchg.bind fun x => x.t1.map fun t1 => (x, t1)) = some (x, t1) := by simp [hx, ht1]
  simp only [timeRespIn, hbind]
  rw [if_neg (not_not_intro hxid), if_pos (by simpa using hlate)]

theorem timeRespIn_of_good (hx : (getLink s l).xchg = some x) (ht1 : x.t1 = some t1) (hxid : x.xid = fld (wd f 0) 7 0)
    (hgood : x.bad = false) (htime : t4 ≤ t1 + 640000) :
    let p : TimePeer := { link := l, priority := fld (wd f 0) 15 8, rootEid := fld (wd f 3) 20 0, hops := fld (wd f 0) 19 16
                          pathBound := fld (wd f 3) 63 32 }
    let theta : Int := ((((wd f 1).toNat : Int) - t1) - ((t4 : Int) - (wd f 2).toNat)) / 2
    let delay : Int := ((((wd f 1).toNat : Int) - t1) + ((t4 : Int) - (wd f 2).toNat)) / 2
    let v := elect (modTime (fun t => { t with peers := p :: t.peers.filter (fun q => q.link ≠ l) })
      (modLink l (fun k => { k with pathDelay := delay })
        (modStat l (fun t => { t with timeExchanges := t.timeExchanges + 1 }) (modLink l (fun k => { k with xchg := none }) s))))
    timeRespIn l f t4 s = if v.time.upLink = some l && inService v
      then upstreamExchange (getLink s l).stat.gen theta (p.hops < 8) v else v := by
  have hbind : ((getLink s l).xchg.bind fun x => x.t1.map fun t1 => (x, t1)) = some (x, t1) := by simp [hx, ht1]
  intro p theta delay v
  unfold timeRespIn
  dsimp only
  rw [hbind]
  dsimp only
  rw [if_neg (not_not_intro hxid), if_neg (by simpa [hgood] using htime)]

theorem timeRequest_of_due (hserv : inService s = true) (hup : linkUp s l = true) (hpeer : peerIsGt64 s l = true) :
    timeRequest l s = sendCtrl l (ctrlFlit 4 [(7, 0, (getLink s l).xid)] 0 0 0)
      (modLink l (fun k => { k with
        stat := { k.stat with timeDiscards := k.stat.timeDiscards + b2n k.xchg.isSome }
        xchg := some { xid := k.xid, bad := k.stat.state = 3 }, xid := (k.xid + 1) % 256 }) s) := by
  rw [timeRequest, if_pos (by simp [hserv, hup, hpeer])]

theorem timeTimeout_of_open (hx : (getLink s l).xchg = some x) (ht1 : x.t1 = some t1) :
    timeTimeout l s = modLink l (fun k => { k with
      xchg := none, stat := { k.stat with timeDiscards := k.stat.timeDiscards + 1 } }) (advanceTo (t1 / 64 + 10000) s) := by
  have hbind : (getLink s l).xchg.bind (·.t1) = some t1 := by simp [hx, ht1]
  simp only [timeTimeout, hbind]

end

/-- Settles O41, by what each side of an exchange does. -/
theorem timeExchangesRunTheirCourse : Obligations.TimeExchangesRunTheirCourse := by
  unfold Obligations.TimeExchangesRunTheirCourse
  intro l f s u
  refine ⟨fun harr hruns t2 => ?_, stampCtrl_resp, fun c x hl htype hx hnone => ctrlGone_timeReq hl htype hx hnone,
    fun harr t4 x t1 hx ht1 hxid => ⟨fun hlate => ?_, fun hgood htime => ?_⟩, fun hserv hup hpeer => ?_, fun x t1 hx ht1 => ?_⟩
  · intro x t
    have hreq : exec (.timeReq l f t2) s = .next (timeReqIn l f t2 u) := exec_next rfl ((ctrlIn_of_arrives harr).trans (if_pos hruns))
    exact ⟨fun h => hreq.trans (congrArg _ (timeReqIn_of_service h)), fun h => hreq.trans (congrArg _ (timeReqIn_of_startup h))⟩
  · exact exec_next rfl ((ctrlIn_of_arrives harr).trans (timeRespIn_of_late hx ht1 hxid hlate))
  · exact exec_next rfl ((ctrlIn_of_arrives harr).trans (timeRespIn_of_good hx ht1 hxid hgood htime))
  · exact exec_next rfl (timeRequest_of_due hserv hup hpeer)
  · exact exec_next rfl (timeTimeout_of_open hx ht1)

/-! ### Frames -/

section
variable {l n : Nat} {f : List W64} {lanes : List LaneRx} {s : State}

theorem linkFrameIn_of_returns (hlive : live s = true) (hlink : isLink s l = true) (hmode : (getLink s l).loop.mode = 4)
    (hstate : (getLink s l).stat.state = 4) : linkFrameIn l lanes s = emit (.returned l lanes) s := by
  simp [linkFrameIn, hlive, hlink, hmode, hstate]

theorem linkFrameIn_of_tests (hlive : live s = true) (hlink : isLink s l = true) (hmode : (getLink s l).loop.mode = 3)
    (hstate : (getLink s l).stat.state = 4) : linkFrameIn l lanes s = testFrameIn l lanes s := by
  simp [linkFrameIn, hlive, hlink, hmode, hstate]

theorem linkFrameIn_of_near (hlive : live s = true) (hlink : isLink s l = true) (hmode : (getLink s l).loop.mode < 3)
    (hstate : (getLink s l).stat.state = 4) : linkFrameIn l lanes s = s := by
  have hfour : (getLink s l).loop.mode ≠ 4 := by omega
  have hthree : (getLink s l).loop.mode ≠ 3 := by omega
  simp [linkFrameIn, hlive, hlink, hstate, hfour, hthree]

theorem linkFrameIn_of_service (hlive : live s = true) (hlink : isLink s l = true) (hup : (getLink s l).stat.state = 2)
    (hsync : (getLink s l).train.peerSync = none ∨ ∃ n, (getLink s l).train.peerSync = some n ∧ 64 ≤ n) :
    linkFrameIn l lanes s = serviceFrame l lanes s := by
  rcases hsync with h | ⟨n, h, hn⟩
  · simp [linkFrameIn, hlive, hlink, hup, h]
  · simp [linkFrameIn, hlive, hlink, hup, h, Nat.not_lt.mpr hn]

theorem linkFrameIn_of_sync (hlive : live s = true) (hlink : isLink s l = true) (hstate : (getLink s l).stat.state ≠ 4)
    (hsync : (getLink s l).train.peerSync = some n) (hn : n < 64) : linkFrameIn l lanes s = syncFrame l n lanes s := by
  simp [linkFrameIn, hlive, hlink, hstate, hsync, hn]

/-- Step 5 has failed with a SYNC frame of the peer's (Table 13-8). -/
def syncFails (l n : Nat) (lanes : List LaneRx) (s : State) : Bool :=
  (getLink s l).train.syncBad || (32 ≤ n && !(isSync lanes && lanes.length = (getLink s l).stat.lanes))

/-- A SYNC frame noted, with whether step 5 has failed. -/
def syncNoted (l n : Nat) (lanes : List LaneRx) (s : State) : State :=
  noteFrames l lanes (modTrain l (fun t => { t with peerSync := some (n + 1), syncBad := syncFails l n lanes s }) s)

theorem syncFrame_eq : syncFrame l n lanes s =
    if n + 1 < 64 then syncNoted l n lanes s
    else if !syncFails l n lanes s then checkTrained l (syncNoted l n lanes s)
    else if (getLink s l).stat.state = 1 then failAttempt l (syncNoted l n lanes s)
    else modTrain l (fun t => { t with peerSync := none, syncBad := false }) (syncNoted l n lanes s) := rfl

/-- What a link sends in a frame period (R436, R438, R447), where it is enabled. -/
theorem framePeriod_of_idle (hlive : live s = true) (hen : isEnabled s l = true) (hidle : (getLink s l).train.idleUntil ≠ none) :
    framePeriod l s = emit (.idle l) s := by
  simp [framePeriod, hlive, hen, Option.isSome_iff_ne_none, hidle]

theorem framePeriod_of_test (hlive : live s = true) (hen : isEnabled s l = true) (hidle : (getLink s l).train.idleUntil = none)
    (hstate : (getLink s l).stat.state = 4) :
    framePeriod l s =
      if (getLink s l).loop.mode = 1 then loopBack l (sendZero l s)
      else if (getLink s l).loop.mode = 2 then loopBack l (emit (.idle l) s)
      else if (getLink s l).loop.mode = 3 then sendZero l s else s := by
  unfold framePeriod
  dsimp only
  rw [if_neg (by simp [hlive, hen]), if_neg (by simp [hidle]), if_pos hstate]

theorem framePeriod_of_steps (hlive : live s = true) (hen : isEnabled s l = true) (hidle : (getLink s l).train.idleUntil = none)
    (hstate : (getLink s l).stat.state ≠ 4) (hstep : (getLink s l).train.step = 1 ∨ (getLink s l).train.step = 3) :
    framePeriod l s = checkSteps l (sendTs l 1 0 s) := by
  unfold framePeriod
  dsimp only
  rw [if_neg (by simp [hlive, hen]), if_neg (by simp [hidle]), if_neg hstate, if_pos (by simpa using hstep)]

/-- Past steps 1 and 3 the frame is that of step 4, 5 or 6. -/
theorem framePeriod_of_count (hlive : live s = true) (hen : isEnabled s l = true) (hidle : (getLink s l).train.idleUntil = none)
    (hstate : (getLink s l).stat.state ≠ 4) (hstep : (getLink s l).train.step = 4) (hcount : (getLink s l).train.countdown ≠ 0) :
    framePeriod l s = modTrain l (fun t => { t with countdown := t.countdown - 1 }) (sendTs l 2 (getLink s l).train.countdown s) := by
  unfold framePeriod
  dsimp only
  rw [if_neg (by simp [hlive, hen]), if_neg (by simp [hidle]), if_neg hstate, if_neg (by simp [hstep]), if_pos hstep, if_neg hcount]

theorem framePeriod_of_syncs (hlive : live s = true) (hen : isEnabled s l = true) (hidle : (getLink s l).train.idleUntil = none)
    (hstate : (getLink s l).stat.state ≠ 4) (hstep : (getLink s l).train.step = 5) (hsent : (getLink s l).train.syncSent < 63) :
    framePeriod l s = modTrain l (fun t => { t with syncSent := (getLink s l).train.syncSent + 1 }) (sendZero l s) := by
  unfold framePeriod
  dsimp only
  rw [if_neg (by simp [hlive, hen]), if_neg (by simp [hidle]), if_neg hstate, if_neg (by simp [hstep]), if_neg (by simp [hstep]),
    if_pos hstep, if_pos (by omega)]

theorem framePeriod_of_trained (hlive : live s = true) (hen : isEnabled s l = true) (hidle : (getLink s l).train.idleUntil = none)
    (hstate : (getLink s l).stat.state ≠ 4) (hstep : (getLink s l).train.step = 6) : framePeriod l s = sendService l s := by
  unfold framePeriod
  dsimp only
  rw [if_neg (by simp [hlive, hen]), if_neg (by simp [hidle]), if_neg hstate, if_neg (by simp [hstep]), if_neg (by simp [hstep]),
    if_neg (by simp [hstep]), if_pos hstep]

theorem discardIn_of_late (hlive : live s = true) (hnew : Arrived.flit l 4 f ∉ s.inbox) (hruns : linkRuns s l = true) :
    discardIn l f s = if discardOk f then recvDiscard l (fld (wd f 0) 7 0) s else protoError l s := by
  rw [discardIn, if_neg (by simpa using hnew), if_neg (by simp [hlive, hruns])]

end

/-- Settles O42, by the state of the link for each frame that arrives and each frame period. -/
theorem framesArriveAndGoOut : Obligations.FramesArriveAndGoOut := by
  unfold Obligations.FramesArriveAndGoOut
  intro l s hlive
  refine ⟨fun hlink lanes => ⟨fun hmode hstate => ?_, fun hmode hstate => ?_, fun hmode hstate => ?_, fun hup hsync => ?_,
    fun n hstate hsync => ?_⟩, fun hen hidle => ?_, fun hen hidle hstate => ?_, fun hen hidle hstate => ⟨fun hstep => ?_,
    fun hstep hcount => ?_, fun hstep hsent => ?_, fun hstep => ?_⟩, fun f hnew hruns => ⟨fun hok => ?_, fun hbad => ?_⟩,
    fun f hlink hruns hruns' hbad => ?_⟩
  · exact exec_next rfl (linkFrameIn_of_returns hlive hlink hmode hstate)
  · exact exec_next rfl (linkFrameIn_of_tests hlive hlink hmode hstate)
  · exact exec_next rfl (linkFrameIn_of_near hlive hlink hmode hstate)
  · exact exec_next rfl (linkFrameIn_of_service hlive hlink hup hsync)
  · intro bad v hv
    have hv' : v = syncNoted l n lanes s := hv
    have hframe (hn : n < 64) : exec (.linkFrameReceive l lanes) s = .next (syncFrame l n lanes s) :=
      exec_next rfl (linkFrameIn_of_sync hlive hlink hstate hsync hn)
    refine ⟨fun hn => ?_, fun hn hgood => ?_, fun hn hfails hone => ?_⟩
    · rw [hframe (by omega), syncFrame_eq, if_pos (by omega), hv']
    · rw [hframe (by omega), syncFrame_eq, if_neg (by omega), if_pos (by rw [show syncFails l n lanes s = false from hgood]; rfl), hv']
    · rw [hframe (by omega), syncFrame_eq, if_neg (by omega), if_neg (by rw [show syncFails l n lanes s = true from hfails]; decide),
        if_pos hone, hv']
  · exact exec_next rfl (framePeriod_of_idle hlive hen hidle)
  · intro back
    have htest : exec (.laneFramePeriod l) s = .next _ := exec_next rfl (framePeriod_of_test hlive hen hidle hstate)
    refine ⟨fun hmode => ?_, fun hmode => ?_, fun hmode => ?_⟩
    · rw [htest, if_pos hmode]
      rfl
    · rw [htest, if_neg (by omega), if_pos hmode]
      rfl
    · rw [htest, if_neg (by omega), if_neg (by omega), if_pos hmode]
  · exact exec_next rfl (framePeriod_of_steps hlive hen hidle hstate hstep)
  · exact exec_next rfl (framePeriod_of_count hlive hen hidle hstate hstep hcount)
  · exact exec_next rfl (framePeriod_of_syncs hlive hen hidle hstate hstep hsent)
  · exact exec_next rfl (framePeriod_of_trained hlive hen hidle hstate hstep)
  · exact exec_next rfl ((discardIn_of_late hlive hnew hruns).trans (if_pos hok))
  · exact exec_next rfl ((discardIn_of_late hlive hnew hruns).trans (if_neg (by simp [hbad])))
  · intro t
    have hctrl (type : Nat) (g : State → State) : ctrlIn l type f g s = t := ctrlIn_of_bad hlive hlink hruns hruns' hbad
    exact ⟨exec_next rfl (hctrl 1 _), exec_next rfl (hctrl 2 _), exec_next rfl (hctrl 3 _), exec_next rfl (hctrl 6 _),
      exec_next rfl (hctrl 7 _), fun x => ⟨exec_next rfl (hctrl 4 _), exec_next rfl (hctrl 5 _)⟩⟩

end Sys2Proof.Proofs
end

section
/-! SUPPORT. Restore: reports of double sources, candidates, their loads and RESTORE_GO (R325 to R328); statements O43 and
O44. -/

namespace Sys2Proof.Proofs
open Sys2Proof Sys2Proof.Machine Sys2Proof.Safety Sys2Proof.Laws

/-! ### Flits and packets of the doubles that arrive -/

section
variable {l type kind : Nat} {f : List W64} {bytes : List Byte} {c : Ctl} {h : SyncHdr} {s u : State}

theorem ctlArrive_of_arrives {g : Ctl → State → State} (harr : Statement.CtlArrives l type f c s u) :
    ctlArrive l type f g s = g c u := by
  obtain ⟨rfl, hlive, hcause, hgood, rfl, htype⟩ := harr
  unfold ctlArrive
  dsimp only
  rw [if_neg (by simp [hlive]), if_neg (by simp [hgood]), if_neg (not_not_intro hcause), if_pos htype]

theorem syncArrive_of_arrives {g : Option Packet → State → State} (harr : Statement.SyncArrives l kind bytes h s u) :
    syncArrive l kind bytes g s = g (takeSelfFree l bytes s).1 u := by
  obtain ⟨rfl, hlive, hcause, rfl, hkind⟩ := harr
  unfold syncArrive
  dsimp only
  rw [if_neg (by simp [hlive]), if_neg (not_not_intro hcause), if_pos hkind]

end

/-! ### The restore of a table -/

theorem restoreOf_of_tables {s u : State} (t : Nat) (h : u.tables = s.tables) : restoreOf u t = restoreOf s t := by
  unfold restoreOf findTable
  rw [h]

/-! ### Candidates in order (R326) -/

theorem insertCand_perm (c : Cand) (xs : List Cand) : (insertCand c xs).Perm (c :: xs) := by
  induction xs with
  | nil => exact List.Perm.refl _
  | cons x xs ih =>
    unfold insertCand
    split
    · exact List.Perm.refl _
    · exact (ih.cons x).trans (List.Perm.swap c x xs)

theorem turn_le_of_candBefore {a b : Cand} (h : candBefore a b = true) : b.turn ≤ a.turn := by
  simp only [candBefore, Bool.or_eq_true, Bool.and_eq_true, decide_eq_true_eq] at h
  omega

theorem turn_le_of_not_candBefore {a b : Cand} (h : ¬ candBefore a b = true) : a.turn ≤ b.turn := by
  simp only [candBefore, Bool.or_eq_true, Bool.and_eq_true, decide_eq_true_eq] at h
  omega

theorem insertCand_pairwise (c : Cand) (xs : List Cand) (h : xs.Pairwise fun a b => b.turn ≤ a.turn) :
    (insertCand c xs).Pairwise fun a b => b.turn ≤ a.turn := by
  induction xs with
  | nil => exact List.pairwise_singleton _ _
  | cons x xs ih =>
    obtain ⟨hx, hxs⟩ := List.pairwise_cons.mp h
    unfold insertCand
    split
    case isTrue hb =>
      have hxc := turn_le_of_candBefore hb
      exact List.pairwise_cons.mpr ⟨fun y hy => (List.mem_cons.mp hy).elim (fun e => e ▸ hxc) fun hy => Nat.le_trans (hx y hy) hxc, h⟩
    case isFalse hb =>
      have hcx := turn_le_of_not_candBefore hb
      exact List.pairwise_cons.mpr ⟨fun y hy => (List.mem_cons.mp ((insertCand_perm c xs).mem_iff.mp hy)).elim (fun e => e ▸ hcx) (hx y),
        ih hxs⟩

theorem sortCands_perm (cs acc : List Cand) : (cs.foldl (fun a c => insertCand c a) acc).Perm (cs ++ acc) := by
  induction cs generalizing acc with
  | nil => exact List.Perm.refl _
  | cons c cs ih => exact (ih _).trans (((insertCand_perm c acc).append_left cs).trans List.perm_middle)

theorem sortCands_pairwise (cs acc : List Cand) (h : acc.Pairwise fun a b => b.turn ≤ a.turn) :
    (cs.foldl (fun a c => insertCand c a) acc).Pairwise fun a b => b.turn ≤ a.turn := by
  induction cs generalizing acc with
  | nil => exact h
  | cons c cs ih => exact ih _ (insertCand_pairwise c acc h)

/-! ### RESTORE -/

section
variable {m major : Nat} {r : Request} {s : State} {tb : Table} {k : Keeper}

theorem restoreBody_of_outside (hopen : findTable s (fld (argW r.msg 0) 9 0) = some tb) (hout : isCrown tb = false) :
    restoreBody m r major s = reject gRole 0 s := by
  simp only [restoreBody, hopen]
  rw [if_pos (by simp [hout])]

theorem restoreBody_of_phase (hopen : findTable s (fld (argW r.msg 0) 9 0) = some tb) (hcrown : isCrown tb = true)
    (hkeeper : tb.keeper = some k) (hphase : tb.phase ≠ 3) : restoreBody m r major s = reject gState 0 s := by
  unfold restoreBody
  dsimp only
  rw [hopen]
  dsimp only
  rw [if_neg (by simp [hcrown]), hkeeper]
  dsimp only
  rw [if_pos hphase]

theorem restoreBody_of_restore (hopen : findTable s (fld (argW r.msg 0) 9 0) = some tb) (hcrown : isCrown tb = true)
    (hkeeper : tb.keeper = some k) (hphase : tb.phase = 3) (hfree : ∀ x, k.restore = some x → x.mailbox = 64) :
    let t := fld (argW r.msg 0) 9 0
    let mask := fld (argW r.msg 0) 32 16
    let maxTurn := fld (argW r.msg 1) 63 16
    let v := needRestore t (fun x => { x with mailbox := m, mask := mask, maxTurn := maxTurn, since := now s }) s
    let ask : Ctl := { ctl := 12, table := t, prim := v.ident.eid, a := if maxTurn = 2 ^ 48 - 1 then 2 ^ 64 - 1 else maxTurn }
    let w := if mask.testBit 16 then sendCtl k.spec.partner ask v else v
    let reads := ((List.range 16).filter fun i => mask.testBit i).flatMap fun i => [(i, 0), (i, 1)]
    restoreBody m r major s = if ownPos tb tb.board ≠ 0 then waits w
      else waits (formCheck t (forAll reads
        (fun x s => issue (.candRec t x.1 x.2) x.1 4 true (namedKey (getTarget s x.1) t x.2 2 none) [] s)
        (modRestore t (fun x => { x with reads := reads.length }) w))) := by
  have hidle : k.restore.any (fun r => r.mailbox ≠ 64) = false := by
    cases hr : k.restore with
    | none => rfl
    | some x => simp [hfree x hr]
  dsimp only
  unfold restoreBody
  dsimp only
  rw [hopen]
  dsimp only
  rw [if_neg (by simp [hcrown]), hkeeper]
  dsimp only
  rw [if_neg (not_not_intro hphase), hidle] <;> rfl

end

/-! ### Reports, candidates and loads -/

section
variable {t : Nat} {c h : Ctl} {s : State} {tb : Table} {k : Keeper} {r : Restore}

theorem heldIn_of_crown (hopen : findTable s c.table = some tb) (hcrown : isCrown tb = true) (hkeeper : tb.keeper ≠ none)
    (hfrom : (c.prim ≠ s.ident.eid ∧ 0 < c.pos ∧ c.pos < tb.board.ring.length ∧ eidOf tb (ringAt tb.board c.pos) = c.prim) ∧ h = c ∨
      ¬ (c.prim ≠ s.ident.eid ∧ 0 < c.pos ∧ c.pos < tb.board.ring.length ∧ eidOf tb (ringAt tb.board c.pos) = c.prim) ∧
        h = { c with pos := ownPos tb tb.board, prim := s.ident.eid }) :
    heldIn c s = if ownPos tb tb.board ≠ 0 then sendCtl (eidOf tb (succOf tb tb.board)) h s
      else formCheck c.table (needRestore c.table (fun r =>
        if h.code = 1 then { r with ends := insertN h.pos r.ends }
        else { r with reps := r.reps ++ [{ pos := h.pos, eid := h.prim, slots := [repSlot h.a, repSlot h.b] }] }) s) := by
  have hh : (if (c.prim ≠ s.ident.eid && c.pos ≠ 0 && c.pos < tb.board.ring.length && eidOf tb (ringAt tb.board c.pos) = c.prim : Bool)
      then c else { c with pos := ownPos tb tb.board, prim := s.ident.eid }) = h := by
    rcases hfrom with ⟨⟨hprim, hpos, hlt, heid⟩, rfl⟩ | ⟨hno, rfl⟩
    · exact if_pos (by simp [hprim, Nat.pos_iff_ne_zero.mp hpos, hlt, heid])
    · exact if_neg (by simpa [Nat.pos_iff_ne_zero] using hno)
  have htable : h.table = c.table := by
    rcases hfrom with ⟨-, rfl⟩ | ⟨-, rfl⟩ <;> rfl
  unfold heldIn
  rw [hopen]
  dsimp only
  rw [if_neg (by simp [hcrown, hkeeper]), hh, htable]

theorem formTimeout_of_waiting (hr : restoreOf s t = some (tb, k, r)) (hformed : r.formed = false) (hmbox : r.mailbox ≠ 64) :
    formTimeout t s = formCands t (advanceTo (r.since + 10000000000) s) := by
  simp only [formTimeout, hr]
  rw [if_neg (by simp [hformed, hmbox])]

theorem formCands_of_waiting (hr : restoreOf s t = some (tb, k, r)) (hformed : r.formed = false) (hmbox : r.mailbox ≠ 64)
    (hpos : ownPos tb tb.board = 0) :
    let cs := storedCands s tb k r ++ if r.mask.testBit 16 then doubleCands r else []
    formCands t s = nextCand t (modRestore t (fun r => { r with formed := true, cands := cs.foldl (fun a c => insertCand c a) [] }) s) := by
  simp only [formCands, hr]
  rw [if_neg (by simp [hformed, hmbox, hpos])]

theorem loadedTimeout_of_waiting {x : Cand} (hr : restoreOf s t = some (tb, k, r)) (hcur : r.cur = some x) :
    loadedTimeout t s = nextCand t (sendGo tb 1 x r.num (advanceTo (r.sentAt + 60000000000) s)) := by
  simp only [loadedTimeout, hr, hcur]

theorem nextCand_of_none (hr : restoreOf s t = some (tb, k, r)) (hnone : r.cands = []) :
    nextCand t s = respond r.mailbox (failedAns 0x34 s) (modKeeper t (fun k => { k with restore := none }) s) := by
  simp only [nextCand, hr, tryNext, hnone]

theorem candidateIn_of_crown (hopen : findTable s c.table = some tb) (hcrown : isCrown tb = true) (hkeeper : tb.keeper ≠ none)
    (hpos : ownPos tb tb.board ≠ 0) :
    candidateIn c s = startLoad nextCand c.table c.a c.turn (c.b % 32) (c.b / 256 % 2) (needRestore c.table id (sendAround tb c s)) := by
  simp only [candidateIn, hopen]
  rw [if_neg (by simp [hcrown, hkeeper, hpos])]

theorem loadedIn_of_crown (hopen : findTable s c.table = some tb) (hcrown : isCrown tb = true) :
    loadedIn c s = if ownPos tb tb.board = 0 then loadedAtZero nextCand c s else sendCtl (eidOf tb (succOf tb tb.board)) c s := by
  simp only [loadedIn, hopen]
  rw [if_neg (by simp [hcrown])]

theorem loadedAtZero_of_current {x : Cand} (hr : restoreOf s c.table = some (tb, k, r)) (hcur : r.cur = some x) (hnum : c.a = r.num) :
    let done := (c.pos, true) :: r.loaded.filter fun x => x.1 ≠ c.pos
    let v := modRestore c.table (fun r => { r with loaded := done }) s
    loadedAtZero nextCand c s =
      if c.code = 1 then nextCand c.table (sendGo tb 1 x r.num s)
      else if (List.range tb.board.ring.length).all fun i => done.any fun x => x.1 = i then sendGo tb 0 x r.num v else v := by
  simp only [loadedAtZero, hr, hcur]
  rw [if_neg (not_not_intro hnum)]

/-- Every position of a ring has reported (R327). -/
theorem all_reported_iff {n : Nat} {done : List (Nat × Bool)} :
    ((List.range n).all fun i => done.any fun x => x.1 = i) = true ↔ ∀ i < n, ∃ x ∈ done, x.1 = i := by
  simp only [List.all_eq_true, List.mem_range, List.any_eq_true, decide_eq_true_eq]

theorem partnerGo_of_attached {d : Double} (hd : attachedOf s c.prim c.table = some d) :
    partnerGo c s = if c.code = 0 then if freshDouble d then modThis d (adoptStaged c.turn) s else s
      else modThis d (fun d => { d with staged := [] }) s := by
  simp only [partnerGo, hd]

theorem partnerGo_of_none (hd : attachedOf s c.prim c.table = none) : partnerGo c s = s := by simp only [partnerGo, hd]

theorem memberGo_of_none (hr : restoreOf s c.table = none) : memberGo c s = s := by simp only [memberGo, hr]

theorem memberGo_of_loaded {ld : Load} (hr : restoreOf s c.table = some (tb, k, r)) (hpos : ownPos tb tb.board ≠ 0)
    (hprim : c.prim ≠ s.ident.eid) (hload : r.load = some ld) (hnum : ld.num = c.a) :
    memberGo c s = if c.code = 0 then adoptLoad c.table (sendAround tb c s) else dropLoad c.table c.a (sendAround tb c s) := by
  simp only [memberGo, hr]
  rw [if_neg (by simp [hpos, hprim, hload, hnum])]

end

/-- Settles O43, by the part of each message in a restore, and the order of the candidates by induction on them. -/
theorem restoresTryTheirCandidates : Obligations.RestoresTryTheirCandidates := by
  unfold Obligations.RestoresTryTheirCandidates
  refine ⟨?_, ?_, ?_, ?_, ?_⟩
  · intro m s u r major tb hasked t mask maxTurn hopen
    refine ⟨fun hout => ?_, fun k hcrown hkeeper => ⟨fun hphase => ?_, fun hphase hfree => ?_⟩⟩
    · exact exec_next rfl (runCmd_of_asked_reject hasked (restoreBody_of_outside hopen hout) (by decide))
    · exact exec_next rfl (runCmd_of_asked_reject hasked (restoreBody_of_phase hopen hcrown hkeeper hphase) (by decide))
    · intro v ask w reads
      have hbody := restoreBody_of_restore (m := m) (major := major) hopen hcrown hkeeper hphase hfree
      refine ⟨fun hpos => ?_, fun hpos => ?_⟩
      · exact exec_next rfl (runCmd_of_asked_waits hasked (hbody.trans (if_pos hpos)))
      · exact exec_next rfl (runCmd_of_asked_waits hasked (hbody.trans (if_neg (not_not_intro hpos))))
  · intro l f c s u harr
    exact exec_next rfl (ctlArrive_of_arrives harr)
  · intro l f c h s u tb harr hopen hcrown hkeeper passed hfrom
    have hheld : exec (.doubleHeld l f) s = .next _ :=
      exec_next rfl ((ctlArrive_of_arrives harr).trans (heldIn_of_crown hopen hcrown hkeeper hfrom))
    refine ⟨fun hpos => ?_, fun hpos hcode => ?_, fun hpos hcode => ?_⟩
    · rw [hheld, if_pos hpos]
    · rw [hheld, if_neg (not_not_intro hpos)]
      simp only [if_pos hcode]
    · rw [hheld, if_neg (not_not_intro hpos)]
      simp only [if_neg hcode]
  · intro t s tb k r hruns hr
    refine ⟨fun hformed hmbox => ?_, fun c hcur => ?_, fun hformed hmbox hpos => ?_, fun hnone => nextCand_of_none hr hnone⟩
    · exact exec_next rfl ((if_pos hruns).trans (formTimeout_of_waiting hr hformed hmbox))
    · exact exec_next rfl ((if_pos hruns).trans (loadedTimeout_of_waiting hr hcur))
    · intro cs sorted
      exact ⟨formCands_of_waiting hr hformed hmbox hpos, (sortCands_perm cs []).trans (by rw [List.append_nil]),
        sortCands_pairwise cs [] List.Pairwise.nil⟩
  · intro l f c s u tb hopen hcrown
    refine ⟨fun harr hkeeper hpos => ?_, fun harr => ⟨fun hpos => ?_, fun k r cd hpos hr hcur hnum => ?_⟩,
      fun harr => ⟨fun d hd hr => ?_, fun k r ld hd hr hpos hprim hload hnum => ?_⟩⟩
    · exact exec_next rfl ((ctlArrive_of_arrives harr).trans (candidateIn_of_crown hopen hcrown hkeeper hpos))
    · exact exec_next rfl ((ctlArrive_of_arrives harr).trans ((loadedIn_of_crown hopen hcrown).trans (if_neg hpos)))
    · intro done v
      have hloaded : exec (.loaded l f) s = .next _ := exec_next rfl ((ctlArrive_of_arrives harr).trans
        ((loadedIn_of_crown hopen hcrown).trans ((if_pos hpos).trans (loadedAtZero_of_current hr hcur hnum))))
      refine ⟨fun hcode => ?_, fun hcode hall => ?_, fun hcode hmiss => ?_⟩
      · rw [hloaded, if_pos hcode]
      · rw [hloaded, if_neg hcode, if_pos (all_reported_iff.mpr hall)]
      · obtain ⟨i, hi, hnot⟩ := hmiss
        rw [hloaded, if_neg hcode, if_neg fun hall => (all_reported_iff.mp hall i hi).elim fun x hx => hnot x hx.1 hx.2]
    · have hgo : exec (.restoreGo l f) s = .next (memberGo c (partnerGo c u)) := exec_next rfl (ctlArrive_of_arrives harr)
      rw [partnerGo_of_attached hd] at hgo
      have hstays (v : State) (htables : v.tables = u.tables) : memberGo c v = v :=
        memberGo_of_none ((restoreOf_of_tables c.table htables).trans hr)
      refine ⟨fun hcode hfresh => ?_, fun hcode hfresh => ?_, fun hcode => ?_⟩
      · rwa [if_pos hcode, if_pos hfresh, hstays (modThis d _ u) rfl] at hgo
      · rwa [if_pos hcode, if_neg (by simp [hfresh]), hstays u rfl] at hgo
      · rwa [if_neg hcode, hstays (modThis d _ u) rfl] at hgo
    · have hgo : exec (.restoreGo l f) s = .next (memberGo c (partnerGo c u)) := exec_next rfl (ctlArrive_of_arrives harr)
      rw [partnerGo_of_none hd, memberGo_of_loaded hr hpos hprim hload hnum] at hgo
      exact ⟨fun hcode => hgo.trans (by rw [if_pos hcode]), fun hcode => hgo.trans (by rw [if_neg hcode])⟩

/-! ### Loads from doubles (R327) -/

section
variable {t : Nat} {c : Ctl} {bytes : List Byte} {p : Option Packet} {s : State} {tb : Table} {k : Keeper} {r : Restore} {ld : Load}

theorem loadReqIn_of_absent (hnone : findTable (sendHeld c s) c.table = none) : loadReqIn c s = sendHeld c s := by
  simp only [loadReqIn, hnone]

theorem loadReqIn_of_member (hopen : findTable (sendHeld c s) c.table = some tb) (hkeeper : tb.keeper = some k)
    (hcrown : isCrown tb = true) (hprim : c.prim ≠ (sendHeld c s).ident.eid)
    (hnew : ∀ r, k.restore = some r → (c.prim, c.turn) ∉ r.reqs) :
    let w := needRestore c.table (fun r => { r with reqs := (c.prim, c.turn) :: r.reqs }) (sendHeld c s)
    let next := eidOf tb (succOf tb tb.board)
    loadReqIn c s = sendCtl k.spec.partner c (if next = c.prim then w else sendCtl next c w) := by
  have hreq : k.restore.any (fun r => r.reqs.contains (c.prim, c.turn)) = false := by
    cases hr : k.restore with
    | none => rfl
    | some r => simpa using hnew r hr
  unfold loadReqIn
  dsimp only
  rw [hopen]
  dsimp only
  rw [hkeeper]
  dsimp only
  rw [hreq, if_neg (by simp [hcrown, hprim])]

theorem restorePkt_of_loading (hr : restoreOf s (syncHdrOf bytes).table = some (tb, k, r)) (hok : syncOk k.spec.rule bytes = true)
    (hload : r.load = some ld) (hsource : ld.source = 16) (hturn : ld.turn = (syncHdrOf bytes).turn) (htold : ld.told = false) :
    restorePkt bytes p s = takeLoaded (syncHdrOf bytes).table (syncParams k.spec.rule bytes) s := by
  simp only [restorePkt, hr]
  rw [if_neg (by simp [hok, hload, hsource, hturn, htold])]

theorem takeLoaded_of_loading {ps : List KParam} (hr : restoreOf s t = some (tb, k, r)) (hload : r.load = some ld) :
    let new := ps.filter fun p => ld.start ≤ p.param && p.param < ld.start + ld.count
    let w := modLoad t (fun l => { l with got := putPs l.got new }) s
    let v := sendSync k.spec.rule 0 t w.ident.eid ld.turn k.spec.partner new w
    takeLoaded t ps s = if ld.count ≤ (putPs ld.got new).length then loadEnds nextCand t 0 v else v := by
  simp only [takeLoaded, hr, hload]

theorem loadTimeout_of_doubles (hr : restoreOf s t = some (tb, k, r)) (hload : r.load = some ld) (hsource : 16 ≤ ld.source)
    (htold : ld.told = false) : loadTimeout t s = loadEnds nextCand t 1 (advanceTo (ld.since + 30000000000) s) := by
  simp only [loadTimeout, hr, hload]
  rw [if_neg (by simp [htold, hsource])]

end

/-- Settles O44, by what LOAD_REQ, KIND 3 and the limit do at a member. -/
theorem loadsFromDoublesFollowTheRing : Obligations.LoadsFromDoublesFollowTheRing := by
  unfold Obligations.LoadsFromDoublesFollowTheRing
  refine ⟨?_, ?_, ?_⟩
  · intro l f c s u harr v hv
    subst hv
    have hreq : exec (.loadReq l f) s = .next (loadReqIn c u) := exec_next rfl (ctlArrive_of_arrives harr)
    refine ⟨fun hnone => hreq.trans (congrArg _ (loadReqIn_of_absent hnone)), fun tb k hopen hkeeper hcrown hprim hnew => ?_⟩
    intro w next
    rw [loadReqIn_of_member hopen hkeeper hcrown hprim hnew] at hreq
    exact ⟨fun hnext => hreq.trans (by rw [if_pos hnext]), fun hnext => hreq.trans (by rw [if_neg hnext])⟩
  · intro l bytes h s u tb k r ld harr hr hok hload hsource hturn htold new v
    have hh : h = syncHdrOf bytes := harr.header
    subst hh
    have hpkt : exec (.doublesyncRestore l bytes) s = .next _ := exec_next rfl ((syncArrive_of_arrives harr).trans
      ((restorePkt_of_loading hr hok hload hsource hturn htold).trans (takeLoaded_of_loading hr hload)))
    exact ⟨fun hall => hpkt.trans (by rw [if_pos hall]), fun hpart => hpkt.trans (by rw [if_neg (Nat.not_le.mpr hpart)])⟩
  · intro t s tb k r ld hruns hr hload hsource htold
    exact exec_next rfl ((if_pos hruns).trans (loadTimeout_of_doubles hr hload hsource htold))

end Sys2Proof.Proofs
end

section
/-! SUPPORT. Storage operations: their replies, retries and limits (R456, R466, R468, R469); statement O45. -/

namespace Sys2Proof.Proofs
open Sys2Proof Sys2Proof.Machine Sys2Proof.Safety Sys2Proof.Laws

/-! ### Replies -/

section
variable {src : Source} {d : List Byte} {s : State} {o : StoreOp}

theorem storageReply_of_up (hruns : cpRuns s = true) (hopen : s.boot.transport = true) (hup : hostUp s src.port = true)
    (hip : hasIp (frameIn src.port s) src.port = true) :
    storageReply src d s =
      if !fromTarget (frameIn src.port s) src then dropFrame src.port (frameIn src.port s)
      else match replyIn src d (frameIn src.port s) with
        | (none, s) => s
        | (some x, s) => storeEnds x s := by
  unfold storageReply
  dsimp only
  rw [if_neg (by simp [hruns, hopen, hup]), if_neg (by rw [hip]; decide)] <;> rfl

theorem replyIn_of_unknown (h : ∀ o ∈ s.store.ops, o.reqId ≠ fld (payW d 0) 31 0 ∨ o.sent = false) :
    replyIn src d s = (none, storeStray src.port s) := by
  have hnone : (s.store.ops.find? fun o => o.reqId = fld (payW d 0) 31 0 && o.sent) = none :=
    List.find?_eq_none.mpr fun o ho => by rcases h o ho with h | h <;> simp [h]
  simp only [replyIn, hnone]

/-- A reply belongs to an operation: it comes from the operation's target and answers what was asked (R466). -/
structure Answers (src : Source) (d : List Byte) (o : StoreOp) (s : State) : Prop where
  ok    : replyOk d = true
  ip    : tgtIp (getTarget s o.target) = normIp src.ip
  udp   : tgtUdp (getTarget s o.target) = src.udp
  key   : slice d 32 32 = padTo 32 o.key
  named : bitAt (payW d 0) 47 = o.named
  kind  : fld (payW d 0) 55 52 = 6 ↔ o.oper = 2 ∨ o.oper = 4

theorem replyIn_of_answer (ho : (s.store.ops.find? fun o => o.reqId = fld (payW d 0) 31 0 && o.sent) = some o)
    (h : Answers src d o s) :
    let id := fld (payW d 0) 31 0
    let st := fld (payW d 0) 51 48
    let old := o.got.getD (List.replicate (payW d 3).toNat none)
    let new := overlay old (payW d 1).toNat (d.drop 64)
    replyIn src d s =
      if st = 2 then (some (o.who, .error), endOp id s)
      else if st = 1 then (some (o.who, .absent), endOp id s)
      else if !(o.oper = 2 || o.oper = 4) then (some (o.who, .ok []), endOp id s)
      else if old.length ≠ (payW d 3).toNat || (payW d 3).toNat < (payW d 1).toNat + (d.drop 64).length then (none, storeStray src.port s)
      else if new.all Option.isSome then (some (o.who, .ok (new.map fun b => b.getD 0)), endOp id s)
      else (none, modOp id (fun o => { o with got := some new, last := if new = old then o.last else now s }) s) := by
  obtain ⟨hok, hip, hudp, hkey, hnamed, hkind⟩ := h
  dsimp only
  unfold replyIn
  dsimp only
  rw [ho]
  dsimp only
  rw [if_neg (by simp [hok, hip, hudp, hkey, hnamed, hkind])]

end

/-! ### Retries and limits -/

section
variable {id : Nat} {s : State} {o : StoreOp}

theorem retryOp_of_placed {p : Nat} (ho : (s.store.ops.find? fun o => o.reqId = id) = some o) (hp : o.port = some p) :
    retryOp id s = sendOp o (countResends p o (advanceTo (o.last + 100000000) s)) := by
  simp only [retryOp, ho, hp]

theorem countResends_eq (p : Nat) : countResends p o s = modHost p (fun h => { h with
    storeResends := h.storeResends + if o.oper = 1 ∨ o.oper = 3 then 1 else (opDatagrams o).length }) s := by
  unfold countResends resendsOf
  simp only [Bool.or_eq_true, decide_eq_true_eq]

theorem storageTimeout_of_sent (ho : (s.store.ops.find? fun o => o.reqId = id) = some o)
    (hsent : o.sent = true ∨ tgtPorts s (getTarget s o.target) = []) :
    storageTimeout id s = storeEnds (o.who, .error) (endOp id (advanceTo (o.since + 10000000000) s)) := by
  simp only [storageTimeout, ho]
  rw [if_neg (by rcases hsent with h | h <;> simp [h])]

end

/-- Settles O45, by the outcomes of a reply and the two limits. -/
theorem storageOperationsEndOrAreSentAgain : Obligations.StorageOperationsEndOrAreSentAgain := by
  unfold Obligations.StorageOperationsEndOrAreSentAgain
  refine ⟨?_, fun id s o hruns ho => ⟨fun p hp => ?_, fun hsent => ?_⟩⟩
  · intro src d s u hruns hopen hup hu hip id st
    subst hu
    have hreply : exec (.storageReply src d) s = .next _ := exec_next rfl (storageReply_of_up (d := d) hruns hopen hup hip)
    refine ⟨fun hfrom => ?_, fun hfrom hnone => ?_, fun o hfrom ho => ?_⟩
    · rw [hreply, if_pos (by rw [hfrom]; rfl)]
    · rw [hreply, if_neg (by rw [hfrom]; decide), replyIn_of_unknown hnone]
    · rw [if_neg (by rw [hfrom]; decide)] at hreply
      intro get g hok hip hudp hkey hnamed hkind
      rw [replyIn_of_answer ho ⟨hok, hip, hudp, hkey, hnamed, hkind⟩] at hreply
      refine ⟨fun hst => ?_, fun hst => ?_, fun hst hput => ?_, fun hst hget old hold hlen hfits new hnew => ?_⟩
      · rw [hreply, if_pos hst]
      · rw [hreply, if_neg (show ¬ st = 2 by omega), if_pos hst]
      · rw [hreply, if_neg (show ¬ st = 2 by omega), if_neg (show ¬ st = 1 by omega), if_pos (by simpa [get] using hput)]
      · subst hold hnew
        rw [if_neg (show ¬ st = 2 by omega), if_neg (show ¬ st = 1 by omega), if_neg (by simpa [get, or_iff_not_imp_left] using hget),
          if_neg (by simpa [hlen] using hfits)] at hreply
        refine ⟨fun hall => ?_, fun hmiss => ?_⟩
        · rw [hreply, if_pos hall]
        · rw [hreply, if_neg (by rw [hmiss]; decide)]
  · exact exec_next rfl ((if_pos hruns).trans ((retryOp_of_placed ho hp).trans (by rw [countResends_eq])))
  · exact exec_next rfl ((if_pos hruns).trans (storageTimeout_of_sent ho hsent))

end Sys2Proof.Proofs
end

section
/-! SUPPORT. Packets: the lookup of a header, admission of cells and the start of a packet on an egress link (R339 to
R356, R368, R372 to R377, R389 to R402, R427 to R429); statement O46. -/

namespace Sys2Proof.Proofs
open Sys2Proof Sys2Proof.Machine Sys2Proof.Safety Sys2Proof.Laws

/-! ### PACKET_HEADER_LOOKUP -/

section
variable {n l pool : Nat} {p q : Packet} {w : WordRead} {kib : List Nat} {s : State}

/-- The packet that a lookup takes, and the state without it (R339): the first whole one of its link and class, or one of which
no flit waits. -/
theorem headerLookup_of_next {t : State} (hlive : live s = true)
    (hnext : (firstWhole s l (pClass p) = some (pool, p) ∧ t = takeArrived (.pkt l pool p) s) ∨
      (firstWhole s l (pClass p) = none ∧ inProgress s l p = none ∧ pool = classPool (pClass p) ∧ t = s)) :
    headerLookup l p w s = lookupHeader (pFlits p) l pool p w t := by
  unfold headerLookup
  rw [if_neg (by simp [hlive])]
  rcases hnext with ⟨hfirst, rfl⟩ | ⟨hnone, hpart, rfl, rfl⟩
  · rw [hfirst]
    exact if_pos rfl
  · rw [hnone]
    dsimp only
    rw [hpart]

theorem headerLookup_of_other (hlive : live s = true) (hfirst : firstWhole s l (pClass p) = some (pool, q)) (hne : q ≠ p) :
    headerLookup l p w s = s := by
  unfold headerLookup
  rw [if_neg (by simp [hlive]), hfirst]
  exact if_neg hne

theorem headerLookup_of_part {cls : Nat} {pp : PartPkt} (hlive : live s = true) (hnone : firstWhole s l (pClass p) = none)
    (hpart : inProgress s l p = some (cls, pp)) :
    headerLookup l p w s = if endsHere s p then s else lookupEarly l cls p w pp s := by
  unfold headerLookup
  rw [if_neg (by simp [hlive]), hnone]
  dsimp only
  rw [hpart]

theorem lookupHeader_eq :
    let u := modPort (portOf l) (fun k => { k with pktsIn := k.pktsIn + 1 }) s
    let v := (kibitzSelect (entersMatch l p) u).2
    let kib := (kibitzSelect (entersMatch l p) u).1
    let x := readWord 3 (lookupOwner v p) w v
    lookupHeader n l pool p w s =
      if packetBad (peerIsGt64 u l) p then freeCredits l pool n (protoError l u)
      else if pHops p = 0 then freeCredits l pool n (modCnt (fun c => { c with hopExpired := c.hopExpired + 1 }) v)
      else if w = .failed then freeCredits l pool n (modCnt (fun c => { c with noRoute := c.noRoute + 1 }) x)
      else if pMc p then multicastIn n l pool p kib x
      else unicastIn n l pool p kib x := rfl

theorem multicastIn_of_none (hall : groupLegs (curBank s) (fld p.w0 15 0) = []) :
    multicastIn n l pool p kib s = freeCredits l pool n (modCnt (fun c => { c with noRoute := c.noRoute + 1 }) s) := by
  unfold multicastIn
  dsimp only
  rw [hall]
  rfl

theorem multicastIn_of_back (hall : groupLegs (curBank s) (fld p.w0 15 0) ≠ [])
    (hback : (groupLegs (curBank s) (fld p.w0 15 0)).filter (fun z => z.1 ≠ l) = []) :
    multicastIn n l pool p kib s = freeCredits l pool n s := by
  unfold multicastIn
  dsimp only
  rw [if_neg (by simpa using hall), hback]
  rfl

theorem multicastIn_of_legs (hgo : (groupLegs (curBank s) (fld p.w0 15 0)).filter (fun z => z.1 ≠ l) ≠ []) :
    multicastIn n l pool p kib s = store .forwarded (some (l, pool)) (pClass p) s.route.cur true (decHops p) kib
      ((groupLegs (curBank s) (fld p.w0 15 0)).filter fun z => z.1 ≠ l) (countForward s) := by
  have hall : groupLegs (curBank s) (fld p.w0 15 0) ≠ [] := fun h => hgo (by rw [h]; rfl)
  unfold multicastIn
  dsimp only
  rw [if_neg (by rw [List.isEmpty_iff]; exact hall), if_neg (by rw [List.isEmpty_iff]; exact hgo)]

theorem unicastIn_of_self (hkind : eidKind (spGet (curBank s).eids (pDest p)) = 3) :
    unicastIn n l pool p kib s = selfIn n l pool p kib s := if_pos hkind

theorem unicastIn_of_fenced (hkind : eidKind (spGet (curBank s).eids (pDest p)) = 1 ∨ eidKind (spGet (curBank s).eids (pDest p)) = 2)
    (hfence : fenced s (pDest p) = true) : unicastIn n l pool p kib s = freeCredits l pool n (fenceDrop s) := by
  unfold unicastIn
  dsimp only
  rw [if_neg (by omega), if_pos (by simpa [hfence] using hkind)]

theorem unicastIn_of_order (hkind : eidKind (spGet (curBank s).eids (pDest p)) = 1) (hfence : fenced s (pDest p) = false)
    (hdata : pPtype p = 0) (horder : pOrder p = true) :
    unicastIn n l pool p kib s = { s with inbox := s.inbox ++ [.order l pool s.route.cur (decHops p) kib] } := by
  unfold unicastIn
  dsimp only
  rw [if_neg (by omega), if_neg (by simp [hfence]), if_pos (by simp [hkind, hdata, horder])]

theorem unicastIn_of_path (hkind : eidKind (spGet (curBank s).eids (pDest p)) = 2) (hfence : fenced s (pDest p) = false) :
    unicastIn n l pool p kib s = match unicastLeg s.route.cur (pDest p) (pClass p) s with
      | (none, s) => freeCredits l pool n s
      | (some out, s) => store .forwarded (some (l, pool)) (pClass p) s.route.cur false (decHops p) kib [(out, pDest p)] (countForward s) := by
  unfold unicastIn
  dsimp only
  rw [if_neg (by omega), if_neg (by simp [hfence]), if_neg (by simp [hkind])] <;> rfl

section
variable {cls : Nat} {pp : PartPkt} {u : State}

theorem lookupEarly_of_ended
    (hu : u = lookupHeader (pp.words.length / 8) l (classPool cls) p w (setPart l cls (some { pp with words := [], drop := true }) s))
    (hnone : findPkt u s.pot.nextNum = none) : lookupEarly l cls p w pp s = u := by
  subst hu
  exact if_neg (by rw [hnone]; decide)

theorem lookupEarly_of_stored
    (hu : u = lookupHeader (pp.words.length / 8) l (classPool cls) p w (setPart l cls (some { pp with words := [], drop := true }) s))
    (hq : findPkt u s.pot.nextNum ≠ none) :
    lookupEarly l cls p w pp s = setPart l cls (some { pp with pkt := some s.pot.nextNum })
      (modPkt s.pot.nextNum (fun q => { q with missing := pp.left }) u) := by
  subst hu
  exact if_pos (Option.isSome_iff_ne_none.mpr hq)

end

end

/-! ### DISCARD of a packet that has been looked up -/

theorem recvDiscard_of_known {l cls num : Nat} {pp : PartPkt} {s : State} (hpart : (getLink s l).rx.parts.getD cls none = some pp)
    (hnum : pp.pkt = some num) :
    recvDiscard l cls s = endPacket num (modPort (portOf l) (fun p => { p with discardEnds := p.discardEnds + 1 }) (setPart l cls none s)) := by
  unfold recvDiscard
  rw [hpart]
  dsimp only
  rw [hnum]

/-! ### CELL_ADMIT -/

section
variable {num : Nat} {p : QPkt} {s : State}

theorem cellAdmit_of_missing (hp : findPkt s num = some p) (hhere : cellHere p = false) : cellAdmit num s = s := by
  simp only [cellAdmit, hp]
  rw [if_pos (by simp [hhere])]

theorem cellAdmit_of_here (hlive : live s = true) (hp : findPkt s num = some p) (hleft : p.admitted < p.cells) (hhere : cellHere p = true)
    (hfirst : behind s p = false) :
    cellAdmit num s =
      if !cellPasses s p then
        if p.waited then s
        else modPot (fun t => { t with admitWaits := t.admitWaits + 1 }) (modPkt num (fun q => { q with waited := true }) s)
      else
        let v := modPkt num (fun q => { q with admitted := q.admitted + 1, waited := false })
          (whenDo (!p.cached) (wroteWord 0 (regionOf (packetOwner p))) (replicate p s))
        let w := match p.ingress with
          | some l => if (findPkt v num).isSome then freeCredits l p.pool (nextFlits p) v else v
          | none => v
        if p.admitted = 0 then enqueued num w else w := by
  simp only [cellAdmit, hp]
  rw [if_neg (by simp [hlive, hhere, hfirst, Nat.not_le.mpr hleft])] <;> rfl

/-- Credits go back for an admitted cell where the packet came by a link and has not ended (R356). -/
theorem admitCredits_eq {v w : State} (hw : (∃ l, p.ingress = some l ∧ findPkt v num ≠ none ∧ w = freeCredits l p.pool (nextFlits p) v) ∨
      ((p.ingress = none ∨ findPkt v num = none) ∧ w = v)) :
    (match p.ingress with
      | some l => if (findPkt v num).isSome then freeCredits l p.pool (nextFlits p) v else v
      | none => v) = w := by
  rcases hw with ⟨l, hl, hfound, rfl⟩ | ⟨hno, rfl⟩
  · rw [hl]
    exact if_pos (Option.isSome_iff_ne_none.mpr hfound)
  · cases hl : p.ingress with
    | none => rfl
    | some l =>
      rcases hno with hno | hno
      · rw [hl] at hno
        cases hno
      · dsimp only
        rw [hno]
        rfl

theorem whenDo_wroteWord (x : State) : whenDo (!p.cached) (wroteWord 0 (regionOf (packetOwner p))) x =
    if p.cached then x else wroteWord 0 (regionOf (packetOwner p)) x := by
  cases p.cached <;> rfl

end

/-! ### EGRESS_PACKET_START -/

section
variable {link : Nat} {w : WordRead} {e : Egress} {p : QPkt} {s : State}

theorem egressStart_of_none (hlive : live s = true) (hnone : chooseEgress s link = (none, e)) :
    let v := modPot (fun t => { t with egress := t.egress.set link e }) s
    egressStart link w s = match underWay v link with
      | none => v
      | some p =>
        if w = .failed then failPacket p.num (readWord (packetTier p) (packetOwner p) w v) else readWord (packetTier p) (packetOwner p) w v := by
  dsimp only
  unfold egressStart
  rw [if_neg (by simp [hlive]), hnone] <;> rfl

theorem egressStart_of_some (hlive : live s = true) (hsome : chooseEgress s link = (some p, e)) :
    let v := readWord (packetTier p) (packetOwner p) w s
    egressStart link w s =
      if !linkUp s link then rechoose link p s
      else if w = .failed then failPacket p.num v else copySent p link (startLeg p.num link e v) := by
  dsimp only
  unfold egressStart
  rw [if_neg (by simp [hlive]), hsome]

theorem copySent_eq :
    let sent := ((p.legs.find? fun l => l.link = link && !l.done).map (legPacket p)).getD p.pkt
    copySent p link s = forAll (kibitzSelect (leavesMatch link) s).1
      (fun i => kibitzCopy (p.pass1.contains (i, link)) 1 link p.epoch p.num (origBytes p.tc sent) i) (kibitzSelect (leavesMatch link) s).2 := by
  dsimp only
  unfold copySent
  cases p.legs.find? fun l => l.link = link && !l.done <;> rfl

end

/-- Settles O46, by the outcomes of a lookup, of admission and of the choice of an egress link. -/
theorem packetsAreLookedUpAdmittedAndStarted : Obligations.PacketsAreLookedUpAdmittedAndStarted := by
  unfold Obligations.PacketsAreLookedUpAdmittedAndStarted
  intro s hlive
  refine ⟨fun l pool p q w hfirst hne => ?_, fun l pool p w t hnext => ?_, fun l cls p w pp hnone hpart => ⟨fun hends => ?_, fun hends u hu => ?_⟩,
    fun l num f pp hruns hnew hok => ?_, fun num p hp hleft hhere => ?_, fun num p hp hleft hhere hfirst => ?_,
    fun link w => ⟨fun e hnone v hv => ⟨fun hidle => ?_, fun p hp x hx => ?_⟩, fun p e hsome => ⟨fun hdown => ?_, fun hup hw => ?_, fun hup hw v hv => ?_⟩⟩⟩
  · exact exec_next rfl (headerLookup_of_other hlive hfirst hne)
  · intro u v kib x e
    have hlook : exec (.packetHeaderLookup l p w) s = .next _ :=
      exec_next rfl ((headerLookup_of_next hlive hnext).trans lookupHeader_eq)
    refine ⟨fun hbad => ?_, fun hgood hhops => ?_, fun hgood hhops hw => ?_, fun hgood hhops hw => ?_⟩
    · rw [hlook, if_pos hbad]
      rfl
    · rw [hlook, if_neg (by rw [hgood]; decide), if_pos hhops]
      rfl
    · rw [hlook, if_neg (by rw [hgood]; decide), if_neg hhops, if_pos hw]
      rfl
    · rw [if_neg (by rw [hgood]; decide), if_neg hhops, if_neg hw] at hlook
      refine ⟨fun hmc all hall go hgo => ?_, fun huc => ?_⟩
      · rw [if_pos hmc] at hlook
        subst hall hgo
        exact ⟨fun hall => hlook.trans (congrArg _ (multicastIn_of_none hall)),
          fun hall hback => hlook.trans (congrArg _ (multicastIn_of_back hall hback)),
          fun hgo => hlook.trans (congrArg _ (multicastIn_of_legs hgo))⟩
      · rw [if_neg (by rw [huc]; decide)] at hlook
        refine ⟨fun hkind => hlook.trans (congrArg _ (unicastIn_of_self hkind)),
          fun hkind hfence => hlook.trans (congrArg _ (unicastIn_of_fenced hkind hfence)),
          fun hkind hfence hdata horder => hlook.trans (congrArg _ (unicastIn_of_order hkind hfence hdata horder)), fun hkind hfence y => ?_⟩
        rw [unicastIn_of_path hkind hfence] at hlook
        exact ⟨fun hleg => hlook.trans (by rw [hleg]; rfl), fun out hleg => hlook.trans (by rw [hleg])⟩
  · exact exec_next rfl ((headerLookup_of_part hlive hnone hpart).trans (if_pos hends))
  · have hlook : exec (.packetHeaderLookup l p w) s = .next (lookupEarly l cls p w pp s) :=
      exec_next rfl ((headerLookup_of_part hlive hnone hpart).trans (if_neg (by rw [hends]; decide)))
    exact ⟨fun hnot => hlook.trans (congrArg _ (lookupEarly_of_ended hu hnot)),
      fun q hq => hlook.trans (congrArg _ (lookupEarly_of_stored hu (by rw [hq]; exact Option.some_ne_none q)))⟩
  · intro c hpart hnum
    exact exec_next rfl ((discardIn_of_late hlive hnew hruns).trans ((if_pos hok).trans (recvDiscard_of_known hpart hnum)))
  · exact exec_next rfl (cellAdmit_of_missing hp hhere)
  · have hadmit : exec (.cellAdmit num) s = .next _ := exec_next rfl (cellAdmit_of_here hlive hp hleft hhere hfirst)
    refine ⟨fun hno hwait => ?_, fun hno hwait => ?_, fun hpass x hx v hv w hw => ?_⟩
    · rw [hadmit, if_pos (by rw [hno]; rfl), if_neg (by rw [hwait]; decide)]
    · rw [hadmit, if_pos (by rw [hno]; rfl), if_pos hwait]
    · rw [if_neg (by rw [hpass]; decide), whenDo_wroteWord, show replicate p s = x from hx.symm, ← hv] at hadmit
      dsimp only at hadmit
      rw [← admitCredits_eq hw]
      exact ⟨fun hzero => hadmit.trans (by rw [if_pos hzero]), fun hlater => hadmit.trans (by rw [if_neg (by omega)])⟩
  · subst hv
    exact exec_next rfl ((egressStart_of_none hlive hnone).trans (by rw [hidle]))
  · subst hv hx
    have hstart : exec (.egressPacketStart link w) s = .next _ := exec_next rfl ((egressStart_of_none (w := w) hlive hnone).trans (by rw [hp]))
    exact ⟨fun hw => hstart.trans (congrArg _ (if_pos hw)), fun hw => hstart.trans (congrArg _ (if_neg hw))⟩
  · exact exec_next rfl ((egressStart_of_some hlive hsome).trans (if_pos (by rw [hdown]; rfl)))
  · exact exec_next rfl ((egressStart_of_some hlive hsome).trans ((if_neg (by rw [hup]; decide)).trans (if_pos hw)))
  · subst hv
    exact exec_next rfl ((egressStart_of_some hlive hsome).trans ((if_neg (by rw [hup]; decide)).trans ((if_neg hw).trans copySent_eq)))

end Sys2Proof.Proofs
end

section
/-! SUPPORT. Destination reorder: an ORDER packet in its context, and the limits of a context (R377 to R380, R393);
statement O47. -/

namespace Sys2Proof.Proofs
open Sys2Proof Sys2Proof.Machine Sys2Proof.Safety Sys2Proof.Laws

/-! ### One packet in its context (Table 12-2) -/

section
variable {l pool epoch num n : Nat} {p : Packet} {kib : List Nat} {c : Reorder} {s v : State}

theorem orderStep_of_next (hnext : c.next = some (pSeq p)) :
    orderStep l pool p epoch kib c s = flushHeld c.held.length { c with lastUse := now s, next := some ((pSeq p + 1) % 65536) }
      (storeOrder l pool p epoch kib false s).2 := if_pos hnext

theorem orderStep_of_late (hnext : c.next = some n) (hne : n ≠ pSeq p) (hlate : 32768 ≤ (pSeq p + 65536 - n) % 65536) :
    orderStep l pool p epoch kib c s =
      ({ c with lastUse := now s }, dropIn l pool p (modCnt (fun k => { k with reorderLate := k.reorderLate + 1 }) s)) := by
  unfold orderStep
  dsimp only
  rw [hnext, if_neg (by simpa using hne), if_pos (by simp [seqAhead, hlate])]

/-- A packet that is ahead of NEXT, or comes while NEXT is unknown. -/
def Ahead (c : Reorder) (seq : Nat) : Prop :=
  c.next = none ∨ ∃ n, c.next = some n ∧ n ≠ seq ∧ (seq + 65536 - n) % 65536 < 32768

theorem orderStep_of_ahead (hahead : Ahead c (pSeq p)) (hstore : storeOrder l pool p epoch kib true s = (some num, v)) :
    orderStep l pool p epoch kib c s =
      let h := { c with lastUse := now s, held := c.held ++ [{ pkt := num, seq := pSeq p, due := now v + v.route.reorderUs * 1000 }] }
      if 64 ≤ c.held.length then skipTo h v else (h, v) := by
  have hnot : c.next ≠ some (pSeq p) := by
    rcases hahead with h | ⟨n, h, hne, -⟩ <;> rw [h]
    · exact fun e => nomatch e
    · exact fun e => hne (Option.some.inj e)
  have hnear : ¬ (c.next.isSome && 32768 ≤ seqAhead { c with lastUse := now s } (pSeq p)) = true := by
    rcases hahead with h | ⟨n, h, -, hlt⟩
    · simp [h]
    · simpa [seqAhead, h] using hlt
  unfold orderStep
  dsimp only
  rw [if_neg hnot, if_neg hnear, hstore]
  dsimp only
  rw [List.length_append, List.length_singleton]
  by_cases hfull : 64 ≤ c.held.length
  · rw [if_pos hfull, if_pos (by omega)]
  · rw [if_neg hfull, if_neg (by omega)]

end

/-! ### ORDER_PACKET -/

section
variable {l pool epoch : Nat} {p : Packet} {kib : List Nat} {c : Reorder} {s : State}

/-- An ORDER packet that is taken, and is not for a fenced EID. -/
theorem orderIn_of_fenced (hlive : live s = true) (htag : orderTag s l p = (pool, epoch, kib))
    (hfence : fenced (takeArrived (.order l pool epoch p kib) s) (pDest p) = true) :
    orderIn l p s = dropIn l pool p (fenceDrop (takeArrived (.order l pool epoch p kib) s)) := by
  unfold orderIn
  rw [if_neg (by simp [hlive]), htag]
  exact if_pos hfence

theorem orderIn_of_known (hlive : live s = true) (htag : orderTag s l p = (pool, epoch, kib))
    (hfence : fenced (takeArrived (.order l pool epoch p kib) s) (pDest p) = false)
    (hctx : findCtx (takeArrived (.order l pool epoch p kib) s) (pSrc p) (pDest p) (pClass p) = some c) :
    let u := takeArrived (.order l pool epoch p kib) s
    let r := releaseAll c.held.length c u
    let x := if pFirst p then orderStep l pool p epoch kib { r.1 with next := some (pSeq p) } r.2 else orderStep l pool p epoch kib c u
    orderIn l p s = putCtx x.1 x.2 := by
  dsimp only
  unfold orderIn
  rw [if_neg (by simp [hlive]), htag]
  dsimp only
  rw [if_neg (by rw [hfence]; decide), hctx]
  dsimp only
  cases pFirst p <;> rfl

theorem orderIn_of_full (hlive : live s = true) (htag : orderTag s l p = (pool, epoch, kib))
    (hfence : fenced (takeArrived (.order l pool epoch p kib) s) (pDest p) = false)
    (hctx : findCtx (takeArrived (.order l pool epoch p kib) s) (pSrc p) (pDest p) (pClass p) = none)
    (hfull : 65536 ≤ (takeArrived (.order l pool epoch p kib) s).route.contexts.length) :
    orderIn l p s = (storeOrder l pool p epoch kib false
      (modCnt (fun k => { k with noContext := k.noContext + 1 }) (takeArrived (.order l pool epoch p kib) s))).2 := by
  unfold orderIn
  rw [if_neg (by simp [hlive]), htag]
  dsimp only
  rw [if_neg (by rw [hfence]; decide), hctx]
  exact if_pos hfull

theorem orderIn_of_new (hlive : live s = true) (htag : orderTag s l p = (pool, epoch, kib))
    (hfence : fenced (takeArrived (.order l pool epoch p kib) s) (pDest p) = false)
    (hctx : findCtx (takeArrived (.order l pool epoch p kib) s) (pSrc p) (pDest p) (pClass p) = none)
    (hroom : (takeArrived (.order l pool epoch p kib) s).route.contexts.length < 65536) :
    let u := takeArrived (.order l pool epoch p kib) s
    let x := orderStep l pool p epoch kib
      { src := pSrc p, dst := pDest p, tc := pClass p, next := if pFirst p then some (pSeq p) else none, lastUse := now u } u
    orderIn l p s = putCtx x.1 x.2 := by
  dsimp only
  unfold orderIn
  rw [if_neg (by simp [hlive]), htag]
  dsimp only
  rw [if_neg (by rw [hfence]; decide), hctx]
  dsimp only
  rw [if_neg (Nat.not_le.mpr hroom)]

end

/-! ### Limits -/

section
variable {src dst tc : Nat} {c : Reorder} {s : State}

theorem reorderTimeout_of_held {h : HeldPkt} {rest : List HeldPkt} (hlive : live s = true) (hctx : findCtx s src dst tc = some c)
    (hheld : c.held = h :: rest) :
    let x := skipTo c (advanceTo h.due s)
    reorderTimeout src dst tc s = putCtx { x.1 with lastUse := now x.2 } x.2 := by
  dsimp only
  unfold reorderTimeout
  rw [if_neg (by simp [hlive]), hctx]
  dsimp only
  rw [hheld]

theorem reorderFree_of_empty (hlive : live s = true) (hctx : findCtx s src dst tc = some c) (hheld : c.held = []) :
    reorderFree src dst tc s =
      modRoute (fun r => { r with contexts := r.contexts.filter fun x => !isCtx src dst tc x }) (advanceTo (c.lastUse + 1000000) s) := by
  unfold reorderFree
  rw [if_neg (by simp [hlive]), hctx]
  dsimp only
  rw [if_neg (by simp [hheld])]

end

/-- Settles O47, by the cases of Table 12-2 in a context, new or known, and the two limits. -/
theorem orderIsRestoredByContext : Obligations.OrderIsRestoredByContext := by
  unfold Obligations.OrderIsRestoredByContext
  intro s hlive
  refine ⟨fun l p pool epoch kib htag => ?_, fun src dst tc c hctx => ⟨fun h rest hheld x hx => ?_, fun hheld => ?_⟩⟩
  · intro u
    refine ⟨fun hfence => exec_next rfl (orderIn_of_fenced hlive htag hfence),
      fun hfence hctx hfull => exec_next rfl (orderIn_of_full hlive htag hfence hctx hfull), fun hfence hctx hroom => ?_,
      fun c hfence hctx => ?_⟩
    · intro new
      have hnew : exec (.orderPacket l p) s = .next _ := exec_next rfl (orderIn_of_new hlive htag hfence hctx hroom)
      refine ⟨fun hfirst => ?_, fun hfirst n v hstore => ?_⟩
      · rw [orderStep_of_next (by rw [hfirst]; rfl)] at hnew
        exact hnew
      · rw [hfirst, orderStep_of_ahead (.inl rfl) hstore] at hnew
        exact hnew
    · intro k
      have hknown : exec (.orderPacket l p) s = .next _ := exec_next rfl (orderIn_of_known hlive htag hfence hctx)
      refine ⟨fun hfirst v hv d hd => ?_, fun hfirst hnext => ?_, fun n hfirst hnext hne hlate => ?_, fun hfirst hahead num v hstore => ?_⟩
      · subst hv hd
        rw [if_pos hfirst, orderStep_of_next rfl] at hknown
        exact hknown
      · rw [if_neg (by rw [hfirst]; decide), orderStep_of_next hnext] at hknown
        exact hknown
      · rw [if_neg (by rw [hfirst]; decide), orderStep_of_late hnext hne hlate] at hknown
        exact hknown
      · rw [if_neg (by rw [hfirst]; decide), orderStep_of_ahead hahead hstore] at hknown
        intro h
        refine ⟨fun hroom => ?_, fun hfull => ?_⟩
        · rw [if_neg (Nat.not_le.mpr hroom)] at hknown
          exact hknown
        · rw [if_pos hfull] at hknown
          exact hknown
  · subst hx
    exact exec_next rfl (reorderTimeout_of_held hlive hctx hheld)
  · exact exec_next rfl (reorderFree_of_empty hlive hctx hheld)

end Sys2Proof.Proofs
end

section
/-! SUPPORT. Arbiters: the decision of a square (R340, R358 to R364), a cycle of the Ladder and a packet that has waited
(R232 to R235); statement O48. -/

namespace Sys2Proof.Proofs
open Sys2Proof Sys2Proof.Machine Sys2Proof.Safety Sys2Proof.Laws

theorem getD_map_range {α : Type} {n i : Nat} (f : Nat → α) (d : α) (h : i < n) : ((List.range n).map f).getD i d = f i := by
  rw [List.getD_eq_getElem _ _ (by simpa using h), List.getElem_map, List.getElem_range]

/-! ### The least of a list -/

section
variable {α : Type} {m : α → Nat} {xs : List α} {y : α}

theorem argMin_mem (h : argMin m xs = some y) : y ∈ xs := by
  induction xs generalizing y with
  | nil => cases h
  | cons x xs ih =>
    unfold argMin at h
    split at h
    · exact Option.some.inj h ▸ List.mem_cons_self
    case h_2 z hz =>
      split at h
      · exact Option.some.inj h ▸ List.mem_cons_self
      · exact List.mem_cons_of_mem x (Option.some.inj h ▸ ih hz)

theorem argMin_eq_none (h : argMin m xs = none) : xs = [] := by
  cases xs with
  | nil => rfl
  | cons x xs =>
    unfold argMin at h
    split at h
    · cases h
    · split at h <;> cases h

theorem argMin_le (h : argMin m xs = some y) : ∀ x ∈ xs, m y ≤ m x := by
  induction xs generalizing y with
  | nil => cases h
  | cons x xs ih =>
    intro z hz
    unfold argMin at h
    split at h
    case h_1 hnone =>
      obtain rfl := Option.some.inj h
      rw [argMin_eq_none hnone] at hz
      rw [List.mem_singleton.mp hz]
    case h_2 v hv =>
      split at h
      case isTrue hle =>
        obtain rfl := Option.some.inj h
        exact (List.mem_cons.mp hz).elim (fun e => e ▸ Nat.le_refl _) fun hz => Nat.le_trans hle (ih hv z hz)
      case isFalse hlt =>
        obtain rfl := Option.some.inj h
        exact (List.mem_cons.mp hz).elim (fun e => e ▸ Nat.le_of_lt (Nat.lt_of_not_le hlt)) (ih hv z)

end

/-! ### A decision (R359, R363) -/

section
variable {prio : List Nat} {n reads writes last : Nat} {locks base : List (Nat × Nat)} {held : List SqHeld} {g : SqHeld}

theorem sqFill_succ : sqFill prio (n + 1) reads writes last locks held =
    match argMin (sqKey prio last locks) (held.filter (mayGrant reads writes locks)) with
    | none => ([], last)
    | some h =>
      let x := sqFill prio n (if h.req.write then reads else reads - 1) (if h.req.write then writes - 1 else writes)
        (sqIndex h.req.cls) (lockFor locks h.req) (held.erase h)
      (h :: x.1, x.2) := by
  rw [sqFill]
  cases argMin (sqKey prio last locks) (held.filter (mayGrant reads writes locks)) with
  | none => rfl
  | some h =>
    dsimp only
    cases h.req.write <;> rfl

/-- A grant is one of the requests held, and the slots left can serve it. -/
theorem mayGrant_of_argMin (h : argMin (sqKey prio last locks) (held.filter (mayGrant reads writes locks)) = some g) :
    g ∈ held ∧ mayGrant reads writes locks g = true := List.mem_filter.mp (argMin_mem h)

theorem sqFill_writes : ((sqFill prio n reads writes last locks held).1.filter fun h => h.req.write).length ≤ writes := by
  induction n generalizing reads writes last locks held with
  | zero => exact Nat.zero_le _
  | succ n ih =>
    rw [sqFill_succ]
    split
    · exact Nat.zero_le _
    case h_2 h hmin =>
      obtain ⟨hslots, -⟩ := Bool.and_eq_true_iff.mp (mayGrant_of_argMin hmin).2
      cases hw : h.req.write with
      | true =>
        have hpos : 0 < writes := by simpa [hw] using hslots
        have hrest := ih (reads := reads) (writes := writes - 1) (last := sqIndex h.req.cls) (locks := lockFor locks h.req) (held := held.erase h)
        simp only [hw, if_true, List.filter_cons_of_pos, List.length_cons]
        omega
      | false =>
        simp only [hw, Bool.false_eq_true, if_false, List.filter_cons_of_neg, not_false_eq_true]
        exact ih

theorem sqFill_reads : ((sqFill prio n reads writes last locks held).1.filter fun h => !h.req.write).length ≤ reads := by
  induction n generalizing reads writes last locks held with
  | zero => exact Nat.zero_le _
  | succ n ih =>
    rw [sqFill_succ]
    split
    · exact Nat.zero_le _
    case h_2 h hmin =>
      obtain ⟨hslots, -⟩ := Bool.and_eq_true_iff.mp (mayGrant_of_argMin hmin).2
      cases hw : h.req.write with
      | true =>
        simp only [hw, if_true, List.filter_cons_of_neg, Bool.not_true, Bool.false_eq_true, not_false_eq_true]
        exact ih
      | false =>
        have hpos : 0 < reads := by simpa [hw] using hslots
        have hrest := ih (reads := reads - 1) (writes := writes) (last := sqIndex h.req.cls) (locks := lockFor locks h.req) (held := held.erase h)
        simp only [hw, Bool.false_eq_true, if_false, List.filter_cons_of_pos, Bool.not_false, List.length_cons]
        omega

theorem sqFill_mem (hg : g ∈ (sqFill prio n reads writes last locks held).1) : g ∈ held := by
  induction n generalizing reads writes last locks held with
  | zero => cases hg
  | succ n ih =>
    rw [sqFill_succ] at hg
    split at hg
    · cases hg
    case h_2 h hmin =>
      rcases List.mem_cons.mp hg with rfl | hg
      · exact (mayGrant_of_argMin hmin).1
      · exact List.mem_of_mem_erase (ih hg)

/-- The locks of a decision as it goes on: those it began with, and none more on a unit of those (R363). -/
structure LocksGrow (base locks : List (Nat × Nat)) : Prop where
  kept : ∀ k ∈ base, k ∈ locks
  new  : ∀ e ∈ locks, e.1 ≠ 0 → (∃ k ∈ base, k.1 = e.1) → e ∈ base

theorem LocksGrow.refl (base : List (Nat × Nat)) : LocksGrow base base := ⟨fun _ h => h, fun _ h _ _ => h⟩

/-- A request that may be granted, on a unit that a lock of the decision's beginning is on, is of that lock's sequence. -/
theorem LocksGrow.ofHolder (hgrow : LocksGrow base locks) {r : SqReq} (hmay : mayTouch locks r = true) (hunit : r.unit ≠ 0)
    {k : Nat × Nat} (hk : k ∈ base) (hsame : k.1 = r.unit) : ofHolder base r = true := by
  have hheld : locks.any (fun k => k.1 = r.unit) = true := List.any_eq_true.mpr ⟨k, hgrow.kept k hk, by simpa using hsame⟩
  have hof : Machine.ofHolder locks r = true := by simpa [mayTouch, hheld, hunit] using hmay
  obtain ⟨hcls, hmem⟩ : r.cls = .lane ∧ (r.unit, r.seq) ∈ locks := by simpa [Machine.ofHolder] using hof
  simpa [Machine.ofHolder, hcls] using hgrow.new _ hmem hunit ⟨k, hk, hsame⟩

theorem LocksGrow.lockFor (hgrow : LocksGrow base locks) {r : SqReq} (hmay : mayTouch locks r = true) :
    LocksGrow base (lockFor locks r) := by
  unfold Machine.lockFor
  split
  case isFalse => exact hgrow
  case isTrue hlock =>
    have hnot : Machine.ofHolder locks r = false := by simpa using (Bool.and_eq_true_iff.mp hlock).2
    refine ⟨fun k hk => List.mem_append_left _ (hgrow.kept k hk), fun e he hunit hon => ?_⟩
    rcases List.mem_append.mp he with he | he
    · exact hgrow.new e he hunit hon
    · obtain rfl := List.mem_singleton.mp he
      obtain ⟨k, hk, hsame⟩ := hon
      have hof := hgrow.ofHolder hmay hunit hk hsame
      obtain ⟨-, hmem⟩ : r.cls = .lane ∧ (r.unit, r.seq) ∈ base := by simpa [Machine.ofHolder] using hof
      exact hmem

theorem sqFill_ofHolder (hgrow : LocksGrow base locks) (hg : g ∈ (sqFill prio n reads writes last locks held).1)
    {k : Nat × Nat} (hk : k ∈ base) (hunit : g.req.unit ≠ 0) (hsame : k.1 = g.req.unit) : ofHolder base g.req = true := by
  induction n generalizing reads writes last locks held with
  | zero => cases hg
  | succ n ih =>
    rw [sqFill_succ] at hg
    split at hg
    · cases hg
    case h_2 h hmin =>
      have hmay : mayTouch locks h.req = true := (Bool.and_eq_true_iff.mp (mayGrant_of_argMin hmin).2).2
      rcases List.mem_cons.mp hg with rfl | hg
      · exact hgrow.ofHolder hmay hunit hk hsame
      · exact ih (hgrow.lockFor hmay) hg

/-- The first grant of a decision has the best standing of all that may be granted (R359). -/
theorem sqFill_head (hg : (sqFill prio (n + 1) (reads + 1) (writes + 1) last locks held).1.head? = some g) :
    ∀ h ∈ held, mayTouch locks h.req = true → sqKey prio last locks g ≤ sqKey prio last locks h := by
  intro h hh hmay
  rw [sqFill_succ] at hg
  split at hg
  · cases hg
  case h_2 x hmin =>
    obtain rfl := Option.some.inj hg
    refine argMin_le hmin h (List.mem_filter.mpr ⟨hh, ?_⟩)
    simp [mayGrant, hmay]

end

/-! ### One slot of every square -/

section
variable {i : Nat} {posted : List SqReq} {withdrawn : List (Nat × Nat)} {s : State}

theorem length_sqRotate (n : Nat) (qs : List Square) : (sqRotate n qs).length = qs.length := by
  rw [sqRotate, List.length_map, List.length_range]

/-- What rotation moves is held requests alone (R340). -/
theorem sqRotate_getD {n : Nat} {qs : List Square} (h : i < qs.length) :
    ∃ hs, (sqRotate n qs).getD i {} = { qs.getD i {} with held := hs } :=
  ⟨_, getD_map_range _ _ h⟩

/-- The squares after a slot. -/
def squaresAfter (posted : List SqReq) (withdrawn : List (Nat × Nat)) (s : State) : List Square :=
  sqRotate s.sq.slot ((List.range 64).map fun i => sqSlot s.sq.slot i posted withdrawn (s.sq.squares.getD i {}))

theorem squareSlot_of_live (hlive : live s = true) :
    squareSlot posted withdrawn s =
      modSq (fun q => { q with slot := s.sq.slot + 1, squares := squaresAfter posted withdrawn s })
        (modPot (fun t => { t with
          staleGrants := t.staleGrants + ((List.range 64).map fun i => sqLapses i withdrawn (s.sq.squares.getD i {})).sum }) s) := by
  rw [squareSlot, if_neg (by simp [hlive])] <;> rfl

theorem length_squaresAfter : (squaresAfter posted withdrawn s).length = 64 := by
  rw [squaresAfter, length_sqRotate, List.length_map, List.length_range]

theorem squaresAfter_getD (h : i < 64) :
    ∃ hs, (squaresAfter posted withdrawn s).getD i {} =
      { sqSlot s.sq.slot i posted withdrawn (s.sq.squares.getD i {}) with held := hs } := by
  obtain ⟨hs, e⟩ := sqRotate_getD (n := s.sq.slot) (i := i)
    (qs := (List.range 64).map fun i => sqSlot s.sq.slot i posted withdrawn (s.sq.squares.getD i {})) (by simpa using h)
  exact ⟨hs, e.trans (by rw [getD_map_range _ _ h])⟩

end

/-! ### A cycle of the Ladder -/

section
variable {qs : List (List PipPkt)} {ptrs : List Nat} {s : State}

/-- A port has one grant at most, since each port grants once. -/
theorem nodup_pipAccepted_ports : ((pipAccepted qs ptrs).map (·.1)).Nodup := by
  have hports : ∀ ports : List Nat, ((ports.filterMap fun port => (pipGrant qs (ptrs.getD port 0) port).map fun g => (port, g)).map (·.1)).Sublist ports := by
    intro ports
    induction ports with
    | nil => exact List.Sublist.slnil
    | cons port ports ih =>
      rw [List.filterMap_cons]
      cases pipGrant qs (ptrs.getD port 0) port with
      | none => exact ih.cons port
      | some g => exact ih.cons_cons port
  exact ((List.filter_sublist.map _).trans (hports _)).nodup List.nodup_range

/-- The grants that one queue accepts are those of one packet (R234). -/
theorem pipAccepted_one {g h : Nat × Nat × PipPkt} (hg : g ∈ pipAccepted qs ptrs) (hh : h ∈ pipAccepted qs ptrs) (hqueue : g.2.1 = h.2.1) :
    g.2.2.num = h.2.2.num := by
  have hg' := (List.mem_filter.mp hg).2
  have hh' := (List.mem_filter.mp hh).2
  rw [hqueue] at hg'
  obtain ⟨p, hp, hpg⟩ := Option.any_eq_true _ _ |>.mp hg'
  obtain ⟨q, hq, hqh⟩ := Option.any_eq_true _ _ |>.mp hh'
  rw [hp] at hq
  obtain rfl := Option.some.inj hq
  rw [← of_decide_eq_true hpg, of_decide_eq_true hqh]

/-- Every part but the Ladder. -/
def notLadder : StatePart → Bool
  | .ladder => false
  | _ => true

/-- The packets of a cycle cross to their links, and those that have left every queue are counted. -/
def pipCrossAll (acc : List (Nat × Nat × PipPkt)) (sent : List PipPkt) (s : State) : State :=
  forAll sent (fun _ => countForward)
    (forAll acc (fun g s => forAll (g.2.2.links.filter fun l => portOf l.1 = g.1) (fun l => pipCross g.2.2 l.1 l.2) s) s)

theorem pipCrossAll_ladder (acc : List (Nat × Nat × PipPkt)) (sent : List PipPkt) : (pipCrossAll acc sent s).ladder = s.ladder := by
  have : May notLadder .ports := ⟨rfl⟩
  have : May notLadder .links := ⟨rfl⟩
  have : May notLadder .route := ⟨rfl⟩
  have : May notLadder .pawn := ⟨rfl⟩
  have hkeeps : Keeps notLadder s (pipCrossAll acc sent s) :=
    keeps_forAll _ _ (fun _ _ h => keeps_countForward h) (keeps_forAll _ _ (fun _ _ h =>
      keeps_forAll _ _ (fun _ _ h => keeps_pipCross _ _ _ h) h) (Keeps.refl s))
  exact hkeeps.same_ .ladder rfl

/-- The pointers of the ports after a cycle: one past the queue whose grant was accepted (R234). -/
def ladderPtrs (acc : List (Nat × Nat × PipPkt)) (ptrs : List Nat) : List Nat :=
  (List.range 64).map fun port => match acc.find? fun g => g.1 = port with
    | some g => (g.2.1 + 1) % 64
    | none => ptrs.getD port 0

theorem ladderPtrs_getD {acc : List (Nat × Nat × PipPkt)} {port : Nat} (h : port < 64) :
    (ladderPtrs acc ptrs).getD port 0 = match acc.find? fun g => g.1 = port with
      | some g => (g.2.1 + 1) % 64
      | none => ptrs.getD port 0 := getD_map_range _ _ h

theorem ladderStep_of_live (hlive : live s = true) :
    let acc := pipAccepted s.ladder.queues s.ladder.ptrs
    let left := s.ladder.queues.map fun q => q.map fun p => { p with
      links := p.links.filter fun l => !acc.any fun g => g.1 = portOf l.1 && g.2.2.num = p.num, waited := p.waited + 1 }
    ladderStep s = modLadder (fun d => { d with
      queues := left.map fun q => q.filter fun p => !p.links.isEmpty
      ptrs := ladderPtrs acc d.ptrs }) (pipCrossAll acc ((left.flatMap id).filter fun p => p.links.isEmpty) s) := by
  dsimp only
  rw [ladderStep, if_neg (by simp [hlive])] <;> rfl

theorem pipOverflow_of_waited {queue : Nat} {p : PipPkt} (hlive : live s = true)
    (hp : (s.ladder.queues.getD queue []).find? (fun p => 32 ≤ p.waited) = some p) :
    let go := aheadOf s p ++ [p]
    pipOverflow queue s =
      forAll ((s.ladder.queues.flatMap id).filter fun q => q.num ≠ p.num && go.any fun x => follows x q) pipOver (forAll go pipOver s) := by
  dsimp only
  rw [pipOverflow, if_neg (by simp [hlive]), hp]

end

/-- Settles O48, by induction on the grants of a decision, and by the grants of a Ladder cycle. -/
theorem arbitersGrantInTheirOrder : Obligations.ArbitersGrantInTheirOrder := by
  unfold Obligations.ArbitersGrantInTheirOrder
  intro s hlive
  refine ⟨fun posted withdrawn _ => ⟨_, exec_next rfl (squareSlot_of_live hlive), rfl, length_squaresAfter, rfl, fun i hi => ?_⟩, ?_,
    fun queue p hp => exec_next rfl (pipOverflow_of_waited hlive hp)⟩
  · intro q r gs
    obtain ⟨hs, e⟩ := squaresAfter_getD (posted := posted) (withdrawn := withdrawn) (s := s) hi
    have hr : r = { sqSlot s.sq.slot i posted withdrawn q with held := hs } := e
    refine ⟨by rw [hr]; rfl, by rw [hr]; rfl, by rw [hr]; rfl, sqFill_writes, sqFill_reads, fun h hh => sqFill_mem hh, by rw [hr]; rfl,
      fun g hg k hk hunit hsame => sqFill_ofHolder (LocksGrow.refl q.locks) hg hk hunit hsame, fun g hg => sqFill_head hg⟩
  · intro qs acc
    refine ⟨nodup_pipAccepted_ports, fun g hg h hh => pipAccepted_one hg hh, _, exec_next rfl (ladderStep_of_live hlive), rfl,
      fun port hport => ?_⟩
    refine (ladderPtrs_getD hport).trans ?_
    rw [pipCrossAll_ladder] <;> rfl

end Sys2Proof.Proofs
end

section
/-! SUPPORT. Rounds: contributions and results that arrive, the lanes and Pip rounds (R156 to R170, R229 to R231, R363 to
R367), and how rounds end (R176, R182 to R188); statements O49 and O50. -/

namespace Sys2Proof.Proofs
open Sys2Proof Sys2Proof.Machine Sys2Proof.Safety Sys2Proof.Laws

/-! ### Headers and failure times -/

section
variable {h : RoundHdr} {t rid : Nat} {s : State}

theorem hdrBad_of_reserved (hbad : h.resv ≠ 0 ∨ (h.phase = 3 ∧ h.source ≠ 0)) : hdrBad h = true := by
  simpa [hdrBad] using hbad

theorem hdrBad_of_clear (hresv : h.resv = 0) (hsource : h.phase ≠ 3 ∨ h.source = 0) : hdrBad h = false := by
  simpa [hdrBad, hresv, or_iff_not_imp_left] using hsource

theorem pawnShuts_iff : pawnShuts t rid s = true ↔
    s.pawn.cause ≠ 0 ∧ ∀ x, findRound s t rid = some x → x.2.done = true := by
  cases hfind : findRound s t rid <;> simp [pawnShuts, hfind]

end

section
variable {s : State} {tb : Table} {r : Round} {port t rid : Nat}

theorem overdue_of_done (hdone : r.done = true) : overdue s tb r = none := if_pos hdone

theorem overdue_of_late_chunk {c : Chunk} {x : Src} (hopen : r.done = false) (howing : lowestOwing c = some x)
    (hlate : argMin (fun (c : Chunk) => c.index) (r.chunks.filter fun c =>
      c.state = 1 && stillOwed c && c.clock + (tb.absence + tb.level) * 1000000 ≤ now s) = some c) :
    overdue s tb r = some (x, c.index) := by
  unfold overdue absenceNs
  rw [if_neg (by simp [hopen]), hlate]
  dsimp only
  rw [howing, Option.getD_some]

theorem failOverdue_of_overdue {y : Src × Nat} (hfind : findRound s t rid = some (tb, r)) (hlate : overdue s tb r = some y) :
    failOverdue port t rid s = failRoundAt port t rid stLate y.1.id y.1.isMember y.2 none s := by
  unfold failOverdue
  rw [hfind]
  dsimp only
  rw [hlate]

end

/-! ### The round that a contribution names (R156, R158, R160, R185) -/

section
variable {pip : Bool} {port : Nat} {h : RoundHdr} {s : State} {tb : Table} {r : Round}

theorem contribRound_of_unknown (hfind : findRound s h.table h.round = none) :
    contribRound pip port h s = .error (strayRound h.table h.round s) := by
  unfold contribRound
  rw [hfind]

theorem contribRound_of_done (hfind : findRound s h.table h.round = some (tb, r)) (hdone : r.done = true) :
    contribRound pip port h s = .error (strayRound h.table h.round s) := by
  unfold contribRound
  rw [hfind]
  exact if_pos hdone

theorem contribRound_of_overdue {y : Src × Nat} (hfind : findRound s h.table h.round = some (tb, r)) (hopen : r.done = false)
    (hlate : overdue s tb r = some y) :
    contribRound pip port h s = .error (failRoundAt port h.table h.round stLate y.1.id y.1.isMember y.2 none s) := by
  rw [← failOverdue_of_overdue hfind hlate]
  unfold contribRound
  rw [hfind]
  exact (if_neg (by simp [hopen])).trans (if_pos (by simp [hlate]))

/-- What is left of the checks when the round is open and its failure time has not come. -/
theorem contribRound_of_open (hfind : findRound s h.table h.round = some (tb, r)) (hopen : r.done = false)
    (hlate : overdue s tb r = none) :
    contribRound pip port h s =
      let x := contribSrc tb h
      let fail := fun st => failRoundAt port tb.id h.round st x.id x.isMember (packetChunk tb r x h.offset) none s
      if (wireFmt tb r x).2.2 ≤ h.offset + itemElems h.format * (h.count - 1) then .error (strayOffset h.table s)
      else if h.board ≠ r.epoch then .error (fail stBoard)
      else if r.pip ≠ pip || 2 ≤ h.phase || h.count = 0 || 4080 < h.count then .error (fail stMalformed)
      else .ok (tb, r, x) := by
  unfold contribRound
  rw [hfind]
  exact (if_neg (by simp [hopen])).trans (if_neg (by simp [hlate]))

theorem contribRound_of_outside (hfind : findRound s h.table h.round = some (tb, r)) (hopen : r.done = false)
    (hlate : overdue s tb r = none)
    (hout : (wireFmt tb r (contribSrc tb h)).2.2 ≤ h.offset + itemElems h.format * (h.count - 1)) :
    contribRound pip port h s = .error (strayOffset h.table s) :=
  (contribRound_of_open hfind hopen hlate).trans (if_pos hout)

theorem contribRound_of_board (hfind : findRound s h.table h.round = some (tb, r)) (hopen : r.done = false)
    (hlate : overdue s tb r = none)
    (hin : h.offset + itemElems h.format * (h.count - 1) < (wireFmt tb r (contribSrc tb h)).2.2) (hboard : h.board ≠ r.epoch) :
    contribRound pip port h s = .error (failRoundAt port tb.id h.round stBoard (contribSrc tb h).id (contribSrc tb h).isMember
      (packetChunk tb r (contribSrc tb h) h.offset) none s) :=
  (contribRound_of_open hfind hopen hlate).trans ((if_neg (not_le.mpr hin)).trans (if_pos hboard))

theorem contribRound_of_malformed (hfind : findRound s h.table h.round = some (tb, r)) (hopen : r.done = false)
    (hlate : overdue s tb r = none)
    (hin : h.offset + itemElems h.format * (h.count - 1) < (wireFmt tb r (contribSrc tb h)).2.2) (hboard : h.board = r.epoch)
    (hbad : r.pip ≠ pip ∨ 2 ≤ h.phase ∨ h.count = 0 ∨ 4080 < h.count) :
    contribRound pip port h s = .error (failRoundAt port tb.id h.round stMalformed (contribSrc tb h).id
      (contribSrc tb h).isMember (packetChunk tb r (contribSrc tb h) h.offset) none s) :=
  (contribRound_of_open hfind hopen hlate).trans ((if_neg (not_le.mpr hin)).trans
    ((if_neg (not_not_intro hboard)).trans (if_pos (by simpa [or_assoc] using hbad))))

theorem contribRound_of_good (hfind : findRound s h.table h.round = some (tb, r)) (hopen : r.done = false)
    (hlate : overdue s tb r = none)
    (hin : h.offset + itemElems h.format * (h.count - 1) < (wireFmt tb r (contribSrc tb h)).2.2) (hboard : h.board = r.epoch)
    (hpip : r.pip = pip) (hphase : h.phase < 2) (hcount : 0 < h.count) (hmax : h.count ≤ 4080) :
    contribRound pip port h s = .ok (tb, r, contribSrc tb h) :=
  (contribRound_of_open hfind hopen hlate).trans ((if_neg (not_le.mpr hin)).trans
    ((if_neg (not_not_intro hboard)).trans (if_neg (by simp [hpip, hphase, hmax]; omega))))

end

/-! ### CONTRIB_RECEIVE -/

section
variable {l : Nat} {payload : List Byte} {s u v : State} {p : Option (Nat × Nat × Packet)} {tb : Table} {r : Round} {x : Src}
  {es : List (Nat × Val)} {rot : Nat}

theorem contribIn_of_bad (htake : takeSelf l payload s = (p, u))
    (hbad : payload.length < 16 ∨ (roundHdr (payW payload 0) (payW payload 1)).resv ≠ 0 ∨
      ((roundHdr (payW payload 0) (payW payload 1)).phase = 3 ∧ (roundHdr (payW payload 0) (payW payload 1)).source ≠ 0)) :
    contribIn l payload s =
      if p.isSome then freeCredits l ((p.map (·.1)).getD 4) (ceilDiv (16 + payload.length) 64) u else u := by
  unfold contribIn
  rw [htake]
  exact if_pos (by simpa [or_assoc] using Or.inr (hbad.imp_right hdrBad_of_reserved))

variable (htake : takeSelf l payload s = (p, u)) (hlive : live u = true) (hlen : 16 ≤ payload.length)
  (hgood : hdrBad (roundHdr (payW payload 0) (payW payload 1)) = false)
include htake hlive hlen hgood

theorem contribIn_of_error (hround : contribRound false (portOf l) (roundHdr (payW payload 0) (payW payload 1)) u = .error v) :
    contribIn l payload s =
      if p.isSome then freeCredits l ((p.map (·.1)).getD 4) (ceilDiv (16 + payload.length) 64) (drain v) else drain v := by
  unfold contribIn
  rw [htake]
  dsimp only
  rw [if_neg (by simp [hlive, hlen, hgood]), hround]

variable (hround : contribRound false (portOf l) (roundHdr (payW payload 0) (payW payload 1)) u = .ok (tb, r, x))
include hround

theorem contribIn_of_unread (hdata : readData tb r x (roundHdr (payW payload 0) (payW payload 1)) (payload.drop 16) = none) :
    contribIn l payload s =
      let v := drain (failRound tb.id (roundHdr (payW payload 0) (payW payload 1)).round stMalformed x.id x.isMember
        (packetChunk tb r x (roundHdr (payW payload 0) (payW payload 1)).offset) none u)
      if p.isSome then freeCredits l ((p.map (·.1)).getD 4) (ceilDiv (16 + payload.length) 64) v else v := by
  unfold contribIn
  rw [htake]
  dsimp only
  rw [if_neg (by simp [hlive, hlen, hgood]), hround]
  dsimp only
  rw [hdata]

variable (hdata : readData tb r x (roundHdr (payW payload 0) (payW payload 1)) (payload.drop 16) = some (es, rot))
include hdata

theorem contribIn_of_factors {n : NSpec} (hfold : foldFrom tb r x = some n) :
    contribIn l payload s =
      if p.isSome then freeCredits l ((p.map (·.1)).getD 4) (ceilDiv (16 + payload.length) 64) (drain (takeFactors tb r n x es u))
      else drain (takeFactors tb r n x es u) := by
  unfold contribIn
  rw [htake]
  dsimp only
  rw [if_neg (by simp [hlive, hlen, hgood]), hround]
  dsimp only
  rw [hdata]
  dsimp only
  rw [hfold]

theorem contribIn_of_overOwed {i : Nat} (hfold : foldFrom tb r x = none) (hover : overOwed tb r x es = some i) :
    contribIn l payload s =
      let v := drain (failRound tb.id (roundHdr (payW payload 0) (payW payload 1)).round stDup x.id x.isMember i none u)
      if p.isSome then freeCredits l ((p.map (·.1)).getD 4) (ceilDiv (16 + payload.length) 64) v else v := by
  unfold contribIn
  rw [htake]
  dsimp only
  rw [if_neg (by simp [hlive, hlen, hgood]), hround]
  dsimp only
  rw [hdata]
  dsimp only
  rw [hfold]
  dsimp only
  rw [hover]

theorem contribIn_of_taken (hfold : foldFrom tb r x = none) (hover : overOwed tb r x es = none) :
    contribIn l payload s =
      let flits := ceilDiv (16 + payload.length) 64
      let pool := (p.map (·.1)).getD 4
      let per := (payload.length - 16) / max 1 es.length
      let items := (List.range es.length).map fun k => ((es.getD k (0, { v := 0 })).1, (es.getD k (0, { v := 0 })).2.v,
        (32 + k * per) / 256, (32 + (k + 1) * per - 1) / 256)
      let cells : List HeldCell := if p.isNone then [] else (List.range (ceilDiv (16 + payload.length) 256)).map fun c =>
        { num := u.feed.next, cell := c, link := l, pool := pool, flits := min 4 (flits - 4 * c) }
      let v := countIn tb r x es rot (countGot tb r x es u)
      drain (releaseCells u.feed.next { v with feed := { v.feed with
        next := u.feed.next + 1, cells := v.feed.cells ++ cells
        waiting := v.feed.waiting ++ splitParts tb r x u.feed.next (portOf l) items [] } }) := by
  unfold contribIn
  rw [htake]
  dsimp only
  rw [if_neg (by simp [hlive, hlen, hgood]), hround]
  dsimp only
  rw [hdata]
  dsimp only
  rw [hfold]
  dsimp only
  rw [hover]

end

/-! ### LOCKED_SEQUENCE (R363 to R367) -/

section
variable {lane : Nat} {w : WordRead} {s : State} {p : Part} {rest : List Part} {tb : Table} {r : Round} {c : Chunk}

theorem lockedSeq_of_gone (hlive : live s = true) (hlane : s.feed.lanes.getD lane [] = p :: rest)
    (hgone : partChunk { s with feed := { s.feed with lanes := s.feed.lanes.set lane rest } } p = none) :
    lockedSeq lane w s = drain { s with feed := { s.feed with lanes := s.feed.lanes.set lane rest } } := by
  unfold lockedSeq
  rw [if_neg (by simp [hlive]), hlane]
  dsimp only
  rw [hgone]

/-- The cells of its chunk that the oldest part of a lane lies in. -/
def partCells (p : Part) (r : Round) (c : Chunk) : List (Option Nat) :=
  (c.accs.drop (unitSize r.spec * p.unit)).take (unitSize r.spec)

/-- A part reads its cells unless it is the first of a whole unit (R366). -/
def partReads (p : Part) (r : Round) (c : Chunk) : Bool :=
  (partCells p r c).any Option.isSome || p.elems.length < (partCells p r c).length

theorem partReads_iff : partReads p r c = true ↔
    (∃ x ∈ partCells p r c, x ≠ none) ∨ p.elems.length < (partCells p r c).length := by
  simp [partReads, Option.isSome_iff_ne_none]

theorem partReads_eq_false_iff : partReads p r c = false ↔
    (∀ x ∈ partCells p r c, x = none) ∧ (partCells p r c).length ≤ p.elems.length := by
  simp [partReads]

variable (hlive : live s = true) (hlane : s.feed.lanes.getD lane [] = p :: rest)
  (hchunk : partChunk { s with feed := { s.feed with lanes := s.feed.lanes.set lane rest } } p = some (tb, r, c))
include hlive hlane hchunk

theorem lockedSeq_of_failed (hreads : partReads p r c = true) (hfailed : w = .failed) :
    lockedSeq lane w s = drain (wordFault p.table p.round p.chunk (if c.hbm then 1 else 0)
      (.accumulator p.table p.round p.chunk) w { s with feed := { s.feed with lanes := s.feed.lanes.set lane rest } }) := by
  unfold lockedSeq
  rw [if_neg (by simp [hlive]), hlane]
  dsimp only
  rw [hchunk]
  exact if_pos (Bool.and_eq_true_iff.mpr ⟨hreads, decide_eq_true hfailed⟩)

theorem lockedSeq_of_applied {q : State}
    (hq : partReads p r c = true ∧ w ≠ .failed ∧
        q = readWord (if c.hbm then 1 else 0) (.accumulator p.table p.round p.chunk) w
          { s with feed := { s.feed with lanes := s.feed.lanes.set lane rest } } ∨
      partReads p r c = false ∧ q = { s with feed := { s.feed with lanes := s.feed.lanes.set lane rest } }) :
    lockedSeq lane w s =
      let a := p.elems.foldl (applyElem r.spec c.lo) (c.accs, 0)
      let m := modRound p.table p.round (fun q => { q with
        flushed := q.flushed + a.2
        chunks := updWhere (fun x => x.index = p.chunk) (fun x => { x with
          accs := a.1, applied := modAt x.applied p.unit (· + p.elems.length) }) q.chunks }) q
      let v := if c.applied.getD p.unit 0 + p.elems.length < unitOwed r c (partCells p r c).length then
        wroteWord (if c.hbm then 1 else 0) 2 m else m
      match partChunk v p with
      | some (_, _, c) => drain (if chunkComplete v p.table p.round c then finishChunk p.port p.table p.round p.chunk v else v)
      | none => drain v := by
  have hgo : ¬ (partReads p r c && decide (w = .failed)) = true := by
    rcases hq with ⟨-, hok, -⟩ | ⟨hfirst, -⟩
    · simp [hok]
    · simp [hfirst]
  have hstate : q = if partReads p r c then readWord (if c.hbm then 1 else 0) (.accumulator p.table p.round p.chunk) w
      { s with feed := { s.feed with lanes := s.feed.lanes.set lane rest } }
      else { s with feed := { s.feed with lanes := s.feed.lanes.set lane rest } } := by
    rcases hq with ⟨hreads, -, rfl⟩ | ⟨hfirst, rfl⟩
    · rw [if_pos hreads]
    · rw [if_neg (by simp [hfirst])]
  unfold lockedSeq
  rw [if_neg (by simp [hlive]), hlane]
  dsimp only
  rw [hchunk, hstate]
  exact if_neg hgo

end

/-! ### Results (R169, R170) -/

section
variable {pip : Bool} {port epoch : Nat} {h : RoundHdr} {data : List Byte} {s : State} {tb : Table} {r : Round}

theorem resultData_of_unknown (hfind : findRound s h.table h.round = none) :
    resultData pip port epoch h data s = strayRound h.table h.round s := by
  unfold resultData
  rw [hfind]

variable (hfind : findRound s h.table h.round = some (tb, r)) (hopen : r.done = false) (hlate : overdue s tb r = none)
  (hin : h.offset + h.count ≤ r.spec.elems)
include hfind hopen hlate hin

theorem resultData_of_malformed (hbad : h.phase < 2 ∨ h.format ≠ deliverFmt r.spec) :
    resultData pip port epoch h data s = failRoundAt port tb.id h.round stMalformed
      (if h.phase = 2 then h.source else (parentOf tb).getD 0) true (chunkOf tb r h.offset) none s := by
  unfold resultData
  rw [hfind]
  dsimp only
  rw [if_neg (by simp [hopen]), if_neg (by simp [hlate]), if_neg (not_lt.mpr hin), if_pos]
  rcases hbad with hphase | hformat
  · simp [hphase]
  · simp [hformat]

theorem resultData_of_good {vs : List Nat} (hpip : r.pip = pip) (hphase : 2 ≤ h.phase) (hcount : 0 < h.count)
    (hmax : h.count ≤ 4080) (hformat : h.format = deliverFmt r.spec)
    (hread : readElems (elemBytes h.format) h.count data = some vs) :
    resultData pip port epoch h data s =
      let new := ((List.range vs.length).map fun i => (h.offset + i, canonElem h.format (vs.getD i 0))).filter
        fun e => (getE r.results e.1).isNone
      if new.isEmpty then s else resultsIn port epoch tb.id h.round new
        (modRound tb.id h.round (fun q => { q with accepted := q.accepted.map fun _ => now s }) s) := by
  unfold resultData
  rw [hfind]
  dsimp only
  rw [if_neg (by simp [hopen]), if_neg (by simp [hlate]), if_neg (not_lt.mpr hin),
    if_neg (by simp [hpip, hformat, hmax]; omega), hread]

end

section
variable {l : Nat} {payload : List Byte} {s u : State}

theorem resultIn_of_bad (htake : u = (takeSelfFree l payload s).2)
    (hbad : payload.length < 16 ∨ (roundHdr (payW payload 0) (payW payload 1)).resv ≠ 0 ∨
      ((roundHdr (payW payload 0) (payW payload 1)).phase = 3 ∧ (roundHdr (payW payload 0) (payW payload 1)).source ≠ 0)) :
    resultIn l payload s = u := by
  subst htake
  exact if_pos (by simpa [or_assoc] using Or.inr (hbad.imp_right hdrBad_of_reserved))

theorem resultIn_of_good (htake : u = (takeSelfFree l payload s).2) (hlive : live u = true) (hlen : 16 ≤ payload.length)
    (hgood : hdrBad (roundHdr (payW payload 0) (payW payload 1)) = false) :
    resultIn l payload s = drain (resultData false (portOf l) (selfEpoch l payload s)
      (roundHdr (payW payload 0) (payW payload 1)) (payload.drop 16) u) := by
  unfold resultIn
  dsimp only
  rw [← htake, if_neg (by simp [hlive, hlen, hgood])]

end

/-! ### Pip rounds (R229 to R231) -/

section
variable {l : Nat} {f : List W64} {s v : State} {tb : Table} {r : Round} {x : Src} {es : List (Nat × Val)} {rot : Nat}

theorem pipRoundIn_of_shut (hshut : pawnShuts (roundHdr (wd f 0) (wd f 1)).table (roundHdr (wd f 0) (wd f 1)).round s = true) :
    pipRoundIn l f s = { s with pawn := { s.pawn with selfDrops := s.pawn.selfDrops + 1 } } :=
  if_pos hshut

variable (htaken : ¬ pawnShuts (roundHdr (wd f 0) (wd f 1)).table (roundHdr (wd f 0) (wd f 1)).round s = true)
include htaken

theorem pipRoundIn_of_bad (hbad : hdrBad (roundHdr (wd f 0) (wd f 1)) = true) : pipRoundIn l f s = s :=
  (if_neg htaken).trans (if_pos hbad)

variable (hgood : hdrBad (roundHdr (wd f 0) (wd f 1)) = false)
include hgood

theorem pipRoundIn_of_result (hphase : 2 ≤ (roundHdr (wd f 0) (wd f 1)).phase) :
    pipRoundIn l f s = drain (resultData true (portOf l) s.route.cur (roundHdr (wd f 0) (wd f 1))
      (pipData (roundHdr (wd f 0) (wd f 1)) f) s) :=
  (if_neg htaken).trans ((if_neg (by simp [hgood])).trans (if_pos hphase))

variable (hphase : (roundHdr (wd f 0) (wd f 1)).phase < 2)
include hphase

theorem pipRoundIn_of_error (hround : contribRound true (portOf l) (roundHdr (wd f 0) (wd f 1)) s = .error v) :
    pipRoundIn l f s = drain v := by
  unfold pipRoundIn
  dsimp only
  rw [if_neg htaken, if_neg (by simp [hgood]), if_neg (not_le.mpr hphase), hround]

variable (hround : contribRound true (portOf l) (roundHdr (wd f 0) (wd f 1)) s = .ok (tb, r, x))
include hround

theorem pipRoundIn_of_unread
    (hdata : readData tb r x (roundHdr (wd f 0) (wd f 1)) (pipData (roundHdr (wd f 0) (wd f 1)) f) = none) :
    pipRoundIn l f s = drain (failRoundAt (portOf l) tb.id (roundHdr (wd f 0) (wd f 1)).round stMalformed x.id x.isMember
      (packetChunk tb r x (roundHdr (wd f 0) (wd f 1)).offset) none s) := by
  unfold pipRoundIn
  dsimp only
  rw [if_neg htaken, if_neg (by simp [hgood]), if_neg (not_le.mpr hphase), hround]
  dsimp only
  rw [hdata]

theorem pipRoundIn_of_operand
    (hdata : readData tb r x (roundHdr (wd f 0) (wd f 1)) (pipData (roundHdr (wd f 0) (wd f 1)) f) = some (es, rot)) :
    pipRoundIn l f s = drain (pipContrib (portOf l) tb r x es s) := by
  unfold pipRoundIn
  dsimp only
  rw [if_neg htaken, if_neg (by simp [hgood]), if_neg (not_le.mpr hphase), hround]
  dsimp only
  rw [hdata]

end

/-! ### O49 -/

/-- Settles O49, by what the round's header, its lane and its packet's data say, case by case. -/
theorem contributionsAndResultsAreTaken : Obligations.ContributionsAndResultsAreTaken := by
  refine ⟨?_, ?_, ?_, ?_, ?_, ?_⟩
  · rintro _ _ port pip h s rfl rfl
    refine ⟨contribRound_of_unknown, ?_⟩
    intro tb r hfind x last fail run
    exact ⟨contribRound_of_done hfind, fun y hopen hlate => contribRound_of_overdue hfind hopen hlate,
      fun hopen hlate => ⟨contribRound_of_outside hfind hopen hlate, contribRound_of_board hfind hopen hlate,
        fun hin hboard => ⟨contribRound_of_malformed hfind hopen hlate hin hboard,
          contribRound_of_good hfind hopen hlate hin hboard⟩⟩⟩
  · exact fun s tb r => ⟨overdue_of_done, fun hopen c x howing hlate => overdue_of_late_chunk hopen howing hlate⟩
  · intro l payload s u p htake hlive h flits pool free
    refine ⟨fun hbad => exec_next rfl (contribIn_of_bad htake hbad), fun hlen hresv hsource => ?_⟩
    have hgood : hdrBad h = false := hdrBad_of_clear hresv hsource
    refine ⟨fun v hround => exec_next rfl (contribIn_of_error htake hlive hlen hgood hround), fun tb r x hround => ?_⟩
    refine ⟨fun hdata => exec_next rfl (contribIn_of_unread htake hlive hlen hgood hround hdata), fun es rot hdata => ?_⟩
    refine ⟨fun n hfold => exec_next rfl (contribIn_of_factors htake hlive hlen hgood hround hdata hfold), fun hfold => ?_⟩
    exact ⟨fun i hover => exec_next rfl (contribIn_of_overOwed htake hlive hlen hgood hround hdata hfold hover),
      fun hover => exec_next rfl (contribIn_of_taken htake hlive hlen hgood hround hdata hfold hover)⟩
  · intro lane w s p rest hlive hlane u
    refine ⟨fun hgone => exec_next rfl (lockedSeq_of_gone hlive hlane hgone), fun tb r c hchunk => ?_⟩
    intro cells o tier
    refine ⟨fun hreads hfailed => exec_next rfl (lockedSeq_of_failed hlive hlane hchunk (partReads_iff.mpr hreads) hfailed),
      fun q hq => exec_next rfl (lockedSeq_of_applied hlive hlane hchunk ?_)⟩
    exact hq.imp (fun ⟨hreads, hrest⟩ => ⟨partReads_iff.mpr hreads, hrest⟩)
      (fun ⟨hnone, hwhole, hsame⟩ => ⟨partReads_eq_false_iff.mpr ⟨hnone, hwhole⟩, hsame⟩)
  · intro l payload s u htake hlive h data epoch
    refine ⟨fun hbad => exec_next rfl (resultIn_of_bad htake hbad), fun hlen hresv hsource => ?_⟩
    have hin : resultIn l payload s = drain (resultData false (portOf l) epoch h data u) :=
      resultIn_of_good htake hlive hlen (hdrBad_of_clear hresv hsource)
    refine ⟨fun hfind => exec_next rfl (hin.trans (congrArg drain (resultData_of_unknown hfind))), ?_⟩
    intro tb r hfind hopen hlate hinside src
    refine ⟨fun hbad => exec_next rfl (hin.trans (congrArg drain (resultData_of_malformed hfind hopen hlate hinside hbad))), ?_⟩
    rintro vs hpip hphase hcount hmax hformat hread _ rfl
    have hdata := resultData_of_good (port := portOf l) (epoch := epoch) hfind hopen hlate hinside hpip hphase hcount hmax hformat hread
    exact ⟨fun hnil => exec_next rfl (hin.trans (congrArg drain (hdata.trans (if_pos (List.isEmpty_iff.mpr hnil))))),
      fun hnew => exec_next rfl (hin.trans (congrArg drain (hdata.trans (if_neg (by simpa using hnew)))))⟩
  · intro l f s u harr h shut
    have hin : pipArrive l 0 f (pipRoundIn l f) s = pipRoundIn l f u := pipArrive_of_pipArrives harr _
    refine ⟨fun hshut => exec_next rfl (hin.trans (pipRoundIn_of_shut (pawnShuts_iff.mpr hshut))), fun htaken hbad => ?_,
      fun htaken hresv hphase => ?_, fun htaken hresv hphase => ?_⟩
    · exact exec_next rfl (hin.trans (pipRoundIn_of_bad (mt pawnShuts_iff.mp htaken) (hdrBad_of_reserved hbad)))
    · have hgood : hdrBad h = false :=
        hdrBad_of_clear hresv (hphase.imp (fun h2 h3 => absurd (h2.symm.trans h3) (by decide)) And.right)
      exact exec_next rfl (hin.trans (pipRoundIn_of_result (mt pawnShuts_iff.mp htaken) hgood
        (hphase.elim Eq.ge fun h3 => Nat.le_of_succ_le h3.1)))
    · have hgood : hdrBad h = false := hdrBad_of_clear hresv (.inl (Nat.ne_of_lt (Nat.lt_succ_of_lt hphase)))
      have htaken' := mt pawnShuts_iff.mp htaken
      exact ⟨fun v hround => exec_next rfl (hin.trans (pipRoundIn_of_error htaken' hgood hphase hround)),
        fun tb r x hround => ⟨fun hdata => exec_next rfl (hin.trans (pipRoundIn_of_unread htaken' hgood hphase hround hdata)),
          fun es rot hdata => exec_next rfl (hin.trans (pipRoundIn_of_operand htaken' hgood hphase hround hdata))⟩⟩

/-! ### How rounds end (R176, R182 to R188, R231) -/

section
variable {t rid i : Nat} {s : State} {tb : Table} {r : Round}

theorem sentChunk_of_gone (hfind : findRound s t rid = some (tb, r)) (hopen : r.done = false) (hsent : i ∉ r.sent)
    (hin : i < chunkCount tb r) (hready : chunkReady tb r i = true) (hgone : chunkGone s t rid i = true) :
    sentChunk t rid i s =
      checkDone t rid (chunkNotices tb r i (modRound t rid (fun x => { x with sent := insertN i x.sent }) s)) := by
  unfold sentChunk
  rw [hfind]
  exact if_neg (by simp [hopen, hsent, hin, hready, hgone])

theorem chunkLate_of_open {c : Chunk} (hopen : openChunkOf s t rid i = some (tb, r, c)) :
    chunkLate t rid i s = modRound t rid (fun r => { r with
      chunks := updWhere (fun x => x.index = i) (fun x => { x with late := true }) r.chunks })
      (advanceTo (c.clock + 1000 * tb.deadline) s) := by
  unfold chunkLate
  rw [hopen]

theorem chunkAbsent_of_owing {c : Chunk} {x : Src} (hopen : openChunkOf s t rid i = some (tb, r, c))
    (howing : lowestOwing c = some x) :
    chunkAbsent t rid i s = drain (failRound t rid stLate x.id x.isMember i none
      (advanceTo (c.clock + (tb.absence + tb.level) * 1000000) s)) := by
  unfold chunkAbsent absenceNs
  rw [hopen]
  dsimp only
  rw [howing, Option.getD_some]

theorem roundInactive_of_open {a : Nat} (hfind : findRound s t rid = some (tb, r)) (haccepted : r.accepted = some a)
    (hopen : r.done = false) :
    roundInactive t rid s = drain (failRound t rid stLate (inactiveSrc tb r).1.id (inactiveSrc tb r).1.isMember
      (inactiveSrc tb r).2 none (advanceTo (a + (tb.absence + tb.level) * 1000000) s)) := by
  unfold roundInactive
  rw [hfind]
  dsimp only
  rw [haccepted]
  exact if_neg (by simp [hopen])

theorem inactiveSrc_of_owing {c : Chunk} {x : Src}
    (hfirst : ((List.range (chunkCount tb r)).map (chunkAt tb r)).find? stillOwed = some c) (howing : lowestOwing c = some x) :
    inactiveSrc tb r = (x, c.index) := by
  unfold inactiveSrc
  rw [hfirst]
  dsimp only
  rw [howing, Option.getD_some]

theorem inactiveSrc_of_none (hnone : ((List.range (chunkCount tb r)).map (chunkAt tb r)).find? stillOwed = none) :
    inactiveSrc tb r =
      ({ isMember := true, id := if isCrown tb then predOf tb r.board else (parentOf tb).getD 0 }, 0) := by
  unfold inactiveSrc
  rw [hnone]

end

section
variable {g : RoundSig} {l : Nat} {src : Option Nat} {s : State} {tb : Table} {r : Round}

theorem abortIn_of_unknown (hfind : findRound s g.table g.round = none) : abortIn g l src s = s := by
  unfold abortIn
  rw [hfind]

theorem abortIn_of_round (hfind : findRound s g.table g.round = some (tb, r)) :
    abortIn g l src s = failRoundAt (portOf l) g.table g.round stPeer g.source g.isMember 0
      (src.or (neighbourOn tb r.board l s)) s := by
  unfold abortIn
  rw [hfind]
  cases src <;> rfl

end

section
variable {l : Nat} {f : List W64} {payload : List Byte} {s u : State} {p : Option Packet}

theorem signalIn_of_abort (htake : takeSelfFree l payload s = (p, u)) (hlive : live u = true) (hlen : payload.length = 32)
    (hgood : roundSigOk (wordsOf 4 payload) = true) (habort : (roundSig (wordsOf 4 payload)).signal = 2) :
    signalIn l payload s = drain (abortIn (roundSig (wordsOf 4 payload)) l (p.map pSrc) u) := by
  unfold signalIn
  rw [htake]
  exact if_neg (by simp [hlive, hlen, hgood, habort])

theorem pipSigIn_of_shut (hshut : pawnShuts (roundHdr (wd f 0) (wd f 1)).table (roundHdr (wd f 0) (wd f 1)).round s = true) :
    pipSigIn l f s = { s with pawn := { s.pawn with selfDrops := s.pawn.selfDrops + 1 } } :=
  if_pos hshut

theorem pipSigIn_of_abort
    (htaken : ¬ pawnShuts (roundHdr (wd f 0) (wd f 1)).table (roundHdr (wd f 0) (wd f 1)).round s = true)
    (hhdr : hdrBad (roundHdr (wd f 0) (wd f 1)) = false) (hgood : roundSigOk [wd f 4, wd f 5, wd f 6, wd f 7] = true)
    (habort : (roundSig [wd f 4, wd f 5, wd f 6, wd f 7]).signal = 2) :
    pipSigIn l f s = drain (abortIn (roundSig [wd f 4, wd f 5, wd f 6, wd f 7]) l none s) :=
  (if_neg htaken).trans (if_neg (by simp [hhdr, hgood, habort]))

end

/-- Settles O50, by the round or the chunk that the signal or the limit names, case by case. -/
theorem roundsEndByTheirSignalsAndLimits : Obligations.RoundsEndByTheirSignalsAndLimits := by
  refine ⟨?_, ?_, ?_, ?_, ?_⟩
  · exact fun t rid i s tb r hlive hfind hopen hsent hin hready hgone =>
      exec_next rfl ((if_pos hlive).trans (congrArg drain (sentChunk_of_gone hfind hopen hsent hin hready hgone)))
  · intro l payload s u p htake hlive hlen hgood habort g
    have hin : signalIn l payload s = drain (abortIn g l (p.map pSrc) u) := signalIn_of_abort htake hlive hlen hgood habort
    refine ⟨?_, fun hfind => exec_next rfl (hin.trans (congrArg drain (abortIn_of_unknown hfind)))⟩
    rintro tb r hfind _ rfl
    exact exec_next rfl (hin.trans (congrArg drain (abortIn_of_round hfind)))
  · intro l f s u harr ws h shut
    have hin : pipArrive l 1 f (pipSigIn l f) s = pipSigIn l f u := pipArrive_of_pipArrives harr _
    refine ⟨fun hshut => exec_next rfl (hin.trans (pipSigIn_of_shut (pawnShuts_iff.mpr hshut))), ?_⟩
    intro htaken hhdr hgood habort tb r hfind
    exact exec_next rfl (hin.trans ((pipSigIn_of_abort (mt pawnShuts_iff.mp htaken) hhdr hgood habort).trans
      (congrArg drain (abortIn_of_round hfind))))
  · exact fun t rid i s tb r c hlive hopen => ⟨exec_next rfl ((if_pos hlive).trans (chunkLate_of_open hopen)),
      fun x howing => exec_next rfl ((if_pos hlive).trans (chunkAbsent_of_owing hopen howing))⟩
  · intro t rid s tb r a hlive hfind haccepted hopen owing
    have hin : (if live s then roundInactive t rid s else s) = _ :=
      (if_pos hlive).trans (roundInactive_of_open hfind haccepted hopen)
    refine ⟨fun c x hfirst howing => exec_next rfl ?_, ?_⟩
    · rw [hin, inactiveSrc_of_owing hfirst howing]
    · rintro hnone _ rfl
      refine exec_next rfl ?_
      rw [hin, inactiveSrc_of_none hnone]

end Sys2Proof.Proofs
end

section
/-! SUPPORT. Barriers and levels: JOIN, HALT and a barrier that waits (R247 to R252, R260), packets that are held (R572,
R649), and LEVEL packets (R566 to R573); statements O51 and O52. -/

namespace Sys2Proof.Proofs
open Sys2Proof Sys2Proof.Machine Sys2Proof.Safety Sys2Proof.Laws

/-! ### Held packets -/

section
variable {m : HeldMsg} {f : State → State} {s : State}

theorem holdMsg_of_room (hroom : s.held.length < 4096) : holdMsg m f s = { s with held := s.held ++ [m] } :=
  if_neg (not_le.mpr hroom)

theorem holdMsg_of_full (hfull : 4096 ≤ s.held.length) : holdMsg m f s = f s := if_pos hfull

end

/-! ### JOIN -/

section
variable {l : Nat} {f : List W64} {s : State} {tb : Table}

theorem joinArrive_of_unknown (hfind : findTable s (barrierPkt f).table = none) :
    joinArrive l f s = holdMsg { isJoin := true, table := (barrierPkt f).table, link := l, since := now s, bytes := [], words := f }
      (pipDrop l) s :=
  if_neg (by simp [hfind])

theorem joinArrive_of_open (hfind : findTable s (barrierPkt f).table = some tb) : joinArrive l f s = joinIn l f s :=
  if_pos (by simp [hfind])

/-- The source of a JOIN as the table sees it: its ring predecessor, unless that is a child too. -/
def joinFrom (tb : Table) (b : BarrierPkt) : Src :=
  { isMember := b.isMember, id := b.source
    ring := isCrown tb && 1 < tb.board.ring.length && b.isMember && b.source = predOf tb tb.board && !(children tb).contains b.source }

theorem joinIn_of_open (hfind : findTable s (barrierPkt f).table = some tb) :
    joinIn l f s =
      let b := barrierPkt f
      let x := joinFrom tb b
      if isReleased tb.bar b.turn b.seq || !(joinSources tb).contains x ||
          tb.bar.joins.any (fun j => j.src = x && j.turn = b.turn && j.seq = b.seq) then pipStray l f s
      else joinCheck b.table (portOf l) (modBar b.table (fun q => { q with joins := q.joins ++
        [{ src := x, turn := b.turn, seq := b.seq, digest := b.value, board := b.board }] }) s) := by
  unfold joinIn
  dsimp only
  rw [hfind] <;> rfl

theorem joinIn_of_stray (hfind : findTable s (barrierPkt f).table = some tb)
    (hstray : isReleased tb.bar (barrierPkt f).turn (barrierPkt f).seq = true ∨ joinFrom tb (barrierPkt f) ∉ joinSources tb ∨
      ∃ j ∈ tb.bar.joins, j.src = joinFrom tb (barrierPkt f) ∧ j.turn = (barrierPkt f).turn ∧ j.seq = (barrierPkt f).seq) :
    joinIn l f s = pipStray l f s :=
  (joinIn_of_open hfind).trans (if_pos (by simpa [or_assoc, and_assoc] using hstray))

theorem joinIn_of_due (hfind : findTable s (barrierPkt f).table = some tb)
    (hrel : isReleased tb.bar (barrierPkt f).turn (barrierPkt f).seq = false)
    (hsrc : joinFrom tb (barrierPkt f) ∈ joinSources tb)
    (hnew : ∀ j ∈ tb.bar.joins, j.src = joinFrom tb (barrierPkt f) → j.turn = (barrierPkt f).turn → j.seq ≠ (barrierPkt f).seq) :
    joinIn l f s = joinCheck (barrierPkt f).table (portOf l) (modBar (barrierPkt f).table (fun q => { q with joins := q.joins ++
      [{ src := joinFrom tb (barrierPkt f), turn := (barrierPkt f).turn, seq := (barrierPkt f).seq
         digest := (barrierPkt f).value, board := (barrierPkt f).board }] }) s) :=
  (joinIn_of_open hfind).trans (if_neg (by simpa [hrel, hsrc] using hnew))

end

/-! ### The JOIN of a table and its release -/

section
variable {t port : Nat} {s : State} {tb : Table}

theorem joinDiffers_iff {j : BarrierJoin} : joinDiffers tb j = true ↔
    j.src.isMember = true ∧ (j.digest ≠ tb.window.toNat ∨ j.board ≠ tb.board.digest) := by
  simp [joinDiffers]

variable (hfind : findTable s t = some tb) (hjoined : tb.bar.joined = true) (hsent : tb.bar.sent = false) (hhalt : tb.halt = 0)
include hfind hjoined hsent hhalt

theorem joinCheck_of_differing (hdiff : ∃ j ∈ pendingJoins tb, joinDiffers tb j = true) :
    joinCheck t port s = haltTable t 4 port none none s := by
  unfold joinCheck
  rw [hfind]
  dsimp only
  rw [if_neg (by simp [hjoined, hsent, hhalt]), if_pos (by simpa using hdiff)]

variable (hsame : ∀ j ∈ pendingJoins tb, joinDiffers tb j = false)
include hsame

theorem joinCheck_of_missing
    (hmissing : tb.lvl.set = false ∨ ∃ x ∈ joinSources tb, ∀ j ∈ pendingJoins tb, j.src ≠ x) : joinCheck t port s = s := by
  unfold joinCheck
  rw [hfind]
  dsimp only
  rw [if_neg (by simp [hjoined, hsent, hhalt]), if_neg (by simpa using hsame), if_pos (by simpa using hmissing)]

variable (hset : tb.lvl.set = true) (hall : ∀ x ∈ joinSources tb, ∃ j ∈ pendingJoins tb, j.src = x)
include hset hall

theorem joinCheck_of_first (hcrown : isCrown tb = true) (hpos : ownPos tb tb.board = 0) :
    joinCheck t port s =
      let at_ := now s + 1000 * tb.bar.lead
      let ring := if 1 < tb.board.ring.length then [succOf tb tb.board, predOf tb tb.board].eraseDups else []
      pipSend port (ring.map (eidOf tb) ++ below tb)
        (barrierWords { table := t, turn := tb.bar.turn, seq := tb.bar.seq, type := 3, value := at_ })
        (modBar t (fun b => { b with sent := true, releaseAt := some at_, lastAt := at_ }) s) := by
  unfold joinCheck
  rw [hfind]
  dsimp only
  rw [if_neg (by simp [hjoined, hsent, hhalt]), if_neg (by simpa using hsame), if_neg (by simpa [hset] using hall),
    if_pos (by simp [hcrown, hpos])]

theorem joinCheck_of_other {m : Nat} (hnext : (isCrown tb = true ∧ ownPos tb tb.board ≠ 0 ∧ m = succOf tb tb.board) ∨
      (isCrown tb = false ∧ parentOf tb = some m)) :
    joinCheck t port s = pipSend port [eidOf tb m]
      (barrierWords { table := t, source := tb.member, isMember := true, turn := tb.bar.turn, seq := tb.bar.seq, type := 2
                      value := tb.window.toNat, board := tb.board.digest })
      (modBar t (fun b => { b with sent := true }) s) := by
  have hother : ¬ (isCrown tb && decide (ownPos tb tb.board = 0)) = true := by
    rcases hnext with ⟨-, hpos, -⟩ | ⟨hout, -⟩
    · simp [hpos]
    · simp [hout]
  have hdst : (if isCrown tb then some (succOf tb tb.board) else parentOf tb) = some m := by
    rcases hnext with ⟨hcrown, -, rfl⟩ | ⟨hout, hparent⟩
    · rw [if_pos hcrown]
    · rw [if_neg (by simp [hout]), hparent]
  unfold joinCheck
  rw [hfind]
  dsimp only
  rw [if_neg (by simp [hjoined, hsent, hhalt]), if_neg (by simpa using hsame), if_neg (by simpa [hset] using hall),
    if_neg hother, hdst]

end

/-! ### HALT, and a barrier that waits -/

section
variable {l t : Nat} {f : List W64} {s : State} {tb : Table}

theorem haltIn_of_unknown (hfind : findTable s (barrierPkt f).table = none) :
    haltIn l f s = modPort (portOf l) (fun p => { p with pipDrops := p.pipDrops + 1 }) s := by
  unfold haltIn
  dsimp only
  rw [hfind] <;> rfl

theorem haltIn_of_stray (hfind : findTable s (barrierPkt f).table = some tb)
    (hcode : (barrierPkt f).code = 0 ∨ 4 < (barrierPkt f).code) : haltIn l f s = pipStray l f s := by
  unfold haltIn
  dsimp only
  rw [hfind]
  exact if_pos (by simpa using hcode)

theorem haltIn_of_open (hfind : findTable s (barrierPkt f).table = some tb) (hcode : 1 ≤ (barrierPkt f).code)
    (hmax : (barrierPkt f).code ≤ 4) :
    haltIn l f s = haltTable (barrierPkt f).table (barrierPkt f).code (portOf l) (some (barrierPkt f).source)
      (neighbourOn tb tb.board l s) s := by
  unfold haltIn
  dsimp only
  rw [hfind]
  exact if_neg (by simp [hmax]; omega)

theorem haltTable_of_halted {code port : Nat} {src except : Option Nat} (hfind : findTable s t = some tb) (hhalt : tb.halt ≠ 0) :
    haltTable t code port src except s = s := by
  unfold haltTable
  rw [hfind]
  exact if_pos hhalt

theorem haltTable_of_running {code port : Nat} {src except : Option Nat} (hfind : findTable s t = some tb) (hhalt : tb.halt = 0) :
    haltTable t code port src except s =
      let v := closeGroup t (modTable t (fun tb => { tb with
        halt := code, closing := false, waiting := false, poolWait := false, bar := { tb.bar with haltSrc := src } }) s)
      sendHalt tb port code except (match findTable v t with
        | some tb => tableRecord 2 tb.turn tb v
        | none => v) := by
  unfold haltTable
  rw [hfind]
  exact if_neg (not_not_intro hhalt)

theorem barrierStall_of_missing {x : Src} (hfind : findTable s t = some tb) (hjoined : tb.bar.joined = true)
    (hsent : tb.bar.sent = false) (hhalt : tb.halt = 0)
    (hmissing : argMin (fun (x : Src) => 2 * x.id + b2n x.isMember)
      ((joinSources tb).filter fun x => !((pendingJoins tb).any fun j => j.src = x)) = some x) :
    barrierStall t s = modBar t (fun b => { b with stalled := some x })
      (advanceTo (tb.bar.joinedAt + (tb.absence + tb.level) * 1000000) s) := by
  unfold barrierStall absenceNs
  rw [hfind]
  dsimp only
  rw [if_neg (by simp [hjoined, hsent, hhalt]), hmissing]

end

theorem joinExpire_of_held {s : State} {m : HeldMsg} (hfirst : s.held.find? (·.isJoin) = some m) :
    joinExpire s =
      let v := advanceTo (m.since + 10000000000) s
      let old := fun (h : HeldMsg) => h.isJoin && h.since + 10000000000 ≤ now v
      forAll (v.held.filter old) (fun h => modPort (portOf h.link) (fun p => { p with pipDrops := p.pipDrops + 1 }))
        { v with held := v.held.filter fun h => !old h } := by
  unfold joinExpire
  rw [hfirst] <;> rfl

/-- Settles O51, by whether the table is open and what its barrier has held, sent and released. -/
theorem barriersJoinReleaseAndHalt : Obligations.BarriersJoinReleaseAndHalt := by
  refine ⟨?_, ?_, ?_, ?_, ?_⟩
  · intro l f s u harr b
    have hin : pipArrive l 2 f (joinArrive l f) s = joinArrive l f u := pipArrive_of_pipArrives harr _
    refine ⟨fun hfind hroom => exec_next rfl (hin.trans ((joinArrive_of_unknown hfind).trans (holdMsg_of_room hroom))),
      fun hfind hfull => exec_next rfl (hin.trans ((joinArrive_of_unknown hfind).trans (holdMsg_of_full hfull))), ?_⟩
    intro tb hfind ring x
    have hopen := hin.trans (joinArrive_of_open hfind)
    exact ⟨fun hstray => exec_next rfl (hopen.trans (joinIn_of_stray hfind hstray)),
      fun hrel hsrc hnew => exec_next rfl (hopen.trans (joinIn_of_due hfind hrel hsrc hnew))⟩
  · intro t port s tb hfind hjoined hsent hhalt js
    refine ⟨fun ⟨j, hj, hdiff⟩ => joinCheck_of_differing hfind hjoined hsent hhalt ⟨j, hj, joinDiffers_iff.mpr hdiff⟩, fun hagree => ?_⟩
    have hsame : ∀ j ∈ pendingJoins tb, joinDiffers tb j = false := by
      refine fun j hj => Bool.eq_false_iff.mpr fun hdiff => ?_
      obtain ⟨hmember, hother⟩ := joinDiffers_iff.mp hdiff
      exact hother.elim (absurd (hagree j hj hmember).1) (absurd (hagree j hj hmember).2)
    exact ⟨joinCheck_of_missing hfind hjoined hsent hhalt hsame, fun hset hall =>
      ⟨joinCheck_of_first hfind hjoined hsent hhalt hsame hset hall,
        fun m hnext => joinCheck_of_other hfind hjoined hsent hhalt hsame hset hall hnext⟩⟩
  · intro l f s u harr b
    have hin : pipArrive l 4 f (haltIn l f) s = haltIn l f u := pipArrive_of_pipArrives harr _
    refine ⟨fun hfind => exec_next rfl (hin.trans (haltIn_of_unknown hfind)), fun tb hfind => ?_⟩
    refine ⟨fun hcode => exec_next rfl (hin.trans (haltIn_of_stray hfind hcode)), fun hcode hmax hhalt => ?_,
      fun hcode hmax hhalt => ?_⟩
    · exact exec_next rfl (hin.trans ((haltIn_of_open hfind hcode hmax).trans (haltTable_of_halted hfind hhalt)))
    · rintro v _ rfl
      exact exec_next rfl (hin.trans ((haltIn_of_open hfind hcode hmax).trans (haltTable_of_running hfind hhalt)))
  · exact fun t s tb x hlive hfind hjoined hsent hhalt hmissing =>
      exec_next rfl ((if_pos hlive).trans (barrierStall_of_missing hfind hjoined hsent hhalt hmissing))
  · rintro s m hlive hfirst _ rfl
    exact exec_next rfl ((if_pos hlive).trans (joinExpire_of_held hfirst))

/-! ### LEVEL packets (R566 to R573) -/

section
variable {l type : Nat} {bs : List Byte} {s u : State} {p : Option Packet} {g : Option Packet → State → State}

theorem mgmtArrive_of_pawn (htake : takeSelfFree l bs s = (p, u)) (hlive : live u = true) (hpawn : u.pawn.cause ≠ 0) :
    mgmtArrive l type bs g s = modPawn (fun p => { p with selfDrops := p.selfDrops + 1 }) u := by
  unfold mgmtArrive
  rw [htake]
  dsimp only
  rw [if_neg (by simp [hlive]), if_pos hpawn] <;> rfl

theorem mgmtArrive_of_bad (htake : takeSelfFree l bs s = (p, u)) (hlive : live u = true) (hpawn : u.pawn.cause = 0)
    (hbad : mgmtOk bs = false) : mgmtArrive l type bs g s = protoError l u := by
  unfold mgmtArrive
  rw [htake]
  dsimp only
  rw [if_neg (by simp [hlive]), if_neg (not_not_intro hpawn), if_pos (by simp [hbad])]

theorem mgmtArrive_of_good (htake : takeSelfFree l bs s = (p, u)) (hlive : live u = true) (hpawn : u.pawn.cause = 0)
    (hgood : mgmtOk bs = true) (htype : fld (payW bs 0) 63 60 = type) : mgmtArrive l type bs g s = g p u := by
  unfold mgmtArrive
  rw [htake]
  dsimp only
  rw [if_neg (by simp [hlive]), if_neg (not_not_intro hpawn), if_neg (by simp [hgood]), if_pos htype]

theorem levelAdvIn_of_up (hup : linkRuns s l = true) :
    levelAdvIn l bs p s = modLink l (fun k => { k with peer := some {
      level := fld (payW bs 0) 59 58, eid := (p.map pSrc).getD (getLink s l).stat.peerEid
      rom := fld (payW bs 2) 63 32, patch := fld (payW bs 2) 31 0 } }) s := by
  unfold levelAdvIn
  rw [if_neg (by simp [hup])]
  cases p <;> rfl

end

section
variable {l : Nat} {bs : List Byte} {s : State} {tb : Table}

theorem levelArrive_of_unknown (hfind : findTable s (fld (payW bs 0) 31 22) = none) :
    levelArrive l bs s = holdMsg { isJoin := false, table := fld (payW bs 0) 31 22, link := l, since := now s, bytes := bs, words := [] }
      (protoError l) s :=
  if_neg (by simp [hfind])

theorem levelArrive_of_open (hfind : findTable s (fld (payW bs 0) 31 22) = some tb) : levelArrive l bs s = levelIn l bs s :=
  if_pos (by simp [hfind])

theorem levelIn_of_digest (hfind : findTable s (fld (payW bs 0) 31 22) = some tb) (hdigest : (payW bs 1).toNat ≠ tb.lvl.digest) :
    levelIn l bs s = protoError l s := by
  unfold levelIn
  dsimp only
  rw [hfind]
  exact if_pos hdigest

variable (hfind : findTable s (fld (payW bs 0) 31 22) = some tb) (hdigest : (payW bs 1).toNat = tb.lvl.digest)
include hfind hdigest

theorem levelIn_of_up (htype : fld (payW bs 0) 63 60 = 2) (hsrc : fld (payW bs 0) 19 0 ∈ levelSources tb) :
    levelIn l bs s = joinCheck (fld (payW bs 0) 31 22) (Config.ownQueue % 64) (levelCheck (fld (payW bs 0) 31 22)
      (modTable (fld (payW bs 0) 31 22) (fun tb => { tb with lvl := { tb.lvl with
        ups := (fld (payW bs 0) 19 0, fld (payW bs 0) 59 58) :: tb.lvl.ups.filter fun u => u.1 ≠ fld (payW bs 0) 19 0 } }) s)) := by
  unfold levelIn
  dsimp only
  rw [hfind]
  exact (if_neg (not_not_intro hdigest)).trans ((if_pos htype).trans (if_neg (by simp [hsrc])))

variable (htype : fld (payW bs 0) 63 60 = 3)
include htype

/-- LEVEL_SET: nothing when the level is set; otherwise it is set and passed to the ring neighbour on the other side,
unless that is at position 0, and to the children. -/
theorem levelIn_of_set :
    levelIn l bs s =
      let lv := fld (payW bs 0) 59 58
      let next := if fld (payW bs 0) 19 0 = firstPred tb then firstSucc tb else firstPred tb
      let ring := if !isCrown tb then []
        else if 1 < tb.lvl.ring.length then if some next = tb.lvl.ring.head? then [] else [next]
        else []
      if tb.lvl.set then s
      else joinCheck (fld (payW bs 0) 31 22) (Config.ownQueue % 64)
        (sendLevelSet tb lv ring (setLevel (fld (payW bs 0) 31 22) lv s)) := by
  unfold levelIn
  dsimp only
  rw [hfind]
  exact (if_neg (not_not_intro hdigest)).trans (if_neg (by rw [htype]; decide))

theorem levelIn_of_set_before (hset : tb.lvl.set = true) : levelIn l bs s = s :=
  (levelIn_of_set hfind hdigest htype).trans (if_pos hset)

theorem levelIn_of_set_outside (hset : tb.lvl.set = false) (hout : isCrown tb = false) :
    levelIn l bs s = joinCheck (fld (payW bs 0) 31 22) (Config.ownQueue % 64)
      (sendLevelSet tb (fld (payW bs 0) 59 58) [] (setLevel (fld (payW bs 0) 31 22) (fld (payW bs 0) 59 58) s)) := by
  rw [levelIn_of_set hfind hdigest htype]
  dsimp only
  rw [if_neg (by simp [hset]), if_pos (by simp [hout])]

theorem levelIn_of_set_crown (hset : tb.lvl.set = false) (hcrown : isCrown tb = true) (hring : 1 < tb.lvl.ring.length) :
    levelIn l bs s =
      let next := if fld (payW bs 0) 19 0 = firstPred tb then firstSucc tb else firstPred tb
      joinCheck (fld (payW bs 0) 31 22) (Config.ownQueue % 64) (sendLevelSet tb (fld (payW bs 0) 59 58)
        (if some next = tb.lvl.ring.head? then [] else [next])
        (setLevel (fld (payW bs 0) 31 22) (fld (payW bs 0) 59 58) s)) := by
  rw [levelIn_of_set hfind hdigest htype]
  dsimp only
  rw [if_neg (by simp [hset]), if_neg (by simp [hcrown]), if_pos hring]

end

section
variable {t : Nat} {s : State} {tb : Table} (hfind : findTable s t = some tb) (hsent : tb.lvl.sent = false)
  (hall : ∀ m ∈ levelSources tb, ∃ u ∈ tb.lvl.ups, u.1 = m)
include hfind hsent hall

theorem levelCheck_of_first (hcrown : isCrown tb = true) (hpos : firstPos tb = 0) :
    levelCheck t s =
      let lv := (tb.lvl.ups.map (·.2)).foldl min tb.lvl.ownMax
      sendLevelSet tb lv (if 1 < tb.lvl.ring.length then [firstSucc tb, firstPred tb] else [])
        (setLevel t lv (modTable t (fun tb => { tb with lvl := { tb.lvl with sent := true } }) s)) := by
  unfold levelCheck
  rw [hfind]
  dsimp only
  rw [if_neg (by simpa [hsent] using hall), if_pos (by simp [hcrown, hpos])]

theorem levelCheck_of_other {m : Nat} (hnext : (isCrown tb = true ∧ firstPos tb ≠ 0 ∧ m = firstSucc tb) ∨
      (isCrown tb = false ∧ parentOf tb = some m)) :
    levelCheck t s = sendMgmt (eidOf tb m) (levelPayload tb 2 ((tb.lvl.ups.map (·.2)).foldl min tb.lvl.ownMax))
      (modTable t (fun tb => { tb with lvl := { tb.lvl with sent := true } }) s) := by
  have hother : ¬ (isCrown tb && decide (firstPos tb = 0)) = true := by
    rcases hnext with ⟨-, hpos, -⟩ | ⟨hout, -⟩
    · simp [hpos]
    · simp [hout]
  have hdst : (if isCrown tb then some (firstSucc tb) else parentOf tb) = some m := by
    rcases hnext with ⟨hcrown, -, rfl⟩ | ⟨hout, hparent⟩
    · rw [if_pos hcrown]
    · rw [if_neg (by simp [hout]), hparent]
  unfold levelCheck
  rw [hfind]
  dsimp only
  rw [if_neg (by simpa [hsent] using hall), if_neg hother, hdst]

end

theorem levelExpire_of_held {s : State} {m : HeldMsg} (hfirst : s.held.find? (fun h => !h.isJoin) = some m) :
    levelExpire s =
      let v := advanceTo (m.since + 10000000000) s
      let old := fun (h : HeldMsg) => !h.isJoin && h.since + 10000000000 ≤ now v
      forAll (v.held.filter old) (fun h => protoError h.link) { v with held := v.held.filter fun h => !old h } := by
  unfold levelExpire
  rw [hfirst]

/-- Settles O52, by the type of the MGMT packet and what its table holds. -/
theorem levelsAreAnnouncedGatheredAndSet : Obligations.LevelsAreAnnouncedGatheredAndSet := by
  refine ⟨?_, ?_, ?_⟩
  · intro l bs s u p htake hlive
    refine ⟨?_, fun hpawn hbad => ?_, fun hpawn hgood => ?_⟩
    · rintro hpawn _ rfl
      exact ⟨exec_next rfl (mgmtArrive_of_pawn htake hlive hpawn), exec_next rfl (mgmtArrive_of_pawn htake hlive hpawn),
        exec_next rfl (mgmtArrive_of_pawn htake hlive hpawn)⟩
    · exact ⟨exec_next rfl (mgmtArrive_of_bad htake hlive hpawn hbad), exec_next rfl (mgmtArrive_of_bad htake hlive hpawn hbad),
        exec_next rfl (mgmtArrive_of_bad htake hlive hpawn hbad)⟩
    intro t lv from_
    have hadv (h : fld (payW bs 0) 63 60 = 1) : exec (.levelAdv l bs) s = .next (levelAdvIn l bs p u) :=
      exec_next rfl (mgmtArrive_of_good htake hlive hpawn hgood h)
    have hup (h : fld (payW bs 0) 63 60 = 2) : exec (.levelUp l bs) s = .next (levelArrive l bs u) :=
      exec_next rfl (mgmtArrive_of_good htake hlive hpawn hgood h)
    have hset (h : fld (payW bs 0) 63 60 = 3) : exec (.levelSet l bs) s = .next (levelArrive l bs u) :=
      exec_next rfl (mgmtArrive_of_good htake hlive hpawn hgood h)
    refine ⟨fun htype hruns => exec_next (hadv htype) (levelAdvIn_of_up hruns), ?_, ?_⟩
    · intro c type hc htype
      have hin : exec c s = .next (levelArrive l bs u) := by
        rcases hc with ⟨rfl, rfl⟩ | ⟨rfl, rfl⟩
        · exact hup htype
        · exact hset htype
      exact ⟨fun hfind hroom => exec_next hin ((levelArrive_of_unknown hfind).trans (holdMsg_of_room hroom)),
        fun hfind hfull => exec_next hin ((levelArrive_of_unknown hfind).trans (holdMsg_of_full hfull)),
        fun tb hfind hdigest => exec_next hin ((levelArrive_of_open hfind).trans (levelIn_of_digest hfind hdigest))⟩
    · intro tb hfind hdigest
      have hopen := levelArrive_of_open (l := l) hfind
      exact ⟨fun htype hsrc => exec_next (hup htype) (hopen.trans (levelIn_of_up hfind hdigest htype hsrc)),
        fun htype hbefore => exec_next (hset htype) (hopen.trans (levelIn_of_set_before hfind hdigest htype hbefore)),
        fun htype hunset hout => exec_next (hset htype) (hopen.trans (levelIn_of_set_outside hfind hdigest htype hunset hout)),
        fun htype hunset hcrown hring =>
          exec_next (hset htype) (hopen.trans (levelIn_of_set_crown hfind hdigest htype hunset hcrown hring))⟩
  · exact fun t s tb hfind hsent hall => ⟨levelCheck_of_first hfind hsent hall,
      fun m hnext => levelCheck_of_other hfind hsent hall hnext⟩
  · rintro s m hlive hfirst _ rfl
    exact exec_next rfl ((if_pos hlive).trans (levelExpire_of_held hfirst))

end Sys2Proof.Proofs
end

section
/-! SUPPORT. Moves that come up (R206 to R219): what each does, waits for or halts on; statement O53. -/

namespace Sys2Proof.Proofs
open Sys2Proof Sys2Proof.Machine Sys2Proof.Safety Sys2Proof.Laws

theorem roundsOver_iff {tb : Table} : roundsOver tb = true ↔ ∀ r ∈ tb.rounds, r.done = true := List.all_eq_true

theorem not_roundsOver {tb : Table} (h : ∃ r ∈ tb.rounds, r.done = false) : ¬ roundsOver tb = true := by
  obtain ⟨r, hr, hopen⟩ := h
  exact fun hover => Bool.eq_false_iff.mp hopen (roundsOver_iff.mp hover r hr)

section
variable {t : Nat} {s : State} {tb : Table} {m : List W64}

theorem phaseSet_of_comesUp (hup : Statement.ComesUp t 4 s tb m) :
    phaseSet t s = retireMove t (modTable t (fun tb => { tb with phase := fld (wd m 0) 2 0 }) s) := by
  unfold phaseSet
  rw [frontMove_eq_some_iff.mpr hup]

theorem waitRounds_of_comesUp (hup : Statement.ComesUp t 3 s tb m) :
    waitRounds t s = if roundsOver tb then retireMove t (closeGroup t s) else waitMove t false (closeGroup t s) := by
  unfold waitRounds
  rw [frontMove_eq_some_iff.mpr hup]

theorem endMove_of_comesUp (hup : Statement.ComesUp t 0x3F s tb m) :
    endMove t s =
      let v := turnDue t (closeGroup t (modTable t (fun tb => { tb with closing := true }) s))
      if roundsOver tb then closeTable t (retireMove t v) else waitMove t false v := by
  unfold endMove
  rw [frontMove_eq_some_iff.mpr hup]

theorem residClear_of_comesUp (hup : Statement.ComesUp t 0x11 s tb m) :
    residClear t s = drain (applyClears t (retireMove t (modTable t (fun tb => { tb with clears := tb.clears ++
      [{ boardNum := tb.boardNum, rslot := fld (wd m 0) 43 36, mask := fld (wd m 0) 2 0, upTo := tb.lastOpened.getD 0 }] }) s))) := by
  unfold residClear
  rw [frontMove_eq_some_iff.mpr hup]

theorem checkpointMove_of_comesUp (hup : Statement.ComesUp t 0x21 s tb m) :
    checkpointMove t s = retireMove t (modKeeper t (fun k => { k with
      ckptReq := (k.ckptReq.filter fun c => c.turn ≠ tb.turn) ++ [{ turn := tb.turn, target := fld (wd m 0) 3 0, hazard := false }] })
      (closeGroup t s)) := by
  unfold checkpointMove
  rw [frontMove_eq_some_iff.mpr hup]

end

/-! ### ROUND_OPEN -/

section
variable {t : Nat} {s : State} {tb : Table} {m : List W64} (hup : Statement.ComesUp t 0x10 s tb m)
include hup

theorem roundOpen_of_invalid (hbad : roundInvalid tb.board (roundSpecOf m) = true) : roundOpen t s = haltMove t 3 s := by
  unfold roundOpen
  rw [frontMove_eq_some_iff.mpr hup]
  exact if_pos hbad

variable (hgood : roundInvalid tb.board (roundSpecOf m) = false)
include hgood

theorem roundOpen_of_extent
    (hpast : (upSpec tb (newRound tb (roundSpecOf m) s)).any (fun n => extentPasses tb n (roundSpecOf m)) = true) :
    roundOpen t s = haltMove t 2 s := by
  unfold roundOpen
  rw [frontMove_eq_some_iff.mpr hup]
  exact (if_neg (Bool.eq_false_iff.mp hgood)).trans (if_pos hpast)

theorem roundOpen_of_full
    (hfits : (upSpec tb (newRound tb (roundSpecOf m) s)).any (fun n => extentPasses tb n (roundSpecOf m)) = false)
    (hfull : 16384 ≤ openRounds s) : roundOpen t s = waitMove t true s := by
  unfold roundOpen
  rw [frontMove_eq_some_iff.mpr hup]
  exact (if_neg (Bool.eq_false_iff.mp hgood)).trans ((if_neg (Bool.eq_false_iff.mp hfits)).trans (if_pos hfull))

theorem roundOpen_of_plain (hwide : upSpec tb (newRound tb (roundSpecOf m) s) = none) (hroom : openRounds s < 16384)
    (hkeeper : (roundSpecOf m).keeper = false) (hclip : (newRound tb (roundSpecOf m) s).clipped = false) :
    roundOpen t s = checkDone t (roundSpecOf m).round (retireMove t (modTable t (fun x => { x with
      rounds := x.rounds ++ [newRound tb (roundSpecOf m) s], lastOpened := some (roundSpecOf m).round }) (freeNext (freeNext s)))) := by
  unfold roundOpen
  rw [frontMove_eq_some_iff.mpr hup]
  dsimp only
  rw [if_neg (Bool.eq_false_iff.mp hgood), hwide, if_neg (by simp), if_neg (not_le.mpr hroom)]
  dsimp only
  rw [hclip, if_neg (by simp [hkeeper]), if_neg Bool.false_ne_true]

end

/-! ### KEEPER_TURN -/

section
variable {t : Nat} {s : State} {tb : Table} {m : List W64} {k : Keeper} (hup : Statement.ComesUp t 0x20 s tb m)
include hup

theorem keeperTurn_of_none (hnone : tb.keeper = none) : keeperTurn t s = retireMove t s := by
  unfold keeperTurn
  rw [frontMove_eq_some_iff.mpr hup]
  dsimp only
  rw [hnone]

theorem keeperTurn_of_stopped (hkeeper : tb.keeper = some k) (hstopped : k.dbl.state = 3) : keeperTurn t s = retireMove t s := by
  unfold keeperTurn
  rw [frontMove_eq_some_iff.mpr hup]
  dsimp only
  rw [hkeeper]
  exact if_pos hstopped

theorem keeperTurn_of_running (hkeeper : tb.keeper = some k) (hruns : k.dbl.state ≠ 3) :
    keeperTurn t s =
      let tv := formVals k.spec (tb.phase = 1) tb.turn (fld (wd m 1) 63 32) (fld (wd m 1) 31 0) (fld (wd m 2) 63 32) k.step k.b1pow k.b2pow
      let v := modKeeper t (fun k => { k with vals := tv, step := tv.step, b1pow := tv.b1pow, b2pow := tv.b2pow }) (retireMove t s)
      if isCrown tb then feedRecord t tb.turn
        (feedHdrBytes { table := t, type := 2, member := tb.member, turn := tb.turn } ++ turnData tv 0)
        (modKeeper t (fun k => { k with turns := k.turns ++ [{ vals := tv }] }) v)
      else v := by
  unfold keeperTurn
  rw [frontMove_eq_some_iff.mpr hup]
  dsimp only
  rw [hkeeper]
  exact if_neg hruns

end

/-! ### BOARD_SWITCH -/

section
variable {t n : Nat} {s : State} {tb : Table} {m : List W64} {b : Board} (hup : Statement.ComesUp t 0x30 s tb m)
include hup

theorem boardSwitch_of_waiting (hwait : tb.other = none ∨ ∃ b n, tb.other = some (b, n, true)) :
    boardSwitch t s = waitMove t false (closeGroup t s) := by
  unfold boardSwitch
  rw [frontMove_eq_some_iff.mpr hup]
  dsimp only
  rcases hwait with hnone | ⟨b, n, hdraining⟩
  · rw [hnone]
  · rw [hdraining]

variable (hother : tb.other = some (b, n, false))
include hother

theorem boardSwitch_of_serial (hserial : b.serial ≠ fld (wd m 0) 15 0) :
    boardSwitch t s = haltMove t 1 (closeGroup t s) := by
  unfold boardSwitch
  rw [frontMove_eq_some_iff.mpr hup]
  dsimp only
  rw [hother]
  exact if_pos hserial

variable (hserial : b.serial = fld (wd m 0) 15 0)
include hserial

theorem boardSwitch_of_full (hfull : 664000000000 < hbmReserved (closeGroup t s) + residBytes tb b) :
    boardSwitch t s = haltMove t 2 (closeGroup t s) := by
  unfold boardSwitch
  rw [frontMove_eq_some_iff.mpr hup]
  dsimp only
  rw [hother]
  exact (if_neg (not_not_intro hserial)).trans (if_pos hfull)

theorem boardSwitch_of_room (hroom : hbmReserved (closeGroup t s) + residBytes tb b ≤ 664000000000) :
    boardSwitch t s =
      let w := modTable t (fun tb => drainBoard { tb with
        board := b, epoch := !tb.epoch, boardNum := n, other := some (tb.board, tb.boardNum, true), switched := true
        oldRing := if tb.switched then tb.oldRing else tb.board.ring
        oldParams := if tb.switched then tb.oldParams else tb.board.params }) (retireMove t (closeGroup t s))
      match findTable w t with
      | some tb => tableRecord 1 tb.turn tb w
      | none => w := by
  unfold boardSwitch
  rw [frontMove_eq_some_iff.mpr hup]
  dsimp only
  rw [hother]
  exact (if_neg (not_not_intro hserial)).trans (if_neg (not_lt.mpr hroom))

end

/-- Settles O53, by the move that comes up and what it finds. -/
theorem movesExecuteWaitOrHalt : Obligations.MovesExecuteWaitOrHalt := by
  intro t s tb m
  refine ⟨fun hup => exec_next rfl (phaseSet_of_comesUp hup), fun hup => ⟨fun hover => ?_, fun hopen => ?_⟩, fun hup => ?_,
    fun hup => exec_next rfl (residClear_of_comesUp hup), fun hup => ⟨?_, ?_, ?_⟩,
    fun hup => exec_next rfl (checkpointMove_of_comesUp hup), ?_, ?_⟩
  · exact exec_next rfl ((waitRounds_of_comesUp hup).trans (if_pos (roundsOver_iff.mpr hover)))
  · exact exec_next rfl ((waitRounds_of_comesUp hup).trans (if_neg (not_roundsOver hopen)))
  · intro c r
    exact ⟨fun hbad => exec_next rfl (roundOpen_of_invalid hup hbad),
      fun hgood hpast => exec_next rfl (roundOpen_of_extent hup hgood hpast),
      fun hgood hfits hfull => exec_next rfl (roundOpen_of_full hup hgood hfits hfull),
      fun hgood hwide hroom hkeeper hclip => exec_next rfl (roundOpen_of_plain hup hgood hwide hroom hkeeper hclip)⟩
  · exact fun hnone => exec_next rfl (keeperTurn_of_none hup hnone)
  · exact fun k hkeeper hstopped => exec_next rfl (keeperTurn_of_stopped hup hkeeper hstopped)
  · intro k hkeeper hruns tv v
    have hturn := keeperTurn_of_running hup hkeeper hruns
    exact ⟨fun hout => exec_next rfl (hturn.trans (if_neg (Bool.eq_false_iff.mp hout))),
      fun hcrown => exec_next rfl (hturn.trans (if_pos hcrown))⟩
  · rintro hup _ rfl
    refine ⟨fun hwait => exec_next rfl (boardSwitch_of_waiting hup hwait), fun b n hother => ?_⟩
    refine ⟨fun hserial => exec_next rfl (boardSwitch_of_serial hup hother hserial),
      fun hserial hfull => exec_next rfl (boardSwitch_of_full hup hother hserial hfull), ?_⟩
    rintro hserial hroom _ rfl
    exact exec_next rfl (boardSwitch_of_room hup hother hserial hroom)
  · rintro hup _ rfl
    exact ⟨fun hover => exec_next rfl ((endMove_of_comesUp hup).trans (if_pos (roundsOver_iff.mpr hover))),
      fun hopen => exec_next rfl ((endMove_of_comesUp hup).trans (if_neg (not_roundsOver hopen)))⟩

end Sys2Proof.Proofs
end

section
/-! SUPPORT. Turns at a partner and their verdicts (R286 to R288, R300 to R308): DoubleFeed records, the end of a replay,
the comparison of digests and tiebreaks; statement O57. -/

namespace Sys2Proof.Proofs
open Sys2Proof Sys2Proof.Machine Sys2Proof.Safety Sys2Proof.Laws

theorem keeper_of_table {t : Nat} {s : State} {tb : Table} {k : Keeper} (hfind : findTable s t = some tb) (hkeeper : tb.keeper = some k) :
    (findTable s t).bind (·.keeper) = some k := by
  rw [hfind, Option.bind_some, hkeeper]

/-! ### DoubleFeed records -/

section
variable {l type : Nat} {bytes : List Byte} {s u x : State} {p : Option Packet}

theorem feedArrive_of_pawn (htake : takeSelfFree l bytes s = (p, u)) (hlive : live u = true) (hpawn : u.pawn.cause ≠ 0) :
    feedArrive l type bytes s = match recordOf (selfDrop u) p (feedHdrOf bytes).table with
      | some d => modThis d (fun d => { d with lost := true }) (selfDrop u)
      | none => selfDrop u := by
  unfold feedArrive
  rw [htake]
  dsimp only
  rw [if_neg (by simp [hlive]), if_pos hpawn] <;> rfl

theorem recordOf_selfDrop {t : Nat} : recordOf (selfDrop u) p t = recordOf u p t := rfl

variable (htake : takeSelfFree l bytes s = (p, u)) (hlive : live u = true) (hpawn : u.pawn.cause = 0)
include htake hlive hpawn

theorem feedArrive_of_bad (hbad : ¬ (feedOk bytes = true ∧ (feedHdrOf bytes).type = type)) : feedArrive l type bytes s = u := by
  unfold feedArrive
  rw [htake]
  dsimp only
  rw [if_neg (by simp [hlive]), if_neg (not_not_intro hpawn), if_pos (by simpa [or_iff_not_imp_left] using hbad)]

variable (hgood : feedOk bytes = true ∧ (feedHdrOf bytes).type = type)
include hgood

theorem feedArrive_of_partner (hfind : findTable u (feedHdrOf bytes).table = none) :
    feedArrive l type bytes s = match recordOf u p (feedHdrOf bytes).table with
      | some d => wroteWord 2 9 (modThis d (recordIn bytes) u)
      | none => u := by
  unfold feedArrive
  rw [htake]
  dsimp only
  rw [if_neg (by simp [hlive]), if_neg (not_not_intro hpawn), if_neg (by simp [hgood.1, hgood.2]), hfind]
  dsimp only
  rw [if_neg Bool.false_ne_true] <;> rfl

theorem feedArrive_of_primary {tb : Table} {k : Keeper} {q : Packet} (hfind : findTable u (feedHdrOf bytes).table = some tb)
    (hkeeper : tb.keeper = some k) (hcrown : isCrown tb = true) (hmember : (feedHdrOf bytes).member = tb.member)
    (hpkt : p = some q) (hsrc : pSrc q = k.spec.partner) :
    feedArrive l type bytes s = tieCheck (feedHdrOf bytes).table (modTie (feedHdrOf bytes).table (feedHdrOf bytes).turn
      (fun y => { y with log := noteApplied (logRecord k.spec bytes y.log) }) u) := by
  subst hpkt
  unfold feedArrive
  rw [htake]
  dsimp only
  rw [if_neg (by simp [hlive]), if_neg (not_not_intro hpawn), if_neg (by simp [hgood.1, hgood.2]), hfind]
  dsimp only
  rw [if_pos (by simp [hkeeper, hcrown, hmember, hsrc]), Option.bind_some, hkeeper]

end

theorem feedArrive_of_taken {l type : Nat} {bytes : List Byte} {s u x : State} {p : Option Packet}
    (htake : takeSelfFree l bytes s = (p, u)) (hlive : live u = true) (hx : Statement.RecordTaken type bytes p u x) :
    feedArrive l type bytes s = x := by
  rcases hx with ⟨hpawn, hnone, rfl⟩ | ⟨hpawn, d, hrec, rfl⟩ | ⟨hpawn, hbad, rfl⟩ | ⟨hpawn, hgood, hfind, hnone, rfl⟩ |
    ⟨hpawn, hgood, hfind, d, hrec, rfl⟩ | ⟨hpawn, hgood, tb, k, q, hfind, hkeeper, hcrown, hmember, hpkt, hsrc, rfl⟩
  · rw [feedArrive_of_pawn htake hlive hpawn, recordOf_selfDrop, hnone]
  · rw [feedArrive_of_pawn htake hlive hpawn, recordOf_selfDrop, hrec]
  · exact feedArrive_of_bad htake hlive hpawn hbad
  · rw [feedArrive_of_partner htake hlive hpawn hgood hfind, hnone]
  · rw [feedArrive_of_partner htake hlive hpawn hgood hfind, hrec]
  · exact feedArrive_of_primary htake hlive hpawn hgood hfind hkeeper hcrown hmember hpkt hsrc

/-! ### The end of a replay -/

section
variable {prim table i : Nat} {s : State} {d : Double} {lg : GradLog}

/-- A double whose replay has ended: its destination slot holds the state after the turn. -/
def replayedDouble (d : Double) (lg : GradLog) (i : Nat) : Double :=
  let src := (slotOf d i).params
  let tv := lg.vals.getD {}
  let after := modSlot (1 - i) (fun x => { x with
    tag := lg.turn, opening := false, valid := d.state = 1, params := (replayTurn d.spec lg src).1, step := tv.step
    b1pow := tv.b1pow, b2pow := tv.b2pow }) d
  { after with reused := false, copied := after.copied + (src.filter fun (p : KParam) => !(writtenBy lg).contains p.param).length }

theorem replayDone_of_complete (hd : attachedOf s prim table = some d) (hlog : d.log = some lg) (hsource : sourceSlot d = some i)
    (hstarted : lg.started = true) (hcomplete : logComplete lg = true) (hdigest : d.dDbl = none) (hstate : d.state ≠ 3) :
    replayDone prim table s =
      if d.state = 1 then
        modThis d (fun _ => retakeEarly { replayedDouble d lg i with state := 0, log := none, dPrim := none }) (wroteWord 2 8 s)
      else compareDigests prim table (modThis d
        (fun _ => { replayedDouble d lg i with dDbl := some (lg.turn, (replayTurn d.spec lg (slotOf d i).params).2) }) (wroteWord 2 8 s)) := by
  unfold replayDone
  rw [hd]
  dsimp only
  rw [hlog, hsource]
  exact if_neg (by simp [hstarted, hcomplete, hdigest, hstate])

end

/-! ### Digests and tiebreaks -/

section
variable {prim table turn x y : Nat} {s : State} {d : Double} (hd : attachedOf s prim table = some d)
  (hdbl : d.dDbl = some (turn, x)) (hprim : d.dPrim = some (turn, y))
include hd hdbl hprim

theorem compareDigests_of_both (htie : d.tie = false) :
    compareDigests prim table s = if x = y then giveVerdict d 0 s else startTie d s := by
  unfold compareDigests
  rw [hd]
  dsimp only
  rw [hdbl, hprim]
  exact if_neg (by simp [htie])

variable {a b : Nat} (htie : d.tie = true) (hown : d.repOwn = some a) (hrep : d.repPrim = some b)
include htie hown hrep

theorem decideTie_of_both :
    decideTie prim table s =
      if a ≠ b then giveVerdict d 3 s
      else if a = y then
        match d.log, sourceSlot d with
        | some l, some i =>
          let z := replayTurn d.spec l (slotOf d i).params
          let d' := { modSlot (1 - i) (fun q => { q with params := z.1 }) d with dDbl := some (turn, z.2) }
          giveVerdict d' (if z.2 = y then 1 else 3) (modThis d (fun _ => d') s)
        | _, _ => giveVerdict d 3 s
      else if a = x then giveVerdict d 2 s
      else giveVerdict d 3 s := by
  unfold decideTie
  rw [hd]
  dsimp only
  rw [hown, hrep, hdbl, hprim]
  exact if_neg (by simp [htie])

theorem decideTie_of_differing (hne : a ≠ b) : decideTie prim table s = giveVerdict d 3 s :=
  (decideTie_of_both hd hdbl hprim htie hown hrep).trans (if_pos hne)

theorem decideTie_of_double (heq : a = b) (hy : a ≠ y) (hx : a = x) : decideTie prim table s = giveVerdict d 2 s :=
  (decideTie_of_both hd hdbl hprim htie hown hrep).trans
    ((if_neg (not_not_intro heq)).trans ((if_neg hy).trans (if_pos hx)))

theorem decideTie_of_neither (heq : a = b) (hy : a ≠ y) (hx : a ≠ x) : decideTie prim table s = giveVerdict d 3 s :=
  (decideTie_of_both hd hdbl hprim htie hown hrep).trans
    ((if_neg (not_not_intro heq)).trans ((if_neg hy).trans (if_neg hx)))

theorem decideTie_of_primary {lg : GradLog} {i : Nat} (heq : a = b) (hy : a = y) (hlog : d.log = some lg)
    (hsource : sourceSlot d = some i) :
    decideTie prim table s =
      let z := replayTurn d.spec lg (slotOf d i).params
      let d' := { modSlot (1 - i) (fun q => { q with params := z.1 }) d with dDbl := some (turn, z.2) }
      giveVerdict d' (if z.2 = y then 1 else 3) (modThis d (fun _ => d') s) := by
  rw [decideTie_of_both hd hdbl hprim htie hown hrep, if_neg (not_not_intro heq), if_pos hy, hlog, hsource]

end

theorem digestIn_of_attached {c : Ctl} {s : State} {d : Double} (hd : attachedOf s c.prim c.table = some d) :
    digestIn c s = if d.tie then decideTie c.prim c.table (modThis d (fun d => { d with repPrim := some c.b }) s)
      else compareDigests c.prim c.table (modThis d (fun d => { d with dPrim := some (c.turn, c.a) }) s) := by
  unfold digestIn
  rw [hd]

section
variable {prim table i : Nat} {w : WordRead} {s : State} {d : Double} {lg : GradLog} (hd : attachedOf s prim table = some d)
  (htie : d.tie = true) (hlog : d.log = some lg) (hsource : sourceSlot d = some i)
include hd htie hlog hsource

theorem tieReplayDone_of_failed :
    tieReplayDone prim table .failed s = giveVerdict d 3 (readWord 2 (.doubleSlot prim table i 0) .failed s) := by
  unfold tieReplayDone
  rw [hd]
  dsimp only
  rw [if_neg (by simp [htie]), hlog, hsource]

theorem tieReplayDone_of_read (hok : w ≠ .failed) :
    tieReplayDone prim table w s = decideTie prim table (modThis d
      (fun d => { d with repOwn := some (replayTurn d.spec lg (slotOf d i).params).2 }) (readWord 2 (.gradientLog prim table) w s)) := by
  unfold tieReplayDone
  rw [hd]
  dsimp only
  rw [if_neg (by simp [htie]), hlog, hsource]
  cases w with
  | ok => rfl
  | corrected bit => rfl
  | failed => exact absurd rfl hok

end

/-! ### Verdicts at the primary -/

section
variable {c : Ctl} {s w x : State} {tb : Table} {k : Keeper} (hfind : findTable s c.table = some tb) (hkeeper : tb.keeper = some k)
  (hprim : c.prim = s.ident.eid)
include hfind hkeeper hprim

theorem tiebreakIn_of_keeper :
    tiebreakIn c s = tieCheck c.table (modTie c.table c.turn (fun x => { x with dDbl := c.a })
      (modPrim c.table (fun d => { d with tiebreaks := d.tiebreaks + 1 }) s)) := by
  unfold tiebreakIn
  rw [keeper_of_table hfind hkeeper]
  exact if_neg (not_not_intro hprim)

/-- The state in which a verdict has been noted for its turn and its double. -/
def verdictNoted (c : Ctl) (s : State) : State :=
  modPrim c.table (fun d => { d with
    lastVerdict := c.code, lastTurn := some c.turn, verified := if c.code ≤ 1 then c.turn else d.verified
    repairs := d.repairs + b2n (c.code = 1), tie := none }) (modTurn c.table c.turn (fun q => { q with verdict := true }) s)

theorem verdictIn_eq :
    verdictIn c s =
      let w := if 2 ≤ c.code then stopKeeper c.table (verdictNoted c s) else flushFeed c.table (verdictNoted c s)
      ckptVerdict c.table c.turn c.code (if (findTable w c.table).any fun tb => verdictDue tb (tb.turn + 1) then w
        else modPrim c.table (fun d => { d with waitSince := none }) w) := by
  unfold verdictIn
  rw [keeper_of_table hfind hkeeper]
  exact if_neg (not_not_intro hprim)

theorem verdictIn_of_keeper
    (hw : (2 ≤ c.code ∧ w = stopKeeper c.table (verdictNoted c s)) ∨ (c.code ≤ 1 ∧ w = flushFeed c.table (verdictNoted c s)))
    (hx : ((∃ tb', findTable w c.table = some tb' ∧ verdictDue tb' (tb'.turn + 1) = true) ∧ x = w) ∨
      ((∀ tb', findTable w c.table = some tb' → verdictDue tb' (tb'.turn + 1) = false) ∧
        x = modPrim c.table (fun d => { d with waitSince := none }) w)) :
    verdictIn c s = ckptVerdict c.table c.turn c.code x := by
  have hw' : (if 2 ≤ c.code then stopKeeper c.table (verdictNoted c s) else flushFeed c.table (verdictNoted c s)) = w := by
    rcases hw with ⟨hstop, rfl⟩ | ⟨hgo, rfl⟩
    · exact if_pos hstop
    · exact if_neg (by omega)
  have hx' : (if (findTable w c.table).any fun tb => verdictDue tb (tb.turn + 1) then w
      else modPrim c.table (fun d => { d with waitSince := none }) w) = x := by
    rcases hx with ⟨⟨tb', htb', hdue⟩, rfl⟩ | ⟨hgiven, rfl⟩
    · exact if_pos (by simp [htb', hdue])
    · exact if_neg (by simpa [Option.any_eq_true] using hgiven)
  rw [verdictIn_eq hfind hkeeper hprim]
  dsimp only
  rw [hw', hx']

end

theorem tieState_of_keeper {bytes : List Byte} {p : Option Packet} {s : State} {tb : Table} {k : Keeper}
    (hfind : findTable s (syncHdrOf bytes).table = some tb) (hkeeper : tb.keeper = some k)
    (hprim : (syncHdrOf bytes).prim = s.ident.eid) (hgood : syncOk k.spec.rule bytes = true) :
    tieState bytes p s = tieCheck (syncHdrOf bytes).table (modTie (syncHdrOf bytes).table
      ((k.dbl.tie.map (·.turn)).getD ((syncHdrOf bytes).turn + 1))
      (fun x => { x with state := putPs x.state (syncParams k.spec.rule bytes) }) s) := by
  unfold tieState
  dsimp only
  rw [keeper_of_table hfind hkeeper]
  exact if_neg (by simp [hprim, hgood])

/-- Settles O57, by what arrives and what its double or Keeper holds. -/
theorem turnsAreReplayedAndJudged : Obligations.TurnsAreReplayedAndJudged := by
  refine ⟨?_, ?_, ?_, ?_, ?_, ?_, ?_⟩
  · intro l type bytes s u x p htake hlive hx
    have hin : feedArrive l type bytes s = x := feedArrive_of_taken htake hlive hx
    exact ⟨fun h => exec_next rfl (h ▸ hin), fun h => exec_next rfl (h ▸ hin), fun h => exec_next rfl (h ▸ hin),
      fun h => exec_next rfl (h ▸ hin)⟩
  · intro prim table i s d lg hruns hd hlog hsource hstarted hcomplete hdigest hstate src tv after d'
    have hdone := replayDone_of_complete hd hlog hsource hstarted hcomplete hdigest hstate
    exact ⟨fun hrebuilt => exec_next rfl ((if_pos hruns).trans (hdone.trans (if_pos hrebuilt))),
      fun hrebuilt => exec_next rfl ((if_pos hruns).trans (hdone.trans (if_neg hrebuilt)))⟩
  · intro prim table turn x y s d hd hdbl hprim
    refine ⟨fun htie heq => (compareDigests_of_both hd hdbl hprim htie).trans (if_pos heq),
      fun htie hne => (compareDigests_of_both hd hdbl hprim htie).trans (if_neg hne), fun a b htie hown hrep => ?_⟩
    exact ⟨decideTie_of_differing hd hdbl hprim htie hown hrep, decideTie_of_double hd hdbl hprim htie hown hrep,
      decideTie_of_neither hd hdbl hprim htie hown hrep,
      fun lg i heq hy hlog hsource => decideTie_of_primary hd hdbl hprim htie hown hrep heq hy hlog hsource⟩
  · intro l f c s u d harr hd
    have hin : ctlArrive l 2 f digestIn s = _ := (ctlArrive_of_arrives harr).trans (digestIn_of_attached hd)
    exact ⟨fun htie => exec_next rfl (hin.trans (if_pos htie)),
      fun htie => exec_next rfl (hin.trans (if_neg (Bool.eq_false_iff.mp htie)))⟩
  · intro prim table i w s d lg hruns hd htie hlog hsource
    refine ⟨?_, fun hok => exec_next rfl ((if_pos hruns).trans (tieReplayDone_of_read hd htie hlog hsource hok))⟩
    rintro rfl
    exact exec_next rfl ((if_pos hruns).trans (tieReplayDone_of_failed hd htie hlog hsource))
  · intro l f c s u tb k hfind hkeeper hprim
    refine ⟨fun harr => exec_next rfl ((ctlArrive_of_arrives harr).trans (tiebreakIn_of_keeper hfind hkeeper hprim)), ?_⟩
    intro harr v w x hw hx
    exact exec_next rfl ((ctlArrive_of_arrives harr).trans (verdictIn_of_keeper hfind hkeeper hprim hw hx))
  · rintro l bytes h s u tb k harr hfind hkeeper hprim hgood _ rfl
    have hin := syncArrive_of_arrives (g := tieState bytes) harr
    obtain rfl := harr.header
    exact exec_next rfl (hin.trans (tieState_of_keeper hfind hkeeper hprim hgood))

end Sys2Proof.Proofs
end

section
/-! SUPPORT. Checkpoints: the shard of a double, the checkpoint at ring position 0 and SLOT_RELEASE (R305, R319 to R323,
Table 10-8); statement O59. -/

namespace Sys2Proof.Proofs
open Sys2Proof Sys2Proof.Machine Sys2Proof.Safety Sys2Proof.Laws

/-! ### The shard of a double -/

section
variable {prim table : Nat} {s : State} {d : Double} {o : ShardOut} (hd : outDouble s prim table = some d) (hout : d.out = some o)
include hd hout

theorem shardWritten_of_index (hstage : o.stage = 4) :
    shardWritten prim table s = shardIssue d { o with stage := 5, report := shardReport s.ident.eid o } s := by
  unfold shardWritten
  rw [hd]
  dsimp only
  rw [hout]
  exact if_pos hstage

theorem selfRelease_of_out :
    selfRelease prim table s =
      releaseSlot { d with abandoned := d.abandoned + b2n (o.stage ≠ 7) } (advanceTo (o.since + 660000000000) s) := by
  unfold selfRelease
  rw [hd]
  dsimp only
  rw [hout]

end

theorem shardDoneIn_of_crown {c e : Ctl} {s : State} {tb : Table} {k : Keeper} (hfind : findTable s c.table = some tb)
    (hcrown : isCrown tb = true) (hkeeper : tb.keeper = some k)
    (he : (c.prim = s.ident.eid ∧ e = { c with pos := ownPos tb tb.board }) ∨ (c.prim ≠ s.ident.eid ∧ e = c)) :
    shardDoneIn c s = if ownPos tb tb.board = 0 then takeShard c.table e s else sendCtl (eidOf tb (succOf tb tb.board)) e s := by
  have hpos : (if c.prim = s.ident.eid then { c with pos := ownPos tb tb.board } else c) = e := by
    rcases he with ⟨hown, rfl⟩ | ⟨hother, rfl⟩
    · exact if_pos hown
    · exact if_neg hother
  have htable : e.table = c.table := by
    rcases he with ⟨-, rfl⟩ | ⟨-, rfl⟩
    · rfl
    · rfl
  unfold shardDoneIn
  rw [hfind]
  dsimp only
  rw [if_neg (by simp [hcrown, hkeeper]), hpos, htable]

/-! ### The checkpoint at ring position 0 -/

section
variable {t : Nat} {s : State} {tb : Table} {k : Keeper} {c : Ckpt}

theorem manifestDurable_of_put (hc : ckptOf s t = some (tb, k, c)) (hstage : c.stage = 5) :
    manifestDurable t s = issue (.putCommit t) c.target 3 true (namedKey (getTarget s c.target) t c.slot 2 none)
      (commitOf tb c (getTarget s c.target) s) (modCkpt t (fun c => { c with stage := 6 }) s) := by
  unfold manifestDurable
  rw [hc]
  exact if_neg (not_not_intro hstage)

theorem commitDurable_of_put (hc : ckptOf s t = some (tb, k, c)) (hstage : c.stage = 7) :
    commitDurable t s = endCkpt t c.turn 0 s := by
  unfold commitDurable
  rw [hc]
  exact if_pos hstage

variable (hfind : findTable s t = some tb) (hkeeper : tb.keeper = some k)
include hfind hkeeper

theorem ckptTimeout_of_waiting {since : Nat} (hcrown : isCrown tb = true) (hpos : ownPos tb tb.board = 0)
    (hfirst : (k.ckpt.toList ++ k.ckptReq).find? (fun c => c.since.isSome) = some c) (hsince : c.since = some since) :
    ckptTimeout t s = endCkpt t c.turn 1 (advanceTo (since + 600000000000) s) := by
  unfold ckptTimeout
  rw [keeper_of_table hfind hkeeper]
  dsimp only
  rw [hfirst, hfind]
  dsimp only
  rw [if_neg (by simp [hcrown, hpos]), hsince, Option.getD_some]

theorem endCkpt_of_keeper {turn code : Nat} :
    endCkpt t turn code s =
      let v := if k.ckpt.any (fun c => c.turn = turn) then dropStore (ckptWork t) s else s
      startCkpt t (passRelease tb turn code v.ident.eid (modKeeper t (fun k => { k with
        ckpt := k.ckpt.filter fun c => c.turn ≠ turn, ckptReq := k.ckptReq.filter fun c => c.turn ≠ turn
        dbl := { k.dbl with committed := k.dbl.committed + b2n (code = 0), abandoned := k.dbl.abandoned + b2n (code ≠ 0) } }) v)) := by
  unfold endCkpt
  rw [hfind]
  dsimp only
  rw [hkeeper] <;> rfl

theorem ckptVerdict_of_stop {turn code : Nat} (hreq : k.ckptReq.find? (fun c => c.turn = turn) = some c) (hstop : 2 ≤ code) :
    ckptVerdict t turn code s =
      if isCrown tb && ownPos tb tb.board = 0 then endCkpt t turn 1 s
      else modKeeper t (fun k => { k with
        ckptReq := k.ckptReq.filter fun x => x.turn ≠ turn, dbl := { k.dbl with abandoned := k.dbl.abandoned + 1 } }) s := by
  unfold ckptVerdict
  rw [keeper_of_table hfind hkeeper]
  dsimp only
  rw [hreq, hfind]
  exact if_pos hstop

end

/-! ### SLOT_RELEASE -/

section
variable {c : Ctl} {s : State}

theorem partnerRelease_of_out {d : Double} {o : ShardOut} (hd : attachedOf s c.prim c.table = some d) (hout : d.out = some o)
    (hturn : o.turn = c.turn) :
    partnerRelease c s = releaseSlot { d with abandoned := d.abandoned + b2n (c.code = 1 && o.stage ≠ 7) } s := by
  unfold partnerRelease
  rw [hd]
  dsimp only
  rw [hout]
  exact if_neg (not_not_intro hturn)

theorem partnerRelease_of_none (hd : attachedOf s c.prim c.table = none) : partnerRelease c s = s := by
  unfold partnerRelease
  rw [hd]

theorem ringRelease_of_unknown (hfind : findTable s c.table = none) : ringRelease c s = s := by
  unfold ringRelease
  rw [hfind]

variable {tb : Table} {k : Keeper} (hfind : findTable s c.table = some tb) (hkeeper : tb.keeper = some k)
include hfind hkeeper

theorem ringRelease_of_seen (hseen : k.relSeen = some c.turn) : ringRelease c s = s := by
  unfold ringRelease
  rw [hfind]
  dsimp only
  rw [hkeeper]
  exact if_pos (by simp [hseen])

theorem ringRelease_of_new (hcrown : isCrown tb = true) (hpos : ownPos tb tb.board ≠ 0) (hprim : c.prim ≠ s.ident.eid)
    (hhead : tb.board.ring.head?.map (eidOf tb) = some c.prim) (hnew : k.relSeen ≠ some c.turn) :
    ringRelease c s = passRelease tb c.turn c.code c.prim (modKeeper c.table (fun k' =>
      { k' with
        relSeen := some c.turn, ckptReq := k'.ckptReq.filter fun x => x.turn ≠ c.turn
        dbl := { k'.dbl with
          abandoned := k'.dbl.abandoned + b2n ((k.ckptReq.any fun x => x.turn = c.turn) && c.code = 1) } }) s) := by
  unfold ringRelease
  rw [hfind]
  dsimp only
  rw [hkeeper]
  exact if_neg (by simp [hcrown, hpos, hprim, hhead, hnew])

end

/-- Settles O59, by the stage of the shard or the checkpoint, and for SLOT_RELEASE by the role that it finds. -/
theorem checkpointsCommitOrAreAbandoned : Obligations.CheckpointsCommitOrAreAbandoned := by
  refine ⟨?_, ?_, ?_, ?_, ?_, ?_, ?_⟩
  · exact fun prim table s d o hd hout =>
      ⟨fun hruns hstage => exec_next rfl ((if_pos hruns).trans (shardWritten_of_index hd hout hstage)),
        fun hlive => exec_next rfl ((if_pos hlive).trans (selfRelease_of_out hd hout))⟩
  · intro l f c e s u tb k harr hfind hcrown hkeeper he
    have hin := ctlArrive_of_arrives (g := shardDoneIn) harr
    have hdone := shardDoneIn_of_crown hfind hcrown hkeeper he
    exact ⟨fun hpos => exec_next rfl (hin.trans (hdone.trans (if_pos hpos))),
      fun hpos => exec_next rfl (hin.trans (hdone.trans (if_neg hpos)))⟩
  · intro t s tb k c hruns hc
    refine ⟨?_, fun hstage => exec_next rfl ((if_pos hruns).trans (commitDurable_of_put hc hstage))⟩
    intro hstage g
    exact exec_next rfl ((if_pos hruns).trans (manifestDurable_of_put hc hstage))
  · exact fun t since s tb k c hruns hfind hkeeper hcrown hpos hfirst hsince =>
      exec_next rfl ((if_pos hruns).trans (ckptTimeout_of_waiting hfind hkeeper hcrown hpos hfirst hsince))
  · rintro t turn code s tb k hfind hkeeper _ rfl
    exact endCkpt_of_keeper hfind hkeeper
  · intro t turn code s tb k c hfind hkeeper hreq hstop
    have hverdict := ckptVerdict_of_stop hfind hkeeper hreq hstop
    refine ⟨fun hcrown hpos => hverdict.trans (if_pos (by simp [hcrown, hpos])), fun hother => hverdict.trans (if_neg ?_)⟩
    rcases hother with hout | hpos
    · simp [hout]
    · simp [hpos]
  · intro l f c s u harr
    have hin := ctlArrive_of_arrives (g := slotReleaseIn) harr
    refine ⟨?_, fun tb k hnone hfind hkeeper hcrown hpos hprim hhead => ?_⟩
    · rintro d o hd hout hturn _ rfl hgone
      refine exec_next rfl (hin.trans ?_)
      rw [slotReleaseIn, partnerRelease_of_out hd hout hturn, ringRelease_of_unknown hgone]
    · have hring : slotReleaseIn c u = ringRelease c u := by rw [slotReleaseIn, partnerRelease_of_none hnone]
      exact ⟨fun hseen => exec_next rfl (hin.trans (hring.trans (ringRelease_of_seen hfind hkeeper hseen))),
        fun hnew => exec_next rfl (hin.trans (hring.trans (ringRelease_of_new hfind hkeeper hcrown hpos hprim hhead hnew)))⟩

end Sys2Proof.Proofs
end

section
/-! SUPPORT. Doubles meet, end and are repaired (R297, R298, R309 to R312), and hazards (R313 to R315, Table 17-2);
statement O58. -/

namespace Sys2Proof.Proofs
open Sys2Proof Sys2Proof.Machine Sys2Proof.Safety Sys2Proof.Laws

/-! ### HELLO, ACCEPT, CLOSE and PHASE -/

section
variable {l t : Nat} {c : Ctl} {s : State}

theorem helloIn_of_same {d : Double} (hd : attachedOf s c.prim c.table = some d) (hcrc : d.spec.crc = c.a) :
    helloIn c s = sendCtl c.prim { ctl := 1, code := 0, table := c.table, prim := c.prim } s := by
  unfold helloIn
  rw [hd, Option.any_some, hcrc, decide_eq_true rfl] <;> rfl

theorem helloIn_of_other (hother : ∀ d, attachedOf s c.prim c.table = some d → d.spec.crc ≠ c.a) :
    helloIn c s = sendCtl c.prim { ctl := 1, code := 1, table := c.table, prim := c.prim } s := by
  have hany : (attachedOf s c.prim c.table).any (fun d => d.spec.crc = c.a) = false := by
    simpa [Option.any_eq_false] using hother
  unfold helloIn
  rw [hany] <;> rfl

theorem acceptIn_of_opening {o : Opening} (hopening : s.opening.find? (fun o => o.table.id = c.table) = some o)
    (hprim : c.prim = s.ident.eid) :
    acceptIn c s =
      let v := { s with opening := s.opening.filter fun o => o.table.id ≠ c.table }
      if c.code = 0 then respond o.mailbox { data := leBytes 8 o.table.board.digest } (openNow o.table v)
      else respond o.mailbox { status := gPartner, detail := 1 } v := by
  unfold acceptIn
  rw [hopening]
  exact if_neg (not_not_intro hprim)

theorem helloTimeout_of_opening {o : Opening} (hopening : s.opening.find? (fun o => o.table.id = t) = some o) :
    helloTimeout t s = respond o.mailbox { status := gPartner } (dropOpening t (advanceTo (o.since + 10000000) s)) := by
  unfold helloTimeout
  rw [hopening]

theorem closeIn_of_attached {d : Double} (hd : attachedOf s c.prim c.table = some d) : closeIn c s = closeDouble d s := by
  unfold closeIn
  rw [hd]

theorem closeIn_of_none (hd : attachedOf s c.prim c.table = none) : closeIn c s = s := by
  unfold closeIn
  rw [hd]

variable {tb : Table} (hfind : findTable s c.table = some tb)
include hfind

theorem phaseIn_of_seen (hseen : tb.phaseSeen = some (c.turn, c.code)) : phaseIn l c s = s := by
  unfold phaseIn
  rw [hfind]
  exact if_pos hseen

theorem phaseIn_of_new (hnew : tb.phaseSeen ≠ some (c.turn, c.code)) :
    phaseIn l c s = forAll ((treeEids tb tb.board).filter fun e => some e ≠ neighbourOn tb tb.board l s) (fun e => sendCtl e c)
      (modTable c.table (fun tb => { tb with phaseDue := some c.code, phaseSeen := some (c.turn, c.code) }) s) := by
  unfold phaseIn
  rw [hfind]
  exact if_neg hnew

theorem hazardIn_of_own (hprim : c.prim = s.ident.eid) :
    hazardIn l c s = takeHazard tb (tb.turn + 1) c.code c.a s.ident.eid none s := by
  unfold hazardIn
  rw [hfind]
  exact if_pos hprim

theorem hazardIn_of_ring (hprim : c.prim ≠ s.ident.eid) :
    hazardIn l c s = takeHazard tb c.turn c.code c.a c.prim (neighbourOn tb tb.board l s) s := by
  unfold hazardIn
  rw [hfind]
  exact if_neg hprim

end

/-! ### REBUILD and REPAIR -/

section
variable {bytes : List Byte} {p : Option Packet} {s : State}

theorem rebuildPkt_of_slots {d e : Double} (hd : attachedOf s (syncHdrOf bytes).prim (syncHdrOf bytes).table = some d)
    (hgood : syncOk d.spec.rule bytes = true) (he : rebuildIn bytes d = some e) :
    rebuildPkt bytes p s = modThis d (fun _ => e) s := by
  unfold rebuildPkt
  dsimp only
  rw [hd]
  dsimp only
  rw [if_neg (by simp [hgood]), he]

theorem rebuildPkt_of_late {d : Double} (hd : attachedOf s (syncHdrOf bytes).prim (syncHdrOf bytes).table = some d)
    (hgood : syncOk d.spec.rule bytes = true) (hlate : rebuildIn bytes d = none) :
    rebuildPkt bytes p s = modThis d (fun d => { d with lateSync := d.lateSync ++ [bytes] }) s := by
  unfold rebuildPkt
  dsimp only
  rw [hd]
  dsimp only
  rw [if_neg (by simp [hgood]), hlate]

theorem repairPkt_of_keeper {tb : Table} {k : Keeper} (hfind : findTable s (syncHdrOf bytes).table = some tb)
    (hkeeper : tb.keeper = some k) (hprim : (syncHdrOf bytes).prim = s.ident.eid) (hgood : syncOk k.spec.rule bytes = true) :
    repairPkt bytes p s =
      let ps := (syncParams k.spec.rule bytes).filter fun p =>
        (getP k.params p.param).damaged && (getP k.params p.param).turn ≤ (syncHdrOf bytes).turn
      wroteWord 1 4 (modKeeper (syncHdrOf bytes).table (fun k => { k with
        params := putPs k.params (ps.map fun p => { p with turn := (getP k.params p.param).turn }) }) s) := by
  unfold repairPkt
  dsimp only
  rw [keeper_of_table hfind hkeeper]
  exact if_neg (by simp [hprim, hgood])

end

/-! ### Hazards -/

section
variable {i : Nat} {s : State}

theorem hazardFire_of_due (hi : i < 6) (hon : hazOn (hazEntry s i) = true) (hfired : (s.hazard.src.getD i {}).fired = false)
    (hwindow : (s.hazard.src.getD i {}).window = hazWindowNow s i)
    (hcount : hazThreshold (hazEntry s i) ≤ (s.hazard.src.getD i {}).count) :
    hazardFire i s =
      let v := modHazard (fun h => { h with src := modAt h.src i (fun x => { x with fired := true }) }) s
      let w := forAll v.tables (fun tb s => takeHazard tb (tb.turn + 1) i (now s) s.ident.eid none s) v
      forAll (w.doubles.filter attached) (fun d s => sendCtl d.primary
        { ctl := 5, code := i, table := d.table, prim := d.primary, turn := freeVal s, a := now s } (freeNext s)) w := by
  have hdue : ¬ (decide (6 ≤ i) || !hazOn (hazEntry s i) || (s.hazard.src.getD i {}).fired ||
      decide ((s.hazard.src.getD i {}).window ≠ hazWindowNow s i) ||
      decide ((s.hazard.src.getD i {}).count < hazThreshold (hazEntry s i))) = true := by
    rw [hon, hfired, hwindow]
    simp [-List.getD_eq_getElem?_getD, hi, hcount]
  exact if_neg hdue

theorem hazardNext_of_window (hi : i < 6) (hwindow : hazWindow (hazEntry s i) ≠ 0) :
    hazardNext i s =
      let w := hazWindow (hazEntry s i) * 1000000
      let v := advanceTo ((now s / w + 1) * w) s
      modHazard (fun h => { h with src := modAt h.src i (fun _ => { window := hazWindowNow v i }) }) v :=
  if_neg (by simp [hi, hwindow])

end

section
variable {tb : Table} {k : Keeper} {turn source time prim : Nat} {except : Option Nat} {s : State} (hkeeper : tb.keeper = some k)
include hkeeper

theorem takeHazard_of_refused
    (hno : isCrown tb = false ∨ k.hazTurn = some turn ∨ k.hazAt.any (fun a => now s < a + holdoffNs s) = true) :
    takeHazard tb turn source time prim except s = s := by
  unfold takeHazard
  rw [hkeeper]
  refine if_pos ?_
  rcases hno with hout | hseen | hoff
  · rw [hout] <;> rfl
  · rw [decide_eq_true hseen, Bool.or_true, Bool.true_or]
  · rw [hoff, Bool.or_true]

theorem takeHazard_of_alone (hcrown : isCrown tb = true) (hnew : k.hazTurn ≠ some turn)
    (hoff : k.hazAt.any (fun a => now s < a + holdoffNs s) = false) (halone : tb.board.ring.length ≤ 1) :
    takeHazard tb turn source time prim except s = modKeeper tb.id (fun k => { k with
      hazTurn := some turn
      ckptReq := if k.ckptReq.any (fun c => c.turn = turn) then k.ckptReq
        else k.ckptReq ++ [{ turn := turn, target := hazardTarget s, hazard := true }] }) s := by
  unfold takeHazard
  rw [hkeeper]
  dsimp only
  rw [hoff, hcrown, decide_eq_false hnew, if_neg (by decide), if_neg (not_lt.mpr halone)] <;> rfl

end

/-- Settles O58, by the packet or the event and what it finds of the double, the table or the hazard's source. -/
theorem doublesMeetAreRepairedAndHazardsFire : Obligations.DoublesMeetAreRepairedAndHazardsFire := by
  refine ⟨?_, ?_, ?_, ?_, ?_, ?_, ?_⟩
  · intro l f c s u harr reply
    have hin := ctlArrive_of_arrives (g := helloIn) harr
    exact ⟨fun ⟨d, hd, hcrc⟩ => exec_next rfl (hin.trans (helloIn_of_same hd hcrc)),
      fun hother => exec_next rfl (hin.trans (helloIn_of_other hother))⟩
  · intro l f c s u o harr hopening hprim v
    have hin := (ctlArrive_of_arrives (g := acceptIn) harr).trans (acceptIn_of_opening hopening hprim)
    exact ⟨fun hok => exec_next rfl (hin.trans (if_pos hok)), fun hno => exec_next rfl (hin.trans (if_neg hno))⟩
  · rintro t s o hlive hopening _ rfl
    exact exec_next rfl ((if_pos hlive).trans (helloTimeout_of_opening hopening))
  · intro l f c s u
    refine ⟨fun harr => ?_, fun harr tb hfind => ?_, fun harr tb hfind => ?_⟩
    · exact ⟨fun d hd => exec_next rfl ((ctlArrive_of_arrives harr).trans (closeIn_of_attached hd)),
        fun hd => exec_next rfl ((ctlArrive_of_arrives harr).trans (closeIn_of_none hd))⟩
    · exact ⟨fun hseen => exec_next rfl ((ctlArrive_of_arrives harr).trans (phaseIn_of_seen hfind hseen)),
        fun hnew => exec_next rfl ((ctlArrive_of_arrives harr).trans (phaseIn_of_new hfind hnew))⟩
    · exact ⟨fun hprim => exec_next rfl ((ctlArrive_of_arrives harr).trans (hazardIn_of_own hfind hprim)),
        fun hprim => exec_next rfl ((ctlArrive_of_arrives harr).trans (hazardIn_of_ring hfind hprim))⟩
  · intro l bytes h s u
    refine ⟨fun harr d hd hgood => ?_, fun harr tb k hfind hkeeper hprim hgood => ?_⟩
    · have hin := syncArrive_of_arrives (g := rebuildPkt bytes) harr
      obtain rfl := harr.header
      exact ⟨fun e he => exec_next rfl (hin.trans (rebuildPkt_of_slots hd hgood he)),
        fun hlate => exec_next rfl (hin.trans (rebuildPkt_of_late hd hgood hlate))⟩
    · have hin := syncArrive_of_arrives (g := repairPkt bytes) harr
      obtain rfl := harr.header
      exact exec_next rfl (hin.trans (repairPkt_of_keeper hfind hkeeper hprim hgood))
  · intro i s hi
    refine ⟨?_, ?_⟩
    · rintro hruns hon hfired hwindow hcount _ rfl _ rfl
      exact exec_next rfl ((if_pos hruns).trans (hazardFire_of_due hi hon hfired hwindow hcount))
    · rintro hlive hwindow w _ rfl
      exact exec_next rfl ((if_pos hlive).trans (hazardNext_of_window hi hwindow))
  · exact fun tb k turn source time prim except s hkeeper => ⟨takeHazard_of_refused hkeeper,
      fun hcrown hnew hoff halone => takeHazard_of_alone hkeeper hcrown hnew hoff halone⟩

end Sys2Proof.Proofs
end

section
/-! SUPPORT. The scrubber (R518 to R528, Table 16-3) and the idle intervals (R545, R548); statement O60. -/

namespace Sys2Proof.Proofs
open Sys2Proof Sys2Proof.Machine Sys2Proof.Safety Sys2Proof.Laws

section
variable {tier addr : Nat} {o : WordOwner} {w : WordRead} {rewritten : Bool} {s v : State}

theorem scrubRead_of_other
    (hno : scrubs s = false ∨ 4 ≤ tier ∨ addr ≠ (s.mem.tiers.getD tier {}).scrubAt) : scrubRead tier addr o w rewritten s = s := by
  refine if_pos ?_
  rcases hno with hstands | htier | haddr
  · rw [hstands] <;> rfl
  · rw [decide_eq_true htier, Bool.or_true, Bool.true_or]
  · rw [decide_eq_true haddr, Bool.or_true]

theorem scrubRead_of_next (hscrubs : scrubs s = true) (htier : tier < 4) (haddr : addr = (s.mem.tiers.getD tier {}).scrubAt)
    (hv : (w = .ok ∧ v = s) ∨ (∃ bit, w = .corrected bit ∧ v = wordCorrected tier addr bit o true rewritten s) ∨
      (w = .failed ∧ v = failWord tier addr o (wordFailed tier addr o true s))) :
    scrubRead tier addr o w rewritten s = scrubOn tier v := by
  refine (if_neg ?_).trans ?_
  · rw [hscrubs, decide_eq_false (not_le.mpr htier), decide_eq_false (not_not_intro haddr)]
    exact Bool.false_ne_true
  · rcases hv with ⟨rfl, rfl⟩ | ⟨bit, rfl, rfl⟩ | ⟨rfl, rfl⟩ <;> rfl

end

theorem idleStep_of_live {s : State} (hlive : live s = true) (hpawn : s.pawn.cause = 0) :
    idleStep s =
      let u := advanceTo (ceilDiv (now s) 16 * 16) s
      let v := advanceTo (ceilDiv (now s) 16 * 16 + 16) u
      { v with tables := v.tables.map fun tb =>
        if tb.openedAt ≤ ceilDiv (now s) 16 * 16 then { tb with idle := charge (idleCause u tb) tb.idle } else tb } :=
  if_neg (by simp [hlive, hpawn])

/-- Settles O60, by the word that is read and its owner; an idle interval by its start. -/
theorem wordsAreScrubbedAndIdleTimeIsCharged : Obligations.WordsAreScrubbedAndIdleTimeIsCharged := by
  refine ⟨?_, ?_, ?_⟩
  · exact fun tier addr o w rewritten s => ⟨fun hno => exec_next rfl (scrubRead_of_other hno),
      fun hscrubs htier haddr v hv => exec_next rfl (scrubRead_of_next hscrubs htier haddr hv)⟩
  · exact fun tier addr t r c n prim bd slot p s => ⟨rfl, rfl, rfl, rfl, rfl, rfl, rfl⟩
  · rintro s _ _ hlive hpawn rfl rfl
    exact exec_next rfl (idleStep_of_live hlive hpawn)

end Sys2Proof.Proofs
end

section
/-! SUPPORT. The matrix units: the round robin, quanta and tasks, the norm pipes and DMA transfers (R121, R135 to R148);
statement O55. -/

namespace Sys2Proof.Proofs
open Sys2Proof Sys2Proof.Machine Sys2Proof.Safety Sys2Proof.Laws

/-! ### The round robin (R141 to R143) -/

section
variable {tables : List Nat} {sv : Serve} {ready : List (Nat × Nat)} {t w : Nat}

theorem rrNext_of_share (hshare : 0 < sv.share) (hready : ∃ x ∈ ready, x.1 = sv.last) :
    rrNext tables sv ready = some (sv.last, { sv with share := sv.share - 1 }) :=
  if_pos (by simpa [hshare] using hready)

theorem rrNext_of_spent (hspent : sv.share = 0 ∨ ∀ x ∈ ready, x.1 ≠ sv.last) :
    rrNext tables sv ready = match ready.find? fun x => sv.last < x.1 && sv.members.contains x.1 with
      | some (t, w) => some (t, { sv with last := t, share := w - 1 })
      | none => ((ready.find? fun x => sv.last < x.1).orElse fun _ => ready.head?).map fun x =>
          (x.1, { sv with last := x.1, share := x.2 - 1, members := tables }) := by
  refine if_neg fun hserve => ?_
  obtain ⟨hshare, hready⟩ := Bool.and_eq_true_iff.mp hserve
  obtain ⟨x, hx, hlast⟩ := List.any_eq_true.mp hready
  rcases hspent with hzero | hnone
  · exact absurd hzero (Nat.ne_of_gt (of_decide_eq_true hshare))
  · exact hnone x hx (of_decide_eq_true hlast)

theorem rrNext_of_member (hspent : sv.share = 0 ∨ ∀ x ∈ ready, x.1 ≠ sv.last)
    (hnext : ready.find? (fun x => sv.last < x.1 && sv.members.contains x.1) = some (t, w)) :
    rrNext tables sv ready = some (t, { sv with last := t, share := w - 1 }) := by
  rw [rrNext_of_spent hspent, hnext]

theorem rrNext_of_new_cycle (hspent : sv.share = 0 ∨ ∀ x ∈ ready, x.1 ≠ sv.last)
    (hover : ∀ x ∈ ready, sv.last < x.1 → x.1 ∉ sv.members)
    (hnext : ready.find? (fun x => sv.last < x.1) = some (t, w) ∨ ((∀ x ∈ ready, x.1 ≤ sv.last) ∧ ready.head? = some (t, w))) :
    rrNext tables sv ready = some (t, { sv with last := t, share := w - 1, members := tables }) := by
  have hnone : ready.find? (fun x => sv.last < x.1 && sv.members.contains x.1) = none := by
    simpa using hover
  have hfirst : ((ready.find? fun x => sv.last < x.1).orElse fun _ => ready.head?) = some (t, w) := by
    rcases hnext with hlater | ⟨hwrap, hhead⟩
    · rw [hlater, Option.orElse_some]
    · have hlow : ready.find? (fun x => sv.last < x.1) = none := by simpa using hwrap
      rw [hlow, Option.orElse_none, hhead]
  rw [rrNext_of_spent hspent, hnone]
  dsimp only
  rw [hfirst, Option.map_some]

end

/-! ### Quanta and tasks (R138, R142, R148) -/

section
variable {unit t left : Nat} {s v : State} {sv : Serve}

theorem grantTo_of_next (hnext : rrNext (tableIds s) s.mu (muReady s) = some (t, sv)) :
    grantTo unit left s = runOn unit t left (modTable t (fun tb => { tb with muQuanta := tb.muQuanta + 1 }) { s with mu := sv }) := by
  unfold grantTo
  rw [hnext]

theorem grantTo_of_none (hnone : rrNext (tableIds s) s.mu (muReady s) = none) : grantTo unit left s = s := by
  unfold grantTo
  rw [hnone]

theorem muGrant_of_free (hfree : s.mu.units.getD unit (some (0, 0)) = none) :
    muGrant unit s = grantTo (((List.range unit).find? fun i => (s.mu.units.getD i none).isNone).getD unit) 64 s := by
  unfold muGrant
  rw [hfree] <;> rfl

theorem runOn_of_round {tb : Table} {rid : Nat} (hv : v = { s with mu := { s.mu with units := s.mu.units.set unit (some (t, left)) } })
    (hfind : findTable v t = some tb) (hpick : pickRound v unit tb = some rid) :
    runOn unit t left s =
      { v with mats := v.mats.set unit { operands := [some (t, rid), some (t, rid)], output := some (t, rid) } } := by
  subst hv
  unfold runOn takeTask
  rw [hfind, Option.bind_some, hpick]

theorem nextTask_of_more {tb : Table} (hfind : findTable s t = some tb) (hmore : unitsOn s.mu t ≤ readyTasks tb) :
    nextTask unit t left s = if left ≤ 1 then freeUnit unit s else runOn unit t (left - 1) s :=
  if_pos (by simp [hfind, hmore])

theorem nextTask_of_dry
    (hdry : findTable s t = none ∨ ∃ tb, findTable s t = some tb ∧ readyTasks tb < unitsOn s.mu t) :
    nextTask unit t left s = giveUp t (freeUnit unit s) := by
  refine if_neg ?_
  rcases hdry with hnone | ⟨tb, hfind, hfew⟩
  · simp [hnone]
  · simp [hfind, hfew]

end

section
variable {unit t left : Nat} {w : WordRead} {s : State} {tb : Table} {j : MuJob}

theorem taskRan_of_failed (hfailed : w = .failed) : taskRan t tb j w s = matrixFault t j.round w s := if_pos hfailed

theorem taskRan_of_read (hok : w ≠ .failed) :
    taskRan t tb j w s =
      let todo := j.todo.erase ((jobReady tb j).headD 0)
      let y := modJob t j.round j.src (fun j => { j with todo := todo }) (readWord 0 (.staging t j.round 0) w s)
      if todo = [] then stageDone t j y else y := by
  refine (if_neg hok).trans ?_
  simp only [List.isEmpty_iff]

variable (hunit : s.mu.units.getD unit none = some (t, left))
include hunit

theorem muTask_of_closed (hclosed : findTable s t = none) :
    muTask unit w s = passOn unit left (readWord 0 .other w s) := by
  unfold muTask
  rw [hunit]
  exact if_pos (by simp [hclosed])

theorem muTask_of_open (hopen : findTable s t ≠ none) :
    muTask unit w s =
      let v := modTable t (fun tb => { tb with muTasks := tb.muTasks + 1 }) s
      nextTask unit t left (match unitJob v unit t with
        | none => readWord 0 .other w v
        | some (tb, j) => taskRan t tb j w v) := by
  unfold muTask
  rw [hunit]
  exact if_neg (by simpa [Option.isNone_iff_eq_none] using hopen)

end

/-- What a task that completes leaves, before its unit goes on. -/
theorem ran_of_task {unit t : Nat} {w : WordRead} {v x : State}
    (hx : (unitJob v unit t = none ∧ x = readWord 0 .other w v) ∨ (∃ tb j, unitJob v unit t = some (tb, j) ∧
      ((w = .failed ∧ x = matrixFault t j.round w v) ∨ (w ≠ .failed ∧ ∃ y todo, todo = j.todo.erase ((jobReady tb j).headD 0) ∧
        y = modJob t j.round j.src (fun j => { j with todo := todo }) (readWord 0 (.staging t j.round 0) w v) ∧
        ((todo = [] ∧ x = stageDone t j y) ∨ (todo ≠ [] ∧ x = y)))))) :
    (match unitJob v unit t with
      | none => readWord 0 .other w v
      | some (tb, j) => taskRan t tb j w v) = x := by
  rcases hx with ⟨hnone, rfl⟩ | ⟨tb, j, hjob, ⟨hfailed, rfl⟩ | ⟨hok, y, todo, rfl, rfl, ⟨hlast, rfl⟩ | ⟨hmore, rfl⟩⟩⟩
  · rw [hnone]
  · rw [hjob]
    exact taskRan_of_failed hfailed
  · rw [hjob]
    exact (taskRan_of_read hok).trans (if_pos hlast)
  · rw [hjob]
    exact (taskRan_of_read hok).trans (if_neg hmore)

/-! ### Norm pipes, DMA transfers and the first stage of a fold -/

section
variable {unit ch t rid c : Nat} {w : WordRead} {s : State} {tb : Table} {j : MuJob}

theorem normDone_of_job {x : NormWork} (hpipe : s.pipes.getD unit none = some x) (hfind : findTable s x.table = some tb)
    (hjob : tb.jobs.find? (fun j => j.round = x.round && j.src.isNone && j.stage = 1) = some j) :
    normDone unit w s =
      let u := { s with pipes := s.pipes.set unit none }
      fillPipes (if w = .failed then matrixFault x.table x.round w u
        else stageDone x.table j (readWord 0 (.staging x.table x.round 0) w u)) := by
  have hfind' : findTable { s with pipes := s.pipes.set unit none } x.table = some tb := hfind
  unfold normDone
  rw [hpipe]
  dsimp only
  rw [hfind', Option.bind_some, hjob]

theorem dmaDone_of_transfer {rest : List (Nat × Nat × Nat × Nat)}
    (htake : takeFirst (fun (d : Nat × Nat × Nat × Nat) => d.1 = ch) s.dma = (some (ch, t, rid, c), rest)) :
    dmaDone ch w s =
      let u := { s with dma := rest }
      if (findRound u t rid).isNone then u
      else if w = .failed then drain (wordFault t rid c 1 (.accumulator t rid c) w u)
      else modJob t rid none (fun j => { j with panels := j.panels.erase c }) (readWord 1 (.accumulator t rid c) w u) := by
  unfold dmaDone
  rw [htake]

theorem stageDone_of_first {r : Round} {ns : NSpec} (hfind : findRound s t j.round = some (tb, r)) (hsrc : j.src = none)
    (hup : upSpec tb r = some ns) (hstage : j.stage = 0) :
    stageDone t j s =
      let v := modJob t j.round none (fun k => { k with
        stage := 1, p := matMul r.spec.foldRows r.spec.foldCols j.rank (j.mat.map toBf) (j.qprev.map toBf) }) s
      fillPipes { v with norm := v.norm ++ [{ table := t, round := j.round, ready := now s }] } := by
  unfold stageDone
  rw [hfind]
  dsimp only
  rw [hsrc]
  dsimp only
  rw [hup]
  exact if_pos hstage

end

/-- Settles O55, by what the round robin gives, the unit holds and the word read is. -/
theorem matrixWorkIsSharedAndDone : Obligations.MatrixWorkIsSharedAndDone := by
  refine ⟨fun tables sv ready => ⟨rrNext_of_share, fun hspent => ⟨fun t w => rrNext_of_member hspent,
    fun t w => rrNext_of_new_cycle hspent⟩⟩, ?_⟩
  intro s unit hlive freed quantum
  refine ⟨?_, ?_, ?_, ?_, ?_, fun t j tb r ns hfind hsrc hup hstage => stageDone_of_first hfind hsrc hup hstage⟩
  · intro t sv hfree hnext u
    exact exec_next rfl ((if_pos hlive).trans ((muGrant_of_free hfree).trans (grantTo_of_next hnext)))
  · intro t left tb rid v hv hunit hfind hpick
    have hmats : v.mats = s.mats := by rw [hv]
    rw [runOn_of_round hv hfind hpick]
    exact ⟨rfl, by rw [List.getD_eq_getElem _ _ (by simpa [hmats] using hunit), List.getElem_set_self]⟩
  · intro t left w hunit
    refine ⟨?_, fun v x hopen hv hx => ?_⟩
    · rintro hclosed _ rfl
      have hin : (if live s then muTask unit w s else s) = _ := (if_pos hlive).trans (muTask_of_closed hunit hclosed)
      refine ⟨fun hend => exec_next rfl (hin.trans ?_), fun t' sv hleft hnext => exec_next rfl (hin.trans ?_)⟩
      · by_cases hleft : left ≤ 1
        · exact if_pos hleft
        · exact (if_neg hleft).trans (grantTo_of_none (hend.resolve_left hleft))
      · exact (if_neg (not_le.mpr hleft)).trans (grantTo_of_next hnext)
    · subst hv
      have hin : muTask unit w s = nextTask unit t left x :=
        (muTask_of_open hunit hopen).trans (congrArg (nextTask unit t left) (ran_of_task hx))
      refine ⟨fun tb' hfind hmore => ⟨fun hleft => ?_, fun hleft => ?_⟩, fun hdry => ?_⟩
      · exact exec_next rfl ((if_pos hlive).trans (hin.trans ((nextTask_of_more hfind hmore).trans (if_pos hleft))))
      · exact exec_next rfl ((if_pos hlive).trans (hin.trans ((nextTask_of_more hfind hmore).trans (if_neg (not_le.mpr hleft)))))
      · exact exec_next rfl ((if_pos hlive).trans (hin.trans (nextTask_of_dry hdry)))
  · intro x tb j w hpipe hfind hjob u
    have hdone := normDone_of_job (w := w) hpipe hfind hjob
    exact ⟨fun hfailed => exec_next rfl ((if_pos hlive).trans (hdone.trans (congrArg fillPipes (if_pos hfailed)))),
      fun hok => exec_next rfl ((if_pos hlive).trans (hdone.trans (congrArg fillPipes (if_neg hok))))⟩
  · intro ch t rid c rest w htake u
    have hdone := dmaDone_of_transfer (w := w) htake
    have hfound (h : findRound s t rid ≠ none) : ¬ (findRound u t rid).isNone = true :=
      fun hnone => h (Option.isNone_iff_eq_none.mp hnone)
    exact ⟨fun hgone => exec_next rfl ((if_pos hlive).trans (hdone.trans (if_pos (Option.isNone_iff_eq_none.mpr hgone)))),
      fun h hfailed => exec_next rfl ((if_pos hlive).trans (hdone.trans ((if_neg (hfound h)).trans (if_pos hfailed)))),
      fun h hok => exec_next rfl ((if_pos hlive).trans (hdone.trans ((if_neg (hfound h)).trans (if_neg hok))))⟩

end Sys2Proof.Proofs
end

section
/-! SUPPORT. KEEPER rounds: READY and its limit (R271 to R273), a Keeper quantum (R290) and the end of a range's move (R268,
R293); statement O56. -/

namespace Sys2Proof.Proofs
open Sys2Proof Sys2Proof.Machine Sys2Proof.Safety Sys2Proof.Laws

/-! ### READY -/

section
variable {tb : Table} {b : Board} {f : List W64} {s : State}

theorem passReady_of_other (hnext : ringAt b (fld (wd f 1) 13 8) ≠ succOf tb b) (hring : 1 < b.ring.length) :
    passReady tb b f s = sendKFlit (eidOf tb (succOf tb b)) f s :=
  if_pos (by simp [hnext, hring])

theorem passReady_of_round (hround : ringAt b (fld (wd f 1) 13 8) = succOf tb b ∨ b.ring.length ≤ 1) :
    passReady tb b f s = s := by
  refine if_neg ?_
  rcases hround with hnext | hring
  · simp [hnext]
  · simp [hring]

theorem partOk_iff {r : Round} {part : Nat} : partOk r part = true ↔ r.clipped = true ∨ part = 0 := by
  simp [partOk]

end

section
variable {l t rid : Nat} {f : List W64} {s u v : State} {h : ReadyHeld} {tb : Table} {r : Round}

theorem readyEarly_of_crown (hfind : findTable s t = some tb) (hcrown : isCrown tb = true) (hkeeper : tb.keeper ≠ none)
    (hopened : tb.lastOpened.any (fun m => rid ≤ m) = false) (hv : passReady tb tb.board f s = v) :
    readyEarly t rid h f s = modKeeper t (fun k => if k.early.any (fun e => e.1 = rid && e.2.pos = h.pos) then k
      else { k with early := k.early ++ [(rid, h)] }) v := by
  unfold readyEarly
  rw [hfind]
  dsimp only
  rw [if_neg (by simp [hcrown, Option.isNone_iff_eq_none, hkeeper]), if_neg (Bool.eq_false_iff.mp hopened), hv]

theorem readyIn_of_bad (hu : u = takeKFlit l f s) (hlive : live u = true) (hbad : readyOk f = false) :
    readyIn l f s = protoError l u := by
  subst hu
  unfold readyIn
  dsimp only
  rw [if_neg (by rw [hlive]; decide), if_pos (by rw [hbad] <;> rfl)]

theorem readyIn_of_pawn (hu : u = takeKFlit l f s) (hlive : live u = true) (hgood : readyOk f = true) (hpawn : u.pawn.cause ≠ 0) :
    readyIn l f s = modPawn (fun p => { p with selfDrops := p.selfDrops + 1 }) u := by
  subst hu
  unfold readyIn
  dsimp only
  rw [if_neg (by rw [hlive]; decide), if_neg (by rw [hgood]; decide), if_pos hpawn] <;> rfl

/-- READY of a good form outside Pawn mode: what its round, or the want of it, makes of it. -/
theorem readyIn_of_good (hu : u = takeKFlit l f s) (hlive : live u = true) (hgood : readyOk f = true) (hpawn : u.pawn.cause = 0) :
    readyIn l f s =
      let t := fld (wd f 0) 31 22
      let rid := fld (wd f 0) 63 32
      let h : ReadyHeld := { pos := fld (wd f 1) 13 8, good := bitAt (wd f 1) 0, part := (wd f 2).toNat }
      match findRound u t rid with
      | none => readyEarly t rid h f u
      | some (tb, r) =>
        if !isCrown tb || !r.spec.keeper then u
        else if !partOk r h.part then protoError l u
        else commitAll t (passReady tb r.board f (holdReady t rid h.pos h.good h.part u)) := by
  subst hu
  unfold readyIn
  dsimp only
  rw [if_neg (by rw [hlive]; decide), if_neg (by rw [hgood]; decide), if_neg (not_not_intro hpawn)] <;> rfl

theorem readyIn_of_early (hu : u = takeKFlit l f s) (hlive : live u = true) (hgood : readyOk f = true) (hpawn : u.pawn.cause = 0)
    (hround : findRound u (fld (wd f 0) 31 22) (fld (wd f 0) 63 32) = none) :
    readyIn l f s = readyEarly (fld (wd f 0) 31 22) (fld (wd f 0) 63 32)
      { pos := fld (wd f 1) 13 8, good := bitAt (wd f 1) 0, part := (wd f 2).toNat } f u := by
  rw [readyIn_of_good hu hlive hgood hpawn]
  dsimp only
  rw [hround]

/-- READY of a KEEPER round that is open here. -/
theorem readyIn_of_round (hu : u = takeKFlit l f s) (hlive : live u = true) (hgood : readyOk f = true) (hpawn : u.pawn.cause = 0)
    (hround : findRound u (fld (wd f 0) 31 22) (fld (wd f 0) 63 32) = some (tb, r)) (hcrown : isCrown tb = true)
    (hkeeper : r.spec.keeper = true) :
    readyIn l f s = if partOk r (wd f 2).toNat = true then
        commitAll (fld (wd f 0) 31 22) (passReady tb r.board f (holdReady (fld (wd f 0) 31 22) (fld (wd f 0) 63 32)
          (fld (wd f 1) 13 8) (bitAt (wd f 1) 0) (wd f 2).toNat u))
      else protoError l u := by
  rw [readyIn_of_good hu hlive hgood hpawn]
  dsimp only
  rw [hround]
  dsimp only
  rw [if_neg (by simp [hcrown, hkeeper])]
  cases hpart : partOk r (wd f 2).toNat <;> rfl

theorem readyTimeout_of_missing {a i : Nat} (hfind : findRound s t rid = some (tb, r)) (hready : r.readyAt = some a)
    (hopen : r.done = false)
    (hfirst : (List.range r.board.ring.length).find? (fun i => !(r.ready.any fun h => h.pos = i)) = some i) :
    readyTimeout t rid s = commitAll t (drain (failRound t rid stLate (ringAt r.board i) true 0 none
      (advanceTo (a + (tb.absence + tb.level) * 1000000) s))) := by
  unfold readyTimeout absenceNs
  rw [hfind]
  dsimp only
  rw [hready]
  dsimp only
  rw [if_neg (by simp [hopen]), hfirst]

end

/-! ### A Keeper quantum -/

section
variable {unit : Nat} {word : Option Nat} {s v w : State} {t : Nat} {sv : Serve} (hunit : unit < 8)
  (hv : v = forAll s.tables (fun tb s => endWork tb.id (movesCheck tb.id s)) s)
include hunit hv

theorem keeperQuantum_of_none (hnone : rrNext (tableIds v) v.kunits (keeperReady v) = none) :
    keeperQuantum unit word s = { v with kunits := { v.kunits with share := 0 } } := by
  subst hv
  unfold keeperQuantum
  rw [if_neg (not_le.mpr hunit)]
  dsimp only
  rw [hnone]

theorem keeperQuantum_of_table (hnext : rrNext (tableIds v) v.kunits (keeperReady v) = some (t, sv))
    (hw : w = runQuantum t word 64 { v with kunits := sv }) :
    keeperQuantum unit word s = drain (if (keeperReady w).any fun x => x.1 = t then w
      else { w with kunits := { w.kunits with share := 0 } }) := by
  subst hv hw
  unfold keeperQuantum
  rw [if_neg (not_le.mpr hunit)]
  dsimp only
  rw [hnext]

end

/-! ### The end of a range's move -/

theorem map_param_arrivedParams {first count turn : Nat} {s : State} :
    (arrivedParams first count turn s).map (·.param) = (List.range count).map (first + ·) := by
  simp [arrivedParams]

/-- The parameter of a range whose word fails on the way. -/
def hurtIn (word : Option Nat) (first count : Nat) : Option Nat := word.filter fun p => first ≤ p && p < first + count

section
variable {t first count : Nat} {digest : List Byte} {word : Option Nat} {s v : State} {tb : Table} {k : Keeper} {m : KMove}

theorem hurtIn_of_good (hgood : ∀ p, word = some p → p < first ∨ first + count ≤ p) : hurtIn word first count = none := by
  refine Option.filter_eq_none_iff.mpr fun p hp => ?_
  have hout := hgood p hp
  simp only [Bool.and_eq_true, decide_eq_true_eq]
  omega

theorem hurtIn_of_inside {p : Nat} (hword : word = some p) (hlo : first ≤ p) (hhi : p < first + count) :
    hurtIn word first count = some p := by
  simp [hurtIn, hword, Option.filter, hlo, hhi]

/-- The Keeper after a move has ended: the move is gone and its range's home is the new holder. -/
def moveEnded (m : KMove) (k : Keeper) : Keeper :=
  { k with moves := k.moves.filter (fun x => x ≠ m), homes := setHome m.start m.count m.dst k.homes }

/-- The new holder's state once the range has arrived. -/
def rangeArrived (t count : Nat) (m : KMove) (ps : List KParam) (v : State) : State :=
  wroteWord 1 4 (modKeeper t (fun k => { moveEnded m k with params := putPs k.params ps }) { v with free := v.free + 3 * count })

variable (hv : v = movesCheck t s) (hfind : findTable v t = some tb) (hkeeper : tb.keeper = some k)
  (hmove : k.moves.find? (fun m => m.start = first && m.count = count) = some m)
include hv hfind hkeeper hmove

/-- What the end of a move does, by whose move it is and which of its words failed. -/
theorem moveDone_of_move :
    moveDone t first count digest word s =
      let after := fun (s : State) => match hurtIn word first count with
        | some p => moveHurt t tb k p s
        | none => s
      if m.dst = tb.member then
        if k.spec.quota * 1000000 < heldBy k.homes tb.member + count then v else
        let ps := arrivedParams first count (tb.turn - 1) v
        let x := after (rangeArrived t count m ps v)
        if feeds k then sendSync k.spec.rule 0 t x.ident.eid (tb.turn - 1) k.spec.partner
          (ps.filter fun p => hurtIn word first count ≠ some p.param) x else x
      else if (hurtIn word first count).isSome then after v
      else
        let ps := (List.range count).map fun i => getP k.params (first + i)
        if shardDigest (rangeImage k.spec.rule ps) = digest && ps.all (fun p => !p.damaged) then
          modKeeper t (fun k => { moveEnded m k with params := k.params.filter fun p => !(first ≤ p.param && p.param < first + count) }) v
        else v := by
  subst hv
  unfold moveDone
  dsimp only
  rw [hfind]
  dsimp only
  rw [hkeeper]
  dsimp only
  rw [hmove] <;> rfl

theorem moveDone_at_new_holder (hdst : m.dst = tb.member) (hquota : heldBy k.homes tb.member + count ≤ k.spec.quota * 1000000)
    (hgood : hurtIn word first count = none) :
    moveDone t first count digest word s =
      let ps := arrivedParams first count (tb.turn - 1) v
      let w := rangeArrived t count m ps v
      if feeds k then sendSync k.spec.rule 0 t w.ident.eid (tb.turn - 1) k.spec.partner ps w else w := by
  rw [moveDone_of_move hv hfind hkeeper hmove]
  dsimp only
  rw [if_pos hdst, if_neg (not_lt.mpr hquota), hgood]
  dsimp only
  rw [List.filter_eq_self.mpr (by simp)]

theorem moveDone_at_new_holder_hurt {p : Nat} (hdst : m.dst = tb.member)
    (hquota : heldBy k.homes tb.member + count ≤ k.spec.quota * 1000000) (hhurt : hurtIn word first count = some p) :
    moveDone t first count digest word s =
      let ps := arrivedParams first count (tb.turn - 1) v
      let x := moveHurt t tb k p (rangeArrived t count m ps v)
      if feeds k then sendSync k.spec.rule 0 t x.ident.eid (tb.turn - 1) k.spec.partner (ps.filter fun q => q.param ≠ p) x else x := by
  have hrest : ∀ ps : List KParam, ps.filter (fun q => some p ≠ some q.param) = ps.filter (fun q => q.param ≠ p) :=
    fun ps => List.filter_congr fun q _ => by simp [eq_comm]
  rw [moveDone_of_move hv hfind hkeeper hmove]
  dsimp only
  rw [if_pos hdst, if_neg (not_lt.mpr hquota), hhurt]
  dsimp only
  rw [hrest]

theorem moveDone_at_old_holder_hurt {p : Nat} (hdst : m.dst ≠ tb.member) (hhurt : hurtIn word first count = some p) :
    moveDone t first count digest word s = moveHurt t tb k p v := by
  rw [moveDone_of_move hv hfind hkeeper hmove]
  dsimp only
  rw [if_neg hdst, hhurt]
  exact if_pos rfl

/-- At the old holder, with no word of the range failed. -/
theorem moveDone_at_old_holder (hdst : m.dst ≠ tb.member) (hgood : hurtIn word first count = none) :
    moveDone t first count digest word s =
      let held := (List.range count).map fun i => getP k.params (first + i)
      if shardDigest (rangeImage k.spec.rule held) = digest && held.all (fun p => !p.damaged) then
        modKeeper t (fun k => { moveEnded m k with params := k.params.filter fun p => !(first ≤ p.param && p.param < first + count) }) v
      else v := by
  rw [moveDone_of_move hv hfind hkeeper hmove]
  dsimp only
  rw [if_neg hdst, hgood]
  exact if_neg Bool.false_ne_true

end

theorem exec_shardMoveDone {t first count : Nat} {digest : List Byte} {word : Option Nat} {s : State} (hlive : live s = true)
    (hpawn : s.pawn.cause ≠ 1) :
    exec (.shardMoveDone t first count ⟨digest, word⟩) s = .next (moveDone t first count digest word s) :=
  exec_next rfl (if_pos (by simp [hlive, hpawn]))

/-- Settles O56, by what READY finds of its round, and for a move by its new holder and the word that failed. -/
theorem keeperRoundsCommitRunAndMove : Obligations.KeeperRoundsCommitRunAndMove := by
  refine ⟨?_, ?_, ?_, ?_⟩
  · intro l f s u hu hlive t rid pos
    refine ⟨fun hbad => exec_next rfl (readyIn_of_bad hu hlive hbad),
      fun hgood hpawn => exec_next rfl (readyIn_of_pawn hu hlive hgood hpawn), ?_, ?_⟩
    · intro tb hgood hpawn hround hfind hcrown hkeeper hopened v hv
      have hpass : passReady tb tb.board f u = v := by
        rcases hv with ⟨hnext, hring, rfl⟩ | ⟨hend, rfl⟩
        · exact passReady_of_other hnext hring
        · exact passReady_of_round hend
      exact exec_next rfl ((readyIn_of_early hu hlive hgood hpawn hround).trans
        (readyEarly_of_crown hfind hcrown hkeeper hopened hpass))
    · intro tb r hgood hpawn hround hcrown hkeeper
      have hin := readyIn_of_round hu hlive hgood hpawn hround hcrown hkeeper
      refine ⟨fun hclip hpart => exec_next rfl (hin.trans (if_neg fun hok => ?_)), fun hok => ?_⟩
      · exact (partOk_iff.mp hok).elim (Bool.eq_false_iff.mp hclip) hpart
      · intro v
        have hcommit := hin.trans (if_pos (partOk_iff.mpr hok))
        exact ⟨fun hnext hring => exec_next rfl (hcommit.trans (congrArg (commitAll t) (passReady_of_other hnext hring))),
          fun hend => exec_next rfl (hcommit.trans (congrArg (commitAll t) (passReady_of_round hend)))⟩
  · exact fun t rid a i s tb r hlive hfind hready hopen hfirst =>
      exec_next rfl ((if_pos hlive).trans (readyTimeout_of_missing hfind hready hopen hfirst))
  · intro unit word s v hlive hunit hv dry
    refine ⟨fun hnone => exec_next rfl ((if_pos hlive).trans (keeperQuantum_of_none hunit hv hnone)), fun t sv w hnext hw => ?_⟩
    have hrun := keeperQuantum_of_table hunit hv hnext hw
    refine ⟨fun hmore => exec_next rfl ((if_pos hlive).trans (hrun.trans (congrArg drain (if_pos (by simpa using hmore))))),
      fun hdry => exec_next rfl ((if_pos hlive).trans (hrun.trans (congrArg drain (if_neg fun hmore => ?_))))⟩
    obtain ⟨x, hx, hsame⟩ := List.any_eq_true.mp hmore
    exact hdry x hx (of_decide_eq_true hsame)
  · intro t first count digest word s v tb k m hlive hpawn hv hfind hkeeper hmove fin good
    have hin := exec_shardMoveDone (t := t) (first := first) (count := count) (digest := digest) (word := word) hlive hpawn
    refine ⟨fun hdst hquota => ⟨arrivedParams first count (tb.turn - 1) v, map_param_arrivedParams, ?_⟩, fun hdst => ?_⟩
    · refine ⟨fun hgood => exec_next hin (moveDone_at_new_holder hv hfind hkeeper hmove hdst hquota (hurtIn_of_good hgood)), ?_⟩
      rintro p _ hword hlo hhi rfl
      exact exec_next hin (moveDone_at_new_holder_hurt hv hfind hkeeper hmove hdst hquota (hurtIn_of_inside hword hlo hhi))
    · intro held
      refine ⟨fun p hword hlo hhi =>
        exec_next hin (moveDone_at_old_holder_hurt hv hfind hkeeper hmove hdst (hurtIn_of_inside hword hlo hhi)), ?_, ?_⟩
      · intro hgood hwhole hdigest
        refine exec_next hin ((moveDone_at_old_holder hv hfind hkeeper hmove hdst (hurtIn_of_good hgood)).trans (if_pos ?_))
        exact Bool.and_eq_true_iff.mpr ⟨decide_eq_true hdigest, List.all_eq_true.mpr fun p hp => by rw [hwhole p hp] <;> rfl⟩
      · intro hgood hbad
        refine exec_next hin ((moveDone_at_old_holder hv hfind hkeeper hmove hdst (hurtIn_of_good hgood)).trans (if_neg fun hok => ?_))
        obtain ⟨hdigest, hwhole⟩ := Bool.and_eq_true_iff.mp hok
        rcases hbad with ⟨p, hp, hdamaged⟩ | hother
        · exact absurd (List.all_eq_true.mp hwhole p hp) (by simp [hdamaged])
        · exact hother (of_decide_eq_true hdigest)

end Sys2Proof.Proofs
end
